-- ==== Sys2Proof/Word.lean ====
section
/-! DEFINITION. The plain types of the DX64 model: bytes, 64-bit register words, sparse tables keyed by a
natural number, and the index types of its ports (R1, R4, R5, R13). -/

namespace Sys2Proof

/-- One byte, on the wire, in a buffer or in a memory. -/
abbrev Byte := BitVec 8

/-- One register: registers are 64 bits wide (R5). -/
abbrev Word := BitVec 64

/-- A string of bytes, lowest address (or first on the wire) first; multi-byte fields are little-endian (R4). -/
abbrev Bytes := List Byte

/-- A sparse table keyed by a natural number, keys strictly rising. -/
abbrev Tbl (α : Type) := List (Nat × α)

/-- A network port NP0 to NP63 (R1). -/
abbrev NetPort := Fin 64

/-- A host port HP0 or HP1 (R1). -/
abbrev HostPort := Fin 2

/-- An internal port IP0 to IP3 (R1). -/
abbrev IntPort := Fin 4

/-- A crossbar input: 0 to 63 are the network ports, 64 to 67 the internal ports IP0 to IP3 (R1). -/
abbrev XbarPort := Fin 68

/-- A master identifier (R10). -/
abbrev Mid := BitVec 8

/-- A BAR0 offset: BAR0 is one 16 MiB window (R366). -/
abbrev Offset := BitVec 24

end Sys2Proof
end

