-- ==== Sys2Proof/Types.lean ====
section
/-! DEFINITION. The types of the commands' operands that are more than a number: a decoded Getil image, the code groups
of frames, what training steps settle on, a host configuration request. -/

namespace Sys2Proof

/-- The role of a network port (R31, R68): 0x0 network, 0x1 spare, 0x2 disabled. -/
inductive Role | network | spare | disabled
deriving DecidableEq, Repr

/-- One port of the port-roles section (R31): role, lane rate code and initial width code as LAN_CFG shows them (R68). -/
structure PortSetup where
  role    : Role
  rateMax : Nat
  width   : Nat
deriving DecidableEq, Repr

/-- The SRAM-partition section (R20, R31): region sizes in bytes and the split of the matching lists in entries. -/
structure Partition where
  tableA  : Nat
  tableB  : Nat
  matching : Nat
  epcCache : Nat
  sheepdog : Nat
  staging : Nat
  replay  : Nat
  capture : Nat
  park    : Nat
  misc    : Nat
  posted  : Nat
  unexp   : Nat
deriving DecidableEq, Repr

/-- The queue-pools section for one host port (R31): its pool sizes and its window mode. -/
structure QueuePool where
  wqs : Nat
  eqs : Nat
  pds : Nat
  hostTable : Bool
deriving DecidableEq, Repr

/-- One traffic class of the traffic-class map (R31): its header and data credit allotment in credits. -/
structure ClassShare where
  hdr  : Nat
  data : Nat
deriving DecidableEq, Repr

/-- The uses of the traffic-class map (R11): the class of fabric management, short control, data requests, responses,
collectives and telemetry, and the classes for user quality of service. -/
structure ClassUses where
  mgmt       : Nat
  control    : Nat
  request    : Nat
  response   : Nat
  collective : Nat
  telemetry  : Nat
  user       : List Nat
deriving DecidableEq, Repr

/-- What the sections of a Getil image decode to (R31). The manual gives each section's contents and not its byte
layout, so the command that ends a check carries the decoded sections (DESIGN CHOICE, log entry 11); the header, the directory and the
digest are read from the store's own bytes (R30). -/
structure ImageDesc where
  /-- 64 entries, NP0 first; a missing entry is a disabled port. -/
  ports    : List PortSetup
  /-- Size of each dimension, 1 to 5 of them. -/
  sizes    : List Nat
  /-- This chip's coordinate in each dimension. -/
  coords   : List Nat
  /-- The network port that leads to each other position: (dimension, position, port). -/
  dimPorts : List (Nat × Nat × Nat)
  part     : Partition
  pools    : List QueuePool
  classes  : List ClassShare
  /-- Which class carries each use (R11, R104). -/
  uses     : ClassUses
  /-- The lane-setup section: per port, transmit amplitude and pre-emphasis (R31). -/
  laneSetup : List (Nat × Nat × Nat)
  /-- Runs of the initial-table section: (first chip identifier, count, entry). -/
  tableA   : List (Nat × Nat × BitVec 64)
  /-- Register presets in section order: (BAR0 offset, value) (R34). -/
  presets  : List (Nat × BitVec 64)
deriving DecidableEq, Repr

/-- What a receiver finds on one data lane in steps 3 and 4 of training (R50, R56): the code group it took for the first K28.5, whether
the lane's polarity is reversed, the lane number its TS1 sets carry, and its skew against LC in picoseconds. -/
structure LaneCheck where
  comma    : BitVec 10
  reversed : Bool
  number   : Nat
  skew     : Int
deriving DecidableEq, Repr

/-- The steps of a training attempt as they end (R56): step 2, the equalizers are adapted; steps 3 and 4, every lane L0 to L15 is
examined; steps 5 and 6, the good masks are exchanged, with the partner's mask and the width code and lane group in its WCH sets. -/
inductive TrainResult
  | equalized
  | deskewed (lanes : List LaneCheck)
  | exchanged (partnerMask : BitVec 16) (rxWidth : Fin 3) (rxGroup : Fin 4)
deriving DecidableEq, Repr

/-- A received frame as its code groups (R51): the lanes whose disparity IDL and other sets have turned since the last frame, and the
code groups of each active lane, in lane order. -/
structure CodedFrame where
  turned : BitVec 16
  groups : List (List (BitVec 10))
deriving DecidableEq, Repr

/-- A code group received on one lane outside a frame, and whether IDL and sets have turned the lane's disparity since the last frame. -/
structure LoneGroup where
  lane   : Fin 16
  turned : Bool
  group  : BitVec 10
deriving DecidableEq, Repr

/-- What PRBS_SYNC tells of (R66): the port whose checker is synchronous on every lane, and the last 31 bits each lane received. -/
structure PrbsLock where
  port    : NetPort
  history : List (BitVec 31)
deriving DecidableEq, Repr

/-- Why a training attempt fails (R57). -/
inductive TrainCause | exchange | noGroup | partnerIdle
deriving DecidableEq, Repr

/-- Which path issued an ATC invalidation (R201). -/
inductive InvPath | admin | register
deriving DecidableEq, Repr

/-- A PLL of R281: the core PLL, the lane PLL of a network port, the PLL of a host port. -/
inductive Pll | core | lane (p : NetPort) | host (h : HostPort)
deriving DecidableEq, Repr

/-- What an error line's rise damages, where the source's own rule names a record (R322, R325): a routing-table entry, an
endpoint's record, a window entry, the state of a work queue, of an event queue or of the admin queue, a port's replay copy, or the packet at
a crossbar input. -/
inductive FaultTarget
  | none
  | table (b : Bool) (chip : Nat)
  | endpoint (h : HostPort) (ep : Nat)
  | window (h : HostPort) (win : Nat)
  | queue (h : HostPort) (wq : Nat)
  | events (h : HostPort) (eq : Nat)
  | admin (h : HostPort)
  | replay (p : NetPort)
  | packet (x : XbarPort)
deriving DecidableEq, Repr

/-- What a host does to the configuration space of its function (R154, R155): writes, `maxPayload` and `maxReadRequest` with the code
of the size (128 bytes times 2 to its power); reads of the BARs and of the capability list; and a read of its BAR2 (R158), which has
no row of its own (DESIGN CHOICE, log entry 81). -/
inductive ConfigReq
  | bar0 (base : BitVec 64) | bar2 (base : BitVec 64) | memoryEnable (on : Bool) | busMaster (on : Bool)
  | msixEnable (on : Bool) | msixFunctionMask (on : Bool)
  | maxPayload (code : Nat) | maxReadRequest (code : Nat)
  | readBar0 | readBar2 | readCapabilities | readDoorbell (off : Nat)
deriving DecidableEq, Repr

/-- The features of R154 that a capability of the function's configuration space declares, or that it would declare if the table did
not call them unsupported. -/
inductive HostFeature
  | msix | pageRequest | functionReset | steeringTags | sriov | msi | intx | addressTranslation | cxl
deriving DecidableEq, Repr

end Sys2Proof
end

