-- ==== Sys2Proof/Syntax.lean ====
section
/-! DEFINITION. The commands of the DX64: one constructor per row of spec/opcode_table.json, in the table's order.
A register row carries the writing master (R10) and the 64-bit value; a port row carries the port; an arrival row names the
internal port whose ejection buffer holds the packet at its head; a completion row carries the tag of the host request it
answers and its data, `none` for an error completion. -/

namespace Sys2Proof

/-- A command from outside the block, or an event of the block itself that the table lists. -/
inductive Instr
  /-- REGISTER_WRITE (R5): An aligned 64-bit write to a BAR0 register that has no row of its own sets RW fields, clears W1C bits or sets W1S bits, and is discarded at an unmapped offset. -/
  | registerWrite (mid : Mid) (off : Offset) (v : Word)
  /-- REGISTER_WRITE_32BIT (R5): A 32-bit or partial write to BAR0 is discarded and recorded as a register-access error with ACCESS 0x3. -/
  | registerWrite32bit (mid : Mid) (off : Offset) (bytes : Bytes)
  /-- REGISTER_READ_CLEAR (R377): A 64-bit read of a register holding RC fields returns the counts and then clears them. -/
  | registerReadClear (mid : Mid) (off : Offset) (len : Nat)
  /-- PROG_WRITE (R39): A CFG_PROG_CTL WRITE command checks its preconditions and starts programming CFG_PROG_DATA into one 64-byte store block. -/
  | progWrite (mid : Mid) (v : Word)
  /-- PROG_READ (R39): A CFG_PROG_CTL READ command copies one store block into CFG_PROG_DATA. -/
  | progRead (mid : Mid) (v : Word)
  /-- PROG_PULSE_DONE (R39): A store write or read pulse ends, BUSY clears, AUTO_INC advances BLOCK, and any deferred reset is released to take hold. -/
  | progPulseDone
  /-- CAL_UNLOCK (R45): A write of CFG_CAL_UNLOCK.CODE arms the writer's calibration unlock with 0x5CA1 and disarms it with any other value. -/
  | calUnlock (mid : Mid) (v : Word)
  /-- GO (R41): A write of CFG_ACTIVATE.GO starts the header, digest and structure checks of the named slot. -/
  | go (mid : Mid) (v : Word)
  /-- ACTIVATE_CHECK_DONE (R41): The activation check ends, and a passing slot is recorded in the next control-record copy as PENDING or CONFIRMED. -/
  | activateCheckDone (img : ImageDesc)
  /-- CONFIRM (R42): A write of CFG_ACTIVATE.CONFIRM writes a control-record copy with trial state CONFIRMED and clears CFG_STATUS.TRIAL. -/
  | confirm (mid : Mid) (v : Word)
  /-- IMAGE_LOAD_START (R35): The configuration store reports ready after a P or C reset release, and the loader reads the control record, chooses a slot and starts streaming it. -/
  | imageLoadStart
  /-- IMAGE_HEADER_CHECK (R35): The header and directory of the slot being loaded have arrived and are checked for MAGIC, FORMAT, IMAGE_LENGTH, PART and required sections. -/
  | imageHeaderCheck
  /-- IMAGE_STREAM_DONE (R35): The last image byte is streamed into the shadow, and the digest and structure checks decide the slot. -/
  | imageStreamDone (img : ImageDesc)
  /-- IMAGE_COMMIT (R35): Once checks have passed and any SRAM clear has ended, the shadow structure is committed and table A is expanded. -/
  | imageCommit
  /-- PARTNER_CLOCK_CHECK (R56): A port in WAIT_CLOCK measures the partner's LC frequency over 1 µs, and then either starts training or records RATE_MISMATCH. -/
  | partnerClockCheck (p : NetPort) (khz : Nat)
  /-- TRAINING_COMPLETE (R56): Equalization, alignment, deskew, the TS2 exchange and lane-group choice finish, and the port is reported UP to the link layer. -/
  | trainingComplete (p : NetPort) (res : TrainResult)
  /-- TRAINING_FAIL (R57): A training attempt fails by EXCHANGE timeout, NO_GROUP or PARTNER_IDLE, and the port holds its data lanes idle in RETRY. -/
  | trainingFail (p : NetPort) (cause : TrainCause)
  /-- RETRY_IDLE_EXPIRY (R57): The 1 ms idle period of RETRY ends, and training starts again from step 1. -/
  | retryIdleExpiry (p : NetPort)
  /-- MODULE_PRESENCE_CHANGE (R55): A debounced change of MODPRS_N[g] moves the group's ports to or from NO_MODULE, and a rise while ports are UP counts as partner loss. -/
  | modulePresenceChange (g : Nat) (absent : Bool)
  /-- WIDTH_CHANGE (R60): At a transmit frame boundary, a pending WIDTH or GROUP change is applied by narrowing or widening, or is refused with WIDTH_REFUSED. -/
  | widthChange (p : NetPort)
  /-- WCH_RECEIVED (R60): The receiver takes the new width and group from the majority of lanes in two WCH sets, or declares its direction lost. -/
  | wchReceived (p : NetPort) (votes : List Nat)
  /-- LANE_SLEEP (R61): The idle count of an UP transmit direction reaches SLEEP_IDLE × 64 cycles, so it sends SLP, idles its data lanes and stops LC. -/
  | laneSleep (p : NetPort)
  /-- SLP_RECEIVED (R61): On SLP the receiver sets RX_ASLEEP, gates its receive clock tree and holds its offsets. -/
  | slpReceived (p : NetPort)
  /-- WAKE_REQUEST (R62): A wake request restarts LC and the data lanes of a sleeping direction and sends WAK sets, or cancels a sleep entry in progress. -/
  | wakeRequest (p : NetPort)
  /-- WAK_RECEIVED (R62): The receiver decodes consecutive error-free WAK sets and leaves lane sleep. -/
  | wakReceived (p : NetPort) (count : Nat)
  /-- LC_LOSS (R64): LC stops without a preceding SLP or LVE set, and the receiver reports partner loss to the link layer. -/
  | lcLoss (p : NetPort)
  /-- LVE_RECEIVED (R64): An LVE set records LEAVE_REASON and reports a departure that is not an error. -/
  | lveReceived (p : NetPort) (reason : Nat)
  /-- TS_WHILE_UP (R54): A TS set received while UP reports partner loss and restarts training. -/
  | tsWhileUp (p : NetPort)
  /-- RETRAIN (R65): A write of LAN_CTL.RETRAIN asserts an L reset of the port with LVE reason 0x2. -/
  | retrain (mid : Mid) (p : NetPort) (v : Word)
  /-- PRBS_SYNC (R66): The compliance checker synchronizes on every lane, sets SYNC and starts counting byte errors. -/
  | prbsSync (x : PrbsLock)
  /-- FRAME_RECEIVED (R75): A PACKET frame is checked by HCRC, classified by FSEQ, and accepted, held, cut through or discarded as a duplicate or out of window. -/
  | frameReceived (p : NetPort) (turned : BitVec 16) (groups : List (List (BitVec 10))) (tail : Bool)
  /-- NAK_REPEAT (R77): A named number still missing REPLAY_TO after it was last named is named again. -/
  | nakRepeat (p : NetPort) (fseq : BitVec 12)
  /-- ABT_RECEIVED (R81): A frame closed by ABT is freed without consuming a sequence number or returning credit. -/
  | abtReceived (p : NetPort)
  /-- CUT_THROUGH_CLOSE (R81): An outgoing cut-through frame is closed with EOF once its input has passed FCRC, or with ABT if its source failed. -/
  | cutThroughClose (p : NetPort) (ok : Bool)
  /-- ACK_SET_RECEIVED (R76): An ACK set that passes its CRC advances TX_ACKED and frees replay space, or is ignored as stale or counted as an error. -/
  | ackSetReceived (p : NetPort) (set : Bytes)
  /-- NAK_SET_RECEIVED (R78): A NAK set acknowledges cumulatively and makes the named outstanding frames be retransmitted with RTX set. -/
  | nakSetReceived (p : NetPort) (set : Bytes)
  /-- CREDIT_SET_RECEIVED (R84): A CREDIT set updates the cumulative RETURNED counts, or is treated as a protocol error if it advances too far. -/
  | creditSetReceived (p : NetPort) (set : Bytes)
  /-- REPLAY_TIMEOUT (R78): The frame at TX_ACKED has waited REPLAY_TO since it was last sent, so it is retransmitted alone and counted. -/
  | replayTimeout (p : NetPort)
  /-- CREDIT_REFRESH (R86): CR_REFRESH expires and every credit count is resent, waking a sleeping transmit direction if needed. -/
  | creditRefresh (p : NetPort)
  /-- ERROR_WINDOW_EXPIRY (R89): An error window of LNK_ERRWIN.WINDOW µs ends and its count restarts at 0. -/
  | errorWindowExpiry (p : NetPort)
  /-- ERROR_WINDOW_LIMIT (R89): The error count reaches LIMIT in a window, so an L reset with LVE reason 0x4 is asserted. -/
  | errorWindowLimit (p : NetPort)
  /-- INIT_FRAME_SEND (R91): The INIT-frame period expires in INIT, CHECK or REFUSED, and an INIT frame is sent. -/
  | initFrameSend (p : NetPort)
  /-- INIT_FRAME_RECEIVED (R91): An INIT frame sets PEER_SEEN, moves the side to CHECK, is ignored while UP, or with PEER_SEEN 0 while UP takes the link down. -/
  | initFrameReceived (p : NetPort) (frame : CodedFrame)
  /-- INIT_TIMEOUT (R91): INIT does not complete within 1 ms, so the port records INIT_TIMEOUT and asserts an L reset. -/
  | initTimeout (p : NetPort)
  /-- ADMISSION_CHECK (R92): The CHECK-state checks of the partner record complete and the port enters UP or REFUSED. -/
  | admissionCheck (p : NetPort)
  /-- READMIT (R92): A write of LNK_CTL.READMIT reruns the admission checks on the last INIT record. -/
  | readmit (mid : Mid) (p : NetPort) (v : Word)
  /-- ALLOCATOR_CYCLE (R125): On each core cycle the allocator looks up presented packets and grants outputs by productive rank, deflection or the widened set. -/
  | allocatorCycle
  /-- DWELL_DISCARD (R129): A presented packet whose dwell reaches DWELL_MAX finds no free output and is discarded. -/
  | dwellDiscard (x : XbarPort)
  /-- AGE_DISCARD (R130): A packet whose current age exceeds AGE_LIMIT is discarded. -/
  | ageDiscard (x : XbarPort)
  /-- EJECT_WAIT_BOUNCE (R23): A packet the NIC has not accepted within EJECT_WAIT is bounced back into the router as a deflected packet. -/
  | ejectWaitBounce (ip : IntPort)
  /-- TABLE_WRITE (R119): An RTR_TBL_CTL WRITE command starts writing RTR_TBL_DATA into a routing-table entry. -/
  | tableWrite (mid : Mid) (v : Word)
  /-- TABLE_READ (R138): An RTR_TBL_CTL READ command copies a table or port-map entry into RTR_TBL_DATA. -/
  | tableRead (mid : Mid) (v : Word)
  /-- TABLE_WRITE_DONE (R119): A table write completes, BUSY clears, and later lookups see the new entry. -/
  | tableWriteDone
  /-- EPOCH_SET (R141): A write of RTR_EPOCH CURRENT or OPEN bits is checked against its result and applied, or discarded with ERR. -/
  | epochSet (mid : Mid) (v : Word)
  /-- COPY (R142): A write of RTR_EPOCH.COPY starts copying the current version into the closed one. -/
  | copy (mid : Mid) (v : Word)
  /-- COPY_DONE (R142): The table copy ends and COPY_BUSY clears. -/
  | copyDone
  /-- INDEX_DOORBELL (R158): An 8-byte doorbell write sets a work queue's producer index after the ring-index check. -/
  | indexDoorbell (h : HostPort) (wq : Nat) (v : Word)
  /-- INLINE_DOORBELL (R158): A 64-byte doorbell write delivers a whole descriptor for the current producer index and advances it. -/
  | inlineDoorbell (h : HostPort) (wq : Nat) (desc : Bytes)
  /-- DB_BAD (R158): A BAR2 write of another size or offset is discarded and counted. -/
  | dbBad (h : HostPort) (off : Nat) (size : Nat)
  /-- ADMIN_ENABLE (R161): Setting WQ_ADM_CFG.ENABLE starts the admin queue with both indices 0. -/
  | adminEnable (mid : Mid) (h : HostPort) (v : Word)
  /-- ADMIN_DOORBELL (R161): A write of WQ_ADM_PI sets the admin producer index after the ring-index check. -/
  | adminDoorbell (mid : Mid) (h : HostPort) (v : Word)
  /-- ADMIN_COMMAND_READ_DONE (R165): The read of the next admin command completes and the command is started in index order. -/
  | adminCommandReadDone (h : HostPort) (data : Option Bytes)
  /-- CREATE_WQ (R166): CREATE_WQ creates an ACTIVE work queue bound to an endpoint, event queue, domain and class. -/
  | createWq (h : HostPort)
  /-- DESTROY_WQ (R167): DESTROY_WQ moves a queue to CLOSING and releases the admin queue. -/
  | destroyWq (h : HostPort)
  /-- DESTROY_WQ_DONE (R167): A closing queue's HEAD reaches PI, so the queue becomes NONE and DESTROY_WQ completes. -/
  | destroyWqDone (h : HostPort) (wq : Nat)
  /-- CREATE_EQ (R180): CREATE_EQ creates an ACTIVE, disarmed event queue. -/
  | createEq (h : HostPort)
  /-- DESTROY_EQ (R180): DESTROY_EQ removes an event queue that nothing uses. -/
  | destroyEq (h : HostPort)
  /-- CREATE_PD (R206): CREATE_PD creates a protection domain with its table root. -/
  | createPd (h : HostPort)
  /-- DESTROY_PD (R206): DESTROY_PD removes an unused domain after removing its ATC entries. -/
  | destroyPd (h : HostPort)
  /-- CREATE_EP (R208): CREATE_EP creates an endpoint bound to a domain, with its E2E_RTO. -/
  | createEp (h : HostPort)
  /-- DESTROY_EP (R208): DESTROY_EP starts refusing arrivals with NO_ENDPOINT and removes the endpoint's matching state. -/
  | destroyEp (h : HostPort)
  /-- DESTROY_EP_DONE (R208): The endpoint's reply reservations and automatic gets have ended, so its pair records are discarded and DESTROY_EP completes. -/
  | destroyEpDone (h : HostPort) (ep : Nat)
  /-- OPEN_WINDOW (R216): OPEN_WINDOW opens a window with the next generation and returns its key. -/
  | openWindow (h : HostPort)
  /-- REVOKE_WINDOW (R218): REVOKE_WINDOW closes the window at its revoke point and releases the admin queue. -/
  | revokeWindow (h : HostPort)
  /-- REVOKE_DONE (R218): Every write, response and reservation of the revoked window is settled, and the completion is written. -/
  | revokeDone (h : HostPort) (win : Nat)
  /-- INVALIDATE (R201): The INVALIDATE admin command starts an ATC invalidation by range, domain or port. -/
  | invalidate (h : HostPort)
  /-- XLT_INV_GO (R201): A write of XLT_INV_CTL.GO checks its fields and starts a register-path invalidation. -/
  | xltInvGo (mid : Mid) (h : HostPort) (v : Word)
  /-- INVALIDATE_DONE (R202): Accesses and walks issued before the invalidation point have ended, so the invalidation completes. -/
  | invalidateDone (h : HostPort) (path : InvPath)
  /-- SET_SHAPER (R273): SET_SHAPER records new Leash parameters for a shaped queue, pending the next refill. -/
  | setShaper (h : HostPort)
  /-- ARM_GROUP (R253): ARM_GROUP starts the read of a tree descriptor for a collective group. -/
  | armGroup (h : HostPort)
  /-- TREE_DESCRIPTOR_READ_DONE (R253): The tree descriptor arrives, is checked, and Sheepdog units are reserved to arm the group or the command fails. -/
  | treeDescriptorReadDone (h : HostPort) (data : Option Bytes)
  /-- DISARM_GROUP (R255): DISARM_GROUP moves a group to DISARMING and fails its operations in progress. -/
  | disarmGroup (h : HostPort)
  /-- DISARM_DONE (R255): Every ABORT of a disarming group has been answered or has used up its retries, so the reservation is released. -/
  | disarmDone (group : Nat)
  /-- ADMIN_NOP (R163): The admin NOP command completes with SUCCESS. -/
  | adminNop (h : HostPort)
  /-- DESCRIPTOR_FETCH (R174): A queue with room and no fetch outstanding issues a fetch of up to PREFETCH descriptors toward PI. -/
  | descriptorFetch (h : HostPort) (wq : Nat)
  /-- DESCRIPTOR_FETCH_DONE (R174): Fetched descriptors arrive, are checked for PHASE and format, and enter the descriptor store. -/
  | descriptorFetchDone (h : HostPort) (wq : Nat) (data : Option Bytes)
  /-- PHASE_REREAD (R170): 1 µs after a PHASE mismatch the descriptor is read again, and after three re-reads the function halts with STALE. -/
  | phaseReread (h : HostPort) (wq : Nat)
  /-- OPERATION_START (R172): The next operation of a queue starts in index order, or moves to the side list when a brake holds it. -/
  | operationStart (h : HostPort) (wq : Nat)
  /-- PUT_DESCRIPTOR (R169): A PUT descriptor starts sending PUT_SHORT or PUT packets. -/
  | putDescriptor (h : HostPort) (wq : Nat) (idx : Nat)
  /-- PUT_DURABLE_DESCRIPTOR (R169): A PUT_DURABLE descriptor starts sending durable put packets. -/
  | putDurableDescriptor (h : HostPort) (wq : Nat) (idx : Nat)
  /-- GET (R169): A GET descriptor starts sending GET_REQ packets of up to 4,096 bytes. -/
  | get (h : HostPort) (wq : Nat) (idx : Nat)
  /-- ATOMIC_DESCRIPTOR (R169): An ATOMIC descriptor sends one ATOMIC packet. -/
  | atomicDescriptor (h : HostPort) (wq : Nat) (idx : Nat)
  /-- ATOMIC_FETCH_DESCRIPTOR (R169): An ATOMIC_FETCH descriptor sends one ATOMIC_FETCH packet. -/
  | atomicFetchDescriptor (h : HostPort) (wq : Nat) (idx : Nat)
  /-- SEND (R240): A SEND descriptor sends a MSG_SHORT, a MSG_EAGER, or a RNDV_REQ after opening a rendezvous window. -/
  | send (h : HostPort) (wq : Nat) (idx : Nat)
  /-- RECV (R236): A RECV descriptor searches the unexpected list and is delivered or appended to the posted list. -/
  | recv (h : HostPort) (wq : Nat) (idx : Nat)
  /-- VP_WRITE (R169): A VP_WRITE descriptor sends one VP_DIRECT_WRITE packet. -/
  | vpWrite (h : HostPort) (wq : Nat) (idx : Nat)
  /-- COLLECTIVE (R256): A COLLECTIVE descriptor starts a Sheepdog operation on its group slot. -/
  | collective (h : HostPort) (wq : Nat) (idx : Nat)
  /-- NOP_DESCRIPTOR (R169): A NOP descriptor completes, after earlier operations if FENCE is set. -/
  | nopDescriptor (h : HostPort) (wq : Nat) (idx : Nat)
  /-- LOCAL_READ_DONE (R172): A read of local source data completes, and the packet is built and handed to an internal port or the operation ends in error. -/
  | localReadDone (h : HostPort) (tag : Nat) (data : Option Bytes)
  /-- HEAD_INDEX_WRITE (R173): After HEAD advances, the DX64 writes the current HEAD to HEAD_ADDR. -/
  | headIndexWrite (h : HostPort) (wq : Nat)
  /-- HOST_REQUEST_TIMEOUT (R157): A non-posted host request gets no completion within CPL_TO and ends in error with its stated consequence. -/
  | hostRequestTimeout (h : HostPort) (tag : Nat)
  /-- FUNCTION_LEVEL_RESET (R177): A Function Level Reset through configuration space starts an F reset of the port. -/
  | functionLevelReset (h : HostPort)
  /-- PERST_ASSERT (R304): PERST# of a host port is asserted, causing an F reset of that port. -/
  | perstAssert (h : HostPort)
  /-- PERST_RELEASE (R177): PERST# is released, the port retrains its link, and wake source 0x5 or 0x6 may fire. -/
  | perstRelease (h : HostPort)
  /-- FUNCTION_RESET_DONE (R177): The F reset has cleared the port state and scanned the matching lists, and the function is ready. -/
  | functionResetDone (h : HostPort)
  /-- HOST_LINK_DOWN (R322): A host link goes down while RUNNING, or reports an uncorrectable error, raising PCIE_UNCORR. -/
  | hostLinkDown (h : HostPort)
  /-- EQ_CI_UPDATE (R185): A write of EQ_CI[n].CI sets the consumer index after the ring-index check, freeing slots. -/
  | eqCiUpdate (mid : Mid) (h : HostPort) (eq : Fin 4096) (v : Word)
  /-- EQ_ARM (R184): A write with EQ_CI[n].ARM arms the queue, or sends its vector at once when unconsumed entries remain. -/
  | eqArm (mid : Mid) (h : HostPort) (eq : Fin 4096) (v : Word)
  /-- EVENT_WRITE (R184): A decided event is written to its ring, or goes to the stash when the ring is full, and an armed queue sends its vector. -/
  | eventWrite (h : HostPort) (eq : Nat)
  /-- STASH_DRAIN (R186): Once ring slots are free, stash entries and waiting RECV_MATCH entries are written oldest first with STASHED set. -/
  | stashDrain (h : HostPort) (eq : Nat)
  /-- ASYNC_PENDING_WRITE (R188): Pending ASYNC entries are written, lowest CODE first, when the async queue has room and ENABLE is 1. -/
  | asyncPendingWrite (h : HostPort)
  /-- WALK_READ_DONE (R194): A page-table read completes and the walk descends, installs a leaf, faults or gives ABSENT. -/
  | walkReadDone (h : HostPort) (tag : Nat) (data : Option Bytes)
  /-- PAGE_REQUEST_RESPONSE (R225): A page request response frees the tag on success, or holds the page as failed. -/
  | pageRequestResponse (h : HostPort) (tag : Nat) (ok : Bool)
  /-- PAGE_REQUEST_TIMEOUT (R225): A page request unanswered within PRI_TO marks the page failed for FAIL_HOLD. -/
  | pageRequestTimeout (h : HostPort) (tag : Nat)
  /-- FAIL_HOLD_EXPIRY (R225): The FAIL_HOLD period of a failed page ends and arrivals walk again. -/
  | failHoldExpiry (h : HostPort) (tag : Nat)
  /-- FETCH_DONE (R213): A Retriever fetch of a context, pair record or window entry completes, installing it and releasing parked packets, or refusing them with FETCH_FAILED. -/
  | fetchDone (h : HostPort) (tag : Nat) (ok : Bool)
  /-- PAIR_RESET (R214): A write of EPC_PAIR_RESET.GO starts resetting the send, receive or both states of a pair. -/
  | pairReset (mid : Mid) (h : HostPort) (v : Word)
  /-- PAIR_RESET_DONE (R214): The pair reset completes and BUSY clears. -/
  | pairResetDone (h : HostPort)
  /-- PAIR_QUIET_EXPIRY (R214): E2E_RTO after a send-side reset ends, and the pair may send again. -/
  | pairQuietExpiry (h : HostPort) (ep : Nat) (peer : Nat)
  /-- PUT_SHORT (R220): An arriving PUT_SHORT runs the target check order and commits its writes or is refused. -/
  | putShort (ip : IntPort)
  /-- PUT (R220): An arriving long PUT runs the target check order and commits its writes or is refused. -/
  | put (ip : IntPort)
  /-- PUT_SHORT_DURABLE (R223): An arriving PUT_SHORT_DURABLE commits and waits for a flush before its acknowledgement. -/
  | putShortDurable (ip : IntPort)
  /-- PUT_DURABLE (R223): An arriving long PUT_DURABLE commits and waits for a flush before its acknowledgement. -/
  | putDurable (ip : IntPort)
  /-- GET_REQ (R221): An arriving GET_REQ reserves reply space and starts the read of its window. -/
  | getReq (ip : IntPort)
  /-- ATOMIC (R222): An arriving ATOMIC passes its checks and starts its read-modify-write in the atomic unit. -/
  | atomic (ip : IntPort)
  /-- ATOMIC_FETCH (R222): An arriving ATOMIC_FETCH reserves reply space and starts its read-modify-write. -/
  | atomicFetch (ip : IntPort)
  /-- VP_DIRECT_WRITE (R103): An arriving Velpen direct write is checked by its key and order and commits or is refused. -/
  | vpDirectWrite (ip : IntPort)
  /-- MSG_SHORT (R237): An arriving MSG_SHORT is released to matching or held in the pair's reorder store. -/
  | msgShort (ip : IntPort)
  /-- MSG_EAGER (R237): An arriving MSG_EAGER is released to matching or held with its payload in a data slot. -/
  | msgEager (ip : IntPort)
  /-- RNDV_REQ (R237): An arriving RNDV_REQ is released to matching or held in the reorder store. -/
  | rndvReq (ip : IntPort)
  /-- NOP (R107): An arriving NOP consumes its PSEQ and is acknowledged. -/
  | nop (ip : IntPort)
  /-- ACK (R108): An arriving ACK frees PSEQs, takes an RTT sample, updates the window and completes operations. -/
  | ack (ip : IntPort)
  /-- NACK (R110): An arriving NACK schedules a retry or finally fails the operation and sends a NOP. -/
  | nack (ip : IntPort)
  /-- GET_RESP (R219): An arriving GET_RESP is checked at the requester, written to the local buffer and acknowledged. -/
  | getResp (ip : IntPort)
  /-- ATOMIC_RESP (R219): An arriving ATOMIC_RESP writes the fetched value or reports HOST_ERROR and is acknowledged. -/
  | atomicResp (ip : IntPort)
  /-- ACK_COALESCE_TIMEOUT (R108): 256 ns after the first unacknowledged consumption, an ACK is sent. -/
  | ackCoalesceTimeout (h : HostPort) (ep : Nat) (peer : Nat)
  /-- E2E_TIMEOUT (R106): E2E_RTO expires for an unacknowledged packet, so it is retransmitted with RETX, or after 16 timeouts the pair is given up. -/
  | e2eTimeout (h : HostPort) (ep : Nat) (peer : Nat) (pseq : Nat)
  /-- REFUSAL_RETRY (R110): The BACKOFF after a retry-class refusal ends, and the packet is retransmitted. -/
  | refusalRetry (h : HostPort) (ep : Nat) (peer : Nat) (pseq : Nat)
  /-- GET_READ_DONE (R221): The window read of a GET_REQ completes and a GET_RESP is sent from reserved space. -/
  | getReadDone (h : HostPort) (tag : Nat) (data : Option Bytes)
  /-- ATOMIC_READ_DONE (R222): The operand read of an atomic completes, and the result is written and acknowledged or responded. -/
  | atomicReadDone (h : HostPort) (tag : Nat) (data : Option Bytes)
  /-- FLUSH_DONE (R223): A flush read completes or fails, and every durable put it covers is acknowledged OK or FLUSH_FAILED. -/
  | flushDone (h : HostPort) (tag : Nat) (ok : Bool)
  /-- MATCH_RECORD_READ_DONE (R231): The receive record read after a match completes, and delivery of the message data starts. -/
  | matchRecordReadDone (h : HostPort) (tag : Nat) (ok : Bool)
  /-- KENNEL_BLOCK_READ_DONE (R235): A 2 KiB block of an unexpected list in Kennel arrives and the MTE search continues. -/
  | kennelBlockReadDone (h : HostPort) (tag : Nat) (ok : Bool)
  /-- DATA_SLOT_READ_DONE (R241): An unexpected or held message's data slot is read and written into the receive buffer. -/
  | dataSlotReadDone (h : HostPort) (tag : Nat) (data : Option Bytes)
  /-- AUTO_GET_START (R243): A matched rendezvous receives an automatic-get slot and issues its GET_REQs. -/
  | autoGetStart (h : HostPort)
  /-- COL (R262): An arriving COL packet is checked against its group and slot and stored, acknowledged, dropped or answered with ABORT. -/
  | col (ip : IntPort)
  /-- COL_DATA (R262): An arriving COL_DATA segment is checked and stored in its reserved buffer, or dropped. -/
  | colData (ip : IntPort)
  /-- COL_RETRANSMIT (R263): COL_RTO passes without an answer, so the packet is retransmitted, or after RETRIES the operation fails. -/
  | colRetransmit (group : Nat) (slot : Nat) (edge : Nat)
  /-- ARM_WAIT_EXPIRY (R263): GROUP_NOT_ARMED refusals from one neighbour continue for ARM_WAIT, and the operation fails. -/
  | armWaitExpiry (group : Nat) (edge : Nat)
  /-- LEASH_REFILL (R274): On each refill tick every shaped queue's tokens are refilled and pending shaper settings apply. -/
  | leashRefill (h : HostPort)
  /-- SAMPLE_TICK (R278): Every SAMPLE_US one record is written for each enabled sampling slot. -/
  | sampleTick (h : HostPort)
  /-- CC_PAIR_QUERY (R279): A write of CC_PAIR_Q.GO starts copying a pair's congestion state into CC_PAIR_STATE. -/
  | ccPairQuery (mid : Mid) (h : HostPort) (v : Word)
  /-- CC_PAIR_QUERY_DONE (R279): The congestion-state query completes and BUSY clears. -/
  | ccPairQueryDone (h : HostPort)
  /-- PLL_RELEASE (R281): A PLL's fixed start delay ends, and its consumers are released, or stay clamped with LOCK_FAIL. -/
  | pllRelease (pll : Pll) (locked : Bool)
  /-- REFCLK_LOSS (R282): REFCLK shows no edge for 2 µs, so TIM moves to SLOW32 and the fatal source rises in ACTIVE or DOZE. -/
  | refclkLoss
  /-- TEX_SEND (R285): TEX_PERIOD expires and a TEX set is sent, and the parent is chosen once per period. -/
  | texSend (p : NetPort)
  /-- TEX_RECEIVED (R285): A TEX set yields flight and offset, and the counter steps or slews toward the parent. -/
  | texReceived (p : NetPort) (set : Bytes)
  /-- TIM_SET (R302): A write of TIM_SET steps the counter on a grandmaster or at LEVEL 31, and is discarded elsewhere. -/
  | timSet (mid : Mid) (v : Word)
  /-- SLOW32_TICK (R283): In SLEEP each SLOW32 tick advances fabric time by 30,517 or 30,518 ns. -/
  | slow32Tick
  /-- VDD_AON_LOW (R289): VDD_AON falls below its threshold, causing a P reset. -/
  | vddAonLow
  /-- VDD_AON_RISE (R304): VDD_AON reaches its threshold and the power-on P reset is held. -/
  | vddAonRise
  /-- P_RESET_RELEASE (R304): The power-on hold ends, the AON domain is released and the straps are latched. -/
  | pResetRelease
  /-- SUPPLY_CORE_LOW (R289): The core supply falls below its threshold outside SLEEP, raising SUPPLY_CORE. -/
  | supplyCoreLow
  /-- PWRGD_FALL (R289): PWRGD falls outside SLEEP and the power-fail sequence, causing a C reset with core domains off, or ends the power-fail window. -/
  | pwrgdFall
  /-- PWRGD_RISE (R310): PWRGD rises, starting the cold start, or waking from SLEEP as source 0x3. -/
  | pwrgdRise
  /-- POWER_FAIL (R300): PFW_N is asserted, starting the power-fail sequence of flushes, refusals and the POWER_FAIL event. -/
  | powerFail
  /-- PFW_DEASSERT (R300): PFW_N is deasserted, ending the sequence before SLEEP, or waking from SLEEP as source 0x4. -/
  | pfwDeassert
  /-- SAVE_WINDOW_EXPIRY (R300): SAVE_US after the warning ends, and the chip enters SLEEP after F-resetting live host ports. -/
  | saveWindowExpiry
  /-- TEMP_SAMPLE (R289): The temperature is sampled and compared with WARN and CRIT. -/
  | tempSample (t : Nat)
  /-- REQUEST_ACTIVE (R292): A write of PWR_CTL.REQ = ACTIVE leaves DOZE at once, or starts the exit from STANDBY or SLEEP. -/
  | requestActive (mid : Mid) (v : Word)
  /-- REQUEST_DOZE (R292): A write of PWR_CTL.REQ = DOZE enters DOZE within 1 µs. -/
  | requestDoze (mid : Mid) (v : Word)
  /-- REQUEST_STANDBY (R291): A write of PWR_CTL.REQ = STANDBY checks the host ports and starts entry, taking every port down. -/
  | requestStandby (mid : Mid) (v : Word)
  /-- REQUEST_SLEEP (R291): A write of PWR_CTL.REQ = SLEEP checks the host ports and starts entry, taking every port down. -/
  | requestSleep (mid : Mid) (v : Word)
  /-- POWER_ENTRY_DONE (R291): Entry to STANDBY or SLEEP completes, and a wake recorded during entry starts the exit. -/
  | powerEntryDone
  /-- AUTO_DOZE (R291): With AUTO_DOZE set, DOZE_IDLE_US passes without NIC activity and DOZE is entered. -/
  | autoDoze
  /-- NIC_READY (R294): The NIC finishes waking from DOZE, and held doorbells and register accesses proceed. -/
  | nicReady
  /-- WAKE_N (R296): WAKE_N falls and, if enabled, wakes the chip from STANDBY or SLEEP. -/
  | wakeN
  /-- AON_TIMER (R296): AON_TIMER counts to 0 and, if enabled, wakes the chip. -/
  | aonTimer
  /-- WHISTLE (R299): A management-bus address match in SLEEP starts AON_CLK, or records NO_REF when REFCLK is absent. -/
  | whistle
  /-- WHISTLE_IDLE (R299): After 1 ms of bus idle, a Whistle-woken AON domain returns to SLOW32. -/
  | whistleIdle
  /-- WAKE_EXIT_DONE (R297): The fixed exit delay from STANDBY, or the core power-up from SLEEP, completes, and SLEEP exit performs its C reset. -/
  | wakeExitDone
  /-- RSRAM_DATA_ACCESS (R302): An access to AON_RSRAM_DATA reads or writes a retained-SRAM word and may advance ADDR. -/
  | rsramDataAccess (mid : Mid) (write : Option Word)
  /-- RESET_N_ASSERT (R304): RESET_N held low for 1 µs asserts a C reset. -/
  | resetNAssert
  /-- RESET_N_RELEASE (R304): RESET_N rises, starting the 10 µs hold to release. -/
  | resetNRelease
  /-- RST_CMD_C (R306): An RST_CMD write of a C reset is checked and scheduled to take hold 2 µs later. -/
  | rstCmdC (mid : Mid) (v : Word)
  /-- RST_CMD_T (R306): An RST_CMD write of a T reset is checked and scheduled to take hold 2 µs later. -/
  | rstCmdT (mid : Mid) (v : Word)
  /-- RST_CMD_F (R306): An RST_CMD write of an F reset of a host port is checked and scheduled. -/
  | rstCmdF (mid : Mid) (v : Word)
  /-- RST_CMD_L (R306): An RST_CMD write of an L reset of a network port is checked and scheduled. -/
  | rstCmdL (mid : Mid) (v : Word)
  /-- RESET_TAKE_HOLD (R311): A reset takes hold after any deferral, sending LVE sets, clamping its blocks and recording RST_LAST. -/
  | resetTakeHold
  /-- C_RESET_RELEASE (R311): A C reset's hold ends, restoring AON fields, starting PLLs and the load. -/
  | cResetRelease
  /-- SRAM_CLEAR_DONE (R311): The warm-reset clear of general SRAM ends and the image may commit. -/
  | sramClearDone
  /-- SRAM_TEST_DONE (R310): The cold-start self-test ends, clearing the arrays, or raising SRAM_TEST. -/
  | sramTestDone (ok : Bool)
  /-- T_RESET_RELEASE (R312): The 1 µs T reset ends and every port that may train starts training. -/
  | tResetRelease
  /-- L_RESET_RELEASE (R313): The 2 µs lane stop of an L reset ends and the port starts training unless in HOLD. -/
  | lResetRelease (p : NetPort)
  /-- WATCHDOG_EXPIRY (R317): The AON watchdog reaches 0 and causes a C reset with code 0x04. -/
  | watchdogExpiry
  /-- KICK (R317): A write of RST_WDOG.KICK restarts the watchdog count from TIMEOUT_MS. -/
  | kick (mid : Mid) (v : Word)
  /-- FAULT_SOURCE_RISE (R323): An error line rises, setting its FLT_STATUS bit and reacting by its class. -/
  | faultSourceRise (src : Fin 64) (mid : Mid) (access : Fin 8) (addr : Word) (tgt : FaultTarget)
  /-- ESCALATION (R330): ESC_DELAY_US after every fatal line is low, escalation asserts a C reset with code 0x08. -/
  | escalation
  /-- FLT_INJECT (R332): A write of FLT_INJECT with the right CONFIRM raises a source as if its line had risen. -/
  | fltInject (mid : Mid) (v : Word)
  /-- ALERT_RESPONSE (R328): The SMBus Alert Response Address protocol releases ALERT_N. -/
  | alertResponse
  /-- LOCK_ACQUIRE (R337): A 64-bit read of SEM_LOCK[k] acquires a free lock, reports ABANDONED, or sets WAITER. -/
  | lockAcquire (mid : Mid) (k : Fin 256)
  /-- RELEASE (R339): A SEM_LOCK RELEASE from the owner frees the lock, and posts LOCK_RELEASED if a waiter is set. -/
  | release (mid : Mid) (k : Fin 256) (v : Word)
  /-- FORCE (R339): A SEM_LOCK FORCE with CONFIRM 0xA5 frees the lock and marks it abandoned. -/
  | force (mid : Mid) (k : Fin 256) (v : Word)
  /-- BIND_STATE_WRITE (R343): A write of AON_BIND.STATE changes the binding state or is refused with ERR. -/
  | bindStateWrite (mid : Mid) (v : Word)
  /-- BINDING_PORT_RESET (R343): 2 µs after a binding change every UP port takes an L reset with reason 0x2. -/
  | bindingPortReset
  /-- MGMT_READ (R344): An MGMT READ reaches the in-band agent, which reads the register and answers. -/
  | mgmtRead (ip : IntPort)
  /-- MGMT_WRITE (R344): An MGMT WRITE reaches the in-band agent, which writes under the binding rules or answers REFUSED or BUSY. -/
  | mgmtWrite (ip : IntPort)
  /-- EXTEST (R345): The EXTEST instruction drives pins from the boundary register when the chip is not BOUND. -/
  | extest
  /-- IDCODE (R345): The IDCODE instruction selects the 32-bit identification register. -/
  | idcode
  /-- SAMPLE_PRELOAD (R345): The SAMPLE/PRELOAD instruction samples or preloads the boundary register. -/
  | samplePreload
  /-- CLAMP (R345): The CLAMP instruction holds pins from the boundary register and selects bypass. -/
  | clamp
  /-- HIGHZ (R345): The HIGHZ instruction releases every single-ended output. -/
  | highz
  /-- REG_ACCESS (R346): Update-DR with REG_ACCESS starts a 64-bit register access by MID 0x01. -/
  | regAccess (dr : BitVec 92)
  /-- SCAN (R345): The SCAN instruction accesses internal scan chains at INTRUSIVE level. -/
  | scan
  /-- BYPASS (R345): The BYPASS instruction selects the 1-bit bypass register. -/
  | bypass
  /-- TEST_LOGIC_RESET (R319): The TAP enters Test-Logic-Reset, loading IDCODE and freeing JTAG's locks. -/
  | testLogicReset
  /-- DEBUG_LEVEL_WRITE (R347): A write of DBG_LEVEL changes the debug level, or is refused while BOUND or with a wrong CONFIRM. -/
  | debugLevelWrite (mid : Mid) (v : Word)
  /-- DBG_MEM_READ (R347): A read of DBG_MEM_DATA at OBSERVE or above returns an SRAM word and may advance ADDR. -/
  | dbgMemRead (mid : Mid)
  /-- DBG_MEM_WRITE (R347): A write of DBG_MEM_DATA at INTRUSIVE writes an SRAM word. -/
  | dbgMemWrite (mid : Mid) (v : Word)
  /-- DBG_HALT (R348): A write of DBG_HALT.RTR or NIC halts or resumes allocator grants or NIC starts. -/
  | dbgHalt (mid : Mid) (v : Word)
  /-- STEP (R348): A write of DBG_HALT.STEP runs the halted allocator for one cycle. -/
  | step (mid : Mid) (v : Word)
  /-- OFFSET (R374): The management-bus OFFSET command sets the BAR0 offset for the next access. -/
  | offset (bytes : Bytes)
  /-- SMB_WRITE (R374): The management-bus WRITE command makes a 64-bit register write. -/
  | smbWrite (bytes : Bytes)
  /-- SMB_READ (R374): The management-bus READ command makes a 64-bit register read and returns STATUS and value. -/
  | smbRead
  /-- AUTO (R374): The management-bus AUTO command sets offset auto-advance. -/
  | auto (b : Byte)
  /-- LAST (R374): The management-bus LAST command returns the STATUS of the last access. -/
  | last
  /-- SMBUS_TIMEOUT (R374): An SMBus clock-low timeout abandons the transaction and frees the master's locks. -/
  | smbusTimeout
  /-- CLEAR (R354): A write of PMC_CTL.CLEAR zeroes a unit's counters. -/
  | clear (mid : Mid) (unit : Fin 72) (v : Word)
  /-- SNAPSHOT (R358): A write of PMC_SNAP.GO copies all counters into the shadows and records time and SEQ. -/
  | snapshot (mid : Mid) (v : Word)
  /-- CAPTURE_ENABLE (R365): CAP_CTL.EN changing from 0 to 1 reads LOG_SIZE, MODE and DEST and zeroes PI and CI. -/
  | captureEnable (mid : Mid) (v : Word)
  /-- CAP_CI_WRITE (R362): A write of CAP_CI sets the capture consumer index, or is discarded if out of range or DEST is 1. -/
  | capCiWrite (mid : Mid) (v : Word)
  /-- TELEMETRY_FLUSH (R363): 64 entries pending or TEL_FLUSH_US passed sends a TELEMETRY packet to the collector. -/
  | telemetryFlush
  /-- TELEMETRY (R363): An arriving TELEMETRY packet is appended to the collector's ring or discarded. -/
  | telemetry (ip : IntPort)
  /-- CODE_ERROR_OUTSIDE_FRAME (R52): A code violation or disparity error arrives between frames, for example in IDL or ordered sets, and is counted in LAN_ERR and the lane's count and raises LANE_CE. -/
  | codeErrorOutsideFrame (p : NetPort) (e : LoneGroup)
  /-- ERROR_FREE_IDL_SETS (R63): After a failed wake, the receiver decodes 4 consecutive error-free IDL sets and stops treating columns as code errors. -/
  | errorFreeIdlSets (p : NetPort) (n : Nat)
  /-- PRBS_BYTE_ERROR (R66): A synchronized compliance checker finds a PRBS byte error, which is counted in LAN_CMP_ERR.ERRORS and ERR_MASK. -/
  | prbsByteError (p : NetPort) (bytes : Bytes)
  /-- ERROR_LINE_FALL (R323): An error line falls, for example when the core supply or REFCLK returns, so its FLT_STATUS bit may be cleared and escalation may start its delay once every fatal line is low. -/
  | errorLineFall (src : Fin 64)
  /-- LEAVE_HOLD (R68): A write that moves LAN_CTL.MODE out of HOLD starts training of the port. -/
  | leaveHold (mid : Mid) (p : NetPort) (v : Word)
  /-- UNLISTED_OPCODE (R104): An arriving packet whose opcode is not listed, or is listed under another FMT, is refused with MALFORMED if sequenced and otherwise discarded and counted. -/
  | unlistedOpcode (ip : IntPort)
  /-- HOST_LINK_TRAINED (R177): A host port's PCI Express link finishes training, and HIF_STATUS shows its rate, width and FLIT mode and leaves LINK_DOWN. -/
  | hostLinkTrained (h : HostPort) (width : Nat) (rate : Nat) (flit : Bool)
  /-- CONFIGURATION_REQUEST (R154): A host configuration write sets BAR addresses, bus mastering or MSI-X control of a host port's function. -/
  | configurationRequest (h : HostPort) (req : ConfigReq)
deriving DecidableEq, Repr

end Sys2Proof
end

