-- ==== Sys2Proof/Decode.lean ====
section
/-! DEFINITION. The words of commands: spec/opcode_table.json gives no row of this block any bits, so no word spells a
command. -/

namespace Sys2Proof

/-- The command a word of `nbits` bits spells: none, since no row of the table has bits (DESIGN CHOICE, log entry 17). -/
def decodeTableWord (_nbits _w : Nat) : Option Instr := none

end Sys2Proof
end

