-- ==== Sys2Proof/Machine/Bits.lean ====
section
/-! DEFINITION. Bit fields of words, little-endian byte strings and saturating counts (R4, R5). -/

namespace Sys2Proof.Machine

/-- Bits [hi:lo] of a number. -/
def bitsOf (v hi lo : Nat) : Nat := v / 2 ^ lo % 2 ^ (hi + 1 - lo)

/-- Bits [hi:lo] of a word, as a number. -/
def fieldOf (w : Word) (hi lo : Nat) : Nat := bitsOf w.toNat hi lo

/-- The word `w` with bits [hi:lo] replaced by the low bits of `v`. -/
def putField (w : Word) (hi lo v : Nat) : Word :=
  BitVec.ofNat 64 (w.toNat - fieldOf w hi lo * 2 ^ lo + v % 2 ^ (hi + 1 - lo) * 2 ^ lo)

/-- Bit `n` of a word. -/
def bitOf (w : Word) (n : Nat) : Bool := w.toNat.testBit n

/-- A Bool as a one-bit number. -/
def b2n (b : Bool) : Nat := if b then 1 else 0

/-- The word with the given fields ([hi:lo] and value) and 0 elsewhere. -/
def packFields (fs : List (Nat × Nat × Nat)) : Word :=
  fs.foldl (fun w f => putField w f.1 f.2.1 f.2.2) 0#64

/-- The number a little-endian byte string spells (R4). -/
def leNat : Bytes → Nat
  | [] => 0
  | b :: bs => b.toNat + 256 * leNat bs

/-- The low `n` bytes of a number, little-endian (R4). -/
def leBytes : Nat → Nat → Bytes
  | 0, _ => []
  | n + 1, v => BitVec.ofNat 8 (v % 256) :: leBytes n (v / 256)

/-- The number in bytes [off, off + n) of a byte string, little-endian; bytes past its end read as 0. -/
def leAt (bs : Bytes) (off n : Nat) : Nat := leNat ((bs.drop off).take n)

/-- Byte `off` of a byte string; 0 past its end. -/
def byteAt (bs : Bytes) (off : Nat) : Byte := bs.getD off 0#8

/-- A byte string cut or zero-extended to exactly `n` bytes. -/
def padTo (n : Nat) (bs : Bytes) : Bytes := bs.take n ++ List.replicate (n - bs.length) 0#8

/-- Replaces bytes [off, off + new.length) of `bs`; what would lie past its end is dropped. -/
def patchBytes (bs : Bytes) (off : Nat) (new : Bytes) : Bytes :=
  bs.take off ++ (new.take (bs.length - off)) ++ bs.drop (off + new.length)

/-- `a / b` rounded up. -/
def ceilDiv (a b : Nat) : Nat := (a + b - 1) / b

/-- A count of `w` bits that stops at its largest value. -/
def satAdd (w v d : Nat) : Nat := min (2 ^ w - 1) (v + d)

/-- How many of the low `n` bits are set. -/
def popCount (n v : Nat) : Nat := ((List.range n).filter v.testBit).length

/-- Sets or clears bit `n` of a number. -/
def setBitTo (v n : Nat) (b : Bool) : Nat :=
  if v.testBit n == b then v else if b then v + 2 ^ n else v - 2 ^ n

end Sys2Proof.Machine
end

