-- ==== Sys2Proof/Machine/Crc.lean ====
section
/-! DEFINITION. The checks the chip computes over bytes: CRC-16 and CRC-32 of a frame (R71), CRC-64 of a packet (R105). -/

namespace Sys2Proof.Machine

/-- One bit of a most-significant-bit-first CRC of width `w`. -/
def crcUpBit (w poly c : Nat) : Nat :=
  if 2 ^ (w - 1) ≤ c then ((2 * c) % 2 ^ w) ^^^ poly else 2 * c

/-- One byte of a most-significant-bit-first CRC. -/
def crcUpByte (w poly c : Nat) (b : Byte) : Nat :=
  Nat.repeat (crcUpBit w poly) 8 (c ^^^ (b.toNat * 2 ^ (w - 8)))

/-- One bit of a reflected CRC. -/
def crcDownBit (poly c : Nat) : Nat := if c % 2 = 1 then (c / 2) ^^^ poly else c / 2

/-- One byte of a reflected CRC. -/
def crcDownByte (poly c : Nat) (b : Byte) : Nat := Nat.repeat (crcDownBit poly) 8 (c ^^^ b.toNat)

/-- HCRC and the CRC of a CR set (R71, R72): polynomial 0x1021, initial value 0xFFFF, no final inversion. -/
def crc16 (bs : Bytes) : Nat := bs.foldl (crcUpByte 16 0x1021) 0xFFFF

/-- FCRC (R71): the CRC-32 of IEEE 802.3, which is reflected, starts at all ones and is inverted at the end. -/
def crc32 (bs : Bytes) : Nat := (bs.foldl (crcDownByte 0xEDB88320) 0xFFFFFFFF) ^^^ 0xFFFFFFFF

/-- PCRC (R105): the reflected CRC-64 of ECMA-182 from all ones, inverted at the end. -/
def crc64 (bs : Bytes) : Nat :=
  (bs.foldl (crcDownByte 0xC96C5795D7870F42) 0xFFFFFFFFFFFFFFFF) ^^^ 0xFFFFFFFFFFFFFFFF

end Sys2Proof.Machine
end

