-- ==== Sys2Proof/Machine/RegMap.lean ====
section
/-! DEFINITION. The register map: one name per register of BAR0 (R366 to R372), where it stands, and its fields with
their access code (R6), reset value and kinds (R7) and change class (R8), row for row from the field tables of the
subject chapters. Reserved bits have no field: they read as 0 and ignore writes (R5). -/

namespace Sys2Proof.Machine

/-- The access codes of R6. -/
inductive Access | ro | rw | w1c | w1s | rc | ra | wo
deriving DecidableEq, Repr

/-- The reset kinds of R7 and R303. -/
inductive ResetKind | P | C | T | F | L
deriving DecidableEq, Repr

/-- The change classes of R8. -/
inductive Change | immediate | static | boundary
deriving DecidableEq, Repr

/-- The Reset column (R7). -/
inductive ResetVal
  /-- A number, restored by the kinds. -/
  | val (v : Nat) (kinds : List ResetKind)
  /-- A value the committed image gives (R34). -/
  | image (kinds : List ResetKind)
  /-- A value computed from other fields (LAN_CTL, LNK_EXPECT, MTE_LIMIT), restored by the kinds. -/
  | derived (kinds : List ResetKind)
  /-- Live: always reflects current hardware state (R7); not stored. -/
  | live
  /-- A write-only or kept field: no stored value that a reset restores. -/
  | unstored
deriving DecidableEq, Repr

/-- One row of a field table. -/
structure FieldRow where
  hi     : Nat
  lo     : Nat
  access : Access
  reset  : ResetVal
  change : Change
deriving DecidableEq, Repr

/-- The blocks that own registers (R13). -/
inductive Block
  | sys | cfg | rst | pwr | aon | tim | flt | sem | pmc | hif | wq | eq | xlt | win | epc | mte | col | cc | rtr | cap | lnk | lan | dbg
deriving DecidableEq, Repr

/-- Where a register stands: base, stride and number of block instances, stride and number of array elements. -/
structure RegPlace where
  base       : Nat
  instStride : Nat
  instCount  : Nat
  idxStride  : Nat
  idxCount   : Nat
  block      : Block
deriving DecidableEq, Repr

/-- Every register of BAR0, by its name in the spec. -/
inductive RegId
  | SYS_ID
  | SYS_CHIP
  | SYS_STRAP
  | SYS_DIE
  | SYS_SCRATCH
  | CFG_STATUS
  | CFG_PROG_CTL
  | CFG_PROG_DATA
  | CFG_ACTIVATE
  | CFG_CAL_UNLOCK
  | CFG_WHILE_LIVE
  | CFG_SLOT_SERIAL_A
  | CFG_SLOT_SERIAL_B
  | RST_CMD
  | RST_STATUS
  | RST_LAST
  | RST_COUNT
  | RST_WDOG
  | PWR_CTL
  | PWR_STATUS
  | PWR_WAKE_EN
  | PWR_WAKE_SRC
  | PWR_PFW
  | PWR_BIAS
  | AON_TEMP
  | AON_TEMP_LIM
  | AON_SUPPLY
  | AON_TIMER
  | AON_RSRAM_ADDR
  | AON_RSRAM_DATA
  | AON_BACKUP
  | AON_BIND
  | AON_MGR
  | TIM_NOW
  | TIM_CTL
  | TIM_STATUS
  | TIM_SET
  | FLT_STATUS
  | FLT_CTL
  | FLT_PROMOTE
  | FLT_FAULTN_EN
  | FLT_ALERT_EN
  | FLT_FIRST_INFO
  | FLT_FIRST_ADDR
  | FLT_FIRST_TIME
  | FLT_INJECT
  | FLT_MUZZLE
  | SEM_LOCK
  | SEM_PORT_RESTR
  | PMC_CTL
  | PMC_CYC
  | PMC_EVSEL
  | PMC_CNT
  | PMC_SHD_CYC
  | PMC_SHD_CNT
  | PMC_SNAP
  | PMC_SNAP_TIME
  | HIF_CTL
  | HIF_STATUS
  | HIF_HALT
  | HIF_ERR
  | WQ_POOL
  | WQ_ADM_BASE
  | WQ_ADM_CFG
  | WQ_ADM_PI
  | WQ_ADM_HEAD
  | WQ_SEL
  | WQ_STATE
  | EQ_POOL
  | EQ_SEL
  | EQ_STATE
  | EQ_ASYNC
  | EQ_OVF
  | EQ_ASYNC_PEND
  | EQ_CI
  | XLT_CTL
  | XLT_STATUS
  | XLT_INV_CTL
  | XLT_INV_VA
  | XLT_INV_PAGES
  | XLT_FREC_ADDR
  | XLT_FREC_INFO
  | XLT_WPR_BASE
  | XLT_WPR_LIMIT
  | WIN_CFG
  | WIN_TABLE
  | WIN_VP
  | WIN_PRI
  | EPC_KENNEL_CTX
  | EPC_KENNEL_PAIR
  | EPC_STATUS
  | EPC_LOST
  | EPC_PAIR_SEL
  | EPC_PAIR_RESET
  | EPC_ERR
  | EPC_PARK
  | EPC_PARK_ERR
  | MTE_CTL
  | MTE_LIMIT
  | MTE_RREC
  | MTE_UXD
  | MTE_KENNEL_UX
  | MTE_RNDV
  | MTE_STATUS
  | MTE_STATUS2
  | MTE_ERR
  | MTE_PART
  | MTE_CHIP
  | COL_PART
  | COL_STATUS
  | COL_GRP_SEL
  | COL_GRP_STATE
  | COL_GRP_TREE
  | COL_ERR
  | CC_CTL
  | CC_WIN
  | CC_DELAY
  | CC_PAIR_Q
  | CC_PAIR_STATE
  | CC_STAT
  | SHP_CTL
  | SHP_SEL
  | SHP_STATE
  | SHP_TOKENS
  | SHP_SAMPLE_SEL
  | SHP_SAMPLE
  | RTR_CTL
  | RTR_TIMING
  | RTR_GEOM
  | RTR_COORD
  | RTR_EPOCH
  | RTR_TBL_CTL
  | RTR_TBL_DATA
  | RTR_STATUS
  | RTR_DISC
  | RTR_OVR
  | CAP_CTL
  | CAP_PI
  | CAP_CI
  | CAP_STATUS
  | CAP_TEL
  | CAP_FILT_A
  | CAP_FILT_B
  | CAP_MEM
  | LNK_CTL
  | LNK_STATUS
  | LNK_EXPECT
  | LNK_PEER
  | LNK_ERRWIN
  | LNK_ERR
  | LNK_TX_SEQ
  | LNK_RX_SEQ
  | LNK_TXCRED
  | LAN_CFG
  | LAN_CTL
  | LAN_STATUS
  | LAN_ERR
  | LAN_LANE_ERR_LO
  | LAN_LANE_ERR_HI
  | LAN_CMP_ERR
  | DBG_LEVEL
  | DBG_MEM_ADDR
  | DBG_MEM_DATA
  | DBG_HALT
deriving DecidableEq, Repr

/-- A named field of a register. -/
structure RegField where
  reg : RegId
  hi  : Nat
  lo  : Nat
deriving DecidableEq, Repr

/-- Where each register stands (R367 to R372). -/
def regPlace : RegId → RegPlace
  | .SYS_ID => ⟨0x0, 0x0, 1, 0x0, 1, .sys⟩
  | .SYS_CHIP => ⟨0x8, 0x0, 1, 0x0, 1, .sys⟩
  | .SYS_STRAP => ⟨0x10, 0x0, 1, 0x0, 1, .sys⟩
  | .SYS_DIE => ⟨0x18, 0x0, 1, 0x0, 1, .sys⟩
  | .SYS_SCRATCH => ⟨0x20, 0x0, 1, 0x0, 1, .sys⟩
  | .CFG_STATUS => ⟨0x10000, 0x0, 1, 0x0, 1, .cfg⟩
  | .CFG_PROG_CTL => ⟨0x10008, 0x0, 1, 0x0, 1, .cfg⟩
  | .CFG_PROG_DATA => ⟨0x10010, 0x0, 1, 0x8, 8, .cfg⟩
  | .CFG_ACTIVATE => ⟨0x10050, 0x0, 1, 0x0, 1, .cfg⟩
  | .CFG_CAL_UNLOCK => ⟨0x10058, 0x0, 1, 0x0, 1, .cfg⟩
  | .CFG_WHILE_LIVE => ⟨0x10060, 0x0, 1, 0x0, 1, .cfg⟩
  | .CFG_SLOT_SERIAL_A => ⟨0x10068, 0x0, 1, 0x0, 1, .cfg⟩
  | .CFG_SLOT_SERIAL_B => ⟨0x10070, 0x0, 1, 0x0, 1, .cfg⟩
  | .RST_CMD => ⟨0x20000, 0x0, 1, 0x0, 1, .rst⟩
  | .RST_STATUS => ⟨0x20008, 0x0, 1, 0x0, 1, .rst⟩
  | .RST_LAST => ⟨0x20010, 0x0, 1, 0x0, 1, .rst⟩
  | .RST_COUNT => ⟨0x20018, 0x0, 1, 0x0, 1, .rst⟩
  | .RST_WDOG => ⟨0x20020, 0x0, 1, 0x0, 1, .rst⟩
  | .PWR_CTL => ⟨0x30000, 0x0, 1, 0x0, 1, .pwr⟩
  | .PWR_STATUS => ⟨0x30008, 0x0, 1, 0x0, 1, .pwr⟩
  | .PWR_WAKE_EN => ⟨0x30010, 0x0, 1, 0x0, 1, .pwr⟩
  | .PWR_WAKE_SRC => ⟨0x30018, 0x0, 1, 0x0, 1, .pwr⟩
  | .PWR_PFW => ⟨0x30020, 0x0, 1, 0x0, 1, .pwr⟩
  | .PWR_BIAS => ⟨0x30028, 0x0, 1, 0x0, 1, .pwr⟩
  | .AON_TEMP => ⟨0x31000, 0x0, 1, 0x0, 1, .aon⟩
  | .AON_TEMP_LIM => ⟨0x31008, 0x0, 1, 0x0, 1, .aon⟩
  | .AON_SUPPLY => ⟨0x31010, 0x0, 1, 0x0, 1, .aon⟩
  | .AON_TIMER => ⟨0x31018, 0x0, 1, 0x0, 1, .aon⟩
  | .AON_RSRAM_ADDR => ⟨0x31020, 0x0, 1, 0x0, 1, .aon⟩
  | .AON_RSRAM_DATA => ⟨0x31028, 0x0, 1, 0x0, 1, .aon⟩
  | .AON_BACKUP => ⟨0x31100, 0x0, 1, 0x8, 16, .aon⟩
  | .AON_BIND => ⟨0x31200, 0x0, 1, 0x0, 1, .aon⟩
  | .AON_MGR => ⟨0x31208, 0x0, 1, 0x8, 4, .aon⟩
  | .TIM_NOW => ⟨0x32000, 0x0, 1, 0x0, 1, .tim⟩
  | .TIM_CTL => ⟨0x32008, 0x0, 1, 0x0, 1, .tim⟩
  | .TIM_STATUS => ⟨0x32010, 0x0, 1, 0x0, 1, .tim⟩
  | .TIM_SET => ⟨0x32018, 0x0, 1, 0x0, 1, .tim⟩
  | .FLT_STATUS => ⟨0x40000, 0x0, 1, 0x0, 1, .flt⟩
  | .FLT_CTL => ⟨0x40008, 0x0, 1, 0x0, 1, .flt⟩
  | .FLT_PROMOTE => ⟨0x40010, 0x0, 1, 0x0, 1, .flt⟩
  | .FLT_FAULTN_EN => ⟨0x40018, 0x0, 1, 0x0, 1, .flt⟩
  | .FLT_ALERT_EN => ⟨0x40020, 0x0, 1, 0x0, 1, .flt⟩
  | .FLT_FIRST_INFO => ⟨0x40028, 0x0, 1, 0x0, 1, .flt⟩
  | .FLT_FIRST_ADDR => ⟨0x40030, 0x0, 1, 0x0, 1, .flt⟩
  | .FLT_FIRST_TIME => ⟨0x40038, 0x0, 1, 0x0, 1, .flt⟩
  | .FLT_INJECT => ⟨0x40040, 0x0, 1, 0x0, 1, .flt⟩
  | .FLT_MUZZLE => ⟨0x40048, 0x0, 1, 0x0, 1, .flt⟩
  | .SEM_LOCK => ⟨0x50000, 0x0, 1, 0x8, 256, .sem⟩
  | .SEM_PORT_RESTR => ⟨0x50800, 0x0, 1, 0x0, 1, .sem⟩
  | .PMC_CTL => ⟨0x60000, 0x100, 72, 0x0, 1, .pmc⟩
  | .PMC_CYC => ⟨0x60008, 0x100, 72, 0x0, 1, .pmc⟩
  | .PMC_EVSEL => ⟨0x60010, 0x100, 72, 0x8, 8, .pmc⟩
  | .PMC_CNT => ⟨0x60050, 0x100, 72, 0x8, 8, .pmc⟩
  | .PMC_SHD_CYC => ⟨0x60090, 0x100, 72, 0x0, 1, .pmc⟩
  | .PMC_SHD_CNT => ⟨0x60098, 0x100, 72, 0x8, 8, .pmc⟩
  | .PMC_SNAP => ⟨0x68000, 0x0, 1, 0x0, 1, .pmc⟩
  | .PMC_SNAP_TIME => ⟨0x68008, 0x0, 1, 0x0, 1, .pmc⟩
  | .HIF_CTL => ⟨0x80000, 0x10000, 2, 0x0, 1, .hif⟩
  | .HIF_STATUS => ⟨0x80008, 0x10000, 2, 0x0, 1, .hif⟩
  | .HIF_HALT => ⟨0x80010, 0x10000, 2, 0x0, 1, .hif⟩
  | .HIF_ERR => ⟨0x80018, 0x10000, 2, 0x0, 1, .hif⟩
  | .WQ_POOL => ⟨0xC0000, 0x10000, 2, 0x0, 1, .wq⟩
  | .WQ_ADM_BASE => ⟨0xC0008, 0x10000, 2, 0x0, 1, .wq⟩
  | .WQ_ADM_CFG => ⟨0xC0010, 0x10000, 2, 0x0, 1, .wq⟩
  | .WQ_ADM_PI => ⟨0xC0018, 0x10000, 2, 0x0, 1, .wq⟩
  | .WQ_ADM_HEAD => ⟨0xC0020, 0x10000, 2, 0x0, 1, .wq⟩
  | .WQ_SEL => ⟨0xC0028, 0x10000, 2, 0x0, 1, .wq⟩
  | .WQ_STATE => ⟨0xC0030, 0x10000, 2, 0x0, 1, .wq⟩
  | .EQ_POOL => ⟨0xE0000, 0x10000, 2, 0x0, 1, .eq⟩
  | .EQ_SEL => ⟨0xE0008, 0x10000, 2, 0x0, 1, .eq⟩
  | .EQ_STATE => ⟨0xE0010, 0x10000, 2, 0x0, 1, .eq⟩
  | .EQ_ASYNC => ⟨0xE0018, 0x10000, 2, 0x0, 1, .eq⟩
  | .EQ_OVF => ⟨0xE0020, 0x10000, 2, 0x0, 1, .eq⟩
  | .EQ_ASYNC_PEND => ⟨0xE0028, 0x10000, 2, 0x0, 1, .eq⟩
  | .EQ_CI => ⟨0xE8000, 0x10000, 2, 0x8, 4096, .eq⟩
  | .XLT_CTL => ⟨0x100000, 0x10000, 2, 0x0, 1, .xlt⟩
  | .XLT_STATUS => ⟨0x100008, 0x10000, 2, 0x0, 1, .xlt⟩
  | .XLT_INV_CTL => ⟨0x100010, 0x10000, 2, 0x0, 1, .xlt⟩
  | .XLT_INV_VA => ⟨0x100018, 0x10000, 2, 0x0, 1, .xlt⟩
  | .XLT_INV_PAGES => ⟨0x100020, 0x10000, 2, 0x0, 1, .xlt⟩
  | .XLT_FREC_ADDR => ⟨0x100028, 0x10000, 2, 0x0, 1, .xlt⟩
  | .XLT_FREC_INFO => ⟨0x100030, 0x10000, 2, 0x0, 1, .xlt⟩
  | .XLT_WPR_BASE => ⟨0x100100, 0x10000, 2, 0x10, 8, .xlt⟩
  | .XLT_WPR_LIMIT => ⟨0x100108, 0x10000, 2, 0x10, 8, .xlt⟩
  | .WIN_CFG => ⟨0x140000, 0x10000, 2, 0x0, 1, .win⟩
  | .WIN_TABLE => ⟨0x140008, 0x10000, 2, 0x0, 1, .win⟩
  | .WIN_VP => ⟨0x140010, 0x10000, 2, 0x0, 1, .win⟩
  | .WIN_PRI => ⟨0x140018, 0x10000, 2, 0x0, 1, .win⟩
  | .EPC_KENNEL_CTX => ⟨0x140020, 0x10000, 2, 0x0, 1, .win⟩
  | .EPC_KENNEL_PAIR => ⟨0x140028, 0x10000, 2, 0x0, 1, .win⟩
  | .EPC_STATUS => ⟨0x140030, 0x10000, 2, 0x0, 1, .win⟩
  | .EPC_LOST => ⟨0x140038, 0x10000, 2, 0x0, 1, .win⟩
  | .EPC_PAIR_SEL => ⟨0x140040, 0x10000, 2, 0x0, 1, .win⟩
  | .EPC_PAIR_RESET => ⟨0x140048, 0x10000, 2, 0x0, 1, .win⟩
  | .EPC_ERR => ⟨0x140050, 0x10000, 2, 0x0, 1, .win⟩
  | .EPC_PARK => ⟨0x160000, 0x0, 1, 0x0, 1, .epc⟩
  | .EPC_PARK_ERR => ⟨0x160008, 0x0, 1, 0x0, 1, .epc⟩
  | .MTE_CTL => ⟨0x180000, 0x10000, 2, 0x0, 1, .mte⟩
  | .MTE_LIMIT => ⟨0x180008, 0x10000, 2, 0x0, 1, .mte⟩
  | .MTE_RREC => ⟨0x180010, 0x10000, 2, 0x0, 1, .mte⟩
  | .MTE_UXD => ⟨0x180018, 0x10000, 2, 0x0, 1, .mte⟩
  | .MTE_KENNEL_UX => ⟨0x180020, 0x10000, 2, 0x0, 1, .mte⟩
  | .MTE_RNDV => ⟨0x180028, 0x10000, 2, 0x0, 1, .mte⟩
  | .MTE_STATUS => ⟨0x180030, 0x10000, 2, 0x0, 1, .mte⟩
  | .MTE_STATUS2 => ⟨0x180038, 0x10000, 2, 0x0, 1, .mte⟩
  | .MTE_ERR => ⟨0x180040, 0x10000, 2, 0x0, 1, .mte⟩
  | .MTE_PART => ⟨0x1A0000, 0x0, 1, 0x0, 1, .mte⟩
  | .MTE_CHIP => ⟨0x1A0008, 0x0, 1, 0x0, 1, .mte⟩
  | .COL_PART => ⟨0x1C0000, 0x0, 1, 0x0, 1, .col⟩
  | .COL_STATUS => ⟨0x1C0008, 0x0, 1, 0x0, 1, .col⟩
  | .COL_GRP_SEL => ⟨0x1C0010, 0x0, 1, 0x0, 1, .col⟩
  | .COL_GRP_STATE => ⟨0x1C0018, 0x0, 1, 0x0, 1, .col⟩
  | .COL_GRP_TREE => ⟨0x1C0020, 0x0, 1, 0x0, 1, .col⟩
  | .COL_ERR => ⟨0x1C0028, 0x0, 1, 0x0, 1, .col⟩
  | .CC_CTL => ⟨0x200000, 0x10000, 2, 0x0, 1, .cc⟩
  | .CC_WIN => ⟨0x200008, 0x10000, 2, 0x0, 1, .cc⟩
  | .CC_DELAY => ⟨0x200010, 0x10000, 2, 0x0, 1, .cc⟩
  | .CC_PAIR_Q => ⟨0x200018, 0x10000, 2, 0x0, 1, .cc⟩
  | .CC_PAIR_STATE => ⟨0x200020, 0x10000, 2, 0x0, 1, .cc⟩
  | .CC_STAT => ⟨0x200028, 0x10000, 2, 0x0, 1, .cc⟩
  | .SHP_CTL => ⟨0x200040, 0x10000, 2, 0x0, 1, .cc⟩
  | .SHP_SEL => ⟨0x200048, 0x10000, 2, 0x0, 1, .cc⟩
  | .SHP_STATE => ⟨0x200050, 0x10000, 2, 0x0, 1, .cc⟩
  | .SHP_TOKENS => ⟨0x200058, 0x10000, 2, 0x0, 1, .cc⟩
  | .SHP_SAMPLE_SEL => ⟨0x200080, 0x10000, 2, 0x10, 16, .cc⟩
  | .SHP_SAMPLE => ⟨0x200088, 0x10000, 2, 0x10, 16, .cc⟩
  | .RTR_CTL => ⟨0x240000, 0x0, 1, 0x0, 1, .rtr⟩
  | .RTR_TIMING => ⟨0x240008, 0x0, 1, 0x0, 1, .rtr⟩
  | .RTR_GEOM => ⟨0x240010, 0x0, 1, 0x0, 1, .rtr⟩
  | .RTR_COORD => ⟨0x240018, 0x0, 1, 0x0, 1, .rtr⟩
  | .RTR_EPOCH => ⟨0x240020, 0x0, 1, 0x0, 1, .rtr⟩
  | .RTR_TBL_CTL => ⟨0x240028, 0x0, 1, 0x0, 1, .rtr⟩
  | .RTR_TBL_DATA => ⟨0x240030, 0x0, 1, 0x0, 1, .rtr⟩
  | .RTR_STATUS => ⟨0x240038, 0x0, 1, 0x0, 1, .rtr⟩
  | .RTR_DISC => ⟨0x240040, 0x0, 1, 0x0, 1, .rtr⟩
  | .RTR_OVR => ⟨0x240100, 0x0, 1, 0x8, 64, .rtr⟩
  | .CAP_CTL => ⟨0x280000, 0x0, 1, 0x0, 1, .cap⟩
  | .CAP_PI => ⟨0x280008, 0x0, 1, 0x0, 1, .cap⟩
  | .CAP_CI => ⟨0x280010, 0x0, 1, 0x0, 1, .cap⟩
  | .CAP_STATUS => ⟨0x280018, 0x0, 1, 0x0, 1, .cap⟩
  | .CAP_TEL => ⟨0x280020, 0x0, 1, 0x0, 1, .cap⟩
  | .CAP_FILT_A => ⟨0x280100, 0x0, 1, 0x10, 4, .cap⟩
  | .CAP_FILT_B => ⟨0x280108, 0x0, 1, 0x10, 4, .cap⟩
  | .CAP_MEM => ⟨0x300000, 0x0, 1, 0x8, 131072, .cap⟩
  | .LNK_CTL => ⟨0x400000, 0x10000, 64, 0x0, 1, .lnk⟩
  | .LNK_STATUS => ⟨0x400008, 0x10000, 64, 0x0, 1, .lnk⟩
  | .LNK_EXPECT => ⟨0x400010, 0x10000, 64, 0x0, 1, .lnk⟩
  | .LNK_PEER => ⟨0x400018, 0x10000, 64, 0x0, 1, .lnk⟩
  | .LNK_ERRWIN => ⟨0x400020, 0x10000, 64, 0x0, 1, .lnk⟩
  | .LNK_ERR => ⟨0x400028, 0x10000, 64, 0x0, 1, .lnk⟩
  | .LNK_TX_SEQ => ⟨0x400030, 0x10000, 64, 0x0, 1, .lnk⟩
  | .LNK_RX_SEQ => ⟨0x400038, 0x10000, 64, 0x0, 1, .lnk⟩
  | .LNK_TXCRED => ⟨0x400040, 0x10000, 64, 0x8, 8, .lnk⟩
  | .LAN_CFG => ⟨0x800000, 0x10000, 64, 0x0, 1, .lan⟩
  | .LAN_CTL => ⟨0x800008, 0x10000, 64, 0x0, 1, .lan⟩
  | .LAN_STATUS => ⟨0x800010, 0x10000, 64, 0x0, 1, .lan⟩
  | .LAN_ERR => ⟨0x800018, 0x10000, 64, 0x0, 1, .lan⟩
  | .LAN_LANE_ERR_LO => ⟨0x800020, 0x10000, 64, 0x0, 1, .lan⟩
  | .LAN_LANE_ERR_HI => ⟨0x800028, 0x10000, 64, 0x0, 1, .lan⟩
  | .LAN_CMP_ERR => ⟨0x800030, 0x10000, 64, 0x0, 1, .lan⟩
  | .DBG_LEVEL => ⟨0xC00000, 0x0, 1, 0x0, 1, .dbg⟩
  | .DBG_MEM_ADDR => ⟨0xC00008, 0x0, 1, 0x0, 1, .dbg⟩
  | .DBG_MEM_DATA => ⟨0xC00010, 0x0, 1, 0x0, 1, .dbg⟩
  | .DBG_HALT => ⟨0xC00018, 0x0, 1, 0x0, 1, .dbg⟩

/-- The field rows of each register (R369 and the field tables of the subject chapters). -/
def regFields : RegId → List FieldRow
  | .SYS_ID => [⟨15, 0, .ro, .val 0xD064 [.P], .immediate⟩,
      ⟨26, 16, .ro, .val 0x4B3 [.P], .immediate⟩,
      ⟨35, 32, .ro, .val 0x1 [.P], .immediate⟩]
  | .SYS_CHIP => [⟨17, 0, .ro, .image [.P, .C], .static⟩,
      ⟨32, 32, .ro, .live, .immediate⟩]
  | .SYS_STRAP => [⟨2, 0, .ro, .live, .immediate⟩,
      ⟨3, 3, .ro, .live, .immediate⟩,
      ⟨7, 4, .ro, .live, .immediate⟩]
  | .SYS_DIE => [⟨63, 0, .ro, .live, .immediate⟩]
  | .SYS_SCRATCH => [⟨63, 0, .rw, .val 0x0 [.P], .immediate⟩]
  | .CFG_STATUS => [⟨1, 0, .ro, .live, .immediate⟩,
      ⟨2, 2, .ro, .live, .immediate⟩,
      ⟨3, 3, .ro, .live, .immediate⟩,
      ⟨4, 4, .ro, .live, .immediate⟩,
      ⟨5, 5, .ro, .live, .immediate⟩,
      ⟨6, 6, .ro, .live, .immediate⟩,
      ⟨7, 7, .ro, .live, .immediate⟩,
      ⟨11, 8, .ro, .live, .immediate⟩,
      ⟨15, 12, .ro, .live, .immediate⟩]
  | .CFG_PROG_CTL => [⟨14, 0, .rw, .val 0x0 [.P, .C], .immediate⟩,
      ⟨17, 16, .rw, .val 0x0 [.P, .C], .immediate⟩,
      ⟨18, 18, .rw, .val 0x0 [.P, .C], .immediate⟩,
      ⟨24, 24, .wo, .unstored, .immediate⟩,
      ⟨25, 25, .wo, .unstored, .immediate⟩,
      ⟨32, 32, .ro, .live, .immediate⟩,
      ⟨35, 33, .ro, .val 0x0 [.P, .C], .immediate⟩]
  | .CFG_PROG_DATA => [⟨63, 0, .rw, .val 0 [.P, .C], .immediate⟩]
  | .CFG_ACTIVATE => [⟨0, 0, .rw, .val 0x0 [.P, .C], .immediate⟩,
      ⟨1, 1, .rw, .val 0x0 [.P, .C], .immediate⟩,
      ⟨8, 8, .wo, .unstored, .immediate⟩,
      ⟨9, 9, .wo, .unstored, .immediate⟩,
      ⟨16, 16, .ro, .live, .immediate⟩,
      ⟨23, 20, .ro, .val 0xF [.P, .C], .immediate⟩,
      ⟨26, 24, .ro, .val 0x0 [.P, .C], .immediate⟩]
  | .CFG_CAL_UNLOCK => [⟨15, 0, .wo, .unstored, .immediate⟩]
  | .CFG_WHILE_LIVE => [⟨0, 0, .w1c, .val 0x0 [.P, .C], .immediate⟩,
      ⟨15, 8, .ro, .val 0x0 [.P, .C], .immediate⟩,
      ⟨39, 16, .ro, .val 0x0 [.P, .C], .immediate⟩,
      ⟨55, 40, .ro, .val 0x0 [.P, .C], .immediate⟩]
  | .CFG_SLOT_SERIAL_A => [⟨63, 0, .ro, .live, .immediate⟩]
  | .CFG_SLOT_SERIAL_B => [⟨63, 0, .ro, .live, .immediate⟩]
  | .RST_CMD => [⟨2, 0, .wo, .unstored, .immediate⟩,
      ⟨9, 4, .wo, .unstored, .immediate⟩,
      ⟨23, 16, .wo, .unstored, .immediate⟩,
      ⟨26, 24, .ro, .val 0x0 [.P, .C], .immediate⟩]
  | .RST_STATUS => [⟨2, 0, .ro, .live, .immediate⟩,
      ⟨3, 3, .ro, .val 0x0 [.P], .immediate⟩,
      ⟨13, 8, .w1c, .val 0x0 [.P], .immediate⟩]
  | .RST_LAST => [⟨4, 0, .ro, .val 0x1 [.P], .immediate⟩,
      ⟨7, 5, .ro, .val 0x0 [.P], .immediate⟩,
      ⟨15, 8, .ro, .val 0x0 [.P], .immediate⟩,
      ⟨63, 16, .ro, .val 0x0 [.P], .immediate⟩]
  | .RST_COUNT => [⟨15, 0, .ro, .val 0x0 [.P], .immediate⟩,
      ⟨31, 16, .ro, .val 0x0 [.P], .immediate⟩,
      ⟨47, 32, .ro, .val 0x0 [.P], .immediate⟩]
  | .RST_WDOG => [⟨0, 0, .rw, .val 0x0 [.P], .immediate⟩,
      ⟨31, 16, .rw, .val 0x3E8 [.P], .immediate⟩,
      ⟨32, 32, .wo, .unstored, .immediate⟩,
      ⟨63, 48, .ro, .live, .immediate⟩]
  | .PWR_CTL => [⟨1, 0, .rw, .val 0x0 [.P, .C], .immediate⟩,
      ⟨2, 2, .rw, .val 0x0 [.P, .C], .immediate⟩,
      ⟨15, 8, .rw, .val 0x4 [.P, .C], .immediate⟩,
      ⟨31, 16, .rw, .val 0x64 [.P, .C], .immediate⟩]
  | .PWR_STATUS => [⟨1, 0, .ro, .live, .immediate⟩,
      ⟨2, 2, .ro, .live, .immediate⟩,
      ⟨5, 3, .ro, .val 0x0 [.P, .C], .immediate⟩,
      ⟨6, 6, .ro, .val 0x0 [.P, .C], .immediate⟩]
  | .PWR_WAKE_EN => [⟨6, 0, .rw, .val 0x79 [.P], .immediate⟩]
  | .PWR_WAKE_SRC => [⟨3, 0, .ro, .val 0x0 [.P], .immediate⟩,
      ⟨4, 4, .ro, .val 0x0 [.P], .immediate⟩,
      ⟨6, 5, .ro, .val 0x0 [.P], .immediate⟩,
      ⟨63, 16, .ro, .val 0x0 [.P], .immediate⟩]
  | .PWR_PFW => [⟨15, 0, .rw, .val 0x0 [.P], .immediate⟩,
      ⟨31, 16, .rw, .val 0x7D0 [.P], .immediate⟩,
      ⟨32, 32, .rw, .val 0x1 [.P], .immediate⟩,
      ⟨33, 33, .rw, .val 0x1 [.P], .immediate⟩,
      ⟨34, 34, .ro, .live, .immediate⟩]
  | .PWR_BIAS => [⟨2, 0, .rw, .val 0x6 [.P], .immediate⟩,
      ⟨3, 3, .rw, .val 0x0 [.P], .immediate⟩,
      ⟨6, 4, .rw, .val 0x2 [.P], .immediate⟩]
  | .AON_TEMP => [⟨11, 0, .ro, .live, .immediate⟩,
      ⟨27, 16, .ro, .val 0x0 [.P, .C], .immediate⟩,
      ⟨28, 28, .w1c, .unstored, .immediate⟩]
  | .AON_TEMP_LIM => [⟨11, 0, .rw, .val 0x17C [.P], .immediate⟩,
      ⟨27, 16, .rw, .val 0x1B8 [.P], .immediate⟩]
  | .AON_SUPPLY => [⟨0, 0, .ro, .live, .immediate⟩,
      ⟨1, 1, .ro, .live, .immediate⟩,
      ⟨2, 2, .ro, .live, .immediate⟩,
      ⟨3, 3, .ro, .live, .immediate⟩]
  | .AON_TIMER => [⟨31, 0, .rw, .val 0x0 [.P, .C], .immediate⟩]
  | .AON_RSRAM_ADDR => [⟨0, 0, .rw, .val 0x0 [.P, .C], .immediate⟩,
      ⟨17, 3, .rw, .val 0x0 [.P, .C], .immediate⟩]
  | .AON_RSRAM_DATA => [⟨63, 0, .rw, .unstored, .immediate⟩]
  | .AON_BACKUP => [⟨63, 0, .rw, .unstored, .immediate⟩]
  | .AON_BIND => [⟨1, 0, .rw, .val 0x0 [.P], .immediate⟩,
      ⟨5, 4, .ro, .val 0x0 [.P], .immediate⟩,
      ⟨15, 8, .ro, .val 0x0 [.P], .immediate⟩]
  | .AON_MGR => [⟨17, 0, .rw, .val 0x0 [.P], .immediate⟩,
      ⟨18, 18, .rw, .val 0x0 [.P], .immediate⟩]
  | .TIM_NOW => [⟨63, 0, .ro, .live, .immediate⟩]
  | .TIM_CTL => [⟨0, 0, .rw, .val 0x0 [.P, .C], .immediate⟩,
      ⟨8, 1, .rw, .val 0xA [.P, .C], .immediate⟩,
      ⟨13, 9, .rw, .val 0x8 [.P, .C], .immediate⟩,
      ⟨31, 16, .rw, .val 0x3E8 [.P, .C], .immediate⟩]
  | .TIM_STATUS => [⟨0, 0, .ro, .live, .immediate⟩,
      ⟨5, 1, .ro, .live, .immediate⟩,
      ⟨11, 6, .ro, .live, .immediate⟩,
      ⟨31, 16, .ro, .live, .immediate⟩,
      ⟨47, 32, .ro, .val 0x0 [.P, .C], .immediate⟩]
  | .TIM_SET => [⟨63, 0, .wo, .unstored, .immediate⟩]
  | .FLT_STATUS => [⟨63, 0, .w1c, .val 0x0 [.P], .immediate⟩]
  | .FLT_CTL => [⟨0, 0, .rw, .val 0x1 [.P], .immediate⟩,
      ⟨1, 1, .rw, .val 0x0 [.P], .immediate⟩,
      ⟨31, 16, .rw, .val 0x64 [.P], .immediate⟩]
  | .FLT_PROMOTE => [⟨63, 0, .rw, .val 0x0 [.P], .immediate⟩]
  | .FLT_FAULTN_EN => [⟨63, 0, .rw, .val 0xFF [.P], .immediate⟩]
  | .FLT_ALERT_EN => [⟨63, 0, .rw, .val 0xFFFF03FFFFFF [.P], .immediate⟩]
  | .FLT_FIRST_INFO => [⟨0, 0, .w1c, .val 0x0 [.P], .immediate⟩,
      ⟨1, 1, .ro, .val 0x0 [.P], .immediate⟩,
      ⟨13, 8, .ro, .val 0x0 [.P], .immediate⟩,
      ⟨15, 14, .ro, .val 0x0 [.P], .immediate⟩,
      ⟨23, 16, .ro, .val 0x0 [.P], .immediate⟩,
      ⟨26, 24, .ro, .val 0x0 [.P], .immediate⟩,
      ⟨27, 27, .ro, .val 0x0 [.P], .immediate⟩]
  | .FLT_FIRST_ADDR => [⟨63, 0, .ro, .val 0x0 [.P], .immediate⟩]
  | .FLT_FIRST_TIME => [⟨63, 0, .ro, .val 0x0 [.P], .immediate⟩]
  | .FLT_INJECT => [⟨5, 0, .wo, .unstored, .immediate⟩,
      ⟨23, 16, .wo, .unstored, .immediate⟩,
      ⟨25, 24, .ro, .val 0x0 [.P], .immediate⟩]
  | .FLT_MUZZLE => [⟨0, 0, .ro, .live, .immediate⟩,
      ⟨6, 1, .ro, .val 0x0 [.P], .immediate⟩,
      ⟨63, 16, .ro, .val 0x0 [.P], .immediate⟩]
  | .SEM_LOCK => [⟨0, 0, .ra, .unstored, .immediate⟩,
      ⟨1, 1, .ro, .live, .immediate⟩,
      ⟨2, 2, .ra, .live, .immediate⟩,
      ⟨3, 3, .ro, .live, .immediate⟩,
      ⟨15, 8, .ro, .live, .immediate⟩,
      ⟨32, 32, .wo, .unstored, .immediate⟩,
      ⟨33, 33, .wo, .unstored, .immediate⟩,
      ⟨47, 40, .wo, .unstored, .immediate⟩]
  | .SEM_PORT_RESTR => [⟨63, 0, .ro, .live, .immediate⟩]
  | .PMC_CTL => [⟨0, 0, .rw, .val 0x0 [.P, .C], .immediate⟩,
      ⟨1, 1, .wo, .unstored, .immediate⟩]
  | .PMC_CYC => [⟨63, 0, .rw, .val 0x0 [.P, .C], .immediate⟩]
  | .PMC_EVSEL => [⟨7, 0, .rw, .val 0x0 [.P, .C], .immediate⟩,
      ⟨15, 8, .rw, .val 0x0 [.P, .C], .immediate⟩,
      ⟨16, 16, .rw, .val 0x0 [.P, .C], .immediate⟩,
      ⟨31, 24, .rw, .val 0x0 [.P, .C], .immediate⟩]
  | .PMC_CNT => [⟨63, 0, .rw, .val 0x0 [.P, .C], .immediate⟩]
  | .PMC_SHD_CYC => [⟨63, 0, .ro, .val 0x0 [.P, .C], .immediate⟩]
  | .PMC_SHD_CNT => [⟨63, 0, .ro, .val 0x0 [.P, .C], .immediate⟩]
  | .PMC_SNAP => [⟨0, 0, .wo, .unstored, .immediate⟩,
      ⟨31, 16, .ro, .val 0x0 [.P, .C], .immediate⟩]
  | .PMC_SNAP_TIME => [⟨63, 0, .ro, .val 0x0 [.P, .C], .immediate⟩]
  | .HIF_CTL => [⟨15, 0, .rw, .val 0x32 [.P, .C, .F], .immediate⟩,
      ⟨26, 16, .rw, .val 0x0 [.P, .C, .F], .immediate⟩,
      ⟨27, 27, .rw, .val 0x1 [.P, .C, .F], .immediate⟩]
  | .HIF_STATUS => [⟨1, 0, .ro, .live, .immediate⟩,
      ⟨3, 2, .ro, .live, .immediate⟩,
      ⟨6, 4, .ro, .live, .immediate⟩,
      ⟨7, 7, .ro, .live, .immediate⟩,
      ⟨8, 8, .ro, .live, .immediate⟩,
      ⟨9, 9, .ro, .live, .immediate⟩]
  | .HIF_HALT => [⟨7, 0, .ro, .val 0x0 [.P, .C, .F], .immediate⟩,
      ⟨21, 8, .ro, .val 0x0 [.P, .C, .F], .immediate⟩,
      ⟨22, 22, .ro, .val 0x0 [.P, .C, .F], .immediate⟩,
      ⟨39, 23, .ro, .val 0x0 [.P, .C, .F], .immediate⟩,
      ⟨40, 40, .ro, .val 0x0 [.P, .C, .F], .immediate⟩]
  | .HIF_ERR => [⟨15, 0, .rc, .val 0x0 [.P, .C, .F], .immediate⟩,
      ⟨31, 16, .rc, .val 0x0 [.P, .C, .F], .immediate⟩,
      ⟨47, 32, .rc, .val 0x0 [.P, .C, .F], .immediate⟩,
      ⟨63, 48, .rc, .val 0x0 [.P, .C, .F], .immediate⟩]
  | .WQ_POOL => [⟨14, 0, .ro, .image [.P, .C], .static⟩]
  | .WQ_ADM_BASE => [⟨63, 12, .rw, .val 0x0 [.P, .C, .F], .immediate⟩]
  | .WQ_ADM_CFG => [⟨0, 0, .w1s, .val 0x0 [.P, .C, .F], .immediate⟩,
      ⟨4, 1, .rw, .val 0x6 [.P, .C, .F], .immediate⟩,
      ⟨18, 8, .rw, .val 0x0 [.P, .C, .F], .immediate⟩,
      ⟨19, 19, .rw, .val 0x0 [.P, .C, .F], .immediate⟩]
  | .WQ_ADM_PI => [⟨16, 0, .rw, .val 0x0 [.P, .C, .F], .immediate⟩]
  | .WQ_ADM_HEAD => [⟨16, 0, .ro, .live, .immediate⟩,
      ⟨48, 32, .ro, .live, .immediate⟩]
  | .WQ_SEL => [⟨13, 0, .rw, .val 0x0 [.P, .C, .F], .immediate⟩]
  | .WQ_STATE => [⟨16, 0, .ro, .live, .immediate⟩,
      ⟨33, 17, .ro, .live, .immediate⟩,
      ⟨50, 34, .ro, .live, .immediate⟩,
      ⟨52, 51, .ro, .live, .immediate⟩,
      ⟨57, 53, .ro, .live, .immediate⟩]
  | .EQ_POOL => [⟨12, 0, .ro, .image [.P, .C], .static⟩]
  | .EQ_SEL => [⟨11, 0, .rw, .val 0x0 [.P, .C, .F], .immediate⟩]
  | .EQ_STATE => [⟨16, 0, .ro, .live, .immediate⟩,
      ⟨33, 17, .ro, .live, .immediate⟩,
      ⟨40, 34, .ro, .live, .immediate⟩,
      ⟨41, 41, .ro, .live, .immediate⟩,
      ⟨43, 42, .ro, .live, .immediate⟩]
  | .EQ_ASYNC => [⟨11, 0, .rw, .val 0x0 [.P, .C, .F], .immediate⟩,
      ⟨12, 12, .rw, .val 0x0 [.P, .C, .F], .immediate⟩,
      ⟨31, 16, .rw, .val 0x0 [.P, .C, .F], .immediate⟩]
  | .EQ_OVF => [⟨0, 0, .w1c, .val 0x0 [.P, .C, .F], .immediate⟩,
      ⟨12, 1, .ro, .val 0x0 [.P, .C, .F], .immediate⟩,
      ⟨47, 32, .ro, .val 0x0 [.P, .C, .F], .immediate⟩]
  | .EQ_ASYNC_PEND => [⟨15, 0, .ro, .live, .immediate⟩]
  | .EQ_CI => [⟨16, 0, .rw, .val 0x0 [.P, .C, .F], .immediate⟩,
      ⟨31, 31, .wo, .unstored, .immediate⟩]
  | .XLT_CTL => [⟨0, 0, .rw, .val 0x1 [.P, .C, .F], .immediate⟩,
      ⟨1, 1, .rw, .val 0x1 [.P, .C, .F], .immediate⟩,
      ⟨31, 16, .rw, .val 0xACE1 [.P, .C, .F], .immediate⟩]
  | .XLT_STATUS => [⟨12, 0, .ro, .live, .immediate⟩,
      ⟨18, 13, .ro, .live, .immediate⟩,
      ⟨19, 19, .ro, .live, .immediate⟩]
  | .XLT_INV_CTL => [⟨11, 0, .rw, .val 0x0 [.P, .C, .F], .immediate⟩,
      ⟨13, 12, .rw, .val 0x0 [.P, .C, .F], .immediate⟩,
      ⟨16, 16, .wo, .unstored, .immediate⟩,
      ⟨17, 17, .ro, .live, .immediate⟩,
      ⟨19, 18, .ro, .val 0x0 [.P, .C, .F], .immediate⟩]
  | .XLT_INV_VA => [⟨47, 12, .rw, .val 0x0 [.P, .C, .F], .immediate⟩]
  | .XLT_INV_PAGES => [⟨36, 0, .rw, .val 0x1 [.P, .C, .F], .immediate⟩]
  | .XLT_FREC_ADDR => [⟨63, 0, .ro, .val 0x0 [.P, .C, .F], .immediate⟩]
  | .XLT_FREC_INFO => [⟨0, 0, .w1c, .val 0x0 [.P, .C, .F], .immediate⟩,
      ⟨8, 1, .ro, .val 0x0 [.P, .C, .F], .immediate⟩,
      ⟨20, 9, .ro, .val 0x0 [.P, .C, .F], .immediate⟩,
      ⟨21, 21, .ro, .val 0x0 [.P, .C, .F], .immediate⟩,
      ⟨23, 22, .ro, .val 0x0 [.P, .C, .F], .immediate⟩,
      ⟨26, 24, .ro, .val 0x0 [.P, .C, .F], .immediate⟩,
      ⟨47, 32, .ro, .val 0x0 [.P, .C, .F], .immediate⟩]
  | .XLT_WPR_BASE => [⟨0, 0, .rw, .val 0x0 [.P, .C, .F], .immediate⟩,
      ⟨51, 12, .rw, .val 0x0 [.P, .C, .F], .immediate⟩]
  | .XLT_WPR_LIMIT => [⟨51, 12, .rw, .val 0x0 [.P, .C, .F], .immediate⟩]
  | .WIN_CFG => [⟨0, 0, .ro, .image [.P, .C], .static⟩]
  | .WIN_TABLE => [⟨4, 0, .rw, .val 0x0 [.P, .C, .F], .immediate⟩,
      ⟨51, 12, .rw, .val 0x0 [.P, .C, .F], .immediate⟩]
  | .WIN_VP => [⟨18, 0, .rw, .val 0x0 [.P, .C, .F], .immediate⟩,
      ⟨40, 24, .rw, .val 0x0 [.P, .C, .F], .immediate⟩]
  | .WIN_PRI => [⟨15, 0, .rw, .val 0x2710 [.P, .C, .F], .immediate⟩,
      ⟨31, 16, .rw, .val 0x3E8 [.P, .C, .F], .immediate⟩]
  | .EPC_KENNEL_CTX => [⟨4, 0, .rw, .val 0x0 [.P, .C, .F], .immediate⟩,
      ⟨51, 12, .rw, .val 0x0 [.P, .C, .F], .immediate⟩]
  | .EPC_KENNEL_PAIR => [⟨4, 0, .rw, .val 0x0 [.P, .C, .F], .immediate⟩,
      ⟨51, 12, .rw, .val 0x0 [.P, .C, .F], .immediate⟩]
  | .EPC_STATUS => [⟨15, 0, .ro, .live, .immediate⟩,
      ⟨31, 16, .ro, .live, .immediate⟩,
      ⟨44, 32, .ro, .live, .immediate⟩,
      ⟨54, 48, .ro, .live, .immediate⟩]
  | .EPC_LOST => [⟨0, 0, .w1c, .val 0x0 [.P, .C], .immediate⟩]
  | .EPC_PAIR_SEL => [⟨23, 0, .rw, .val 0x0 [.P, .C, .F], .immediate⟩,
      ⟨41, 24, .rw, .val 0x0 [.P, .C, .F], .immediate⟩,
      ⟨43, 42, .rw, .val 0x0 [.P, .C, .F], .immediate⟩]
  | .EPC_PAIR_RESET => [⟨23, 0, .wo, .unstored, .immediate⟩,
      ⟨24, 24, .wo, .unstored, .immediate⟩,
      ⟨25, 25, .ro, .live, .immediate⟩,
      ⟨27, 26, .ro, .val 0x0 [.P, .C, .F], .immediate⟩]
  | .EPC_ERR => [⟨15, 0, .rc, .val 0x0 [.P, .C, .F], .immediate⟩,
      ⟨31, 16, .rc, .val 0x0 [.P, .C, .F], .immediate⟩,
      ⟨47, 32, .rc, .val 0x0 [.P, .C, .F], .immediate⟩]
  | .EPC_PARK => [⟨12, 0, .ro, .live, .immediate⟩,
      ⟨31, 16, .ro, .live, .immediate⟩]
  | .EPC_PARK_ERR => [⟨15, 0, .rc, .val 0x0 [.P, .C, .T], .immediate⟩]
  | .MTE_CTL => [⟨12, 0, .rw, .val 0x1000 [.P, .C, .F], .immediate⟩,
      ⟨19, 16, .rw, .val 0x8 [.P, .C, .F], .immediate⟩]
  | .MTE_LIMIT => [⟨19, 0, .rw, .derived [.P, .C], .immediate⟩,
      ⟨51, 32, .rw, .derived [.P, .C], .immediate⟩]
  | .MTE_RREC => [⟨4, 0, .rw, .val 0x0 [.P, .C, .F], .immediate⟩,
      ⟨51, 12, .rw, .val 0x0 [.P, .C, .F], .immediate⟩]
  | .MTE_UXD => [⟨4, 0, .rw, .val 0x0 [.P, .C, .F], .immediate⟩,
      ⟨51, 12, .rw, .val 0x0 [.P, .C, .F], .immediate⟩]
  | .MTE_KENNEL_UX => [⟨4, 0, .rw, .val 0x0 [.P, .C, .F], .immediate⟩,
      ⟨51, 12, .rw, .val 0x0 [.P, .C, .F], .immediate⟩]
  | .MTE_RNDV => [⟨18, 0, .rw, .val 0x0 [.P, .C, .F], .immediate⟩,
      ⟨40, 24, .rw, .val 0x0 [.P, .C, .F], .immediate⟩]
  | .MTE_STATUS => [⟨19, 0, .ro, .live, .immediate⟩,
      ⟨39, 20, .ro, .live, .immediate⟩,
      ⟨59, 40, .ro, .live, .immediate⟩]
  | .MTE_STATUS2 => [⟨22, 0, .ro, .live, .immediate⟩,
      ⟨41, 23, .ro, .live, .immediate⟩,
      ⟨52, 42, .ro, .live, .immediate⟩]
  | .MTE_ERR => [⟨15, 0, .rc, .val 0x0 [.P, .C, .F], .immediate⟩,
      ⟨31, 16, .rc, .val 0x0 [.P, .C, .F], .immediate⟩,
      ⟨47, 32, .rc, .val 0x0 [.P, .C, .F], .immediate⟩,
      ⟨63, 48, .rc, .val 0x0 [.P, .C, .F], .immediate⟩]
  | .MTE_PART => [⟨19, 0, .ro, .image [.P, .C], .static⟩,
      ⟨51, 32, .ro, .image [.P, .C], .static⟩]
  | .MTE_CHIP => [⟨19, 0, .ro, .live, .immediate⟩,
      ⟨39, 20, .ro, .live, .immediate⟩,
      ⟨50, 40, .ro, .live, .immediate⟩]
  | .COL_PART => [⟨15, 0, .ro, .image [.P, .C], .static⟩]
  | .COL_STATUS => [⟨15, 0, .ro, .live, .immediate⟩,
      ⟨28, 16, .ro, .live, .immediate⟩]
  | .COL_GRP_SEL => [⟨11, 0, .rw, .val 0x0 [.P, .C], .immediate⟩]
  | .COL_GRP_STATE => [⟨1, 0, .ro, .live, .immediate⟩,
      ⟨2, 2, .ro, .live, .immediate⟩,
      ⟨3, 3, .ro, .live, .immediate⟩,
      ⟨10, 4, .ro, .live, .immediate⟩,
      ⟨15, 11, .ro, .live, .immediate⟩,
      ⟨31, 16, .ro, .live, .immediate⟩,
      ⟨35, 32, .ro, .live, .immediate⟩,
      ⟨51, 36, .ro, .live, .immediate⟩]
  | .COL_GRP_TREE => [⟨31, 0, .ro, .live, .immediate⟩,
      ⟨49, 32, .ro, .live, .immediate⟩,
      ⟨55, 50, .ro, .live, .immediate⟩]
  | .COL_ERR => [⟨15, 0, .rc, .val 0x0 [.P, .C], .immediate⟩,
      ⟨31, 16, .rc, .val 0x0 [.P, .C], .immediate⟩,
      ⟨47, 32, .rc, .val 0x0 [.P, .C], .immediate⟩,
      ⟨63, 48, .rc, .val 0x0 [.P, .C], .immediate⟩]
  | .CC_CTL => [⟨0, 0, .rw, .val 0x1 [.P, .C, .F], .immediate⟩,
      ⟨1, 1, .rw, .val 0x1 [.P, .C, .F], .immediate⟩,
      ⟨2, 2, .rw, .val 0x1 [.P, .C, .F], .immediate⟩,
      ⟨3, 3, .rw, .val 0x1 [.P, .C, .F], .immediate⟩]
  | .CC_WIN => [⟨23, 0, .rw, .val 0x40000 [.P, .C, .F], .immediate⟩,
      ⟨47, 24, .rw, .val 0x10000 [.P, .C, .F], .immediate⟩,
      ⟨63, 48, .rw, .val 0x100 [.P, .C, .F], .immediate⟩]
  | .CC_DELAY => [⟨15, 0, .rw, .val 0x320 [.P, .C, .F], .immediate⟩,
      ⟨31, 16, .rw, .val 0x2710 [.P, .C, .F], .immediate⟩,
      ⟨39, 32, .rw, .val 0xCD [.P, .C, .F], .immediate⟩,
      ⟨47, 40, .rw, .val 0x80 [.P, .C, .F], .immediate⟩,
      ⟨63, 48, .rw, .val 0x1000 [.P, .C, .F], .immediate⟩]
  | .CC_PAIR_Q => [⟨23, 0, .wo, .unstored, .immediate⟩,
      ⟨24, 24, .wo, .unstored, .immediate⟩,
      ⟨25, 25, .ro, .live, .immediate⟩,
      ⟨27, 26, .ro, .val 0x0 [.P, .C, .F], .immediate⟩]
  | .CC_PAIR_STATE => [⟨23, 0, .ro, .val 0x0 [.P, .C, .F], .immediate⟩,
      ⟨39, 24, .ro, .val 0x0 [.P, .C, .F], .immediate⟩,
      ⟨55, 40, .ro, .val 0x0 [.P, .C, .F], .immediate⟩,
      ⟨63, 56, .ro, .val 0x0 [.P, .C, .F], .immediate⟩]
  | .CC_STAT => [⟨15, 0, .rc, .val 0x0 [.P, .C, .F], .immediate⟩,
      ⟨31, 16, .rc, .val 0x0 [.P, .C, .F], .immediate⟩,
      ⟨47, 32, .rc, .val 0x0 [.P, .C, .F], .immediate⟩,
      ⟨63, 48, .rc, .val 0x0 [.P, .C, .F], .immediate⟩]
  | .SHP_CTL => [⟨3, 0, .rw, .val 0x4 [.P, .C, .F], .boundary⟩,
      ⟨31, 16, .rw, .val 0x64 [.P, .C, .F], .immediate⟩]
  | .SHP_SEL => [⟨13, 0, .rw, .val 0x0 [.P, .C, .F], .immediate⟩]
  | .SHP_STATE => [⟨19, 0, .ro, .live, .immediate⟩,
      ⟨43, 20, .ro, .live, .immediate⟩,
      ⟨51, 44, .ro, .live, .immediate⟩,
      ⟨52, 52, .ro, .live, .immediate⟩,
      ⟨53, 53, .ro, .live, .immediate⟩,
      ⟨54, 54, .ro, .live, .immediate⟩]
  | .SHP_TOKENS => [⟨31, 0, .ro, .live, .immediate⟩]
  | .SHP_SAMPLE_SEL => [⟨13, 0, .rw, .val 0x0 [.P, .C, .F], .immediate⟩,
      ⟨15, 15, .rw, .val 0x0 [.P, .C, .F], .immediate⟩]
  | .SHP_SAMPLE => [⟨16, 0, .ro, .val 0x0 [.P, .C, .F], .immediate⟩,
      ⟨21, 17, .ro, .val 0x0 [.P, .C, .F], .immediate⟩,
      ⟨22, 22, .ro, .val 0x0 [.P, .C, .F], .immediate⟩,
      ⟨23, 23, .ro, .val 0x0 [.P, .C, .F], .immediate⟩,
      ⟨24, 24, .ro, .val 0x0 [.P, .C, .F], .immediate⟩,
      ⟨47, 32, .ro, .val 0x0 [.P, .C, .F], .immediate⟩,
      ⟨63, 56, .ro, .val 0x0 [.P, .C, .F], .immediate⟩]
  | .RTR_CTL => [⟨0, 0, .rw, .val 0x1 [.P, .C], .immediate⟩,
      ⟨1, 1, .rw, .val 0x1 [.P, .C], .immediate⟩,
      ⟨2, 2, .rw, .val 0x1 [.P, .C], .immediate⟩,
      ⟨3, 3, .rw, .val 0x0 [.P, .C], .immediate⟩]
  | .RTR_TIMING => [⟨10, 0, .rw, .val 0x271 [.P, .C], .immediate⟩,
      ⟨23, 16, .rw, .val 0x18 [.P, .C], .immediate⟩,
      ⟨41, 32, .rw, .val 0x60 [.P, .C], .immediate⟩,
      ⟨51, 48, .rw, .val 0x1 [.P, .C], .immediate⟩,
      ⟨63, 56, .rw, .val 0x20 [.P, .C], .immediate⟩]
  | .RTR_GEOM => [⟨2, 0, .ro, .image [.P, .C], .static⟩,
      ⟨14, 8, .ro, .image [.P, .C], .static⟩,
      ⟨22, 16, .ro, .image [.P, .C], .static⟩,
      ⟨30, 24, .ro, .image [.P, .C], .static⟩,
      ⟨38, 32, .ro, .image [.P, .C], .static⟩,
      ⟨46, 40, .ro, .image [.P, .C], .static⟩]
  | .RTR_COORD => [⟨5, 0, .ro, .image [.P, .C], .static⟩,
      ⟨13, 8, .ro, .image [.P, .C], .static⟩,
      ⟨21, 16, .ro, .image [.P, .C], .static⟩,
      ⟨29, 24, .ro, .image [.P, .C], .static⟩,
      ⟨37, 32, .ro, .image [.P, .C], .static⟩]
  | .RTR_EPOCH => [⟨0, 0, .rw, .val 0x0 [.P, .C], .boundary⟩,
      ⟨1, 1, .rw, .val 0x1 [.P, .C], .immediate⟩,
      ⟨2, 2, .rw, .val 0x0 [.P, .C], .immediate⟩,
      ⟨3, 3, .wo, .unstored, .immediate⟩,
      ⟨4, 4, .ro, .live, .immediate⟩,
      ⟨10, 8, .ro, .val 0x0 [.P, .C], .immediate⟩,
      ⟨31, 16, .rc, .val 0x0 [.P, .C, .T], .immediate⟩,
      ⟨47, 32, .ro, .live, .immediate⟩]
  | .RTR_TBL_CTL => [⟨17, 0, .rw, .val 0x0 [.P, .C], .immediate⟩,
      ⟨21, 20, .rw, .val 0x0 [.P, .C], .immediate⟩,
      ⟨24, 24, .wo, .unstored, .immediate⟩,
      ⟨25, 25, .wo, .unstored, .immediate⟩,
      ⟨26, 26, .rw, .val 0x0 [.P, .C], .immediate⟩,
      ⟨32, 32, .ro, .live, .immediate⟩,
      ⟨35, 33, .ro, .val 0x0 [.P, .C], .immediate⟩]
  | .RTR_TBL_DATA => [⟨63, 0, .rw, .val 0x0 [.P, .C], .immediate⟩]
  | .RTR_STATUS => [⟨0, 0, .w1c, .val 0x0 [.P, .C, .T], .immediate⟩,
      ⟨1, 1, .w1c, .val 0x0 [.P, .C, .T], .immediate⟩,
      ⟨41, 24, .ro, .val 0x0 [.P, .C, .T], .immediate⟩]
  | .RTR_DISC => [⟨15, 0, .rc, .val 0x0 [.P, .C, .T], .immediate⟩,
      ⟨31, 16, .rc, .val 0x0 [.P, .C, .T], .immediate⟩,
      ⟨47, 32, .rc, .val 0x0 [.P, .C, .T], .immediate⟩,
      ⟨63, 48, .rc, .val 0x0 [.P, .C, .T], .immediate⟩]
  | .RTR_OVR => [⟨0, 0, .rw, .val 0x0 [.P, .C], .immediate⟩,
      ⟨1, 1, .rw, .val 0x0 [.P, .C], .immediate⟩,
      ⟨4, 2, .rw, .val 0x0 [.P, .C], .immediate⟩,
      ⟨13, 8, .rw, .val 0x0 [.P, .C], .immediate⟩,
      ⟨22, 16, .rw, .val 0x0 [.P, .C], .immediate⟩,
      ⟨29, 23, .rw, .val 0x0 [.P, .C], .immediate⟩,
      ⟨36, 30, .rw, .val 0x0 [.P, .C], .immediate⟩,
      ⟨43, 37, .rw, .val 0x0 [.P, .C], .immediate⟩]
  | .CAP_CTL => [⟨0, 0, .rw, .val 0x0 [.P, .C], .immediate⟩,
      ⟨1, 1, .rw, .val 0x0 [.P, .C], .immediate⟩,
      ⟨5, 2, .rw, .val 0x6 [.P, .C], .immediate⟩,
      ⟨6, 6, .rw, .val 0x0 [.P, .C], .immediate⟩,
      ⟨7, 7, .rw, .val 0x0 [.P, .C], .immediate⟩,
      ⟨31, 16, .rw, .val 0xA [.P, .C], .immediate⟩]
  | .CAP_PI => [⟨16, 0, .ro, .val 0x0 [.P, .C], .immediate⟩]
  | .CAP_CI => [⟨16, 0, .rw, .val 0x0 [.P, .C], .immediate⟩]
  | .CAP_STATUS => [⟨15, 0, .rc, .val 0x0 [.P, .C], .immediate⟩,
      ⟨31, 16, .rc, .val 0x0 [.P, .C], .immediate⟩,
      ⟨47, 32, .rc, .val 0x0 [.P, .C], .immediate⟩,
      ⟨48, 48, .w1c, .val 0x0 [.P, .C], .immediate⟩]
  | .CAP_TEL => [⟨17, 0, .rw, .val 0x0 [.P, .C], .immediate⟩]
  | .CAP_FILT_A => [⟨0, 0, .rw, .val 0x0 [.P, .C], .immediate⟩,
      ⟨6, 1, .rw, .val 0x0 [.P, .C], .immediate⟩,
      ⟨7, 7, .rw, .val 0x0 [.P, .C], .immediate⟩,
      ⟨14, 8, .rw, .val 0x7F [.P, .C], .immediate⟩,
      ⟨23, 16, .rw, .val 0x0 [.P, .C], .immediate⟩,
      ⟨31, 24, .rw, .val 0x0 [.P, .C], .immediate⟩,
      ⟨32, 32, .rw, .val 0x0 [.P, .C], .immediate⟩,
      ⟨36, 33, .rw, .val 0x0 [.P, .C], .immediate⟩,
      ⟨37, 37, .rw, .val 0x0 [.P, .C], .immediate⟩]
  | .CAP_FILT_B => [⟨17, 0, .rw, .val 0x0 [.P, .C], .immediate⟩,
      ⟨49, 32, .rw, .val 0x0 [.P, .C], .immediate⟩]
  | .CAP_MEM => [⟨63, 0, .ro, .live, .immediate⟩]
  | .LNK_CTL => [⟨7, 0, .rw, .val 0x40 [.P, .C, .T], .immediate⟩,
      ⟨15, 8, .rw, .val 0x40 [.P, .C, .T], .immediate⟩,
      ⟨16, 16, .wo, .unstored, .immediate⟩]
  | .LNK_STATUS => [⟨2, 0, .ro, .live, .immediate⟩,
      ⟨5, 3, .ro, .live, .immediate⟩,
      ⟨6, 6, .ro, .live, .immediate⟩,
      ⟨11, 8, .ro, .val 0x0 [.P, .C, .T], .immediate⟩,
      ⟨31, 16, .ro, .live, .immediate⟩,
      ⟨47, 32, .ro, .val 0x0 [.P, .C, .T], .immediate⟩,
      ⟨63, 48, .ro, .val 0x0 [.P, .C, .T], .immediate⟩]
  | .LNK_EXPECT => [⟨17, 0, .rw, .image [.P, .C], .immediate⟩,
      ⟨23, 18, .rw, .val 0x0 [.P, .C], .immediate⟩,
      ⟨24, 24, .rw, .derived [.P, .C], .immediate⟩,
      ⟨25, 25, .rw, .val 0x0 [.P, .C], .immediate⟩]
  | .LNK_PEER => [⟨17, 0, .ro, .live, .immediate⟩,
      ⟨23, 18, .ro, .live, .immediate⟩,
      ⟨25, 24, .ro, .live, .immediate⟩,
      ⟨63, 32, .ro, .live, .immediate⟩]
  | .LNK_ERRWIN => [⟨15, 0, .rw, .val 0x40 [.P, .C, .T], .immediate⟩,
      ⟨31, 16, .rw, .val 0x3E8 [.P, .C, .T], .immediate⟩]
  | .LNK_ERR => [⟨15, 0, .rc, .val 0x0 [.P, .C, .T], .immediate⟩,
      ⟨23, 16, .rc, .val 0x0 [.P, .C, .T], .immediate⟩,
      ⟨31, 24, .rc, .val 0x0 [.P, .C, .T], .immediate⟩,
      ⟨39, 32, .rc, .val 0x0 [.P, .C, .T], .immediate⟩,
      ⟨47, 40, .rc, .val 0x0 [.P, .C, .T], .immediate⟩,
      ⟨55, 48, .rc, .val 0x0 [.P, .C, .T], .immediate⟩,
      ⟨63, 56, .rc, .val 0x0 [.P, .C, .T], .immediate⟩]
  | .LNK_TX_SEQ => [⟨11, 0, .ro, .live, .immediate⟩,
      ⟨27, 16, .ro, .live, .immediate⟩,
      ⟨42, 32, .ro, .live, .immediate⟩,
      ⟨60, 48, .ro, .live, .immediate⟩]
  | .LNK_RX_SEQ => [⟨11, 0, .ro, .live, .immediate⟩,
      ⟨25, 16, .ro, .live, .immediate⟩]
  | .LNK_TXCRED => [⟨11, 0, .ro, .live, .immediate⟩,
      ⟨22, 12, .ro, .live, .immediate⟩,
      ⟨43, 32, .ro, .live, .immediate⟩,
      ⟨54, 44, .ro, .live, .immediate⟩]
  | .LAN_CFG => [⟨1, 0, .ro, .image [.P, .C], .static⟩,
      ⟨3, 2, .ro, .image [.P, .C], .static⟩,
      ⟨5, 4, .ro, .image [.P, .C], .static⟩]
  | .LAN_CTL => [⟨1, 0, .rw, .derived [.P, .C, .T], .immediate⟩,
      ⟨3, 2, .rw, .derived [.P, .C, .T], .boundary⟩,
      ⟨5, 4, .rw, .val 0x0 [.P, .C, .T], .boundary⟩,
      ⟨7, 6, .rw, .derived [.P, .C, .T], .immediate⟩,
      ⟨9, 8, .rw, .val 0x0 [.P, .C, .T], .immediate⟩,
      ⟨23, 16, .rw, .val 0x20 [.P, .C, .T], .immediate⟩,
      ⟨32, 32, .wo, .unstored, .immediate⟩]
  | .LAN_STATUS => [⟨3, 0, .ro, .live, .immediate⟩,
      ⟨5, 4, .ro, .live, .immediate⟩,
      ⟨7, 6, .ro, .live, .immediate⟩,
      ⟨9, 8, .ro, .live, .immediate⟩,
      ⟨11, 10, .ro, .live, .immediate⟩,
      ⟨13, 12, .ro, .live, .immediate⟩,
      ⟨14, 14, .ro, .live, .immediate⟩,
      ⟨15, 15, .ro, .live, .immediate⟩,
      ⟨19, 16, .ro, .live, .immediate⟩,
      ⟨20, 20, .ro, .live, .immediate⟩,
      ⟨23, 21, .ro, .live, .immediate⟩,
      ⟨47, 32, .ro, .live, .immediate⟩,
      ⟨63, 48, .ro, .live, .immediate⟩]
  | .LAN_ERR => [⟨15, 0, .rc, .val 0x0 [.P, .C, .T], .immediate⟩,
      ⟨23, 16, .rc, .val 0x0 [.P, .C, .T], .immediate⟩,
      ⟨39, 32, .rc, .val 0x0 [.P, .C, .T], .immediate⟩]
  | .LAN_LANE_ERR_LO => [⟨7, 0, .rc, .val 0x0 [.P, .C, .T], .immediate⟩,
      ⟨15, 8, .rc, .val 0x0 [.P, .C, .T], .immediate⟩,
      ⟨23, 16, .rc, .val 0x0 [.P, .C, .T], .immediate⟩,
      ⟨31, 24, .rc, .val 0x0 [.P, .C, .T], .immediate⟩,
      ⟨39, 32, .rc, .val 0x0 [.P, .C, .T], .immediate⟩,
      ⟨47, 40, .rc, .val 0x0 [.P, .C, .T], .immediate⟩,
      ⟨55, 48, .rc, .val 0x0 [.P, .C, .T], .immediate⟩,
      ⟨63, 56, .rc, .val 0x0 [.P, .C, .T], .immediate⟩]
  | .LAN_LANE_ERR_HI => [⟨7, 0, .rc, .val 0x0 [.P, .C, .T], .immediate⟩,
      ⟨15, 8, .rc, .val 0x0 [.P, .C, .T], .immediate⟩,
      ⟨23, 16, .rc, .val 0x0 [.P, .C, .T], .immediate⟩,
      ⟨31, 24, .rc, .val 0x0 [.P, .C, .T], .immediate⟩,
      ⟨39, 32, .rc, .val 0x0 [.P, .C, .T], .immediate⟩,
      ⟨47, 40, .rc, .val 0x0 [.P, .C, .T], .immediate⟩,
      ⟨55, 48, .rc, .val 0x0 [.P, .C, .T], .immediate⟩,
      ⟨63, 56, .rc, .val 0x0 [.P, .C, .T], .immediate⟩]
  | .LAN_CMP_ERR => [⟨31, 0, .rc, .val 0x0 [.P, .C, .T, .L], .immediate⟩,
      ⟨32, 32, .ro, .live, .immediate⟩,
      ⟨63, 48, .rc, .val 0x0 [.P, .C, .T, .L], .immediate⟩]
  | .DBG_LEVEL => [⟨1, 0, .rw, .val 0x0 [.P, .C], .immediate⟩,
      ⟨15, 8, .wo, .unstored, .immediate⟩,
      ⟨17, 16, .ro, .val 0x0 [.P, .C], .immediate⟩]
  | .DBG_MEM_ADDR => [⟨25, 3, .rw, .val 0x0 [.P, .C], .immediate⟩,
      ⟨0, 0, .rw, .val 0x0 [.P, .C], .immediate⟩]
  | .DBG_MEM_DATA => [⟨63, 0, .rw, .live, .immediate⟩]
  | .DBG_HALT => [⟨0, 0, .rw, .val 0x0 [.P, .C, .T], .immediate⟩,
      ⟨1, 1, .rw, .val 0x0 [.P, .C], .immediate⟩,
      ⟨8, 8, .wo, .unstored, .immediate⟩]

/-- Registers, part 1 of the list. -/
def regList1 : List RegId :=
  [.SYS_ID, .SYS_CHIP, .SYS_STRAP, .SYS_DIE, .SYS_SCRATCH, .CFG_STATUS, .CFG_PROG_CTL, .CFG_PROG_DATA, .CFG_ACTIVATE, .CFG_CAL_UNLOCK, .CFG_WHILE_LIVE, .CFG_SLOT_SERIAL_A, .CFG_SLOT_SERIAL_B, .RST_CMD, .RST_STATUS, .RST_LAST, .RST_COUNT, .RST_WDOG, .PWR_CTL, .PWR_STATUS, .PWR_WAKE_EN, .PWR_WAKE_SRC, .PWR_PFW, .PWR_BIAS, .AON_TEMP, .AON_TEMP_LIM, .AON_SUPPLY, .AON_TIMER, .AON_RSRAM_ADDR, .AON_RSRAM_DATA, .AON_BACKUP, .AON_BIND, .AON_MGR, .TIM_NOW, .TIM_CTL, .TIM_STATUS, .TIM_SET, .FLT_STATUS, .FLT_CTL, .FLT_PROMOTE]

/-- Registers, part 2 of the list. -/
def regList2 : List RegId :=
  [.FLT_FAULTN_EN, .FLT_ALERT_EN, .FLT_FIRST_INFO, .FLT_FIRST_ADDR, .FLT_FIRST_TIME, .FLT_INJECT, .FLT_MUZZLE, .SEM_LOCK, .SEM_PORT_RESTR, .PMC_CTL, .PMC_CYC, .PMC_EVSEL, .PMC_CNT, .PMC_SHD_CYC, .PMC_SHD_CNT, .PMC_SNAP, .PMC_SNAP_TIME, .HIF_CTL, .HIF_STATUS, .HIF_HALT, .HIF_ERR, .WQ_POOL, .WQ_ADM_BASE, .WQ_ADM_CFG, .WQ_ADM_PI, .WQ_ADM_HEAD, .WQ_SEL, .WQ_STATE, .EQ_POOL, .EQ_SEL, .EQ_STATE, .EQ_ASYNC, .EQ_OVF, .EQ_ASYNC_PEND, .EQ_CI, .XLT_CTL, .XLT_STATUS, .XLT_INV_CTL, .XLT_INV_VA, .XLT_INV_PAGES]

/-- Registers, part 3 of the list. -/
def regList3 : List RegId :=
  [.XLT_FREC_ADDR, .XLT_FREC_INFO, .XLT_WPR_BASE, .XLT_WPR_LIMIT, .WIN_CFG, .WIN_TABLE, .WIN_VP, .WIN_PRI, .EPC_KENNEL_CTX, .EPC_KENNEL_PAIR, .EPC_STATUS, .EPC_LOST, .EPC_PAIR_SEL, .EPC_PAIR_RESET, .EPC_ERR, .EPC_PARK, .EPC_PARK_ERR, .MTE_CTL, .MTE_LIMIT, .MTE_RREC, .MTE_UXD, .MTE_KENNEL_UX, .MTE_RNDV, .MTE_STATUS, .MTE_STATUS2, .MTE_ERR, .MTE_PART, .MTE_CHIP, .COL_PART, .COL_STATUS, .COL_GRP_SEL, .COL_GRP_STATE, .COL_GRP_TREE, .COL_ERR, .CC_CTL, .CC_WIN, .CC_DELAY, .CC_PAIR_Q, .CC_PAIR_STATE, .CC_STAT]

/-- Registers, part 4 of the list. -/
def regList4 : List RegId :=
  [.SHP_CTL, .SHP_SEL, .SHP_STATE, .SHP_TOKENS, .SHP_SAMPLE_SEL, .SHP_SAMPLE, .RTR_CTL, .RTR_TIMING, .RTR_GEOM, .RTR_COORD, .RTR_EPOCH, .RTR_TBL_CTL, .RTR_TBL_DATA, .RTR_STATUS, .RTR_DISC, .RTR_OVR, .CAP_CTL, .CAP_PI, .CAP_CI, .CAP_STATUS, .CAP_TEL, .CAP_FILT_A, .CAP_FILT_B, .CAP_MEM, .LNK_CTL, .LNK_STATUS, .LNK_EXPECT, .LNK_PEER, .LNK_ERRWIN, .LNK_ERR, .LNK_TX_SEQ, .LNK_RX_SEQ, .LNK_TXCRED, .LAN_CFG, .LAN_CTL, .LAN_STATUS, .LAN_ERR, .LAN_LANE_ERR_LO, .LAN_LANE_ERR_HI, .LAN_CMP_ERR]

/-- Registers, part 5 of the list. -/
def regList5 : List RegId :=
  [.DBG_LEVEL, .DBG_MEM_ADDR, .DBG_MEM_DATA, .DBG_HALT]

/-- Every register of BAR0, in the order of the register map. -/
def regList : List RegId := regList1 ++ regList2 ++ regList3 ++ regList4 ++ regList5

end Sys2Proof.Machine

namespace Sys2Proof.Machine.F
/-- SYS_ID.PART_NUM [15:0]. -/
def SYS_ID_PART_NUM : RegField := ⟨.SYS_ID, 15, 0⟩
/-- SYS_ID.MFR [26:16]. -/
def SYS_ID_MFR : RegField := ⟨.SYS_ID, 26, 16⟩
/-- SYS_ID.REVISION [35:32]. -/
def SYS_ID_REVISION : RegField := ⟨.SYS_ID, 35, 32⟩
/-- SYS_CHIP.CHIP_ID [17:0]. -/
def SYS_CHIP_CHIP_ID : RegField := ⟨.SYS_CHIP, 17, 0⟩
/-- SYS_CHIP.VALID [32:32]. -/
def SYS_CHIP_VALID : RegField := ⟨.SYS_CHIP, 32, 32⟩
/-- SYS_STRAP.SMB_ADDR [2:0]. -/
def SYS_STRAP_SMB_ADDR : RegField := ⟨.SYS_STRAP, 2, 0⟩
/-- SYS_STRAP.HP1_EN [3:3]. -/
def SYS_STRAP_HP1_EN : RegField := ⟨.SYS_STRAP, 3, 3⟩
/-- SYS_STRAP.BOARD [7:4]. -/
def SYS_STRAP_BOARD : RegField := ⟨.SYS_STRAP, 7, 4⟩
/-- SYS_DIE.DIE_ID [63:0]. -/
def SYS_DIE_DIE_ID : RegField := ⟨.SYS_DIE, 63, 0⟩
/-- SYS_SCRATCH.VALUE [63:0]. -/
def SYS_SCRATCH_VALUE : RegField := ⟨.SYS_SCRATCH, 63, 0⟩
/-- CFG_STATUS.STATE [1:0]. -/
def CFG_STATUS_STATE : RegField := ⟨.CFG_STATUS, 1, 0⟩
/-- CFG_STATUS.SLOT [2:2]. -/
def CFG_STATUS_SLOT : RegField := ⟨.CFG_STATUS, 2, 2⟩
/-- CFG_STATUS.FALLBACK [3:3]. -/
def CFG_STATUS_FALLBACK : RegField := ⟨.CFG_STATUS, 3, 3⟩
/-- CFG_STATUS.TRIAL [4:4]. -/
def CFG_STATUS_TRIAL : RegField := ⟨.CFG_STATUS, 4, 4⟩
/-- CFG_STATUS.CAL_VALID [5:5]. -/
def CFG_STATUS_CAL_VALID : RegField := ⟨.CFG_STATUS, 5, 5⟩
/-- CFG_STATUS.PRESET_SKIPPED [6:6]. -/
def CFG_STATUS_PRESET_SKIPPED : RegField := ⟨.CFG_STATUS, 6, 6⟩
/-- CFG_STATUS.PFW [7:7]. -/
def CFG_STATUS_PFW : RegField := ⟨.CFG_STATUS, 7, 7⟩
/-- CFG_STATUS.FAIL_A [11:8]. -/
def CFG_STATUS_FAIL_A : RegField := ⟨.CFG_STATUS, 11, 8⟩
/-- CFG_STATUS.FAIL_B [15:12]. -/
def CFG_STATUS_FAIL_B : RegField := ⟨.CFG_STATUS, 15, 12⟩
/-- CFG_PROG_CTL.BLOCK [14:0]. -/
def CFG_PROG_CTL_BLOCK : RegField := ⟨.CFG_PROG_CTL, 14, 0⟩
/-- CFG_PROG_CTL.REGION [17:16]. -/
def CFG_PROG_CTL_REGION : RegField := ⟨.CFG_PROG_CTL, 17, 16⟩
/-- CFG_PROG_CTL.AUTO_INC [18:18]. -/
def CFG_PROG_CTL_AUTO_INC : RegField := ⟨.CFG_PROG_CTL, 18, 18⟩
/-- CFG_PROG_CTL.WRITE [24:24]. -/
def CFG_PROG_CTL_WRITE : RegField := ⟨.CFG_PROG_CTL, 24, 24⟩
/-- CFG_PROG_CTL.READ [25:25]. -/
def CFG_PROG_CTL_READ : RegField := ⟨.CFG_PROG_CTL, 25, 25⟩
/-- CFG_PROG_CTL.BUSY [32:32]. -/
def CFG_PROG_CTL_BUSY : RegField := ⟨.CFG_PROG_CTL, 32, 32⟩
/-- CFG_PROG_CTL.ERR [35:33]. -/
def CFG_PROG_CTL_ERR : RegField := ⟨.CFG_PROG_CTL, 35, 33⟩
/-- CFG_PROG_DATA.DATA [63:0]. -/
def CFG_PROG_DATA_DATA : RegField := ⟨.CFG_PROG_DATA, 63, 0⟩
/-- CFG_ACTIVATE.SLOT [0:0]. -/
def CFG_ACTIVATE_SLOT : RegField := ⟨.CFG_ACTIVATE, 0, 0⟩
/-- CFG_ACTIVATE.TRIAL [1:1]. -/
def CFG_ACTIVATE_TRIAL : RegField := ⟨.CFG_ACTIVATE, 1, 1⟩
/-- CFG_ACTIVATE.GO [8:8]. -/
def CFG_ACTIVATE_GO : RegField := ⟨.CFG_ACTIVATE, 8, 8⟩
/-- CFG_ACTIVATE.CONFIRM [9:9]. -/
def CFG_ACTIVATE_CONFIRM : RegField := ⟨.CFG_ACTIVATE, 9, 9⟩
/-- CFG_ACTIVATE.BUSY [16:16]. -/
def CFG_ACTIVATE_BUSY : RegField := ⟨.CFG_ACTIVATE, 16, 16⟩
/-- CFG_ACTIVATE.RESULT [23:20]. -/
def CFG_ACTIVATE_RESULT : RegField := ⟨.CFG_ACTIVATE, 23, 20⟩
/-- CFG_ACTIVATE.ERR [26:24]. -/
def CFG_ACTIVATE_ERR : RegField := ⟨.CFG_ACTIVATE, 26, 24⟩
/-- CFG_CAL_UNLOCK.CODE [15:0]. -/
def CFG_CAL_UNLOCK_CODE : RegField := ⟨.CFG_CAL_UNLOCK, 15, 0⟩
/-- CFG_WHILE_LIVE.FLAG [0:0]. -/
def CFG_WHILE_LIVE_FLAG : RegField := ⟨.CFG_WHILE_LIVE, 0, 0⟩
/-- CFG_WHILE_LIVE.MID [15:8]. -/
def CFG_WHILE_LIVE_MID : RegField := ⟨.CFG_WHILE_LIVE, 15, 8⟩
/-- CFG_WHILE_LIVE.OFFSET [39:16]. -/
def CFG_WHILE_LIVE_OFFSET : RegField := ⟨.CFG_WHILE_LIVE, 39, 16⟩
/-- CFG_WHILE_LIVE.COUNT [55:40]. -/
def CFG_WHILE_LIVE_COUNT : RegField := ⟨.CFG_WHILE_LIVE, 55, 40⟩
/-- CFG_SLOT_SERIAL_A.SERIAL [63:0]. -/
def CFG_SLOT_SERIAL_A_SERIAL : RegField := ⟨.CFG_SLOT_SERIAL_A, 63, 0⟩
/-- CFG_SLOT_SERIAL_B.SERIAL [63:0]. -/
def CFG_SLOT_SERIAL_B_SERIAL : RegField := ⟨.CFG_SLOT_SERIAL_B, 63, 0⟩
/-- RST_CMD.KIND [2:0]. -/
def RST_CMD_KIND : RegField := ⟨.RST_CMD, 2, 0⟩
/-- RST_CMD.TARGET [9:4]. -/
def RST_CMD_TARGET : RegField := ⟨.RST_CMD, 9, 4⟩
/-- RST_CMD.CONFIRM [23:16]. -/
def RST_CMD_CONFIRM : RegField := ⟨.RST_CMD, 23, 16⟩
/-- RST_CMD.ERR [26:24]. -/
def RST_CMD_ERR : RegField := ⟨.RST_CMD, 26, 24⟩
/-- RST_STATUS.PHASE [2:0]. -/
def RST_STATUS_PHASE : RegField := ⟨.RST_STATUS, 2, 0⟩
/-- RST_STATUS.DEFERRED [3:3]. -/
def RST_STATUS_DEFERRED : RegField := ⟨.RST_STATUS, 3, 3⟩
/-- RST_STATUS.CLK_UNSTABLE_REL [13:8]. -/
def RST_STATUS_CLK_UNSTABLE_REL : RegField := ⟨.RST_STATUS, 13, 8⟩
/-- RST_LAST.SOURCE [4:0]. -/
def RST_LAST_SOURCE : RegField := ⟨.RST_LAST, 4, 0⟩
/-- RST_LAST.KIND [7:5]. -/
def RST_LAST_KIND : RegField := ⟨.RST_LAST, 7, 5⟩
/-- RST_LAST.MID [15:8]. -/
def RST_LAST_MID : RegField := ⟨.RST_LAST, 15, 8⟩
/-- RST_LAST.TIME [63:16]. -/
def RST_LAST_TIME : RegField := ⟨.RST_LAST, 63, 16⟩
/-- RST_COUNT.C_COUNT [15:0]. -/
def RST_COUNT_C_COUNT : RegField := ⟨.RST_COUNT, 15, 0⟩
/-- RST_COUNT.T_COUNT [31:16]. -/
def RST_COUNT_T_COUNT : RegField := ⟨.RST_COUNT, 31, 16⟩
/-- RST_COUNT.WDOG_COUNT [47:32]. -/
def RST_COUNT_WDOG_COUNT : RegField := ⟨.RST_COUNT, 47, 32⟩
/-- RST_WDOG.EN [0:0]. -/
def RST_WDOG_EN : RegField := ⟨.RST_WDOG, 0, 0⟩
/-- RST_WDOG.TIMEOUT_MS [31:16]. -/
def RST_WDOG_TIMEOUT_MS : RegField := ⟨.RST_WDOG, 31, 16⟩
/-- RST_WDOG.KICK [32:32]. -/
def RST_WDOG_KICK : RegField := ⟨.RST_WDOG, 32, 32⟩
/-- RST_WDOG.LEFT_MS [63:48]. -/
def RST_WDOG_LEFT_MS : RegField := ⟨.RST_WDOG, 63, 48⟩
/-- PWR_CTL.REQ [1:0]. -/
def PWR_CTL_REQ : RegField := ⟨.PWR_CTL, 1, 0⟩
/-- PWR_CTL.AUTO_DOZE [2:2]. -/
def PWR_CTL_AUTO_DOZE : RegField := ⟨.PWR_CTL, 2, 2⟩
/-- PWR_CTL.DOZE_LANE_IDLE [15:8]. -/
def PWR_CTL_DOZE_LANE_IDLE : RegField := ⟨.PWR_CTL, 15, 8⟩
/-- PWR_CTL.DOZE_IDLE_US [31:16]. -/
def PWR_CTL_DOZE_IDLE_US : RegField := ⟨.PWR_CTL, 31, 16⟩
/-- PWR_STATUS.STATE [1:0]. -/
def PWR_STATUS_STATE : RegField := ⟨.PWR_STATUS, 1, 0⟩
/-- PWR_STATUS.TRANSITION [2:2]. -/
def PWR_STATUS_TRANSITION : RegField := ⟨.PWR_STATUS, 2, 2⟩
/-- PWR_STATUS.ENTRY_ERR [5:3]. -/
def PWR_STATUS_ENTRY_ERR : RegField := ⟨.PWR_STATUS, 5, 3⟩
/-- PWR_STATUS.LOCK_FAIL [6:6]. -/
def PWR_STATUS_LOCK_FAIL : RegField := ⟨.PWR_STATUS, 6, 6⟩
/-- PWR_WAKE_EN.EN [6:0]. -/
def PWR_WAKE_EN_EN : RegField := ⟨.PWR_WAKE_EN, 6, 0⟩
/-- PWR_WAKE_SRC.SOURCE [3:0]. -/
def PWR_WAKE_SRC_SOURCE : RegField := ⟨.PWR_WAKE_SRC, 3, 0⟩
/-- PWR_WAKE_SRC.NO_REF [4:4]. -/
def PWR_WAKE_SRC_NO_REF : RegField := ⟨.PWR_WAKE_SRC, 4, 4⟩
/-- PWR_WAKE_SRC.FROM [6:5]. -/
def PWR_WAKE_SRC_FROM : RegField := ⟨.PWR_WAKE_SRC, 6, 5⟩
/-- PWR_WAKE_SRC.TIME [63:16]. -/
def PWR_WAKE_SRC_TIME : RegField := ⟨.PWR_WAKE_SRC, 63, 16⟩
/-- PWR_PFW.HOLDUP_US [15:0]. -/
def PWR_PFW_HOLDUP_US : RegField := ⟨.PWR_PFW, 15, 0⟩
/-- PWR_PFW.SAVE_US [31:16]. -/
def PWR_PFW_SAVE_US : RegField := ⟨.PWR_PFW, 31, 16⟩
/-- PWR_PFW.SLEEP_ON_PFW [32:32]. -/
def PWR_PFW_SLEEP_ON_PFW : RegField := ⟨.PWR_PFW, 32, 32⟩
/-- PWR_PFW.DURABLE_REFUSE [33:33]. -/
def PWR_PFW_DURABLE_REFUSE : RegField := ⟨.PWR_PFW, 33, 33⟩
/-- PWR_PFW.ACTIVE [34:34]. -/
def PWR_PFW_ACTIVE : RegField := ⟨.PWR_PFW, 34, 34⟩
/-- PWR_BIAS.RBB_STEP [2:0]. -/
def PWR_BIAS_RBB_STEP : RegField := ⟨.PWR_BIAS, 2, 0⟩
/-- PWR_BIAS.DOZE_RBB [3:3]. -/
def PWR_BIAS_DOZE_RBB : RegField := ⟨.PWR_BIAS, 3, 3⟩
/-- PWR_BIAS.ASSIST [6:4]. -/
def PWR_BIAS_ASSIST : RegField := ⟨.PWR_BIAS, 6, 4⟩
/-- AON_TEMP.NOW [11:0]. -/
def AON_TEMP_NOW : RegField := ⟨.AON_TEMP, 11, 0⟩
/-- AON_TEMP.MAX [27:16]. -/
def AON_TEMP_MAX : RegField := ⟨.AON_TEMP, 27, 16⟩
/-- AON_TEMP.MAX_CLR [28:28]. -/
def AON_TEMP_MAX_CLR : RegField := ⟨.AON_TEMP, 28, 28⟩
/-- AON_TEMP_LIM.WARN [11:0]. -/
def AON_TEMP_LIM_WARN : RegField := ⟨.AON_TEMP_LIM, 11, 0⟩
/-- AON_TEMP_LIM.CRIT [27:16]. -/
def AON_TEMP_LIM_CRIT : RegField := ⟨.AON_TEMP_LIM, 27, 16⟩
/-- AON_SUPPLY.CORE_OK [0:0]. -/
def AON_SUPPLY_CORE_OK : RegField := ⟨.AON_SUPPLY, 0, 0⟩
/-- AON_SUPPLY.PWRGD [1:1]. -/
def AON_SUPPLY_PWRGD : RegField := ⟨.AON_SUPPLY, 1, 1⟩
/-- AON_SUPPLY.PFW [2:2]. -/
def AON_SUPPLY_PFW : RegField := ⟨.AON_SUPPLY, 2, 2⟩
/-- AON_SUPPLY.REFCLK_OK [3:3]. -/
def AON_SUPPLY_REFCLK_OK : RegField := ⟨.AON_SUPPLY, 3, 3⟩
/-- AON_TIMER.TICKS [31:0]. -/
def AON_TIMER_TICKS : RegField := ⟨.AON_TIMER, 31, 0⟩
/-- AON_RSRAM_ADDR.AUTO_INC [0:0]. -/
def AON_RSRAM_ADDR_AUTO_INC : RegField := ⟨.AON_RSRAM_ADDR, 0, 0⟩
/-- AON_RSRAM_ADDR.ADDR [17:3]. -/
def AON_RSRAM_ADDR_ADDR : RegField := ⟨.AON_RSRAM_ADDR, 17, 3⟩
/-- AON_RSRAM_DATA.DATA [63:0]. -/
def AON_RSRAM_DATA_DATA : RegField := ⟨.AON_RSRAM_DATA, 63, 0⟩
/-- AON_BACKUP.VALUE [63:0]. -/
def AON_BACKUP_VALUE : RegField := ⟨.AON_BACKUP, 63, 0⟩
/-- AON_BIND.STATE [1:0]. -/
def AON_BIND_STATE : RegField := ⟨.AON_BIND, 1, 0⟩
/-- AON_BIND.ERR [5:4]. -/
def AON_BIND_ERR : RegField := ⟨.AON_BIND, 5, 4⟩
/-- AON_BIND.LAST_MID [15:8]. -/
def AON_BIND_LAST_MID : RegField := ⟨.AON_BIND, 15, 8⟩
/-- AON_MGR.CHIP_ID [17:0]. -/
def AON_MGR_CHIP_ID : RegField := ⟨.AON_MGR, 17, 0⟩
/-- AON_MGR.VALID [18:18]. -/
def AON_MGR_VALID : RegField := ⟨.AON_MGR, 18, 18⟩
/-- TIM_NOW.TIME [63:0]. -/
def TIM_NOW_TIME : RegField := ⟨.TIM_NOW, 63, 0⟩
/-- TIM_CTL.GM [0:0]. -/
def TIM_CTL_GM : RegField := ⟨.TIM_CTL, 0, 0⟩
/-- TIM_CTL.TEX_PERIOD [8:1]. -/
def TIM_CTL_TEX_PERIOD : RegField := ⟨.TIM_CTL, 8, 1⟩
/-- TIM_CTL.MAX_LEVEL [13:9]. -/
def TIM_CTL_MAX_LEVEL : RegField := ⟨.TIM_CTL, 13, 9⟩
/-- TIM_CTL.STEP_NS [31:16]. -/
def TIM_CTL_STEP_NS : RegField := ⟨.TIM_CTL, 31, 16⟩
/-- TIM_STATUS.SYNC [0:0]. -/
def TIM_STATUS_SYNC : RegField := ⟨.TIM_STATUS, 0, 0⟩
/-- TIM_STATUS.LEVEL [5:1]. -/
def TIM_STATUS_LEVEL : RegField := ⟨.TIM_STATUS, 5, 1⟩
/-- TIM_STATUS.PARENT [11:6]. -/
def TIM_STATUS_PARENT : RegField := ⟨.TIM_STATUS, 11, 6⟩
/-- TIM_STATUS.OFFSET [31:16]. -/
def TIM_STATUS_OFFSET : RegField := ⟨.TIM_STATUS, 31, 16⟩
/-- TIM_STATUS.STEPS [47:32]. -/
def TIM_STATUS_STEPS : RegField := ⟨.TIM_STATUS, 47, 32⟩
/-- TIM_SET.TIME [63:0]. -/
def TIM_SET_TIME : RegField := ⟨.TIM_SET, 63, 0⟩
/-- FLT_STATUS.SRC [63:0]. -/
def FLT_STATUS_SRC : RegField := ⟨.FLT_STATUS, 63, 0⟩
/-- FLT_CTL.ESC_RESET [0:0]. -/
def FLT_CTL_ESC_RESET : RegField := ⟨.FLT_CTL, 0, 0⟩
/-- FLT_CTL.REC_CORRECTED [1:1]. -/
def FLT_CTL_REC_CORRECTED : RegField := ⟨.FLT_CTL, 1, 1⟩
/-- FLT_CTL.ESC_DELAY_US [31:16]. -/
def FLT_CTL_ESC_DELAY_US : RegField := ⟨.FLT_CTL, 31, 16⟩
/-- FLT_PROMOTE.PROMOTE [63:0]. -/
def FLT_PROMOTE_PROMOTE : RegField := ⟨.FLT_PROMOTE, 63, 0⟩
/-- FLT_FAULTN_EN.EN [63:0]. -/
def FLT_FAULTN_EN_EN : RegField := ⟨.FLT_FAULTN_EN, 63, 0⟩
/-- FLT_ALERT_EN.EN [63:0]. -/
def FLT_ALERT_EN_EN : RegField := ⟨.FLT_ALERT_EN, 63, 0⟩
/-- FLT_FIRST_INFO.VALID [0:0]. -/
def FLT_FIRST_INFO_VALID : RegField := ⟨.FLT_FIRST_INFO, 0, 0⟩
/-- FLT_FIRST_INFO.MORE [1:1]. -/
def FLT_FIRST_INFO_MORE : RegField := ⟨.FLT_FIRST_INFO, 1, 1⟩
/-- FLT_FIRST_INFO.SOURCE [13:8]. -/
def FLT_FIRST_INFO_SOURCE : RegField := ⟨.FLT_FIRST_INFO, 13, 8⟩
/-- FLT_FIRST_INFO.CLASS [15:14]. -/
def FLT_FIRST_INFO_CLASS : RegField := ⟨.FLT_FIRST_INFO, 15, 14⟩
/-- FLT_FIRST_INFO.MID [23:16]. -/
def FLT_FIRST_INFO_MID : RegField := ⟨.FLT_FIRST_INFO, 23, 16⟩
/-- FLT_FIRST_INFO.ACCESS [26:24]. -/
def FLT_FIRST_INFO_ACCESS : RegField := ⟨.FLT_FIRST_INFO, 26, 24⟩
/-- FLT_FIRST_INFO.TIME_SYNC [27:27]. -/
def FLT_FIRST_INFO_TIME_SYNC : RegField := ⟨.FLT_FIRST_INFO, 27, 27⟩
/-- FLT_FIRST_ADDR.ADDR [63:0]. -/
def FLT_FIRST_ADDR_ADDR : RegField := ⟨.FLT_FIRST_ADDR, 63, 0⟩
/-- FLT_FIRST_TIME.TIME [63:0]. -/
def FLT_FIRST_TIME_TIME : RegField := ⟨.FLT_FIRST_TIME, 63, 0⟩
/-- FLT_INJECT.SOURCE [5:0]. -/
def FLT_INJECT_SOURCE : RegField := ⟨.FLT_INJECT, 5, 0⟩
/-- FLT_INJECT.CONFIRM [23:16]. -/
def FLT_INJECT_CONFIRM : RegField := ⟨.FLT_INJECT, 23, 16⟩
/-- FLT_INJECT.ERR [25:24]. -/
def FLT_INJECT_ERR : RegField := ⟨.FLT_INJECT, 25, 24⟩
/-- FLT_MUZZLE.ACTIVE [0:0]. -/
def FLT_MUZZLE_ACTIVE : RegField := ⟨.FLT_MUZZLE, 0, 0⟩
/-- FLT_MUZZLE.SOURCE [6:1]. -/
def FLT_MUZZLE_SOURCE : RegField := ⟨.FLT_MUZZLE, 6, 1⟩
/-- FLT_MUZZLE.TIME [63:16]. -/
def FLT_MUZZLE_TIME : RegField := ⟨.FLT_MUZZLE, 63, 16⟩
/-- SEM_LOCK.ACQUIRED [0:0]. -/
def SEM_LOCK_ACQUIRED : RegField := ⟨.SEM_LOCK, 0, 0⟩
/-- SEM_LOCK.HELD [1:1]. -/
def SEM_LOCK_HELD : RegField := ⟨.SEM_LOCK, 1, 1⟩
/-- SEM_LOCK.ABANDONED [2:2]. -/
def SEM_LOCK_ABANDONED : RegField := ⟨.SEM_LOCK, 2, 2⟩
/-- SEM_LOCK.WAITER [3:3]. -/
def SEM_LOCK_WAITER : RegField := ⟨.SEM_LOCK, 3, 3⟩
/-- SEM_LOCK.OWNER [15:8]. -/
def SEM_LOCK_OWNER : RegField := ⟨.SEM_LOCK, 15, 8⟩
/-- SEM_LOCK.RELEASE [32:32]. -/
def SEM_LOCK_RELEASE : RegField := ⟨.SEM_LOCK, 32, 32⟩
/-- SEM_LOCK.FORCE [33:33]. -/
def SEM_LOCK_FORCE : RegField := ⟨.SEM_LOCK, 33, 33⟩
/-- SEM_LOCK.CONFIRM [47:40]. -/
def SEM_LOCK_CONFIRM : RegField := ⟨.SEM_LOCK, 47, 40⟩
/-- SEM_PORT_RESTR.RESTR [63:0]. -/
def SEM_PORT_RESTR_RESTR : RegField := ⟨.SEM_PORT_RESTR, 63, 0⟩
/-- PMC_CTL.EN [0:0]. -/
def PMC_CTL_EN : RegField := ⟨.PMC_CTL, 0, 0⟩
/-- PMC_CTL.CLEAR [1:1]. -/
def PMC_CTL_CLEAR : RegField := ⟨.PMC_CTL, 1, 1⟩
/-- PMC_CYC.CYCLES [63:0]. -/
def PMC_CYC_CYCLES : RegField := ⟨.PMC_CYC, 63, 0⟩
/-- PMC_EVSEL.EVENT [7:0]. -/
def PMC_EVSEL_EVENT : RegField := ⟨.PMC_EVSEL, 7, 0⟩
/-- PMC_EVSEL.TC_MASK [15:8]. -/
def PMC_EVSEL_TC_MASK : RegField := ⟨.PMC_EVSEL, 15, 8⟩
/-- PMC_EVSEL.PORT [16:16]. -/
def PMC_EVSEL_PORT : RegField := ⟨.PMC_EVSEL, 16, 16⟩
/-- PMC_EVSEL.REASON [31:24]. -/
def PMC_EVSEL_REASON : RegField := ⟨.PMC_EVSEL, 31, 24⟩
/-- PMC_CNT.COUNT [63:0]. -/
def PMC_CNT_COUNT : RegField := ⟨.PMC_CNT, 63, 0⟩
/-- PMC_SHD_CYC.COUNT [63:0]. -/
def PMC_SHD_CYC_COUNT : RegField := ⟨.PMC_SHD_CYC, 63, 0⟩
/-- PMC_SHD_CNT.COUNT [63:0]. -/
def PMC_SHD_CNT_COUNT : RegField := ⟨.PMC_SHD_CNT, 63, 0⟩
/-- PMC_SNAP.GO [0:0]. -/
def PMC_SNAP_GO : RegField := ⟨.PMC_SNAP, 0, 0⟩
/-- PMC_SNAP.SEQ [31:16]. -/
def PMC_SNAP_SEQ : RegField := ⟨.PMC_SNAP, 31, 16⟩
/-- PMC_SNAP_TIME.TIME [63:0]. -/
def PMC_SNAP_TIME_TIME : RegField := ⟨.PMC_SNAP_TIME, 63, 0⟩
/-- HIF_CTL.CPL_TO [15:0]. -/
def HIF_CTL_CPL_TO : RegField := ⟨.HIF_CTL, 15, 0⟩
/-- HIF_CTL.HALT_VECTOR [26:16]. -/
def HIF_CTL_HALT_VECTOR : RegField := ⟨.HIF_CTL, 26, 16⟩
/-- HIF_CTL.RO_EN [27:27]. -/
def HIF_CTL_RO_EN : RegField := ⟨.HIF_CTL, 27, 27⟩
/-- HIF_STATUS.STATE [1:0]. -/
def HIF_STATUS_STATE : RegField := ⟨.HIF_STATUS, 1, 0⟩
/-- HIF_STATUS.WIDTH [3:2]. -/
def HIF_STATUS_WIDTH : RegField := ⟨.HIF_STATUS, 3, 2⟩
/-- HIF_STATUS.RATE [6:4]. -/
def HIF_STATUS_RATE : RegField := ⟨.HIF_STATUS, 6, 4⟩
/-- HIF_STATUS.FLIT [7:7]. -/
def HIF_STATUS_FLIT : RegField := ⟨.HIF_STATUS, 7, 7⟩
/-- HIF_STATUS.BME [8:8]. -/
def HIF_STATUS_BME : RegField := ⟨.HIF_STATUS, 8, 8⟩
/-- HIF_STATUS.PERST [9:9]. -/
def HIF_STATUS_PERST : RegField := ⟨.HIF_STATUS, 9, 9⟩
/-- HIF_HALT.CAUSE [7:0]. -/
def HIF_HALT_CAUSE : RegField := ⟨.HIF_HALT, 7, 0⟩
/-- HIF_HALT.WQ [21:8]. -/
def HIF_HALT_WQ : RegField := ⟨.HIF_HALT, 21, 8⟩
/-- HIF_HALT.ADMIN [22:22]. -/
def HIF_HALT_ADMIN : RegField := ⟨.HIF_HALT, 22, 22⟩
/-- HIF_HALT.INDEX [39:23]. -/
def HIF_HALT_INDEX : RegField := ⟨.HIF_HALT, 39, 23⟩
/-- HIF_HALT.EQ [40:40]. -/
def HIF_HALT_EQ : RegField := ⟨.HIF_HALT, 40, 40⟩
/-- HIF_ERR.DB_BAD [15:0]. -/
def HIF_ERR_DB_BAD : RegField := ⟨.HIF_ERR, 15, 0⟩
/-- HIF_ERR.DB_NOQ [31:16]. -/
def HIF_ERR_DB_NOQ : RegField := ⟨.HIF_ERR, 31, 16⟩
/-- HIF_ERR.DB_CLOSED [47:32]. -/
def HIF_ERR_DB_CLOSED : RegField := ⟨.HIF_ERR, 47, 32⟩
/-- HIF_ERR.CPL_TO_CNT [63:48]. -/
def HIF_ERR_CPL_TO_CNT : RegField := ⟨.HIF_ERR, 63, 48⟩
/-- WQ_POOL.WQ_COUNT [14:0]. -/
def WQ_POOL_WQ_COUNT : RegField := ⟨.WQ_POOL, 14, 0⟩
/-- WQ_ADM_BASE.BASE [63:12]. -/
def WQ_ADM_BASE_BASE : RegField := ⟨.WQ_ADM_BASE, 63, 12⟩
/-- WQ_ADM_CFG.ENABLE [0:0]. -/
def WQ_ADM_CFG_ENABLE : RegField := ⟨.WQ_ADM_CFG, 0, 0⟩
/-- WQ_ADM_CFG.LOG_SIZE [4:1]. -/
def WQ_ADM_CFG_LOG_SIZE : RegField := ⟨.WQ_ADM_CFG, 4, 1⟩
/-- WQ_ADM_CFG.VECTOR [18:8]. -/
def WQ_ADM_CFG_VECTOR : RegField := ⟨.WQ_ADM_CFG, 18, 8⟩
/-- WQ_ADM_CFG.VEC_EN [19:19]. -/
def WQ_ADM_CFG_VEC_EN : RegField := ⟨.WQ_ADM_CFG, 19, 19⟩
/-- WQ_ADM_PI.PI [16:0]. -/
def WQ_ADM_PI_PI : RegField := ⟨.WQ_ADM_PI, 16, 0⟩
/-- WQ_ADM_HEAD.HEAD [16:0]. -/
def WQ_ADM_HEAD_HEAD : RegField := ⟨.WQ_ADM_HEAD, 16, 0⟩
/-- WQ_ADM_HEAD.NEXT [48:32]. -/
def WQ_ADM_HEAD_NEXT : RegField := ⟨.WQ_ADM_HEAD, 48, 32⟩
/-- WQ_SEL.WQ [13:0]. -/
def WQ_SEL_WQ : RegField := ⟨.WQ_SEL, 13, 0⟩
/-- WQ_STATE.PI [16:0]. -/
def WQ_STATE_PI : RegField := ⟨.WQ_STATE, 16, 0⟩
/-- WQ_STATE.FETCH [33:17]. -/
def WQ_STATE_FETCH : RegField := ⟨.WQ_STATE, 33, 17⟩
/-- WQ_STATE.HEAD [50:34]. -/
def WQ_STATE_HEAD : RegField := ⟨.WQ_STATE, 50, 34⟩
/-- WQ_STATE.STATE [52:51]. -/
def WQ_STATE_STATE : RegField := ⟨.WQ_STATE, 52, 51⟩
/-- WQ_STATE.SIDE [57:53]. -/
def WQ_STATE_SIDE : RegField := ⟨.WQ_STATE, 57, 53⟩
/-- EQ_POOL.EQ_COUNT [12:0]. -/
def EQ_POOL_EQ_COUNT : RegField := ⟨.EQ_POOL, 12, 0⟩
/-- EQ_SEL.EQ [11:0]. -/
def EQ_SEL_EQ : RegField := ⟨.EQ_SEL, 11, 0⟩
/-- EQ_STATE.PI [16:0]. -/
def EQ_STATE_PI : RegField := ⟨.EQ_STATE, 16, 0⟩
/-- EQ_STATE.CI [33:17]. -/
def EQ_STATE_CI : RegField := ⟨.EQ_STATE, 33, 17⟩
/-- EQ_STATE.STASH [40:34]. -/
def EQ_STATE_STASH : RegField := ⟨.EQ_STATE, 40, 34⟩
/-- EQ_STATE.ARMED [41:41]. -/
def EQ_STATE_ARMED : RegField := ⟨.EQ_STATE, 41, 41⟩
/-- EQ_STATE.STATE [43:42]. -/
def EQ_STATE_STATE : RegField := ⟨.EQ_STATE, 43, 42⟩
/-- EQ_ASYNC.EQ [11:0]. -/
def EQ_ASYNC_EQ : RegField := ⟨.EQ_ASYNC, 11, 0⟩
/-- EQ_ASYNC.ENABLE [12:12]. -/
def EQ_ASYNC_ENABLE : RegField := ⟨.EQ_ASYNC, 12, 12⟩
/-- EQ_ASYNC.MASK [31:16]. -/
def EQ_ASYNC_MASK : RegField := ⟨.EQ_ASYNC, 31, 16⟩
/-- EQ_OVF.FLAG [0:0]. -/
def EQ_OVF_FLAG : RegField := ⟨.EQ_OVF, 0, 0⟩
/-- EQ_OVF.EQ [12:1]. -/
def EQ_OVF_EQ : RegField := ⟨.EQ_OVF, 12, 1⟩
/-- EQ_OVF.REFUSED [47:32]. -/
def EQ_OVF_REFUSED : RegField := ⟨.EQ_OVF, 47, 32⟩
/-- EQ_ASYNC_PEND.PEND [15:0]. -/
def EQ_ASYNC_PEND_PEND : RegField := ⟨.EQ_ASYNC_PEND, 15, 0⟩
/-- EQ_CI.CI [16:0]. -/
def EQ_CI_CI : RegField := ⟨.EQ_CI, 16, 0⟩
/-- EQ_CI.ARM [31:31]. -/
def EQ_CI_ARM : RegField := ⟨.EQ_CI, 31, 31⟩
/-- XLT_CTL.PREFETCH [0:0]. -/
def XLT_CTL_PREFETCH : RegField := ⟨.XLT_CTL, 0, 0⟩
/-- XLT_CTL.SPECULATE [1:1]. -/
def XLT_CTL_SPECULATE : RegField := ⟨.XLT_CTL, 1, 1⟩
/-- XLT_CTL.SEED [31:16]. -/
def XLT_CTL_SEED : RegField := ⟨.XLT_CTL, 31, 16⟩
/-- XLT_STATUS.VALID [12:0]. -/
def XLT_STATUS_VALID : RegField := ⟨.XLT_STATUS, 12, 0⟩
/-- XLT_STATUS.WALKS [18:13]. -/
def XLT_STATUS_WALKS : RegField := ⟨.XLT_STATUS, 18, 13⟩
/-- XLT_STATUS.INV_BUSY [19:19]. -/
def XLT_STATUS_INV_BUSY : RegField := ⟨.XLT_STATUS, 19, 19⟩
/-- XLT_INV_CTL.PD [11:0]. -/
def XLT_INV_CTL_PD : RegField := ⟨.XLT_INV_CTL, 11, 0⟩
/-- XLT_INV_CTL.SCOPE [13:12]. -/
def XLT_INV_CTL_SCOPE : RegField := ⟨.XLT_INV_CTL, 13, 12⟩
/-- XLT_INV_CTL.GO [16:16]. -/
def XLT_INV_CTL_GO : RegField := ⟨.XLT_INV_CTL, 16, 16⟩
/-- XLT_INV_CTL.BUSY [17:17]. -/
def XLT_INV_CTL_BUSY : RegField := ⟨.XLT_INV_CTL, 17, 17⟩
/-- XLT_INV_CTL.ERR [19:18]. -/
def XLT_INV_CTL_ERR : RegField := ⟨.XLT_INV_CTL, 19, 18⟩
/-- XLT_INV_VA.VA [47:12]. -/
def XLT_INV_VA_VA : RegField := ⟨.XLT_INV_VA, 47, 12⟩
/-- XLT_INV_PAGES.PAGES [36:0]. -/
def XLT_INV_PAGES_PAGES : RegField := ⟨.XLT_INV_PAGES, 36, 0⟩
/-- XLT_FREC_ADDR.VA [63:0]. -/
def XLT_FREC_ADDR_VA : RegField := ⟨.XLT_FREC_ADDR, 63, 0⟩
/-- XLT_FREC_INFO.FLAG [0:0]. -/
def XLT_FREC_INFO_FLAG : RegField := ⟨.XLT_FREC_INFO, 0, 0⟩
/-- XLT_FREC_INFO.CODE [8:1]. -/
def XLT_FREC_INFO_CODE : RegField := ⟨.XLT_FREC_INFO, 8, 1⟩
/-- XLT_FREC_INFO.PD [20:9]. -/
def XLT_FREC_INFO_PD : RegField := ⟨.XLT_FREC_INFO, 20, 9⟩
/-- XLT_FREC_INFO.REMOTE [21:21]. -/
def XLT_FREC_INFO_REMOTE : RegField := ⟨.XLT_FREC_INFO, 21, 21⟩
/-- XLT_FREC_INFO.NEED [23:22]. -/
def XLT_FREC_INFO_NEED : RegField := ⟨.XLT_FREC_INFO, 23, 22⟩
/-- XLT_FREC_INFO.LEVEL [26:24]. -/
def XLT_FREC_INFO_LEVEL : RegField := ⟨.XLT_FREC_INFO, 26, 24⟩
/-- XLT_FREC_INFO.COUNT [47:32]. -/
def XLT_FREC_INFO_COUNT : RegField := ⟨.XLT_FREC_INFO, 47, 32⟩
/-- XLT_WPR_BASE.EN [0:0]. -/
def XLT_WPR_BASE_EN : RegField := ⟨.XLT_WPR_BASE, 0, 0⟩
/-- XLT_WPR_BASE.BASE [51:12]. -/
def XLT_WPR_BASE_BASE : RegField := ⟨.XLT_WPR_BASE, 51, 12⟩
/-- XLT_WPR_LIMIT.LIMIT [51:12]. -/
def XLT_WPR_LIMIT_LIMIT : RegField := ⟨.XLT_WPR_LIMIT, 51, 12⟩
/-- WIN_CFG.MODE [0:0]. -/
def WIN_CFG_MODE : RegField := ⟨.WIN_CFG, 0, 0⟩
/-- WIN_TABLE.LOG [4:0]. -/
def WIN_TABLE_LOG : RegField := ⟨.WIN_TABLE, 4, 0⟩
/-- WIN_TABLE.BASE [51:12]. -/
def WIN_TABLE_BASE : RegField := ⟨.WIN_TABLE, 51, 12⟩
/-- WIN_VP.BASE [18:0]. -/
def WIN_VP_BASE : RegField := ⟨.WIN_VP, 18, 0⟩
/-- WIN_VP.COUNT [40:24]. -/
def WIN_VP_COUNT : RegField := ⟨.WIN_VP, 40, 24⟩
/-- WIN_PRI.PRI_TO [15:0]. -/
def WIN_PRI_PRI_TO : RegField := ⟨.WIN_PRI, 15, 0⟩
/-- WIN_PRI.FAIL_HOLD [31:16]. -/
def WIN_PRI_FAIL_HOLD : RegField := ⟨.WIN_PRI, 31, 16⟩
/-- EPC_KENNEL_CTX.LOG [4:0]. -/
def EPC_KENNEL_CTX_LOG : RegField := ⟨.EPC_KENNEL_CTX, 4, 0⟩
/-- EPC_KENNEL_CTX.BASE [51:12]. -/
def EPC_KENNEL_CTX_BASE : RegField := ⟨.EPC_KENNEL_CTX, 51, 12⟩
/-- EPC_KENNEL_PAIR.LOG [4:0]. -/
def EPC_KENNEL_PAIR_LOG : RegField := ⟨.EPC_KENNEL_PAIR, 4, 0⟩
/-- EPC_KENNEL_PAIR.BASE [51:12]. -/
def EPC_KENNEL_PAIR_BASE : RegField := ⟨.EPC_KENNEL_PAIR, 51, 12⟩
/-- EPC_STATUS.CTX [15:0]. -/
def EPC_STATUS_CTX : RegField := ⟨.EPC_STATUS, 15, 0⟩
/-- EPC_STATUS.PAIRS [31:16]. -/
def EPC_STATUS_PAIRS : RegField := ⟨.EPC_STATUS, 31, 16⟩
/-- EPC_STATUS.WIN_UNITS [44:32]. -/
def EPC_STATUS_WIN_UNITS : RegField := ⟨.EPC_STATUS, 44, 32⟩
/-- EPC_STATUS.FETCHES [54:48]. -/
def EPC_STATUS_FETCHES : RegField := ⟨.EPC_STATUS, 54, 48⟩
/-- EPC_LOST.FLAG [0:0]. -/
def EPC_LOST_FLAG : RegField := ⟨.EPC_LOST, 0, 0⟩
/-- EPC_PAIR_SEL.LOCAL_EP [23:0]. -/
def EPC_PAIR_SEL_LOCAL_EP : RegField := ⟨.EPC_PAIR_SEL, 23, 0⟩
/-- EPC_PAIR_SEL.PEER_CHIP [41:24]. -/
def EPC_PAIR_SEL_PEER_CHIP : RegField := ⟨.EPC_PAIR_SEL, 41, 24⟩
/-- EPC_PAIR_SEL.SIDE [43:42]. -/
def EPC_PAIR_SEL_SIDE : RegField := ⟨.EPC_PAIR_SEL, 43, 42⟩
/-- EPC_PAIR_RESET.PEER_EP [23:0]. -/
def EPC_PAIR_RESET_PEER_EP : RegField := ⟨.EPC_PAIR_RESET, 23, 0⟩
/-- EPC_PAIR_RESET.GO [24:24]. -/
def EPC_PAIR_RESET_GO : RegField := ⟨.EPC_PAIR_RESET, 24, 24⟩
/-- EPC_PAIR_RESET.BUSY [25:25]. -/
def EPC_PAIR_RESET_BUSY : RegField := ⟨.EPC_PAIR_RESET, 25, 25⟩
/-- EPC_PAIR_RESET.ERR [27:26]. -/
def EPC_PAIR_RESET_ERR : RegField := ⟨.EPC_PAIR_RESET, 27, 26⟩
/-- EPC_ERR.PAIR_FULL [15:0]. -/
def EPC_ERR_PAIR_FULL : RegField := ⟨.EPC_ERR, 15, 0⟩
/-- EPC_ERR.FETCH_FAIL [31:16]. -/
def EPC_ERR_FETCH_FAIL : RegField := ⟨.EPC_ERR, 31, 16⟩
/-- EPC_ERR.PRI_FULL [47:32]. -/
def EPC_ERR_PRI_FULL : RegField := ⟨.EPC_ERR, 47, 32⟩
/-- EPC_PARK.PACKETS [12:0]. -/
def EPC_PARK_PACKETS : RegField := ⟨.EPC_PARK, 12, 0⟩
/-- EPC_PARK.BLOCKS [31:16]. -/
def EPC_PARK_BLOCKS : RegField := ⟨.EPC_PARK, 31, 16⟩
/-- EPC_PARK_ERR.FULL [15:0]. -/
def EPC_PARK_ERR_FULL : RegField := ⟨.EPC_PARK_ERR, 15, 0⟩
/-- MTE_CTL.EAGER_MAX [12:0]. -/
def MTE_CTL_EAGER_MAX : RegField := ⟨.MTE_CTL, 12, 0⟩
/-- MTE_CTL.RNDV_DEPTH [19:16]. -/
def MTE_CTL_RNDV_DEPTH : RegField := ⟨.MTE_CTL, 19, 16⟩
/-- MTE_LIMIT.POST [19:0]. -/
def MTE_LIMIT_POST : RegField := ⟨.MTE_LIMIT, 19, 0⟩
/-- MTE_LIMIT.UNEXP [51:32]. -/
def MTE_LIMIT_UNEXP : RegField := ⟨.MTE_LIMIT, 51, 32⟩
/-- MTE_RREC.LOG [4:0]. -/
def MTE_RREC_LOG : RegField := ⟨.MTE_RREC, 4, 0⟩
/-- MTE_RREC.BASE [51:12]. -/
def MTE_RREC_BASE : RegField := ⟨.MTE_RREC, 51, 12⟩
/-- MTE_UXD.LOG [4:0]. -/
def MTE_UXD_LOG : RegField := ⟨.MTE_UXD, 4, 0⟩
/-- MTE_UXD.BASE [51:12]. -/
def MTE_UXD_BASE : RegField := ⟨.MTE_UXD, 51, 12⟩
/-- MTE_KENNEL_UX.LOG [4:0]. -/
def MTE_KENNEL_UX_LOG : RegField := ⟨.MTE_KENNEL_UX, 4, 0⟩
/-- MTE_KENNEL_UX.BASE [51:12]. -/
def MTE_KENNEL_UX_BASE : RegField := ⟨.MTE_KENNEL_UX, 51, 12⟩
/-- MTE_RNDV.BASE [18:0]. -/
def MTE_RNDV_BASE : RegField := ⟨.MTE_RNDV, 18, 0⟩
/-- MTE_RNDV.COUNT [40:24]. -/
def MTE_RNDV_COUNT : RegField := ⟨.MTE_RNDV, 40, 24⟩
/-- MTE_STATUS.POSTED [19:0]. -/
def MTE_STATUS_POSTED : RegField := ⟨.MTE_STATUS, 19, 0⟩
/-- MTE_STATUS.UNEXP [39:20]. -/
def MTE_STATUS_UNEXP : RegField := ⟨.MTE_STATUS, 39, 20⟩
/-- MTE_STATUS.HELD [59:40]. -/
def MTE_STATUS_HELD : RegField := ⟨.MTE_STATUS, 59, 40⟩
/-- MTE_STATUS2.KENNEL [22:0]. -/
def MTE_STATUS2_KENNEL : RegField := ⟨.MTE_STATUS2, 22, 0⟩
/-- MTE_STATUS2.DATA [41:23]. -/
def MTE_STATUS2_DATA : RegField := ⟨.MTE_STATUS2, 41, 23⟩
/-- MTE_STATUS2.AUTO_GETS [52:42]. -/
def MTE_STATUS2_AUTO_GETS : RegField := ⟨.MTE_STATUS2, 52, 42⟩
/-- MTE_ERR.POST_FULL [15:0]. -/
def MTE_ERR_POST_FULL : RegField := ⟨.MTE_ERR, 15, 0⟩
/-- MTE_ERR.UX_FULL [31:16]. -/
def MTE_ERR_UX_FULL : RegField := ⟨.MTE_ERR, 31, 16⟩
/-- MTE_ERR.HOST_ERR [47:32]. -/
def MTE_ERR_HOST_ERR : RegField := ⟨.MTE_ERR, 47, 32⟩
/-- MTE_ERR.TRUNC [63:48]. -/
def MTE_ERR_TRUNC : RegField := ⟨.MTE_ERR, 63, 48⟩
/-- MTE_PART.POSTED [19:0]. -/
def MTE_PART_POSTED : RegField := ⟨.MTE_PART, 19, 0⟩
/-- MTE_PART.UNEXP [51:32]. -/
def MTE_PART_UNEXP : RegField := ⟨.MTE_PART, 51, 32⟩
/-- MTE_CHIP.POSTED_USED [19:0]. -/
def MTE_CHIP_POSTED_USED : RegField := ⟨.MTE_CHIP, 19, 0⟩
/-- MTE_CHIP.UNEXP_USED [39:20]. -/
def MTE_CHIP_UNEXP_USED : RegField := ⟨.MTE_CHIP, 39, 20⟩
/-- MTE_CHIP.AUTO_GETS [50:40]. -/
def MTE_CHIP_AUTO_GETS : RegField := ⟨.MTE_CHIP, 50, 40⟩
/-- COL_PART.UNITS [15:0]. -/
def COL_PART_UNITS : RegField := ⟨.COL_PART, 15, 0⟩
/-- COL_STATUS.UNITS_USED [15:0]. -/
def COL_STATUS_UNITS_USED : RegField := ⟨.COL_STATUS, 15, 0⟩
/-- COL_STATUS.GROUPS [28:16]. -/
def COL_STATUS_GROUPS : RegField := ⟨.COL_STATUS, 28, 16⟩
/-- COL_GRP_SEL.GROUP [11:0]. -/
def COL_GRP_SEL_GROUP : RegField := ⟨.COL_GRP_SEL, 11, 0⟩
/-- COL_GRP_STATE.STATE [1:0]. -/
def COL_GRP_STATE_STATE : RegField := ⟨.COL_GRP_STATE, 1, 0⟩
/-- COL_GRP_STATE.PORT [2:2]. -/
def COL_GRP_STATE_PORT : RegField := ⟨.COL_GRP_STATE, 2, 2⟩
/-- COL_GRP_STATE.ROOT [3:3]. -/
def COL_GRP_STATE_ROOT : RegField := ⟨.COL_GRP_STATE, 3, 3⟩
/-- COL_GRP_STATE.CHILDREN [10:4]. -/
def COL_GRP_STATE_CHILDREN : RegField := ⟨.COL_GRP_STATE, 10, 4⟩
/-- COL_GRP_STATE.OPS_ACTIVE [15:11]. -/
def COL_GRP_STATE_OPS_ACTIVE : RegField := ⟨.COL_GRP_STATE, 15, 11⟩
/-- COL_GRP_STATE.NEXT_OPSEQ [31:16]. -/
def COL_GRP_STATE_NEXT_OPSEQ : RegField := ⟨.COL_GRP_STATE, 31, 16⟩
/-- COL_GRP_STATE.FAIL_CAUSE [35:32]. -/
def COL_GRP_STATE_FAIL_CAUSE : RegField := ⟨.COL_GRP_STATE, 35, 32⟩
/-- COL_GRP_STATE.UNITS [51:36]. -/
def COL_GRP_STATE_UNITS : RegField := ⟨.COL_GRP_STATE, 51, 36⟩
/-- COL_GRP_TREE.TREE_ID [31:0]. -/
def COL_GRP_TREE_TREE_ID : RegField := ⟨.COL_GRP_TREE, 31, 0⟩
/-- COL_GRP_TREE.PARENT_CHIP [49:32]. -/
def COL_GRP_TREE_PARENT_CHIP : RegField := ⟨.COL_GRP_TREE, 49, 32⟩
/-- COL_GRP_TREE.PARENT_IDX [55:50]. -/
def COL_GRP_TREE_PARENT_IDX : RegField := ⟨.COL_GRP_TREE, 55, 50⟩
/-- COL_ERR.TREE [15:0]. -/
def COL_ERR_TREE : RegField := ⟨.COL_ERR, 15, 0⟩
/-- COL_ERR.EARLY [31:16]. -/
def COL_ERR_EARLY : RegField := ⟨.COL_ERR, 31, 16⟩
/-- COL_ERR.RETX [47:32]. -/
def COL_ERR_RETX : RegField := ⟨.COL_ERR, 47, 32⟩
/-- COL_ERR.ABORTS [63:48]. -/
def COL_ERR_ABORTS : RegField := ⟨.COL_ERR, 63, 48⟩
/-- CC_CTL.EN [0:0]. -/
def CC_CTL_EN : RegField := ⟨.CC_CTL, 0, 0⟩
/-- CC_CTL.TIMEOUT_CUT [1:1]. -/
def CC_CTL_TIMEOUT_CUT : RegField := ⟨.CC_CTL, 1, 1⟩
/-- CC_CTL.REFUSAL_CUT [2:2]. -/
def CC_CTL_REFUSAL_CUT : RegField := ⟨.CC_CTL, 2, 2⟩
/-- CC_CTL.GET_CHARGE [3:3]. -/
def CC_CTL_GET_CHARGE : RegField := ⟨.CC_CTL, 3, 3⟩
/-- CC_WIN.WMAX [23:0]. -/
def CC_WIN_WMAX : RegField := ⟨.CC_WIN, 23, 0⟩
/-- CC_WIN.WINIT [47:24]. -/
def CC_WIN_WINIT : RegField := ⟨.CC_WIN, 47, 24⟩
/-- CC_WIN.WMIN [63:48]. -/
def CC_WIN_WMIN : RegField := ⟨.CC_WIN, 63, 48⟩
/-- CC_DELAY.TARGET_NS [15:0]. -/
def CC_DELAY_TARGET_NS : RegField := ⟨.CC_DELAY, 15, 0⟩
/-- CC_DELAY.BASE_AGE [31:16]. -/
def CC_DELAY_BASE_AGE : RegField := ⟨.CC_DELAY, 31, 16⟩
/-- CC_DELAY.GAIN [39:32]. -/
def CC_DELAY_GAIN : RegField := ⟨.CC_DELAY, 39, 32⟩
/-- CC_DELAY.MD_MAX [47:40]. -/
def CC_DELAY_MD_MAX : RegField := ⟨.CC_DELAY, 47, 40⟩
/-- CC_DELAY.AI [63:48]. -/
def CC_DELAY_AI : RegField := ⟨.CC_DELAY, 63, 48⟩
/-- CC_PAIR_Q.PEER_EP [23:0]. -/
def CC_PAIR_Q_PEER_EP : RegField := ⟨.CC_PAIR_Q, 23, 0⟩
/-- CC_PAIR_Q.GO [24:24]. -/
def CC_PAIR_Q_GO : RegField := ⟨.CC_PAIR_Q, 24, 24⟩
/-- CC_PAIR_Q.BUSY [25:25]. -/
def CC_PAIR_Q_BUSY : RegField := ⟨.CC_PAIR_Q, 25, 25⟩
/-- CC_PAIR_Q.ERR [27:26]. -/
def CC_PAIR_Q_ERR : RegField := ⟨.CC_PAIR_Q, 27, 26⟩
/-- CC_PAIR_STATE.W [23:0]. -/
def CC_PAIR_STATE_W : RegField := ⟨.CC_PAIR_STATE, 23, 0⟩
/-- CC_PAIR_STATE.BASE [39:24]. -/
def CC_PAIR_STATE_BASE : RegField := ⟨.CC_PAIR_STATE, 39, 24⟩
/-- CC_PAIR_STATE.LAST_RTT [55:40]. -/
def CC_PAIR_STATE_LAST_RTT : RegField := ⟨.CC_PAIR_STATE, 55, 40⟩
/-- CC_PAIR_STATE.INFLIGHT_KIB [63:56]. -/
def CC_PAIR_STATE_INFLIGHT_KIB : RegField := ⟨.CC_PAIR_STATE, 63, 56⟩
/-- CC_STAT.DELAY_CUTS [15:0]. -/
def CC_STAT_DELAY_CUTS : RegField := ⟨.CC_STAT, 15, 0⟩
/-- CC_STAT.REFUSAL_CUTS [31:16]. -/
def CC_STAT_REFUSAL_CUTS : RegField := ⟨.CC_STAT, 31, 16⟩
/-- CC_STAT.TIMEOUT_CUTS [47:32]. -/
def CC_STAT_TIMEOUT_CUTS : RegField := ⟨.CC_STAT, 47, 32⟩
/-- CC_STAT.NO_SAMPLE [63:48]. -/
def CC_STAT_NO_SAMPLE : RegField := ⟨.CC_STAT, 63, 48⟩
/-- SHP_CTL.REFILL [3:0]. -/
def SHP_CTL_REFILL : RegField := ⟨.SHP_CTL, 3, 0⟩
/-- SHP_CTL.SAMPLE_US [31:16]. -/
def SHP_CTL_SAMPLE_US : RegField := ⟨.SHP_CTL, 31, 16⟩
/-- SHP_SEL.WQ [13:0]. -/
def SHP_SEL_WQ : RegField := ⟨.SHP_SEL, 13, 0⟩
/-- SHP_STATE.RATE [19:0]. -/
def SHP_STATE_RATE : RegField := ⟨.SHP_STATE, 19, 0⟩
/-- SHP_STATE.BURST [43:20]. -/
def SHP_STATE_BURST : RegField := ⟨.SHP_STATE, 43, 20⟩
/-- SHP_STATE.OVERHEAD [51:44]. -/
def SHP_STATE_OVERHEAD : RegField := ⟨.SHP_STATE, 51, 44⟩
/-- SHP_STATE.CHARGE_GET [52:52]. -/
def SHP_STATE_CHARGE_GET : RegField := ⟨.SHP_STATE, 52, 52⟩
/-- SHP_STATE.SHAPED [53:53]. -/
def SHP_STATE_SHAPED : RegField := ⟨.SHP_STATE, 53, 53⟩
/-- SHP_STATE.PENDING [54:54]. -/
def SHP_STATE_PENDING : RegField := ⟨.SHP_STATE, 54, 54⟩
/-- SHP_TOKENS.TOKENS [31:0]. -/
def SHP_TOKENS_TOKENS : RegField := ⟨.SHP_TOKENS, 31, 0⟩
/-- SHP_SAMPLE_SEL.WQ [13:0]. -/
def SHP_SAMPLE_SEL_WQ : RegField := ⟨.SHP_SAMPLE_SEL, 13, 0⟩
/-- SHP_SAMPLE_SEL.EN [15:15]. -/
def SHP_SAMPLE_SEL_EN : RegField := ⟨.SHP_SAMPLE_SEL, 15, 15⟩
/-- SHP_SAMPLE.DEPTH [16:0]. -/
def SHP_SAMPLE_DEPTH : RegField := ⟨.SHP_SAMPLE, 16, 0⟩
/-- SHP_SAMPLE.SIDE [21:17]. -/
def SHP_SAMPLE_SIDE : RegField := ⟨.SHP_SAMPLE, 21, 17⟩
/-- SHP_SAMPLE.VALID [22:22]. -/
def SHP_SAMPLE_VALID : RegField := ⟨.SHP_SAMPLE, 22, 22⟩
/-- SHP_SAMPLE.LEASH_HELD [23:23]. -/
def SHP_SAMPLE_LEASH_HELD : RegField := ⟨.SHP_SAMPLE, 23, 23⟩
/-- SHP_SAMPLE.CWND_HELD [24:24]. -/
def SHP_SAMPLE_CWND_HELD : RegField := ⟨.SHP_SAMPLE, 24, 24⟩
/-- SHP_SAMPLE.DELAY [47:32]. -/
def SHP_SAMPLE_DELAY : RegField := ⟨.SHP_SAMPLE, 47, 32⟩
/-- SHP_SAMPLE.SEQ [63:56]. -/
def SHP_SAMPLE_SEQ : RegField := ⟨.SHP_SAMPLE, 63, 56⟩
/-- RTR_CTL.DETOUR [0:0]. -/
def RTR_CTL_DETOUR : RegField := ⟨.RTR_CTL, 0, 0⟩
/-- RTR_CTL.LOAD_MODE [1:1]. -/
def RTR_CTL_LOAD_MODE : RegField := ⟨.RTR_CTL, 1, 1⟩
/-- RTR_CTL.CUT_THROUGH [2:2]. -/
def RTR_CTL_CUT_THROUGH : RegField := ⟨.RTR_CTL, 2, 2⟩
/-- RTR_CTL.TIE_LOW [3:3]. -/
def RTR_CTL_TIE_LOW : RegField := ⟨.RTR_CTL, 3, 3⟩
/-- RTR_TIMING.AGE_LIMIT [10:0]. -/
def RTR_TIMING_AGE_LIMIT : RegField := ⟨.RTR_TIMING, 10, 0⟩
/-- RTR_TIMING.DWELL_MAX [23:16]. -/
def RTR_TIMING_DWELL_MAX : RegField := ⟨.RTR_TIMING, 23, 16⟩
/-- RTR_TIMING.EJECT_WAIT [41:32]. -/
def RTR_TIMING_EJECT_WAIT : RegField := ⟨.RTR_TIMING, 41, 32⟩
/-- RTR_TIMING.INJ_SHARE [51:48]. -/
def RTR_TIMING_INJ_SHARE : RegField := ⟨.RTR_TIMING, 51, 48⟩
/-- RTR_TIMING.INJ_WINDOW [63:56]. -/
def RTR_TIMING_INJ_WINDOW : RegField := ⟨.RTR_TIMING, 63, 56⟩
/-- RTR_GEOM.DIMS [2:0]. -/
def RTR_GEOM_DIMS : RegField := ⟨.RTR_GEOM, 2, 0⟩
/-- RTR_GEOM.K0 [14:8]. -/
def RTR_GEOM_K0 : RegField := ⟨.RTR_GEOM, 14, 8⟩
/-- RTR_GEOM.K1 [22:16]. -/
def RTR_GEOM_K1 : RegField := ⟨.RTR_GEOM, 22, 16⟩
/-- RTR_GEOM.K2 [30:24]. -/
def RTR_GEOM_K2 : RegField := ⟨.RTR_GEOM, 30, 24⟩
/-- RTR_GEOM.K3 [38:32]. -/
def RTR_GEOM_K3 : RegField := ⟨.RTR_GEOM, 38, 32⟩
/-- RTR_GEOM.K4 [46:40]. -/
def RTR_GEOM_K4 : RegField := ⟨.RTR_GEOM, 46, 40⟩
/-- RTR_COORD.C0 [5:0]. -/
def RTR_COORD_C0 : RegField := ⟨.RTR_COORD, 5, 0⟩
/-- RTR_COORD.C1 [13:8]. -/
def RTR_COORD_C1 : RegField := ⟨.RTR_COORD, 13, 8⟩
/-- RTR_COORD.C2 [21:16]. -/
def RTR_COORD_C2 : RegField := ⟨.RTR_COORD, 21, 16⟩
/-- RTR_COORD.C3 [29:24]. -/
def RTR_COORD_C3 : RegField := ⟨.RTR_COORD, 29, 24⟩
/-- RTR_COORD.C4 [37:32]. -/
def RTR_COORD_C4 : RegField := ⟨.RTR_COORD, 37, 32⟩
/-- RTR_EPOCH.CURRENT [0:0]. -/
def RTR_EPOCH_CURRENT : RegField := ⟨.RTR_EPOCH, 0, 0⟩
/-- RTR_EPOCH.OPEN_A [1:1]. -/
def RTR_EPOCH_OPEN_A : RegField := ⟨.RTR_EPOCH, 1, 1⟩
/-- RTR_EPOCH.OPEN_B [2:2]. -/
def RTR_EPOCH_OPEN_B : RegField := ⟨.RTR_EPOCH, 2, 2⟩
/-- RTR_EPOCH.COPY [3:3]. -/
def RTR_EPOCH_COPY : RegField := ⟨.RTR_EPOCH, 3, 3⟩
/-- RTR_EPOCH.COPY_BUSY [4:4]. -/
def RTR_EPOCH_COPY_BUSY : RegField := ⟨.RTR_EPOCH, 4, 4⟩
/-- RTR_EPOCH.ERR [10:8]. -/
def RTR_EPOCH_ERR : RegField := ⟨.RTR_EPOCH, 10, 8⟩
/-- RTR_EPOCH.FALLBACK [31:16]. -/
def RTR_EPOCH_FALLBACK : RegField := ⟨.RTR_EPOCH, 31, 16⟩
/-- RTR_EPOCH.OLD_QUIET [47:32]. -/
def RTR_EPOCH_OLD_QUIET : RegField := ⟨.RTR_EPOCH, 47, 32⟩
/-- RTR_TBL_CTL.INDEX [17:0]. -/
def RTR_TBL_CTL_INDEX : RegField := ⟨.RTR_TBL_CTL, 17, 0⟩
/-- RTR_TBL_CTL.TABLE [21:20]. -/
def RTR_TBL_CTL_TABLE : RegField := ⟨.RTR_TBL_CTL, 21, 20⟩
/-- RTR_TBL_CTL.WRITE [24:24]. -/
def RTR_TBL_CTL_WRITE : RegField := ⟨.RTR_TBL_CTL, 24, 24⟩
/-- RTR_TBL_CTL.READ [25:25]. -/
def RTR_TBL_CTL_READ : RegField := ⟨.RTR_TBL_CTL, 25, 25⟩
/-- RTR_TBL_CTL.AUTO_INC [26:26]. -/
def RTR_TBL_CTL_AUTO_INC : RegField := ⟨.RTR_TBL_CTL, 26, 26⟩
/-- RTR_TBL_CTL.BUSY [32:32]. -/
def RTR_TBL_CTL_BUSY : RegField := ⟨.RTR_TBL_CTL, 32, 32⟩
/-- RTR_TBL_CTL.ERR [35:33]. -/
def RTR_TBL_CTL_ERR : RegField := ⟨.RTR_TBL_CTL, 35, 33⟩
/-- RTR_TBL_DATA.ENTRY [63:0]. -/
def RTR_TBL_DATA_ENTRY : RegField := ⟨.RTR_TBL_DATA, 63, 0⟩
/-- RTR_STATUS.INVALID_HIT [0:0]. -/
def RTR_STATUS_INVALID_HIT : RegField := ⟨.RTR_STATUS, 0, 0⟩
/-- RTR_STATUS.INJ_MISS [1:1]. -/
def RTR_STATUS_INJ_MISS : RegField := ⟨.RTR_STATUS, 1, 1⟩
/-- RTR_STATUS.LAST_DST [41:24]. -/
def RTR_STATUS_LAST_DST : RegField := ⟨.RTR_STATUS, 41, 24⟩
/-- RTR_DISC.AGE [15:0]. -/
def RTR_DISC_AGE : RegField := ⟨.RTR_DISC, 15, 0⟩
/-- RTR_DISC.DWELL [31:16]. -/
def RTR_DISC_DWELL : RegField := ⟨.RTR_DISC, 31, 16⟩
/-- RTR_DISC.ROUTE [47:32]. -/
def RTR_DISC_ROUTE : RegField := ⟨.RTR_DISC, 47, 32⟩
/-- RTR_DISC.PREEMPT [63:48]. -/
def RTR_DISC_PREEMPT : RegField := ⟨.RTR_DISC, 63, 48⟩
/-- RTR_OVR.VALID [0:0]. -/
def RTR_OVR_VALID : RegField := ⟨.RTR_OVR, 0, 0⟩
/-- RTR_OVR.FORCE [1:1]. -/
def RTR_OVR_FORCE : RegField := ⟨.RTR_OVR, 1, 1⟩
/-- RTR_OVR.DIM [4:2]. -/
def RTR_OVR_DIM : RegField := ⟨.RTR_OVR, 4, 2⟩
/-- RTR_OVR.POS [13:8]. -/
def RTR_OVR_POS : RegField := ⟨.RTR_OVR, 13, 8⟩
/-- RTR_OVR.ALT0 [22:16]. -/
def RTR_OVR_ALT0 : RegField := ⟨.RTR_OVR, 22, 16⟩
/-- RTR_OVR.ALT1 [29:23]. -/
def RTR_OVR_ALT1 : RegField := ⟨.RTR_OVR, 29, 23⟩
/-- RTR_OVR.ALT2 [36:30]. -/
def RTR_OVR_ALT2 : RegField := ⟨.RTR_OVR, 36, 30⟩
/-- RTR_OVR.ALT3 [43:37]. -/
def RTR_OVR_ALT3 : RegField := ⟨.RTR_OVR, 43, 37⟩
/-- CAP_CTL.EN [0:0]. -/
def CAP_CTL_EN : RegField := ⟨.CAP_CTL, 0, 0⟩
/-- CAP_CTL.MODE [1:1]. -/
def CAP_CTL_MODE : RegField := ⟨.CAP_CTL, 1, 1⟩
/-- CAP_CTL.LOG_SIZE [5:2]. -/
def CAP_CTL_LOG_SIZE : RegField := ⟨.CAP_CTL, 5, 2⟩
/-- CAP_CTL.DEST [6:6]. -/
def CAP_CTL_DEST : RegField := ⟨.CAP_CTL, 6, 6⟩
/-- CAP_CTL.COLLECT [7:7]. -/
def CAP_CTL_COLLECT : RegField := ⟨.CAP_CTL, 7, 7⟩
/-- CAP_CTL.TEL_FLUSH_US [31:16]. -/
def CAP_CTL_TEL_FLUSH_US : RegField := ⟨.CAP_CTL, 31, 16⟩
/-- CAP_PI.PI [16:0]. -/
def CAP_PI_PI : RegField := ⟨.CAP_PI, 16, 0⟩
/-- CAP_CI.CI [16:0]. -/
def CAP_CI_CI : RegField := ⟨.CAP_CI, 16, 0⟩
/-- CAP_STATUS.LOST [15:0]. -/
def CAP_STATUS_LOST : RegField := ⟨.CAP_STATUS, 15, 0⟩
/-- CAP_STATUS.RATE_DROP [31:16]. -/
def CAP_STATUS_RATE_DROP : RegField := ⟨.CAP_STATUS, 31, 16⟩
/-- CAP_STATUS.TEL_DISC [47:32]. -/
def CAP_STATUS_TEL_DISC : RegField := ⟨.CAP_STATUS, 47, 32⟩
/-- CAP_STATUS.LAPPED [48:48]. -/
def CAP_STATUS_LAPPED : RegField := ⟨.CAP_STATUS, 48, 48⟩
/-- CAP_TEL.CHIP [17:0]. -/
def CAP_TEL_CHIP : RegField := ⟨.CAP_TEL, 17, 0⟩
/-- CAP_FILT_A.EN [0:0]. -/
def CAP_FILT_A_EN : RegField := ⟨.CAP_FILT_A, 0, 0⟩
/-- CAP_FILT_A.POINTS [6:1]. -/
def CAP_FILT_A_POINTS : RegField := ⟨.CAP_FILT_A, 6, 1⟩
/-- CAP_FILT_A.NEED_FLAG [7:7]. -/
def CAP_FILT_A_NEED_FLAG : RegField := ⟨.CAP_FILT_A, 7, 7⟩
/-- CAP_FILT_A.PORT [14:8]. -/
def CAP_FILT_A_PORT : RegField := ⟨.CAP_FILT_A, 14, 8⟩
/-- CAP_FILT_A.TC_MASK [23:16]. -/
def CAP_FILT_A_TC_MASK : RegField := ⟨.CAP_FILT_A, 23, 16⟩
/-- CAP_FILT_A.OPCODE [31:24]. -/
def CAP_FILT_A_OPCODE : RegField := ⟨.CAP_FILT_A, 31, 24⟩
/-- CAP_FILT_A.OPCODE_EN [32:32]. -/
def CAP_FILT_A_OPCODE_EN : RegField := ⟨.CAP_FILT_A, 32, 32⟩
/-- CAP_FILT_A.SAMPLE [36:33]. -/
def CAP_FILT_A_SAMPLE : RegField := ⟨.CAP_FILT_A, 36, 33⟩
/-- CAP_FILT_A.CHIP_DST [37:37]. -/
def CAP_FILT_A_CHIP_DST : RegField := ⟨.CAP_FILT_A, 37, 37⟩
/-- CAP_FILT_B.CHIP [17:0]. -/
def CAP_FILT_B_CHIP : RegField := ⟨.CAP_FILT_B, 17, 0⟩
/-- CAP_FILT_B.CHIP_MASK [49:32]. -/
def CAP_FILT_B_CHIP_MASK : RegField := ⟨.CAP_FILT_B, 49, 32⟩
/-- CAP_MEM.DATA [63:0]. -/
def CAP_MEM_DATA : RegField := ⟨.CAP_MEM, 63, 0⟩
/-- LNK_CTL.REPLAY_TO [7:0]. -/
def LNK_CTL_REPLAY_TO : RegField := ⟨.LNK_CTL, 7, 0⟩
/-- LNK_CTL.CR_REFRESH [15:8]. -/
def LNK_CTL_CR_REFRESH : RegField := ⟨.LNK_CTL, 15, 8⟩
/-- LNK_CTL.READMIT [16:16]. -/
def LNK_CTL_READMIT : RegField := ⟨.LNK_CTL, 16, 16⟩
/-- LNK_STATUS.STATE [2:0]. -/
def LNK_STATUS_STATE : RegField := ⟨.LNK_STATUS, 2, 0⟩
/-- LNK_STATUS.REFUSE [5:3]. -/
def LNK_STATUS_REFUSE : RegField := ⟨.LNK_STATUS, 5, 3⟩
/-- LNK_STATUS.ADV_CAPPED [6:6]. -/
def LNK_STATUS_ADV_CAPPED : RegField := ⟨.LNK_STATUS, 6, 6⟩
/-- LNK_STATUS.DOWN_CAUSE [11:8]. -/
def LNK_STATUS_DOWN_CAUSE : RegField := ⟨.LNK_STATUS, 11, 8⟩
/-- LNK_STATUS.WIN_COUNT [31:16]. -/
def LNK_STATUS_WIN_COUNT : RegField := ⟨.LNK_STATUS, 31, 16⟩
/-- LNK_STATUS.DOWN_COUNT [47:32]. -/
def LNK_STATUS_DOWN_COUNT : RegField := ⟨.LNK_STATUS, 47, 32⟩
/-- LNK_STATUS.LOST_ON_DOWN [63:48]. -/
def LNK_STATUS_LOST_ON_DOWN : RegField := ⟨.LNK_STATUS, 63, 48⟩
/-- LNK_EXPECT.CHIP_ID [17:0]. -/
def LNK_EXPECT_CHIP_ID : RegField := ⟨.LNK_EXPECT, 17, 0⟩
/-- LNK_EXPECT.PORT [23:18]. -/
def LNK_EXPECT_PORT : RegField := ⟨.LNK_EXPECT, 23, 18⟩
/-- LNK_EXPECT.CHECK_CHIP [24:24]. -/
def LNK_EXPECT_CHECK_CHIP : RegField := ⟨.LNK_EXPECT, 24, 24⟩
/-- LNK_EXPECT.CHECK_PORT [25:25]. -/
def LNK_EXPECT_CHECK_PORT : RegField := ⟨.LNK_EXPECT, 25, 25⟩
/-- LNK_PEER.CHIP_ID [17:0]. -/
def LNK_PEER_CHIP_ID : RegField := ⟨.LNK_PEER, 17, 0⟩
/-- LNK_PEER.PORT [23:18]. -/
def LNK_PEER_PORT : RegField := ⟨.LNK_PEER, 23, 18⟩
/-- LNK_PEER.BINDING [25:24]. -/
def LNK_PEER_BINDING : RegField := ⟨.LNK_PEER, 25, 24⟩
/-- LNK_PEER.PART [63:32]. -/
def LNK_PEER_PART : RegField := ⟨.LNK_PEER, 63, 32⟩
/-- LNK_ERRWIN.LIMIT [15:0]. -/
def LNK_ERRWIN_LIMIT : RegField := ⟨.LNK_ERRWIN, 15, 0⟩
/-- LNK_ERRWIN.WINDOW [31:16]. -/
def LNK_ERRWIN_WINDOW : RegField := ⟨.LNK_ERRWIN, 31, 16⟩
/-- LNK_ERR.FCRC_ERR [15:0]. -/
def LNK_ERR_FCRC_ERR : RegField := ⟨.LNK_ERR, 15, 0⟩
/-- LNK_ERR.HCRC_ERR [23:16]. -/
def LNK_ERR_HCRC_ERR : RegField := ⟨.LNK_ERR, 23, 16⟩
/-- LNK_ERR.SEQ_ERR [31:24]. -/
def LNK_ERR_SEQ_ERR : RegField := ⟨.LNK_ERR, 31, 24⟩
/-- LNK_ERR.CR_ERR [39:32]. -/
def LNK_ERR_CR_ERR : RegField := ⟨.LNK_ERR, 39, 32⟩
/-- LNK_ERR.TIMEOUTS [47:40]. -/
def LNK_ERR_TIMEOUTS : RegField := ⟨.LNK_ERR, 47, 40⟩
/-- LNK_ERR.DUP [55:48]. -/
def LNK_ERR_DUP : RegField := ⟨.LNK_ERR, 55, 48⟩
/-- LNK_ERR.ABT_RX [63:56]. -/
def LNK_ERR_ABT_RX : RegField := ⟨.LNK_ERR, 63, 56⟩
/-- LNK_TX_SEQ.TX_NEXT [11:0]. -/
def LNK_TX_SEQ_TX_NEXT : RegField := ⟨.LNK_TX_SEQ, 11, 0⟩
/-- LNK_TX_SEQ.TX_ACKED [27:16]. -/
def LNK_TX_SEQ_TX_ACKED : RegField := ⟨.LNK_TX_SEQ, 27, 16⟩
/-- LNK_TX_SEQ.OUTSTANDING [42:32]. -/
def LNK_TX_SEQ_OUTSTANDING : RegField := ⟨.LNK_TX_SEQ, 42, 32⟩
/-- LNK_TX_SEQ.REPLAY_USED [60:48]. -/
def LNK_TX_SEQ_REPLAY_USED : RegField := ⟨.LNK_TX_SEQ, 60, 48⟩
/-- LNK_RX_SEQ.RX_NEXT [11:0]. -/
def LNK_RX_SEQ_RX_NEXT : RegField := ⟨.LNK_RX_SEQ, 11, 0⟩
/-- LNK_RX_SEQ.HELD [25:16]. -/
def LNK_RX_SEQ_HELD : RegField := ⟨.LNK_RX_SEQ, 25, 16⟩
/-- LNK_TXCRED.HDR_AVAIL [11:0]. -/
def LNK_TXCRED_HDR_AVAIL : RegField := ⟨.LNK_TXCRED, 11, 0⟩
/-- LNK_TXCRED.DATA_AVAIL [22:12]. -/
def LNK_TXCRED_DATA_AVAIL : RegField := ⟨.LNK_TXCRED, 22, 12⟩
/-- LNK_TXCRED.HDR_ADV [43:32]. -/
def LNK_TXCRED_HDR_ADV : RegField := ⟨.LNK_TXCRED, 43, 32⟩
/-- LNK_TXCRED.DATA_ADV [54:44]. -/
def LNK_TXCRED_DATA_ADV : RegField := ⟨.LNK_TXCRED, 54, 44⟩
/-- LAN_CFG.ROLE [1:0]. -/
def LAN_CFG_ROLE : RegField := ⟨.LAN_CFG, 1, 0⟩
/-- LAN_CFG.RATE_MAX [3:2]. -/
def LAN_CFG_RATE_MAX : RegField := ⟨.LAN_CFG, 3, 2⟩
/-- LAN_CFG.WIDTH_INIT [5:4]. -/
def LAN_CFG_WIDTH_INIT : RegField := ⟨.LAN_CFG, 5, 4⟩
/-- LAN_CTL.RATE [1:0]. -/
def LAN_CTL_RATE : RegField := ⟨.LAN_CTL, 1, 0⟩
/-- LAN_CTL.WIDTH [3:2]. -/
def LAN_CTL_WIDTH : RegField := ⟨.LAN_CTL, 3, 2⟩
/-- LAN_CTL.GROUP [5:4]. -/
def LAN_CTL_GROUP : RegField := ⟨.LAN_CTL, 5, 4⟩
/-- LAN_CTL.MODE [7:6]. -/
def LAN_CTL_MODE : RegField := ⟨.LAN_CTL, 7, 6⟩
/-- LAN_CTL.PATTERN [9:8]. -/
def LAN_CTL_PATTERN : RegField := ⟨.LAN_CTL, 9, 8⟩
/-- LAN_CTL.SLEEP_IDLE [23:16]. -/
def LAN_CTL_SLEEP_IDLE : RegField := ⟨.LAN_CTL, 23, 16⟩
/-- LAN_CTL.RETRAIN [32:32]. -/
def LAN_CTL_RETRAIN : RegField := ⟨.LAN_CTL, 32, 32⟩
/-- LAN_STATUS.STATE [3:0]. -/
def LAN_STATUS_STATE : RegField := ⟨.LAN_STATUS, 3, 0⟩
/-- LAN_STATUS.RATE_ACT [5:4]. -/
def LAN_STATUS_RATE_ACT : RegField := ⟨.LAN_STATUS, 5, 4⟩
/-- LAN_STATUS.TX_WIDTH [7:6]. -/
def LAN_STATUS_TX_WIDTH : RegField := ⟨.LAN_STATUS, 7, 6⟩
/-- LAN_STATUS.TX_GROUP [9:8]. -/
def LAN_STATUS_TX_GROUP : RegField := ⟨.LAN_STATUS, 9, 8⟩
/-- LAN_STATUS.RX_WIDTH [11:10]. -/
def LAN_STATUS_RX_WIDTH : RegField := ⟨.LAN_STATUS, 11, 10⟩
/-- LAN_STATUS.RX_GROUP [13:12]. -/
def LAN_STATUS_RX_GROUP : RegField := ⟨.LAN_STATUS, 13, 12⟩
/-- LAN_STATUS.TX_ASLEEP [14:14]. -/
def LAN_STATUS_TX_ASLEEP : RegField := ⟨.LAN_STATUS, 14, 14⟩
/-- LAN_STATUS.RX_ASLEEP [15:15]. -/
def LAN_STATUS_RX_ASLEEP : RegField := ⟨.LAN_STATUS, 15, 15⟩
/-- LAN_STATUS.FAIL [19:16]. -/
def LAN_STATUS_FAIL : RegField := ⟨.LAN_STATUS, 19, 16⟩
/-- LAN_STATUS.WIDTH_REFUSED [20:20]. -/
def LAN_STATUS_WIDTH_REFUSED : RegField := ⟨.LAN_STATUS, 20, 20⟩
/-- LAN_STATUS.LEAVE_REASON [23:21]. -/
def LAN_STATUS_LEAVE_REASON : RegField := ⟨.LAN_STATUS, 23, 21⟩
/-- LAN_STATUS.RX_MASK [47:32]. -/
def LAN_STATUS_RX_MASK : RegField := ⟨.LAN_STATUS, 47, 32⟩
/-- LAN_STATUS.PARTNER_MASK [63:48]. -/
def LAN_STATUS_PARTNER_MASK : RegField := ⟨.LAN_STATUS, 63, 48⟩
/-- LAN_ERR.CODE_ERR [15:0]. -/
def LAN_ERR_CODE_ERR : RegField := ⟨.LAN_ERR, 15, 0⟩
/-- LAN_ERR.WAKE_FAIL [23:16]. -/
def LAN_ERR_WAKE_FAIL : RegField := ⟨.LAN_ERR, 23, 16⟩
/-- LAN_ERR.TRAIN_FAIL [39:32]. -/
def LAN_ERR_TRAIN_FAIL : RegField := ⟨.LAN_ERR, 39, 32⟩
/-- LAN_LANE_ERR_LO.LANE0 [7:0]. -/
def LAN_LANE_ERR_LO_LANE0 : RegField := ⟨.LAN_LANE_ERR_LO, 7, 0⟩
/-- LAN_LANE_ERR_LO.LANE1 [15:8]. -/
def LAN_LANE_ERR_LO_LANE1 : RegField := ⟨.LAN_LANE_ERR_LO, 15, 8⟩
/-- LAN_LANE_ERR_LO.LANE2 [23:16]. -/
def LAN_LANE_ERR_LO_LANE2 : RegField := ⟨.LAN_LANE_ERR_LO, 23, 16⟩
/-- LAN_LANE_ERR_LO.LANE3 [31:24]. -/
def LAN_LANE_ERR_LO_LANE3 : RegField := ⟨.LAN_LANE_ERR_LO, 31, 24⟩
/-- LAN_LANE_ERR_LO.LANE4 [39:32]. -/
def LAN_LANE_ERR_LO_LANE4 : RegField := ⟨.LAN_LANE_ERR_LO, 39, 32⟩
/-- LAN_LANE_ERR_LO.LANE5 [47:40]. -/
def LAN_LANE_ERR_LO_LANE5 : RegField := ⟨.LAN_LANE_ERR_LO, 47, 40⟩
/-- LAN_LANE_ERR_LO.LANE6 [55:48]. -/
def LAN_LANE_ERR_LO_LANE6 : RegField := ⟨.LAN_LANE_ERR_LO, 55, 48⟩
/-- LAN_LANE_ERR_LO.LANE7 [63:56]. -/
def LAN_LANE_ERR_LO_LANE7 : RegField := ⟨.LAN_LANE_ERR_LO, 63, 56⟩
/-- LAN_LANE_ERR_HI.LANE0 [7:0]. -/
def LAN_LANE_ERR_HI_LANE0 : RegField := ⟨.LAN_LANE_ERR_HI, 7, 0⟩
/-- LAN_LANE_ERR_HI.LANE1 [15:8]. -/
def LAN_LANE_ERR_HI_LANE1 : RegField := ⟨.LAN_LANE_ERR_HI, 15, 8⟩
/-- LAN_LANE_ERR_HI.LANE2 [23:16]. -/
def LAN_LANE_ERR_HI_LANE2 : RegField := ⟨.LAN_LANE_ERR_HI, 23, 16⟩
/-- LAN_LANE_ERR_HI.LANE3 [31:24]. -/
def LAN_LANE_ERR_HI_LANE3 : RegField := ⟨.LAN_LANE_ERR_HI, 31, 24⟩
/-- LAN_LANE_ERR_HI.LANE4 [39:32]. -/
def LAN_LANE_ERR_HI_LANE4 : RegField := ⟨.LAN_LANE_ERR_HI, 39, 32⟩
/-- LAN_LANE_ERR_HI.LANE5 [47:40]. -/
def LAN_LANE_ERR_HI_LANE5 : RegField := ⟨.LAN_LANE_ERR_HI, 47, 40⟩
/-- LAN_LANE_ERR_HI.LANE6 [55:48]. -/
def LAN_LANE_ERR_HI_LANE6 : RegField := ⟨.LAN_LANE_ERR_HI, 55, 48⟩
/-- LAN_LANE_ERR_HI.LANE7 [63:56]. -/
def LAN_LANE_ERR_HI_LANE7 : RegField := ⟨.LAN_LANE_ERR_HI, 63, 56⟩
/-- LAN_CMP_ERR.ERRORS [31:0]. -/
def LAN_CMP_ERR_ERRORS : RegField := ⟨.LAN_CMP_ERR, 31, 0⟩
/-- LAN_CMP_ERR.SYNC [32:32]. -/
def LAN_CMP_ERR_SYNC : RegField := ⟨.LAN_CMP_ERR, 32, 32⟩
/-- LAN_CMP_ERR.ERR_MASK [63:48]. -/
def LAN_CMP_ERR_ERR_MASK : RegField := ⟨.LAN_CMP_ERR, 63, 48⟩
/-- DBG_LEVEL.LEVEL [1:0]. -/
def DBG_LEVEL_LEVEL : RegField := ⟨.DBG_LEVEL, 1, 0⟩
/-- DBG_LEVEL.CONFIRM [15:8]. -/
def DBG_LEVEL_CONFIRM : RegField := ⟨.DBG_LEVEL, 15, 8⟩
/-- DBG_LEVEL.ERR [17:16]. -/
def DBG_LEVEL_ERR : RegField := ⟨.DBG_LEVEL, 17, 16⟩
/-- DBG_MEM_ADDR.ADDR [25:3]. -/
def DBG_MEM_ADDR_ADDR : RegField := ⟨.DBG_MEM_ADDR, 25, 3⟩
/-- DBG_MEM_ADDR.AUTO_INC [0:0]. -/
def DBG_MEM_ADDR_AUTO_INC : RegField := ⟨.DBG_MEM_ADDR, 0, 0⟩
/-- DBG_MEM_DATA.DATA [63:0]. -/
def DBG_MEM_DATA_DATA : RegField := ⟨.DBG_MEM_DATA, 63, 0⟩
/-- DBG_HALT.RTR [0:0]. -/
def DBG_HALT_RTR : RegField := ⟨.DBG_HALT, 0, 0⟩
/-- DBG_HALT.NIC [1:1]. -/
def DBG_HALT_NIC : RegField := ⟨.DBG_HALT, 1, 1⟩
/-- DBG_HALT.STEP [8:8]. -/
def DBG_HALT_STEP : RegField := ⟨.DBG_HALT, 8, 8⟩

end Sys2Proof.Machine.F
end

