-- ==== Sys2Proof/Config.lean ====
section
/-! DEFINITION. What the spec leaves open: values no rule fixes, as opaque constants. Nothing in Lean can
evaluate one, so a claim about a state that holds one holds whatever the value is. -/

namespace Sys2Proof.Config

/-- The `n`-th free value of a run (DESIGN CHOICE, log entry 1): where the spec calls a result undefined, or states an effect but
not its value, the step takes the value at the state's own counter and advances the counter. -/
opaque free64 : Nat → BitVec 64

/-- What a byte of a memory reads as that the spec calls undefined since the memory's era `era` began (DESIGN CHOICE, log entry 6):
the retained SRAM after a P reset (R3). -/
opaque undefByte : Nat → Nat → BitVec 8

/-- The bytes of a pair record's key over which its CRC-32 is taken (R211): the spec names the key's parts, not their layout
(DESIGN CHOICE, log entry 26). -/
opaque pairKeyBytes : Nat → List (BitVec 8)

/-- Whether the 64 KiB of the calibration region carry their own CRC-32 (R44): the spec gives neither the place of the CRC nor the
bytes it covers (DESIGN CHOICE, log entry 13). -/
opaque calCheck : List (BitVec 8) → Bool

/-- What a receiver takes for a frame byte where the code group it received is no data character (R52): the spec gives no byte
(DESIGN CHOICE, log entry 77). -/
opaque badByte : BitVec 8

/-- Whether an odd number of IDL sets filled a transmit direction's time before the `n`-th thing the block sends, so that every lane's
disparity has turned (R52): sub-cycle timing is not modelled (DESIGN CHOICE, log entry 77). -/
opaque idleOdd : Nat → Bool

/-- The 31 bits a lane's PRBS-31 generator starts from (R66): the spec gives none (DESIGN CHOICE, log entry 77). -/
opaque prbsStart : Nat → Nat → BitVec 31

/-- Segments of a receive that the first 64 bytes of its record hold, if more than one (R231): the spec does not document the record
(DESIGN CHOICE, log entry 83). -/
opaque recordSegs : Nat

end Sys2Proof.Config
end

