-- ==== Sys2Proof/Machine/Table.lean ====
section
/-! DEFINITION. Sparse tables with strictly rising keys, and the byte memories in their one canonical form. -/

namespace Sys2Proof.Machine

/-- The entry at key `k`. -/
def tblGet {α : Type} (k : Nat) : Tbl α → Option α
  | [] => none
  | e :: t => if e.1 = k then some e.2 else tblGet k t

/-- Sets the entry at key `k`, keeping the keys rising. -/
def tblSet {α : Type} (k : Nat) (v : α) : Tbl α → Tbl α
  | [] => [(k, v)]
  | e :: t => if e.1 < k then e :: tblSet k v t else if e.1 = k then (k, v) :: t else (k, v) :: e :: t

/-- Removes the entry at key `k`. -/
def tblDel {α : Type} (k : Nat) (t : Tbl α) : Tbl α := t.filter (fun e => e.1 != k)

/-- Applies `f` to the entry at key `k`, if there is one. -/
def tblMod {α : Type} (k : Nat) (f : α → α) (t : Tbl α) : Tbl α :=
  t.map (fun e => if e.1 = k then (e.1, f e.2) else e)

/-- The keys rise strictly from `lo`. -/
def tblRising {α : Type} : Nat → Tbl α → Bool
  | _, [] => true
  | lo, e :: t => decide (lo ≤ e.1) && tblRising (e.1 + 1) t

/-- A byte memory: an era, which fixes what an unlisted byte reads as, and the listed bytes, keys strictly rising and
no entry equal to what an unlisted address reads as. -/
structure Ram where
  era   : Nat
  cells : List Host.Cell
deriving DecidableEq, Repr, Inhabited

/-- What an unlisted byte reads as: 0 in era 0 (arrays cleared, or blank as delivered); in a later era the bytes are
undefined (R3; DESIGN CHOICE, log entry 6). -/
def ramBase (era a : Nat) : Byte := if era = 0 then 0#8 else Config.undefByte era a

/-- One byte of a memory. -/
def ramByte (m : Ram) (a : Nat) : Byte := (tblGet a m.cells).getD (ramBase m.era a)

/-- Writes one byte, keeping the canonical form. -/
def ramPut (m : Ram) (a : Nat) (b : Byte) : Ram :=
  if b = ramBase m.era a then { m with cells := tblDel a m.cells } else { m with cells := tblSet a b m.cells }

/-- A memory in its canonical form. -/
abbrev Memory := Ram

/-- The canonical form of a memory of `size` bytes. -/
def Memory.wf (size : Nat) (m : Memory) : Bool :=
  tblRising 0 m.cells && m.cells.all (fun c => decide (c.1 < size) && decide (c.2 ≠ ramBase m.era c.1))

/-- `n` bytes from address `a` up. -/
def ramRead (m : Ram) (a : Nat) : Nat → Bytes
  | 0 => []
  | n + 1 => ramByte m a :: ramRead m (a + 1) n

/-- Writes a byte string from address `a` up. -/
def ramWrite (m : Ram) (a : Nat) : Bytes → Ram
  | [] => m
  | b :: bs => ramWrite (ramPut m a b) (a + 1) bs

/-- Element `i` of a vector changed by `f`. -/
def vecMod {α : Type} {n : Nat} (v : Vector α n) (i : Fin n) (f : α → α) : Vector α n := v.set i (f v[i])

end Sys2Proof.Machine
end

