-- ==== Sys2Proof/Machine/State.lean ====
section
/-! DEFINITION. The state of the DX64: everything the spec gives the block, as plain data. Register fields that hold a
value stand in one register file keyed by BAR0 address (`State.regs`; an address not listed holds its reset value); what
the spec describes as machine state (links, queues, records, buffers, pins) stands in the structures below, and Live
register fields (R7) are computed from them. The file ends with the reset state. -/

namespace Sys2Proof.Machine

/-! ## Why a command may stop -/

/-- A fault stops the run. No command of the table stops this way on a state the model can reach: every event that the
spec calls an error is an effect on the state. -/
inductive Fault
  /-- Raised by no command of this model; the constructor keeps the type closed and inhabited. Safe. -/
  | none
deriving DecidableEq, Repr

/-- A refusal: the command has no meaning in the model. -/
inductive Refusal
  /-- Raised by the arm of a command that has no meaning yet, under the command's name. Safe. -/
  | notModelled (mnemonic : String)
deriving DecidableEq, Repr

/-! ## CFG: the configuration store and the image load (R27 to R46) -/

/-- CFG_STATUS.STATE (R38). -/
inductive LoadState | notLoading | loading | loaded | noImage
deriving DecidableEq, Repr, Inhabited

/-- Trial state of the slot control record (R28). -/
inductive TrialState | confirmed | pending | loaded
deriving DecidableEq, Repr

/-- One copy of the slot control record (R28); slot `false` is A. -/
structure CtlRecord where
  slot  : Bool
  trial : TrialState
  seq   : BitVec 32
  /-- The CRC-32 the copy carries; where it does not match, the copy is not valid. -/
  crc   : BitVec 32
deriving DecidableEq, Repr

/-- How far a load has come (R35): no load; the header of a slot is awaited; the slot is streaming; it passed every
check and its structure waits in the shadow for the commit. -/
inductive LoadStage
  | idle
  | header (slot : Bool)
  | streaming (slot : Bool)
  | passed (slot : Bool) (img : ImageDesc)
deriving DecidableEq, Repr, Inhabited

/-- A store command in progress (R39): the address of its 64-byte block, for a WRITE the data, and AUTO_INC as it stood
when the command was written (R8). -/
inductive ProgOp
  | write (addr : Nat) (data : Bytes) (inc : Bool)
  | read (addr : Nat) (inc : Bool)
deriving DecidableEq, Repr

/-- The CFG block's own state. -/
structure CfgState where
  /-- The 4 MiB configuration store (R27), but for the control region's records. -/
  store    : Ram
  /-- The two copies of the slot control record; `none` is a copy that has never been written (R28). -/
  recA     : Option CtlRecord
  recB     : Option CtlRecord
  /-- The pulse of a record copy in progress (R28, R43): whether it writes copy B, and whether an activation or a confirmation
  makes it (R41, R42) and not a load. -/
  recPulse : Option (Bool × Bool)
  state    : LoadState
  stage    : LoadStage
  /-- The other slot has been tried in this load (R36). -/
  fellBack : Bool
  slot     : Bool
  fallback : Bool
  trial    : Bool
  /-- The load under way is of a slot on trial; TRIAL shows it once the slot is loaded (R38, R42). -/
  trialLoad : Bool
  calValid : Bool
  presetSkipped : Bool
  /-- Reason codes of the last check of each slot (R38); 0xF not checked. -/
  failA    : Nat
  failB    : Nat
  serialA  : Word
  serialB  : Word
  prog     : Option ProgOp
  /-- An activation check in progress: slot and TRIAL (R41). -/
  act      : Option (Bool × Bool)
  /-- Masters whose calibration unlock is armed (R45). -/
  unlocked : List Mid
deriving DecidableEq, Repr, Inhabited

/-! ## PWR, AON and TIM (R281 to R302) -/

/-- The power states (R290), in PWR_STATUS.STATE's order. -/
inductive PowerState | active | doze | standby | sleep
deriving DecidableEq, Repr, Inhabited

/-- A power transition in progress: an entry, with the wake source recorded meanwhile (R291), or the exit from STANDBY or
SLEEP, with DOZE to follow when `thenDoze` (R292). -/
inductive Transition
  | entry (target : PowerState) (wake : Option Nat)
  | exit (source : PowerState) (thenDoze : Bool)
deriving DecidableEq, Repr

/-- A PLL (R281): stopped, started and not yet released, released, or at its delay without lock (consumers clamped). -/
inductive PllState | off | starting | running | unlocked
deriving DecidableEq, Repr, Inhabited

/-- Power, comparators and supplies. -/
structure PwrState where
  state      : PowerState
  transition : Option Transition
  /-- Levels the AON domain watches: VDD_AON good, core supply above threshold, PWRGD, PFW_N asserted, REFCLK present. -/
  vddAon     : Bool
  coreOk     : Bool
  pwrgd      : Bool
  pfw        : Bool
  refclk     : Bool
  /-- The power-fail sequence is running (R300). -/
  pfwActive  : Bool
  /-- In DOZE, a wake of the NIC by source 0x7, 0x8 or 0x9 is under way (R294, R297). -/
  nicWaking  : Bool
  /-- In SLEEP, the Whistle has AON_CLK running (R299). -/
  whistle    : Bool
  corePll    : PllState
  hostPll    : Vector PllState 2
  /-- The core domains have power (R290, R310). -/
  coreOn     : Bool
  /-- PWR_BIAS as the last entry into DOZE, STANDBY or SLEEP applied it (R293). -/
  bias       : BitVec 7
  /-- The hottest sensor, 0.25 degree units, signed (R302), and whether WARN and CRIT are exceeded (2 degree hysteresis). -/
  tempNow    : BitVec 12
  tempWarn   : Bool
  tempCrit   : Bool
  /-- The 256 KiB retained SRAM (R3). -/
  rsram      : Ram
deriving DecidableEq, Repr, Inhabited

/-- Fabric time (R283 to R288). -/
structure TimState where
  /-- The 64-bit count of nanoseconds. -/
  now       : Word
  /-- The 15-bit accumulator of SLEEP (R283). -/
  frac      : Nat
  /-- The servo's rate, parts per million, and its accumulated part of a nanosecond in millionths (R287). -/
  ratePpm   : Int
  rateAcc   : Int
  level     : Nat
  parent    : NetPort
  /-- The last offsets to the parent, newest first, at most 4 (R288). -/
  offsets   : List Int
  /-- Periods since the last step, up to 4 (R288). -/
  sinceStep : Nat
  /-- Fabric time is marked unsynchronized (R19, R282). -/
  unsync    : Bool
  /-- LEVEL was 31 when the parent in use was chosen, and no offset to it has been measured yet (R287). -/
  fresh     : Bool
  /-- Corrections of the counter so far, which a round-trip sample must not span (R270). -/
  fixes     : Nat
deriving DecidableEq, Repr, Inhabited

/-! ## RST (R303 to R321) -/

/-- RST_STATUS.PHASE (R321). -/
inductive Phase | running | held | sramTest | sramClear | loading
deriving DecidableEq, Repr, Inhabited

/-- A reset that has been caused and has not yet taken hold: its kind, target (F: host port, L: network port), source
code (R304) and writing master. -/
structure ResetReq where
  kind   : ResetKind
  target : Nat
  source : Nat
  mid    : Mid
  /-- It found a write pulse in progress (R315). -/
  deferred : Bool
deriving DecidableEq, Repr

/-- The reset controller. -/
structure RstState where
  phase    : Phase
  /-- Resets waiting to take hold, oldest first (R306, R311). -/
  waiting  : List ResetReq
  /-- A P reset is held (until P_RESET_RELEASE). -/
  pHeld    : Bool
  /-- A C reset has taken hold and its hold has not ended. -/
  cHeld    : Bool
  /-- A T reset is in force (R312). -/
  tHeld    : Bool
  /-- The image has been committed since the last P or C reset, so the router core, the NIC and the chip services are
  released (R310, R311). -/
  coreRel  : Bool
  /-- HIF has been released (step 4 of R310, step 5 of R311). -/
  hifRel   : Bool
  /-- RESET_N is low. -/
  resetN   : Bool
  /-- The warm clear of the general SRAM, or the self-test of a cold start, has still to end before the commit. -/
  clearing : Bool
  /-- The start under way is a cold start (R310): its load waits for the self-test, and a C reset restarts it (R316). -/
  cold : Bool
  /-- Blocks released without a locked clock, bit k as bit 8 + k of RST_STATUS: they stay clamped (R314). -/
  clamped  : Nat
  /-- Nanoseconds left of the AON watchdog while it is enabled (R317). -/
  wdogLeft : Nat
  /-- A change of AON_BIND.STATE found ports UP, whose L resets are due (R343). -/
  bindDue : Bool
deriving DecidableEq, Repr, Inhabited

/-! ## FLT (R322 to R335) -/

/-- The fault collector's own state; its records are registers. -/
structure FltState where
  /-- Error lines that are high, bit n for source n (R323). -/
  lines    : Nat
  /-- Muzzle is in force (R329). -/
  muzzle   : Bool
  /-- ALERT_N has been released by the Alert Response Address protocol since the last rise (R328). -/
  alertAck : Bool
deriving DecidableEq, Repr, Inhabited

/-! ## SEM, JTAG, the management bus, PMC and CAP (R336 to R365, R374) -/

/-- One lock register's state (R337 to R340). -/
structure Lock where
  held      : Bool
  abandoned : Bool
  waiter    : Bool
  owner     : Mid
deriving DecidableEq, Repr, Inhabited

/-- The JTAG instructions of R345. -/
inductive JtagInstr | extest | idcode | samplePreload | clamp | highz | regAccess | scan | bypass
deriving DecidableEq, Repr, Inhabited

/-- The levels of the single-ended pins (R318, R384) that the boundary register covers; GPIO[15:0] are inputs the block
does nothing with. -/
structure Pins where
  txdis   : BitVec 8
  faultN  : Bool
  alertN  : Bool
  pwrgd   : Bool
  pfwN    : Bool
  resetN  : Bool
  perstN  : BitVec 2
  modprsN : BitVec 8
  gpio    : BitVec 16
  straps  : BitVec 8
deriving DecidableEq, Repr

/-- The test access port (R345, R346). -/
structure JtagState where
  instr    : JtagInstr
  /-- What Capture-DR of REG_ACCESS loads: data and status of the last access. -/
  data     : Word
  status   : BitVec 3
  boundary : Option Pins
deriving DecidableEq, Repr, Inhabited

/-- The management-bus target (R374). -/
structure SmbState where
  offset : Offset
  auto   : Bool
  status : Byte
deriving DecidableEq, Repr, Inhabited

/-- The capture block's own state (R359 to R363). -/
structure CapState where
  /-- The capture and telemetry region of the general SRAM. -/
  mem     : Ram
  /-- Matches of each filter so far (R360). -/
  matched : Vector Nat 4
  /-- What EN's rise read: ring size (log2), MODE, DEST (R365). -/
  logSize : Nat
  overwrite : Bool
  dest    : Bool
  /-- TSEQ of the next TELEMETRY packet (R363). -/
  tseq    : BitVec 16
deriving DecidableEq, Repr, Inhabited

/-! ## Packets (R97 to R113) -/

/-- A packet: the two routing words and bytes 16 to LEN − 1 (R97). -/
structure Packet where
  w0   : Word
  w1   : Word
  body : Bytes
deriving DecidableEq, Repr

/-! ## One host port: HIF, WQ, EQ, XLT, WIN, EPC, MTE, CC and SHP (R154 to R250, R268 to R280) -/

/-- What an access that waits for a translation belongs to: an operation of a work queue, or a delivery of the MTE. -/
inductive XltUser
  | op (wq idx : Nat)
  | delivery (id : Nat)
  | reply (resv : Nat)
  | col (group slot : Nat)
deriving DecidableEq, Repr

/-- What an outstanding non-posted host request (R157) was made for. -/
inductive ReqKind
  /-- The admin command at an index; how often it has been read again (R170). -/
  | admin (idx rereads : Nat)
  | tree
  /-- A descriptor fetch of a queue: first index and count, one read or two (R174); `phase`: a re-read (R170). -/
  | desc (wq idx count : Nat) (phase : Bool)
  /-- Local source data of an operation, and its length (R172). -/
  | local (wq idx len : Nat)
  | walk (id : Nat)
  | context (ep : Nat)
  | pair (key : Nat)
  | window (idx : Nat)
  | getRead (resv off len : Nat)
  | atomicRead (unit : Nat)
  | flush (id : Nat)
  | record (delivery : Nat)
  | dataSlot (delivery : Nat)
  | kennelBlock (ep : Nat)
  | colRead (group slot seg len : Nat)
deriving DecidableEq, Repr

/-- The page of a domain whose translation an access was given: domain, first address, size. -/
structure PageUse where
  pd   : Nat
  page : Nat
  size : Nat
deriving DecidableEq, Repr

/-- A non-posted request, outstanding or waiting for a tag (R154, R157). -/
structure HostReq where
  kind    : ReqKind
  addr    : Nat
  len     : Nat
  noSnoop : Bool
  /-- The translation it was made under, and the invalidations that wait for it (R202). -/
  under   : Option PageUse
  invs    : List Nat
deriving DecidableEq, Repr

/-- The host interface of one port (R154 to R157, R175 to R179). -/
structure HifState where
  linkUp    : Bool
  inReset   : Bool
  halted    : Bool
  perst     : Bool
  width     : Nat
  rate      : Nat
  flit      : Bool
  bme       : Bool
  memEnable : Bool
  /-- BAR0 and BAR2 as assigned (R155); 0 is no address yet. -/
  bar0      : Word
  bar2      : Word
  /-- Maximum payload size and maximum read request size in bytes (R154). -/
  mps       : Nat
  mrrs      : Nat
  msixOn    : Bool
  msixMask  : Bool
  /-- MSI-X table, word k of 8 bytes at offset 0x8000 + 8k (R155); unlisted words hold their reset value: 0, vector
  control masked. -/
  msixTable : Tbl Word
  /-- The pending bits of the 2,048 vectors. -/
  msixPend  : Nat
  /-- Outstanding non-posted requests by tag, at most 1,024 (R154), and those that wait for a tag. -/
  reqs      : Tbl HostReq
  reqWait   : List HostReq
  /-- Doorbells held until the NIC is ready (R294): the queue, and the 8 or 64 bytes written. -/
  heldBells : List (Nat × Bytes)
deriving DecidableEq, Repr, Inhabited

/-- What a late admin command waits for (R163, R165). -/
inductive LateKind
  | destroyWq (wq : Nat)
  | destroyEp (ep : Nat)
  | revoke (win : Nat)
  /-- Entries removed by the invalidation (RESULT), and its number, which what must end before it completes carries (R202). -/
  | invalidate (removed : Nat) (number : Nat)
  | disarm (group : Nat)
deriving DecidableEq, Repr

/-- The admin queue of one port (R161 to R165). -/
structure AdmState where
  base    : Nat
  logSize : Nat
  next    : Nat
  head    : Nat
  done    : List Nat
  cur     : Option (Nat × Bytes)
  late    : List (Nat × LateKind)
deriving DecidableEq, Repr, Inhabited

/-- A segment of a local buffer (R171). -/
structure Segment where
  addr : Nat
  len  : Nat
deriving DecidableEq, Repr

/-- A started operation of a work queue (R172). -/
structure OpState where
  /-- Descriptors of the chain, FIRST first. -/
  descs     : List Bytes
  /-- Its work has begun (the command of its opcode has run, or it has left the side list). -/
  begun     : Bool
  /-- Next byte to send, and whether everything has been handed over. -/
  sent      : Nat
  allSent   : Bool
  /-- Local data gathered for the next packet, and whether a read for it is in progress. -/
  got       : Bytes
  reading   : Bool
  /-- Packets sent and not yet settled, and responses awaited. -/
  unsettled : Nat
  /-- First error decided (R172): status and detail; status 0 while none. -/
  status    : Nat
  detail    : Nat
  moved     : Nat
  value     : Word
  /-- A SEND that goes out as a RNDV_REQ, as EAGER_MAX stood at its start (R8, R240). -/
  rndv      : Bool
  /-- A rendezvous SEND: its window, and whether a LAST GET_REQ has been consumed or refused (R244). -/
  rndvWin   : Option Nat
  lastSeen  : Bool
deriving DecidableEq, Repr

/-- A queue's Leash (R273 to R276); tokens have 8 fractional bits. -/
structure Leash where
  rate      : Nat
  burst     : Nat
  overhead  : Nat
  chargeGet : Bool
  tokens    : Int
  /-- A SET_SHAPER that waits for its refill: its parameters and FILL. -/
  waiting   : Option (Nat × Nat × Nat × Bool × Bool)
deriving DecidableEq, Repr

/-- A work queue (R166 to R174). -/
structure WorkQueue where
  closing   : Bool
  logSize   : Nat
  prefetch  : Nat
  tc        : Nat
  eq        : Nat
  ep        : Nat
  pd        : Nat
  ring      : Nat
  headAddr  : Nat
  pi        : Nat
  fetch     : Nat
  next      : Nat
  head      : Nat
  /-- Fetched or inline descriptors not yet started, by ring index order. -/
  store     : List (Nat × Bytes)
  /-- Index of a descriptor whose PHASE did not match, and how often it has been read again (R170). -/
  reread    : Option (Nat × Nat)
  side      : List Nat
  ops       : Tbl OpState
  /-- Operations at or above HEAD that have completed: the number of descriptors each spans, and how many events of the queue's event
  queue had been decided with its own. -/
  completed : Tbl (Nat × Nat)
  /-- Completion events that found the stash full: the queue starts nothing further until they are in it (R186). -/
  waitEvents : List (Nat × Nat × Bytes)
  /-- HEAD has advanced since it was last written to HEAD_ADDR (R173). -/
  headDue   : Bool
  /-- Events of the event queue that the write of HEAD follows (R173). -/
  headAfter : Nat
  /-- Doorbells not yet passed by HEAD: the producer index each set and the model clock then (R278). -/
  bells     : List (Nat × Nat)
  leash     : Option Leash
deriving DecidableEq, Repr

/-- An event queue (R180 to R186); entries hold bytes 0 to 63 with PHASE and STASHED clear until written. -/
structure EventQueue where
  logSize : Nat
  vecEn   : Bool
  tphEn   : Bool
  vector  : Nat
  st      : Nat
  ring    : Nat
  pi      : Nat
  ci      : Nat
  armed   : Bool
  /-- Events decided and not yet written or stashed, oldest first. -/
  decided : List Bytes
  stash   : List Bytes
  /-- Events decided for the queue and entries written to its ring since it was created. -/
  decidedNo : Nat
  writtenNo : Nat
  /-- Messages due at arming, each sent once this many entries have been written (R184). -/
  due     : List Nat
deriving DecidableEq, Repr

/-- A pending ASYNC entry (R188). -/
structure AsyncPend where
  count  : Nat
  source : Nat
  data   : Word
  time   : Word
deriving DecidableEq, Repr

/-- Why a walk was started (R194, R200). -/
inductive WalkKind | demand | prefetch | speculative
deriving DecidableEq, Repr

/-- What an invalidation covers (R201): SCOPE, domain, first address and 4 KiB pages. -/
structure InvScope where
  scope : Nat
  pd    : Nat
  va    : Nat
  pages : Nat
deriving DecidableEq, Repr

/-- A page-table walk in progress (R194). -/
structure Walk where
  pd      : Nat
  va      : Nat
  kind    : WalkKind
  level   : Nat
  table   : Nat
  /-- Invalidations whose point has passed since it started, each with its number: a result they cover is not installed (R202). -/
  invs    : List (Nat × InvScope)
  waiters : List XltUser
deriving DecidableEq, Repr

/-- An ATC entry (R199). -/
structure AtcEntry where
  pd      : Nat
  page    : Nat
  size    : Nat
  base    : Nat
  r       : Bool
  w       : Bool
  noSnoop : Bool
deriving DecidableEq, Repr

/-- Address translation of one port (R190 to R205). -/
structure XltState where
  atc    : Tbl AtcEntry
  lfsr   : BitVec 16
  walks  : Tbl Walk
  /-- The number of the register-path invalidation in progress, and the next number (R202). -/
  inv    : Option Nat
  nextInv : Nat
deriving DecidableEq, Repr, Inhabited

/-- A window (R215 to R218, R242). -/
structure Window where
  gen     : Nat
  isOpen  : Bool
  pd      : Nat
  access  : Nat
  eq      : Nat
  va      : Nat
  len     : Nat
  onChip  : Bool
  /-- In host-table mode, the cache unit its entry lies in, which holds 8 (R210). -/
  unit    : Nat
  /-- A rendezvous window: the queue and operation whose segment list it addresses (R242). -/
  rndv    : Option (Nat × Nat)
deriving DecidableEq, Repr

/-- A posted receive (R230, R231) with the record's contents. -/
structure Recv where
  id      : Nat
  mtch    : Word
  ignore  : Word
  comm    : Nat
  srcEp   : Nat
  srcChip : Nat
  anySrc  : Bool
  segs    : List Segment
  length  : Nat
  userTag : Nat
  wq      : Nat
  index   : Nat
  eq      : Nat
  pd      : Nat
  tc      : Nat
  /-- Its on-chip entry (R230) and its record slot (R231); a RECV that takes a stored short or eager message has neither (R236). -/
  entry   : Option Nat
  slot    : Option Nat
deriving DecidableEq, Repr

/-- The kinds of message (R232). -/
inductive MsgKind | short | eager | rndv
deriving DecidableEq, Repr

/-- A message: unexpected, held in a reorder store, or being delivered (R232). -/
structure Msg where
  kind    : MsgKind
  mtch    : Word
  comm    : Nat
  srcEp   : Nat
  srcChip : Nat
  length  : Nat
  pseq    : Nat
  /-- The data, where the packet or a continuation entry still holds it. -/
  data    : Bytes
  /-- The data slot of a stored MSG_EAGER. -/
  slot    : Option Nat
  wkey    : Nat
  /-- The entry is in the Kennel overflow (R233). -/
  kennel  : Bool
  /-- Its entry, and the continuation entry of a MSG_SHORT with data, by number on chip or in the overflow (R232). -/
  entry   : Nat
  cont    : Option Nat
deriving DecidableEq, Repr

/-- An endpoint context (R208, R209, R229) (DESIGN CHOICE, log entry 19). -/
structure EpCtx where
  pd      : Nat
  rto     : Nat
  closing : Bool
  /-- Damaged by NIC_UE (R325): arrivals meet ENDPOINT_LOST. -/
  lost    : Bool
  /-- Not live: the context was discarded by an F reset (R178, R226); arrivals meet ENDPOINT_LOST while EPC_LOST.FLAG is set. -/
  gone    : Bool
  onChip  : Bool
  posted  : List Recv
  unexp   : List Msg
  /-- Matching is paused on a Kennel block read (R235): the receive that searches. -/
  search  : Option (Recv × Nat)
deriving DecidableEq, Repr

/-- What a sent packet belongs to. -/
inductive Owner
  | op (wq idx : Nat)
  | autoGet (id : Nat)
  | reply (resv : Nat)
  /-- The LAST GET_REQ that an automatic get still owes after its RECV has ended (R243): charged to the RECV's queue (R275). -/
  | owed (wq : Nat)
  | none
deriving DecidableEq, Repr

/-- An unacknowledged sequenced packet at its sender (R106, R110, R268). -/
structure SentPkt where
  pkt      : Packet
  owner    : Owner
  timeouts : Nat
  refusals : Nat
  /-- Some transmission carried RETX. -/
  resent   : Bool
  sentAt   : Word
  charge   : Nat
  /-- It waits for the end of a BACKOFF (R110); its retransmission is due and waits for tokens (R275). -/
  backoff  : Bool
  due      : Bool
  /-- Corrections of fabric time before it was sent (R270). -/
  fixes    : Nat
deriving DecidableEq, Repr

/-- A get or fetching atomic whose response has not arrived: where its data goes, and its response charge (R221, R268). -/
structure PendingGet where
  owner      : Owner
  off        : Nat
  len        : Nat
  respCharge : Nat
deriving DecidableEq, Repr

/-- Congestion state of a pair (R268 to R272). -/
structure CongState where
  w        : Nat
  base     : Option Nat
  baseT    : Word
  tCut     : Option Word
  lastRtt  : Nat
  inflight : Nat
  /-- Bytes freed by ACKs without a sample since the last update (R270). -/
  carry    : Nat
deriving DecidableEq, Repr

/-- A pair record (R209, R214, R237). -/
structure PairRec where
  next      : BitVec 24
  out       : Tbl SentPkt
  gets      : Tbl PendingGet
  broken    : Bool
  quiet     : Bool
  exp       : BitVec 24
  /-- Consumed PSEQs at or above EXP. -/
  consumed  : List Nat
  /-- Consumed durable puts whose flush has not ended (R109), and atomics whose operand read has not (R222). -/
  durable   : List Nat
  /-- Consumptions since the last ACK, and the trigger: its PSEQ and the time of its ejection (R108). -/
  unacked   : Nat
  trig      : Option (Nat × Word)
  held      : Tbl Msg
  cong      : CongState
  onChip    : Bool
  /-- Its slot in the pair area (R211). -/
  slot      : Nat
deriving DecidableEq, Repr

/-- A reply reservation (R221). -/
structure Resv where
  pair    : Nat
  reqSeq  : Nat
  win     : Nat
  /-- A get: its length, domain and the ranges it reads (address, length, end of the buffer); a fetching atomic: `atomics`. -/
  len     : Nat
  pd      : Nat
  ranges  : List (Nat × Nat × Nat)
  /-- Its window is under on-demand paging (R224). -/
  paged   : Bool
  tc      : Nat
  isGet   : Bool
  /-- PSEQ of the response once it has been sent. -/
  respSeq : Option Nat
  /-- Data of the response gathered so far, and the reads still to end. -/
  data    : Bytes
  reads   : Nat
  /-- The atomic unit could not read the operand (R222). -/
  failed  : Bool
  /-- The data of the response is complete and it waits to be sent; a read for a retransmission waits for its translation. -/
  ready   : Bool
  again   : Bool
deriving DecidableEq, Repr

/-- An atomic in the atomic unit (R222). -/
structure AtomicOp where
  pair   : Nat
  pseq   : Nat
  addr   : Nat
  atop   : Nat
  atype  : Nat
  opnd   : Word
  cmp    : Word
  resv   : Option Nat
  win    : Nat
  /-- Its read has been issued; it waits while another atomic on the same address is at work. -/
  started : Bool
  noSnoop : Bool
  /-- The translation it was given, and the invalidations that wait for it (R202). -/
  under   : Option PageUse
  invs    : List Nat
  /-- Model clock at its last ejection (R108). -/
  time    : Word
deriving DecidableEq, Repr

/-- A durable put that waits for a flush, or for its acknowledgement (R223). -/
structure DurablePut where
  pair : Nat
  pseq : Nat
  /-- Model clock at its last ejection (R108). -/
  time : Word
deriving DecidableEq, Repr

/-- A page under on-demand paging (R224, R225): its request is outstanding, or it is held as failed. -/
structure PageReq where
  pd     : Nat
  page   : Nat
  write  : Bool
  failed : Bool
deriving DecidableEq, Repr

/-- A delivery of message data into a receive buffer (R241), or an automatic get (R243). -/
structure Delivery where
  ep      : Nat
  recv    : Recv
  msg     : Msg
  /-- The record has been read; the data is at hand. -/
  record  : Bool
  ready   : Bool
  /-- Segments of the record that have been read, and whether a read of further ones is in progress (R231). -/
  segsIn  : Nat
  segsDue : Bool
  /-- A RECV_MATCH decided and waiting for the stash (R245). -/
  waitEvent : Option Bytes
  /-- An automatic get: started; next offset; requests outstanding; the LAST request has been sent. -/
  isGet   : Bool
  started : Bool
  off     : Nat
  open_   : Nat
  /-- RNDV_DEPTH as it stood at its start (R8, R243). -/
  depth   : Nat
  lastSent : Bool
  /-- Bytes written to the receive buffer. -/
  moved   : Nat
  status  : Nat
  detail  : Nat
deriving DecidableEq, Repr

/-- The matching engine's state of one port beyond its lists (R231, R246). -/
structure MteState where
  deliveries : Tbl Delivery
  nextId     : Nat
  /-- Data slots in use (R232). -/
  slots      : List Nat
deriving DecidableEq, Repr, Inhabited

/-- A LAST GET_REQ that is still owed to a rendezvous SEND (R243). -/
structure OwedGet where
  pair : Nat
  tc   : Nat
  wkey : Nat
  off  : Nat
  len  : Nat
  wq   : Nat
deriving DecidableEq, Repr

/-- The remote-access state of one port that is neither a window, an endpoint nor a pair. -/
structure RemState where
  resvs     : Tbl Resv
  atomics   : Tbl AtomicOp
  nextResv  : Nat
  /-- Outstanding flushes by number, with the puts each covers, and puts that wait for the next flush (R223). -/
  flushes   : Tbl (List DurablePut)
  unflushed : List DurablePut
  pages     : Tbl PageReq
  /-- Timeouts and retries that fell due while their pair's record was off chip: pair key, PSEQ, and whether it is a retry (R106,
  R110, R213). -/
  late      : List (Nat × Nat × Bool)
  /-- LAST requests of automatic gets that a broken pair kept from going out, oldest first: the pair, the class, the window key, the
  offset, the length and the queue (R243). -/
  owed      : List OwedGet
  /-- A pair reset (pair key, SIDE) and a congestion query (pair key) in progress (R214, R279). -/
  pairReset : Option (Nat × Nat)
  ccQuery   : Option Nat
deriving DecidableEq, Repr, Inhabited

/-- Everything of one host port. -/
structure HostState where
  hif   : HifState
  adm   : AdmState
  wqs   : Tbl WorkQueue
  eqs   : Tbl EventQueue
  async : Tbl AsyncPend
  xlt   : XltState
  pds   : Tbl Nat
  wins  : Tbl Window
  eps   : Tbl EpCtx
  pairs : Tbl PairRec
  rem   : RemState
  mte   : MteState
  /-- Sampling slots for whose queue the Leash or a window held back an operation in the slot's period (R278). -/
  leashHeld : List Nat
  cwndHeld  : List Nat
  /-- SHP_CTL.REFILL as in force since the last refill (R276). -/
  refill    : Nat
deriving DecidableEq, Repr, Inhabited

/-! ## The miss park (R21, R24, R25) -/

/-- What a parked packet waits for. -/
inductive ParkWait
  | context (ep : Nat)
  | pair (key : Nat)
  | window (idx : Nat)
  | walk (pd page : Nat)
  /-- Further segments of the receive record of a delivery (R231; DESIGN CHOICE, log entry 83). -/
  | record (id : Nat)
  /-- Room on chip, a free fetch or a free walk. -/
  | room
deriving DecidableEq, Repr

/-- The instant of a packet's ejection: the model clock, fabric time, and the corrections of fabric time by then (R108, R270). -/
structure Ejection where
  clock  : Word
  fabric : Word
  fixes  : Nat
deriving DecidableEq, Repr

/-- A packet in the miss park: the port of its endpoint, the packet, its ejection, and what it waits for. -/
structure Parked where
  h    : HostPort
  pkt  : Packet
  ejected : Ejection
  wait : ParkWait
deriving DecidableEq, Repr

/-- A unit of the endpoint and window cache that the second-chance sweep passes over (R212). -/
inductive CacheUnit
  | ctx (h : HostPort) (ep : Nat)
  | pair (h : HostPort) (key : Nat)
  | wins (h : HostPort) (unit : Nat)
deriving DecidableEq, Repr

/-- Packets discarded for a cause whose count no register shows (R104, R107, R112): an unsequenced opcode that is unlisted or listed
under another FMT, a PSEQ outside the window, a management packet of another class. -/
structure Discards where
  opcode : Nat
  window : Nat
  mgmt   : Nat
deriving DecidableEq, Repr, Inhabited

/-! ## Sheepdog (R251 to R267) -/

/-- COL_GRP_STATE.STATE; a group that is NONE has no entry. -/
inductive GroupStatus | armed | failed | disarming
deriving DecidableEq, Repr

/-- One direction pair of a tree edge within one operation (R259, R261, R263). Edge 0 is the parent, edge k + 1 child k. -/
structure ColEdge where
  /-- Segments this chip has sent at least once, and those the neighbour's ACKs cover. -/
  sent    : Nat
  acked   : List Nat
  /-- FREED as the neighbour last reported it. -/
  freed   : Nat
  /-- Segments received and still buffered, and the count this chip has released. -/
  got     : Tbl Bytes
  released : Nat
  /-- Transmissions in a row without any answer; the neighbour answers GROUP_NOT_ARMED. -/
  tries   : Nat
  unarmed : Bool
  /-- An ABORT to this neighbour awaits its ABORT_ACK. -/
  abort   : Bool
deriving DecidableEq, Repr

/-- An operation slot of a group (R258 to R260). -/
structure ColOp where
  opseq   : BitVec 16
  /-- The local COLLECTIVE has started; its queue and index until it completes. -/
  started : Bool
  owner   : Option (Nat × Nat)
  /-- Packets that arrived before the local start disagree with each other. -/
  clash   : Bool
  cop     : Nat
  dtype   : Nat
  rop     : Nat
  len     : Nat
  /-- Only COL_DATA packets, which carry no LENGTH, have named it so far (R261). -/
  lenOpen : Bool
  src     : Nat
  dst     : Nat
  /-- The local segment being read next, what has been read of it, and whether a host read is in progress. -/
  rdSeg   : Nat
  rdGot   : Bytes
  reading : Bool
  /-- The fold of each segment with the number of children in it; at the root, result segments; segments written. -/
  acc     : Tbl (Nat × Bytes)
  result  : Tbl Bytes
  written : Nat
  /-- Combine cycles spent on each segment that has been neither sent nor written yet (R356). -/
  work    : Tbl Nat
  edges   : Tbl ColEdge
  failed  : Bool
deriving DecidableEq, Repr

/-- An armed group (R251 to R255). -/
structure ColGroup where
  status   : GroupStatus
  owner    : HostPort
  treeId   : BitVec 32
  parent   : Nat
  parentIdx : Nat
  root     : Bool
  children : List Nat
  ops      : Nat
  win      : Nat
  logSeg   : Nat
  retries  : Nat
  rto      : Nat
  armWait  : Nat
  next     : BitVec 16
  /-- Why it failed, and the fault code of a local fault (R263, R267). -/
  cause    : Nat
  detail   : Nat
  units    : Nat
  slots    : Tbl ColOp
deriving DecidableEq, Repr

/-! ## Network ports: lanes and link (R47 to R96) -/

/-- LAN_STATUS.STATE (R68). -/
inductive LanePhase | off | noModule | waitClock | eq | align | exchange | up | compliance | retry
deriving DecidableEq, Repr, Inhabited

/-- The lane layer of one port. -/
structure LaneState where
  phase     : LanePhase
  /-- An L reset holds the port: lanes and LC stopped for 2 µs (R313). -/
  stopped   : Bool
  rate      : Nat
  txWidth   : Nat
  txGroup   : Nat
  rxWidth   : Nat
  rxGroup   : Nat
  /-- A WIDTH or GROUP change waits for a frame boundary (R60). -/
  widthDue  : Bool
  widthRefused : Bool
  txAsleep  : Bool
  rxAsleep  : Bool
  fail      : Nat
  leave     : Nat
  rxMask    : Nat
  partnerMask : Nat
  /-- Failed wakes in a row (R63). -/
  wakeFails : Nat
  /-- After a failed wake: columns count as code errors until 4 error-free sets (R63). -/
  deaf      : Bool
  /-- CORE_CLK cycles until a direction that is waking may send its first frame column (R62); 0 when it is not waking. -/
  waking    : Nat
  cmpSync   : Bool
  pll       : PllState
  /-- Running disparity of each lane, as transmitter and as receiver: set where it is positive (R52). -/
  txRd      : BitVec 16
  rxRd      : BitVec 16
  /-- Lanes whose reversed polarity the receiver corrects (R50). -/
  reversed  : BitVec 16
  /-- Lanes being woken for a widening, and the CORE_CLK cycles their WAK sets still take (R60). -/
  adding    : Nat
  addWait   : Nat
  /-- The PRBS-31 checker of each lane: the last 31 bits received (R66). -/
  prbs      : List (BitVec 31)
  /-- What the attempt started from (R44, R56): the image's transmit amplitude and pre-emphasis, and whether the equalizers started from
  the calibration set. -/
  amplitude : Nat
  emphasis  : Nat
  calUsed   : Bool
deriving DecidableEq, Repr, Inhabited

/-- LNK_STATUS.STATE (R90). -/
inductive LinkPhase | down | init | check | refused | up
deriving DecidableEq, Repr, Inhabited

/-- A frame in the replay buffer (R82): its number, class, packet as sent, and whether its retransmission is due (R78). -/
structure ReplayFrame where
  fseq   : BitVec 12
  tc     : Nat
  pkt    : Packet
  rtxDue : Bool
deriving DecidableEq, Repr

/-- The credits of one traffic class on one link (R84, R85): as transmitter, advertised, used and returned counts of
header and data credits; as receiver, what was advertised, what is occupied, and the cumulative counts returned. -/
structure ClassCredit where
  hdrAdv   : Nat
  hdrUsed  : BitVec 16
  hdrRet   : BitVec 16
  dataAdv  : Nat
  dataUsed : BitVec 16
  dataRet  : BitVec 16
  hdrOwn   : Nat
  dataOwn  : Nat
  hdrHeld  : Nat
  dataHeld : Nat
  hdrBack  : BitVec 16
  dataBack : BitVec 16
deriving DecidableEq, Repr, Inhabited

/-- The frame a transmit direction is sending: its number, class and packet length, the acknowledgement in its header, the
CORE_CLK cycles it still takes, slots spent on it, whether its slots count as wasted (R355), whether it is a retransmission,
and the input it is cut through from while its tail has not arrived (R81). -/
structure TxFrame where
  fseq   : BitVec 12
  tc     : Nat
  len    : Nat
  ack    : BitVec 12
  cycles : Nat
  slots  : Nat
  wasted : Bool
  rtx    : Bool
  source : Option XbarPort
  /-- The packet as it is being sent; its replay copy may go while it is (R76). -/
  pkt    : Packet
deriving DecidableEq, Repr

/-- A granted packet in an output FIFO: age of the packet when it arrived, the clock then, whether it was granted outside
rank 1 and rank 2, and the input it is cut through from. -/
structure OutPkt where
  pkt     : Packet
  tc      : Nat
  arrived : Nat
  wasted  : Bool
  source  : Option XbarPort
deriving DecidableEq, Repr

/-- A frame accepted in order whose tail has not arrived (R75, R81): its class and packet, and whether the router has already dropped the
packet. -/
structure Arriving where
  tc      : Nat
  pkt     : Packet
  dropped : Bool
deriving DecidableEq, Repr

/-- The link layer of one port (R69 to R96). -/
structure LinkState where
  phase    : LinkPhase
  refuse   : Nat
  advCapped : Bool
  /-- The port was admitted restricted (R342). -/
  restricted : Bool
  txAcked  : BitVec 12
  txNext   : BitVec 12
  replay   : List ReplayFrame
  rxNext   : BitVec 12
  /-- Frames held behind a gap, by FSEQ, each with its frame's class and the clock when its first byte arrived (R75, R99). -/
  held     : Tbl (Nat × Packet × Nat)
  /-- Numbers named in a NAK and still missing (R77). -/
  named    : List Nat
  credits  : Vector ClassCredit 8
  winCount : Nat
  peerSeen : Bool
  /-- The last INIT record received (R91), bytes 0 to 63. -/
  peer     : Option Bytes
  fifo     : List OutPkt
  tx       : Option TxFrame
  arriving : Option Arriving
deriving DecidableEq, Repr, Inhabited

/-- A packet in input staging, an injection buffer or an ejection buffer. -/
structure InPacket where
  pkt     : Packet
  tc      : Nat
  /-- Model clock at its arrival at this chip (or at its hand-over), for its residence (R99). -/
  arrived : Nat
  /-- In an ejection buffer, fabric time at its ejection and the corrections of it by then (R270). -/
  fabric  : Word
  fixes   : Nat
  /-- Its tail has arrived. -/
  whole   : Bool
  dwell   : Nat
  bounced : Bool
  /-- Its credits are still owed to the partner (R85): false once the link it arrived on has left, and at an internal port. -/
  owed    : Bool
deriving DecidableEq, Repr

/-- A crossbar input: waiting packets in release order, the presented one, and the cycles it still streams (R124). -/
structure InPort where
  queue     : List InPacket
  presented : Option InPacket
  streaming : Nat
  /-- A cut-through grant of the presented packet: the output it streams to until its tail arrives (R131). -/
  cutTo     : Option NetPort
  /-- The packet that still streams out after its grant: its credits are returned when it has left completely (R85). -/
  leaving   : Option InPacket
deriving DecidableEq, Repr, Inhabited

/-- A network port. -/
structure Port where
  lane  : LaneState
  link  : LinkState
  inp   : InPort
  /-- Cycles the output still streams a packet from the crossbar (R122). -/
  busy  : Nat
  /-- The flight time last measured, ns (R285), and the last TEX received: its T1 and this chip's time at its arrival. -/
  flight : Nat
  tex    : Option (Word × Word)
  texHi  : Nat
  /-- TEX sets sent, for the HI rule (R284), and the partner's LEVEL. -/
  texSent : Nat
  peerLevel : Nat
deriving DecidableEq, Repr, Inhabited

/-- An internal port IPn (R14, R23, R124, R132). -/
structure IntPortState where
  inp     : InPort
  /-- Bounced packets that re-enter ahead of fresh ones. -/
  bounced : List InPacket
  eject   : List InPacket
  busy    : Nat
  /-- Cycles in a row with a fresh packet waiting, and ages in cycles of the fresh grants (R132). -/
  waited  : Nat
  grants  : List Nat
deriving DecidableEq, Repr, Inhabited

/-- A routing table: the word an unlisted entry holds, and the listed entries (R31, R117). -/
structure RouteTable where
  base    : Word
  entries : Tbl Word
deriving DecidableEq, Repr, Inhabited

/-- The router core beyond its ports (R114 to R142). -/
structure RtrState where
  tableA  : RouteTable
  tableB  : RouteTable
  /-- A table command in progress (R119): TABLE, INDEX, the entry of a WRITE, and READ. -/
  command : Option (Nat × Nat × Option Word × Bool)
  /-- A copy in progress: the version it copies from (R142). -/
  copying : Option Nat
  inPtr   : Nat
  injPtr  : Nat
  deflPtr : Nat
  /-- Model clock when a packet of the version that is not current was last looked up, or CURRENT changed (R141). -/
  oldSeen : Nat
deriving DecidableEq, Repr, Inhabited

/-! ## What the block sends -/

/-- An ordered set the block sends on a port (R53); `count` sets in a row. -/
inductive OrderedSet
  | lve (reason count : Nat)
  | slp (count : Nat)
  | wak (count : Nat)
  | wch (width group count : Nat)
  | cr (set : Bytes)
  | tex (set : Bytes)
  /-- IDL and TS1 alternately, from the start of an attempt until its exchange (R56); the rate code. -/
  | ts1 (rate : Nat)
  | ts2 (mask count : Nat)
deriving DecidableEq, Repr

/-- Attributes of a posted write: relaxed ordering (R156), No Snoop (R191) and the steering tag (R180). -/
structure TlpAttr where
  relaxed : Bool
  noSnoop : Bool
  st      : Option Nat
deriving DecidableEq, Repr

/-- What an observer of the block sees, oldest first in `State.out`. -/
inductive Output
  /-- A 64-bit register read returned this value to its master. -/
  | regRead (mid : Mid) (off : Offset) (v : Word)
  /-- A posted write on a host link with its attributes (R156, R180, R191). -/
  | hostWrite (h : HostPort) (addr : Nat) (data : Bytes) (attr : TlpAttr)
  /-- A posted write of `len` bytes to one of the DX64's own areas in host memory, whose contents the spec does not document:
  a Kennel slot, a host-table entry, a receive record, an overflow entry (R209, R215, R231, R233). -/
  | areaWrite (h : HostPort) (addr len : Nat)
  /-- A non-posted read on a host link; length 0 is the flush of R223. -/
  | hostRead (h : HostPort) (tag addr len : Nat) (noSnoop : Bool)
  /-- An MSI-X message (R154, R184). -/
  | msix (h : HostPort) (vector : Nat) (addr : Word) (data : BitVec 32)
  | pageRequest (h : HostPort) (tag pd page : Nat) (write : Bool)
  /-- What a read of the configuration space returns: a BAR, or the features whose capabilities the list holds (R154, R155). -/
  | configRead (h : HostPort) (v : Word)
  | capabilities (h : HostPort) (fs : List HostFeature)
  /-- What a read of BAR2 returns (R158). -/
  | bar2Read (h : HostPort) (off : Nat) (v : Word)
  /-- A frame on a network port, closed by EOF, or by ABT when `abt`, and the code groups of its columns on each lane. -/
  | frame (p : NetPort) (bytes : Bytes) (abt : Bool) (code : List (Nat × List (BitVec 10)))
  /-- An ordered set, and its code groups on each lane that carries it. -/
  | ordered (p : NetPort) (set : OrderedSet) (code : List (Nat × List (BitVec 10)))
  /-- A compliance pattern starts (R66): PATTERN, and the code groups of its first period on each lane. -/
  | pattern (p : NetPort) (which : Nat) (code : List (Nat × List (BitVec 10)))
  /-- Bytes the management-bus target returns (R374). -/
  | smb (bytes : Bytes)
deriving DecidableEq, Repr

/-! ## The whole block -/

/-- What the part and its board fix and no command changes (DESIGN CHOICE, log entry 5): fuses, strap levels as latched (R318, R369), the
room of an ejection buffer in 64-byte blocks. -/
structure ImplParams where
  dieId      : Word
  smbAddr    : BitVec 3
  hp1En      : Bool
  board      : BitVec 4
  /-- The part is of speed grade 5: its fuse caps RATE_MAX (R397). -/
  grade5     : Bool
  ejectBlocks : Nat
deriving DecidableEq, Repr, Inhabited

/-- The state of the DX64. -/
structure State where
  impl   : ImplParams
  /-- The committed image (R35). -/
  image  : Option ImageDesc
  /-- The register file: the word at each BAR0 address that no longer holds its reset value. -/
  regs   : Tbl Word
  cfg    : CfgState
  pwr    : PwrState
  tim    : TimState
  rst    : RstState
  flt    : FltState
  locks  : Vector Lock 256
  jtag   : JtagState
  smb    : SmbState
  cap    : CapState
  /-- Words of the general SRAM that DBG_MEM has written, by byte address (R347; DESIGN CHOICE, log entry 18). -/
  sram   : Tbl Word
  ports  : Vector Port 64
  ints   : Vector IntPortState 4
  rtr    : RtrState
  hosts  : Vector HostState 2
  park   : List Parked
  /-- The sweep's order over the cached units, its next one first, each with its use mark (R212). -/
  sweep  : List (CacheUnit × Bool)
  discards : Discards
  /-- Requests the in-band agent holds, oldest first (R112). -/
  agent  : List Packet
  groups : Tbl ColGroup
  /-- MODPRS_N[7:0] as debounced; bit g high: no module in group g (R55). -/
  modprs : BitVec 8
  /-- The model's own fields: its clock in nanoseconds, the count of free values taken, what the block has sent, and the
  commands that wait. -/
  clock  : Nat
  freeCount : Nat
  out    : List Output
  pending : List Instr
deriving DecidableEq, Repr, Inhabited

/-! ## The reset state

`State.reset` is the block just after the release of its P reset: the AON domain runs, the straps are latched, PWRGD is
still low, the core domains are off and the configuration store is blank (DESIGN CHOICE, log entries 2 to 5 and 8). The pieces below are
also what the reset kinds of R307 return each part to. -/

/-- Memory that reads as 0 throughout: a cleared array, or the store as delivered (DESIGN CHOICE, log entry 8). -/
def ramZero : Ram := { era := 0, cells := [] }

/-- The CFG block after a P reset, with a blank store (R28: neither record copy is valid) (DESIGN CHOICE, log entry 4). -/
def cfgReset : CfgState :=
  { store := ramZero, recA := none, recB := none, recPulse := none, state := .notLoading, stage := .idle, fellBack := false,
    slot := false, fallback := false, trial := false, trialLoad := false, calValid := false, presetSkipped := false, failA := 0xF,
    failB := 0xF, serialA := 0#64, serialB := 0#64, prog := none, act := none, unlocked := [] }

/-- Power just after the AON domain is released: ACTIVE, PWRGD low, core off, REFCLK present (R304), PFW_N high. -/
def pwrReset : PwrState :=
  { state := .active, transition := none, vddAon := true, coreOk := false, pwrgd := false, pfw := false, refclk := true,
    pfwActive := false, nicWaking := false, whistle := false, corePll := .off,
    hostPll := Vector.replicate 2 .off, coreOn := false, bias := 0x26#7, tempNow := 0#12, tempWarn := false, tempCrit := false,
    rsram := ramZero }

/-- Fabric time after a P reset: 0, not synchronized (R283, R286). -/
def timReset : TimState :=
  { now := 0#64, frac := 0, ratePpm := 0, rateAcc := 0, level := 31, parent := 0, offsets := [], sinceStep := 0,
    unsync := true, fresh := true, fixes := 0 }

/-- The reset controller after a P reset, with PWRGD low: HELD (R310). -/
def rstReset : RstState :=
  { phase := .held, waiting := [], pHeld := false, cHeld := true, tHeld := false, coreRel := false, hifRel := false,
    resetN := false, clearing := true, cold := true, clamped := 0, wdogLeft := 1000000000, bindDue := false }

/-- The fault collector after a P reset (R323). -/
def fltReset : FltState := { lines := 0, muzzle := false, alertAck := false }

/-- A free, unmarked lock (R340). -/
def lockReset : Lock := { held := false, abandoned := false, waiter := false, owner := 0#8 }

/-- The TAP in Test-Logic-Reset: IDCODE (R345). -/
def jtagReset : JtagState := { instr := .idcode, data := 0#64, status := 0#3, boundary := none }

/-- The management-bus target (R374). -/
def smbReset : SmbState := { offset := 0#24, auto := false, status := 0#8 }

/-- The capture block after P and C resets (R307). -/
def capReset : CapState :=
  { mem := ramZero, matched := Vector.replicate 4 0, logSize := 6, overwrite := false, dest := false,
    tseq := 0#16 }

/-- The lanes of a port after P, C, T and L resets (R307). -/
def laneReset : LaneState :=
  { phase := .off, stopped := false, rate := 0, txWidth := 0, txGroup := 0, rxWidth := 0, rxGroup := 0, widthDue := false,
    widthRefused := false, txAsleep := false, rxAsleep := false, fail := 0, leave := 0, rxMask := 0, partnerMask := 0,
    wakeFails := 0, deaf := false, waking := 0, cmpSync := false, pll := .off, txRd := 0#16, rxRd := 0#16, reversed := 0#16, adding := 0,
    addWait := 0, prbs := [], amplitude := 0, emphasis := 0, calUsed := false }

/-- No credits of a class. -/
def creditReset : ClassCredit :=
  { hdrAdv := 0, hdrUsed := 0#16, hdrRet := 0#16, dataAdv := 0, dataUsed := 0#16, dataRet := 0#16, hdrOwn := 0,
    dataOwn := 0, hdrHeld := 0, dataHeld := 0, hdrBack := 0#16, dataBack := 0#16 }

/-- A link that is DOWN (R90, R94). -/
def linkReset : LinkState :=
  { phase := .down, refuse := 0, advCapped := false, restricted := false, txAcked := 0#12, txNext := 0#12, replay := [],
    rxNext := 0#12, held := [], named := [], credits := Vector.replicate 8 creditReset, winCount := 0,
    peerSeen := false, peer := none, fifo := [], tx := none, arriving := none }

/-- An empty crossbar input. -/
def inReset : InPort := { queue := [], presented := none, streaming := 0, cutTo := none, leaving := none }

/-- A network port after a reset that reaches it. -/
def portReset : Port :=
  { lane := laneReset, link := linkReset, inp := inReset, busy := 0, flight := 0, tex := none, texHi := 0, texSent := 0,
    peerLevel := 31 }

/-- An internal port after a reset. -/
def intReset : IntPortState :=
  { inp := inReset, bounced := [], eject := [], busy := 0, waited := 0, grants := [] }

/-- The routing tables before any image: table A all UNREACHABLE, table B all INVALID (R31, R117). -/
def rtrReset : RtrState :=
  { tableA := { base := 4#64, entries := [] }, tableB := { base := 0#64, entries := [] }, command := none,
    copying := none, inPtr := 0, injPtr := 0, deflPtr := 0, oldSeen := 0 }

/-- The host interface after P and C resets: no link; the sizes of R154 at the values PCI Express gives a function after a reset
(PRESUMED, log entry 81). -/
def hifReset : HifState :=
  { linkUp := false, inReset := false, halted := false, perst := true, width := 0, rate := 0, flit := false, bme := false,
    memEnable := false, bar0 := 0#64, bar2 := 0#64, mps := 128, mrrs := 512, msixOn := false, msixMask := false, msixTable := [], msixPend := 0,
    reqs := [], reqWait := [], heldBells := [] }

/-- The admin queue, not enabled (R161). -/
def admReset : AdmState := { base := 0, logSize := 6, next := 0, head := 0, done := [], cur := none, late := [] }

/-- An empty ATC with its LFSR at the default seed (R199, R205). -/
def xltReset : XltState := { atc := [], lfsr := 0xACE1#16, walks := [], inv := none, nextInv := 0 }

/-- No remote-access work. -/
def remReset : RemState :=
  { resvs := [], atomics := [], nextResv := 0, flushes := [], unflushed := [], pages := [], late := [], owed := [],
    pairReset := none, ccQuery := none }

/-- No matching work. -/
def mteReset : MteState := { deliveries := [], nextId := 0, slots := [] }

/-- A host port after P and C resets (R178, R307). -/
def hostReset : HostState :=
  { hif := hifReset, adm := admReset, wqs := [], eqs := [], async := [], xlt := xltReset, pds := [], wins := [],
    eps := [], pairs := [], rem := remReset, mte := mteReset, leashHeld := [], cwndHeld := [], refill := 4 }

/-- What no command changes: straps open (each reads 1, R384), a fuse value of 0, speed grade 6 (R397), an ejection buffer of 1,024
blocks of 64 bytes (DESIGN CHOICE, log entry 5). -/
def implReset : ImplParams :=
  { dieId := 0#64, smbAddr := 7#3, hp1En := true, board := 0xF#4, grade5 := false, ejectBlocks := 1024 }

/-- The machine right after reset (DESIGN CHOICE, log entry 2). -/
def State.reset : State :=
  { impl := implReset, image := none, regs := [], cfg := cfgReset, pwr := pwrReset, tim := timReset, rst := rstReset,
    flt := fltReset, locks := Vector.replicate 256 lockReset, jtag := jtagReset, smb := smbReset, cap := capReset,
    sram := [], ports := Vector.replicate 64 portReset, ints := Vector.replicate 4 intReset, rtr := rtrReset,
    hosts := Vector.replicate 2 hostReset, park := [], sweep := [], discards := ⟨0, 0, 0⟩, agent := [], groups := [], modprs := 0#8, clock := 0, freeCount := 0,
    out := [], pending := [] }

end Sys2Proof.Machine
end

