-- ==== Sys2Proof/Machine/Ops.lean ====
section
/-! DEFINITION. The named operations every command shares: register fields and their reset values, free values, outputs,
the blocks that answer, counters, asynchronous events and the fault collector. -/

namespace Sys2Proof.Machine

/-! ## The image's structure (R31, R114 to R116) -/

/-- The setup of a port; a port the section does not list is disabled (R31). -/
def imgPort (img : ImageDesc) (p : Nat) : PortSetup := img.ports.getD p ⟨.disabled, 0, 0⟩

/-- The queue pool of a host port (R31). -/
def imgPool (img : ImageDesc) (h : Nat) : QueuePool := img.pools.getD h ⟨0, 0, 0, false⟩

/-- The product of the dimension sizes (R114). -/
def imgChips (img : ImageDesc) : Nat := img.sizes.foldl (· * ·) 1

/-- The chip identifier of coordinates: dimension 0 is the most significant digit (R115). -/
def chipOf (sizes coords : List Nat) : Nat :=
  (sizes.zip coords).foldl (fun acc kc => acc * kc.1 + kc.2) 0

/-- Coordinate `d` of a chip identifier (R115). -/
def coordOf (sizes : List Nat) (chip d : Nat) : Nat :=
  chip / (sizes.drop (d + 1)).foldl (· * ·) 1 % sizes.getD d 1

/-- This chip's identifier. -/
def imgChip (img : ImageDesc) : Nat := chipOf img.sizes img.coords

/-- The network port of the port map for (d, x) (R116). -/
def portMap (img : ImageDesc) (d x : Nat) : Option Nat :=
  (img.dimPorts.find? (fun e => e.1 == d && e.2.1 == x)).map (·.2.2)

/-- The position a port leads to: its dimension and position, if the port map names it (R116). -/
def portPlace (img : ImageDesc) (p : Nat) : Option (Nat × Nat) :=
  (img.dimPorts.find? (fun e => e.2.2 == p)).map (fun e => (e.1, e.2.1))

/-- The chip that the HyperX section puts behind a port; 0 where it names none (R96, R116). -/
def imgNeighbour (img : ImageDesc) (p : Nat) : Nat :=
  match portPlace img p with
  | some (d, x) => chipOf img.sizes (img.coords.set d x)
  | none => 0

/-- The role code of LAN_CFG (R68). -/
def roleCode : Role → Nat
  | .network => 0
  | .spare => 1
  | .disabled => 2

/-! ## Register fields (R5 to R8) -/

/-- Address of element `k` of a register in block instance `i` (R367). -/
def regAddr (r : RegId) (i k : Nat) : Nat :=
  let p := regPlace r
  p.base + p.instStride * i + p.idxStride * k

/-- What the image gives a field whose Reset column says Image (R34), named by register and lowest bit. -/
def imageField (img : ImageDesc) (r : RegId) (lo i : Nat) : Nat :=
  match r with
  | .SYS_CHIP => imgChip img
  | .WQ_POOL => (imgPool img i).wqs
  | .EQ_POOL => (imgPool img i).eqs
  | .WIN_CFG => b2n (imgPool img i).hostTable
  | .MTE_PART => if lo = 0 then img.part.posted else img.part.unexp
  | .COL_PART => img.part.sheepdog / 256
  | .RTR_GEOM => if lo = 0 then img.sizes.length else img.sizes.getD (lo / 8 - 1) 1
  | .RTR_COORD => img.coords.getD (lo / 8) 0
  | .LNK_EXPECT => if (imgPort img i).role = .spare then 0 else imgNeighbour img i
  | .LAN_CFG =>
    if lo = 0 then roleCode (imgPort img i).role
    else if lo = 2 then (imgPort img i).rateMax else (imgPort img i).width
  | _ => 0

/-- Reset values that depend on other fields: LAN_CTL (R68), LNK_EXPECT.CHECK_CHIP (R96), MTE_LIMIT (R250). -/
def derivedField (img : ImageDesc) (r : RegId) (lo i : Nat) : Nat :=
  match r with
  | .LAN_CTL =>
    if lo = 0 then (imgPort img i).rateMax
    else if lo = 2 then (imgPort img i).width
    else if (imgPort img i).role = .spare then 2 else 0
  | .LNK_EXPECT => b2n (decide ((imgPort img i).role = .network))
  | .MTE_LIMIT => if lo = 0 then img.part.posted / 2 else img.part.unexp / 2
  | _ => 0

/-- The reset value of a field (R7); image values are 0 while no image is committed (DESIGN CHOICE, log entry 7). -/
def resetField (img : Option ImageDesc) (r : RegId) (i : Nat) (row : FieldRow) : Nat :=
  match row.reset with
  | .val v _ => v
  | .image _ => img.elim 0 (imageField · r row.lo i)
  | .derived _ => img.elim 0 (derivedField · r row.lo i)
  | .live | .unstored => 0

/-- The reset kinds that restore a field (R7). -/
def resetKinds (row : FieldRow) : List ResetKind :=
  match row.reset with
  | .val _ k | .image k | .derived k => k
  | .live | .unstored => []

/-- The reset word of a register (DESIGN CHOICE, log entry 3). -/
def resetWord (img : Option ImageDesc) (r : RegId) (i : Nat) : Word :=
  packFields ((regFields r).map (fun row => (row.hi, row.lo, resetField img r i row)))

/-- The stored word of a register. -/
def State.regWord (s : State) (r : RegId) (i k : Nat) : Word :=
  (tblGet (regAddr r i k) s.regs).getD (resetWord s.image r i)

/-- Stores a whole register word. -/
def State.setWord (s : State) (r : RegId) (v : Word) (i k : Nat) : State :=
  { s with regs := tblSet (regAddr r i k) v s.regs }

/-- The stored value of a field. -/
def State.fget (s : State) (f : RegField) (i k : Nat := 0) : Nat := fieldOf (s.regWord f.reg i k) f.hi f.lo

/-- Stores a value in a field. -/
def State.fset (s : State) (f : RegField) (v : Nat) (i k : Nat := 0) : State :=
  s.setWord f.reg (putField (s.regWord f.reg i k) f.hi f.lo v) i k

/-- Adds to a field that saturates at its largest value. -/
def State.finc (s : State) (f : RegField) (d : Nat) (i k : Nat := 0) : State :=
  s.fset f (satAdd (f.hi + 1 - f.lo) (s.fget f i k) d) i k

/-- A one-bit field as a Bool. -/
def State.flag (s : State) (f : RegField) (i k : Nat := 0) : Bool := s.fget f i k != 0

/-- Where a BAR0 offset lies: the register, its block instance and its element, if one stands there (R366 to R372). -/
def regAt (off : Nat) : Option (RegId × Nat × Nat) :=
  regList.findSome? (fun r =>
    let p := regPlace r
    if off < p.base then none
    else
      let d := off - p.base
      let i := if p.instStride = 0 then 0 else d / p.instStride
      let e := d - p.instStride * i
      let k := if p.idxStride = 0 then 0 else e / p.idxStride
      if i < p.instCount ∧ k < p.idxCount ∧ p.instStride * i + p.idxStride * k = d then some (r, i, k) else none)

/-- Restores every stored field whose Reset column lists one of the kinds, in the instances `inst` selects (R7). -/
def State.restore (s : State) (kinds : List ResetKind) (sel : RegId → Nat → Bool) : State :=
  { s with regs := s.regs.map (fun e =>
      match regAt e.1 with
      | none => e
      | some (r, i, _) =>
        if sel r i then
          (e.1, (regFields r).foldl (fun w row =>
            if (resetKinds row).any kinds.contains then putField w row.hi row.lo (resetField s.image r i row) else w) e.2)
        else e) }

/-! ## Outputs and free values -/

/-- Appends to what the block has sent (DESIGN CHOICE, log entry 10). -/
def State.emit (s : State) (o : Output) : State := { s with out := s.out ++ [o] }

/-- The next free value (DESIGN CHOICE, log entry 1). -/
def State.freeValue (s : State) : Word := Config.free64 s.freeCount

/-- Counts a free value as taken. -/
def State.tookFree (s : State) : State := { s with freeCount := s.freeCount + 1 }

/-! ## Parts of the state by index -/

/-- Changes a network port. -/
def State.modPort (s : State) (p : NetPort) (f : Port → Port) : State := { s with ports := vecMod s.ports p f }

/-- Changes the lane layer of a port. -/
def State.modLane (s : State) (p : NetPort) (f : LaneState → LaneState) : State :=
  s.modPort p (fun q => { q with lane := f q.lane })

/-- Changes the link layer of a port. -/
def State.modLink (s : State) (p : NetPort) (f : LinkState → LinkState) : State :=
  s.modPort p (fun q => { q with link := f q.link })

/-- Changes an internal port. -/
def State.modInt (s : State) (ip : IntPort) (f : IntPortState → IntPortState) : State :=
  { s with ints := vecMod s.ints ip f }

/-- Changes a host port. -/
def State.modHost (s : State) (h : HostPort) (f : HostState → HostState) : State :=
  { s with hosts := vecMod s.hosts h f }

/-- Changes the host interface of a port. -/
def State.modHif (s : State) (h : HostPort) (f : HifState → HifState) : State :=
  s.modHost h (fun x => { x with hif := f x.hif })

/-- A host port. -/
def State.host (s : State) (h : HostPort) : HostState := s.hosts[h]

/-- A network port. -/
def State.port (s : State) (p : NetPort) : Port := s.ports[p]

/-- This chip's identifier, 0 while no image is committed. -/
def State.chip (s : State) : Nat := s.image.elim 0 imgChip

/-- Every network port in order. -/
def allPorts : List NetPort := List.finRange 64

/-- Both host ports in order. -/
def allHosts : List HostPort := List.finRange 2

/-! ## Which blocks answer (R295, R309, R351, R366, R367) -/

/-- The core domains are powered, out of reset by the image commit and unclamped by Muzzle, in a state with CORE_CLK. -/
def State.coreRuns (s : State) : Bool :=
  s.rst.coreRel && !s.rst.cHeld && !s.rst.pHeld && !s.flt.muzzle &&
    (decide (s.pwr.state = .active) || decide (s.pwr.state = .doze))

/-- The router core runs: not in a T reset and not clamped (R312, R314). -/
def State.routerRuns (s : State) : Bool := s.coreRuns && !s.rst.tHeld && !s.rst.clamped.testBit 0

/-- The NIC functions run. -/
def State.nicRuns (s : State) : Bool := s.coreRuns && !s.rst.clamped.testBit 1

/-- The chip services run. -/
def State.svcRuns (s : State) : Bool := s.coreRuns && !s.rst.clamped.testBit 4

/-- Host port HPh exists: HP1 only with its strap at 1 (R367). -/
def State.hostPresent (s : State) (h : Nat) : Bool := decide (h = 0) || s.impl.hp1En

/-- HIF of a host port is released (R310, R311) and not clamped (R314). -/
def State.hifRuns (s : State) (h : Nat) : Bool :=
  s.rst.hifRel && !s.rst.cHeld && !s.rst.pHeld && !s.flt.muzzle && !s.rst.clamped.testBit (2 + h) &&
    s.hostPresent h && (decide (s.pwr.state = .active) || decide (s.pwr.state = .doze))

/-- A block instance answers register accesses (DESIGN CHOICE, log entry 72). -/
def State.answers (s : State) (b : Block) (i : Nat) : Bool :=
  match b with
  | .sys | .cfg | .rst | .pwr | .aon | .tim | .flt => !s.rst.pHeld
  | .sem | .pmc | .cap | .dbg => s.svcRuns
  | .hif => s.hifRuns i
  | .wq | .eq | .xlt | .win | .cc => s.nicRuns && s.hostPresent i
  | .epc | .col => s.nicRuns
  | .mte => s.nicRuns && s.hostPresent i
  | .rtr => s.routerRuns
  | .lnk | .lan => s.routerRuns

/-- A block instance is running in the sense of R46: from the release of its reset to its next assertion. -/
def State.running (s : State) (b : Block) (i : Nat) : Bool := s.answers b i

/-! ## Counter units (R353 to R357) -/

/-- Adds to the counters of a unit that select an event; `ok` is the filter of class, port or reason on PMC_EVSEL. -/
def pmcCount (u ev amt : Nat) (ok : Word → Bool) (s : State) : State :=
  if s.svcRuns && s.flag F.PMC_CTL_EN u then
    (List.range 8).foldl (fun t i =>
      let sel := t.regWord .PMC_EVSEL u i
      if fieldOf sel 7 0 = ev && ok sel then
        t.fset F.PMC_CNT_COUNT (t.fget F.PMC_CNT_COUNT u i + amt) u i
      else t) s
  else s

/-- An event without a class filter. -/
def pmcAdd (u ev amt : Nat) (s : State) : State := pmcCount u ev amt (fun _ => true) s

/-- A class mask admits a class; a mask of 0 acts as 0xFF (R357, R360). -/
def classIn (mask tc : Nat) : Bool := decide (mask = 0) || mask.testBit tc

/-- An event marked C in R357. -/
def pmcClass (u ev amt tc : Nat) (s : State) : State := pmcCount u ev amt (fun w => classIn (fieldOf w 15 8) tc) s

/-- An event of the HOST unit, for the selected port (R357). -/
def pmcHost (h ev amt : Nat) (s : State) : State := pmcCount 71 ev amt (fun w => decide (fieldOf w 16 16 = h)) s

/-- A refusal at the NIC unit; REASON 0 counts every reason (R357). -/
def pmcRefusal (reason : Nat) (s : State) : State :=
  pmcCount 68 0x22 1 (fun w => decide (fieldOf w 31 24 = 0) || decide (fieldOf w 31 24 = reason)) s

/-! ## Fabric time (R283, R288) -/

/-- TIM_STATUS.SYNC (R288): synchronized level, the last 4 offsets within 8 ns, no step in 4 periods. The grandmaster has
no offsets to meet (DEDUCED, log entry 14). -/
def State.timeSync (s : State) : Bool :=
  !s.tim.unsync && decide (s.tim.level < 31) &&
    (decide (s.tim.level = 0) ||
      (decide (s.tim.offsets.length = 4) && s.tim.offsets.all (fun o => decide (-8 ≤ o ∧ o ≤ 8)))) &&
    decide (4 ≤ s.tim.sinceStep)

/-! ## The fault collector (R322 to R332) -/

/-- The class of a source (R322): 0 corrected, 1 contained, 2 fatal. -/
def faultClass (n : Nat) : Nat :=
  if n < 8 then 2 else if n < 26 then 1 else if n < 32 then 0 else if n < 48 then 1 else 0

/-- The class a source acts with: FLT_PROMOTE makes it act as fatal; bits 0 to 7 have no effect (R325). -/
def State.actingClass (s : State) (n : Nat) : Nat :=
  if 8 ≤ n && (s.fget F.FLT_PROMOTE_PROMOTE).testBit n then 2 else faultClass n

/-- A source is recordable: contained or fatal, or corrected with FLT_CTL.REC_CORRECTED (R325). -/
def State.recordable (s : State) (n : Nat) : Bool := decide (0 < s.actingClass n) || s.flag F.FLT_CTL_REC_CORRECTED

/-- The first-error record of one error (R326). -/
def firstError (n : Nat) (mid : Mid) (access : Nat) (addr : Word) (s : State) : State :=
  if !s.recordable n then s
  else if s.flag F.FLT_FIRST_INFO_VALID then s.fset F.FLT_FIRST_INFO_MORE 1
  else
    let info := packFields [(0, 0, 1), (13, 8, n), (15, 14, s.actingClass n), (23, 16, mid.toNat), (26, 24, access),
      (27, 27, b2n s.timeSync)]
    ((s.setWord .FLT_FIRST_INFO info 0 0).setWord .FLT_FIRST_ADDR addr 0 0).setWord .FLT_FIRST_TIME s.tim.now 0 0

/-- Muzzle (R329): FLT_MUZZLE records the source and the time; outside STANDBY and SLEEP the router grants nothing, every
lane and host link stops, the PLLs stop, and every packet the chip held is lost. A second fatal source changes nothing
else (R331). -/
def enterMuzzle (n : Nat) (s : State) : State :=
  if s.flt.muzzle then s
  else
    let s := (s.fset F.FLT_MUZZLE_SOURCE n).fset F.FLT_MUZZLE_TIME s.tim.now.toNat
    let s := { s with flt := { s.flt with muzzle := true } }
    if s.pwr.state = .standby ∨ s.pwr.state = .sleep then s
    else
      let s := { s with ports := Vector.replicate 64 portReset, ints := Vector.replicate 4 intReset }
      let s := { s with pwr := { s.pwr with corePll := .off, hostPll := Vector.replicate 2 .off } }
      allHosts.foldl (fun t h => t.modHif h (fun x => { x with linkUp := false, rate := 0, width := 0, flit := false })) s

/-- A source's line rises (R323 to R326), its FAULT event left out: its bit is set, the record taken, and a fatal source
starts Muzzle. -/
def raiseCore (n : Nat) (mid : Mid) (access : Nat) (addr : Word) (s : State) : State :=
  let old := s.fget F.FLT_STATUS_SRC
  let s := s.fset F.FLT_STATUS_SRC (setBitTo old n true)
  let s := { s with flt := { s.flt with alertAck := if old.testBit n then s.flt.alertAck else false } }
  let cls := s.actingClass n
  let s := firstError n mid access addr s
  if cls = 2 then enterMuzzle n s else s

/-! ## Asynchronous events (R186 to R188) -/

/-- Sets or merges the pending entry of a code at one host port: COUNT grows, DATA becomes the latest (R188). -/
def asyncMerge (h : HostPort) (code source : Nat) (data : Word) (s : State) : State :=
  s.modHost h (fun x =>
    let old := tblGet code x.async
    let e : AsyncPend :=
      { count := satAdd 16 (old.elim 0 (·.count)) 1, source := source, data := data,
        time := old.elim s.tim.now (·.time) }
    { x with async := tblSet code e x.async })

/-- Entries of a ring with 2^log slots between two indices (R9). -/
def ringCount (log p c : Nat) : Nat := (p + 2 * 2 ^ log - c % (2 * 2 ^ log)) % (2 * 2 ^ log)

/-- An event queue takes one more decided event: the ring if its stash is empty, or the 64-entry stash (R184, R186). -/
def eqRoom (q : EventQueue) : Bool :=
  decide (q.decided.length < (if q.stash.isEmpty then 2 ^ q.logSize - ringCount q.logSize q.pi q.ci + 64
    else 64 - q.stash.length))

/-- An event found its queue's stash full (R186): EQ_OVF counts it and names the first queue, EQ_OVERFLOW rises and an ASYNC
entry with code 0x04 becomes pending. -/
def eqOverflow (h : HostPort) (eq : Nat) (s : State) : State :=
  let s := if s.flag F.EQ_OVF_FLAG h.val then s
    else (s.fset F.EQ_OVF_EQ eq h.val).fset F.EQ_OVF_FLAG 1 h.val
  let s := s.finc F.EQ_OVF_REFUSED 1 h.val
  asyncMerge h 0x04 (0x40 + h.val) (BitVec.ofNat 64 eq) (raiseCore 29 0xFF#8 0 0#64 s)

/-- An asynchronous event is decided at one host port: it becomes pending, and if the port posts ASYNC entries and their
queue's stash is full, that is an overflow like any other event's (R186, R188) (DESIGN CHOICE, log entry 53). -/
def asyncPost (h : HostPort) (code source : Nat) (data : Word) (s : State) : State :=
  let s := asyncMerge h code source data s
  let eq := s.fget F.EQ_ASYNC_EQ h.val
  match tblGet eq (s.host h).eqs with
  | some q =>
    if s.flag F.EQ_ASYNC_ENABLE h.val && !(s.fget F.EQ_ASYNC_MASK h.val).testBit code && !eqRoom q then eqOverflow h eq s
    else s
  | none => s

/-- An event of scope Chip is posted on both host ports (R187). -/
def asyncChip (code source : Nat) (data : Word) (s : State) : State :=
  allHosts.foldl (fun t h => asyncPost h code source data t) s

/-- Applies a change of fabric time and posts TIME_SYNC if SYNC changed (R288). -/
def withTimeSync (f : State → State) (s : State) : State :=
  let t := f s
  if t.timeSync = s.timeSync then t else asyncChip 0x0B 0 (BitVec.ofNat 64 (b2n t.timeSync)) t

/-- A source's line rises (R323 to R326): what `raiseCore` does, and a FAULT event on a contained source's bit rising. -/
def raiseFaultBy (n : Nat) (mid : Mid) (access : Nat) (addr : Word) (s : State) : State :=
  let rises := s.actingClass n = 1 && !(s.fget F.FLT_STATUS_SRC).testBit n
  let s := raiseCore n mid access addr s
  if rises then asyncChip 0x06 0 (BitVec.ofNat 64 n) s else s

/-- A source raised by no master and no access (R326: MID 0xFF, ACCESS 0x0) (DESIGN CHOICE, log entry 51). -/
def raiseFault (n : Nat) (s : State) : State := raiseFaultBy n 0xFF#8 0 0#64 s

/-- A register-access error (REG_ACCESS, R322): master, ACCESS code and BAR0 offset. -/
def regAccessError (mid : Mid) (access off : Nat) (s : State) : State :=
  raiseFaultBy 10 mid access (BitVec.ofNat 64 off) s

/-- FAULT_N is driven low (R327). Bits 0 to 7 of FLT_FAULTN_EN read as 1. -/
def State.faultN (s : State) : Bool :=
  s.flt.muzzle || decide ((s.fget F.FLT_STATUS_SRC) &&& ((s.fget F.FLT_FAULTN_EN_EN) ||| 0xFF) ≠ 0)

/-- ALERT_N is asserted (R328). -/
def State.alertN (s : State) : Bool :=
  !s.flt.alertAck && decide ((s.fget F.FLT_STATUS_SRC) &&& (s.fget F.FLT_ALERT_EN_EN) ≠ 0)

/-- The DX64 halts a host-port function (R175, R176): HIF_HALT records the cause and its place, one MSI-X message goes out
on HALT_VECTOR, HOST_HALT rises, and the other port learns of it (PEER_HALTED, R187). The MSI-X message itself is sent by
`haltHost` in Machine/HostOps.lean; this is the record. -/
def recordHalt (h : HostPort) (cause wq : Nat) (admin eq : Bool) (idx : Nat) (s : State) : State :=
  s.setWord .HIF_HALT (packFields [(7, 0, cause), (21, 8, wq), (22, 22, b2n admin), (39, 23, idx), (40, 40, b2n eq)]) h.val 0

end Sys2Proof.Machine
end

