-- ==== Sys2Proof/Machine/PacketOps.lean ====
section
/-! DEFINITION. Packets as bytes and fields (R97 to R112): the routing words, the body, lengths, credits, the packet CRC and
the packets the chip builds. -/

namespace Sys2Proof.Machine

/-- LEN: the packet's bytes. -/
def pktLen (p : Packet) : Nat := 16 + p.body.length

/-- The packet as it stands on the wire (R4, R97). -/
def pktBytes (p : Packet) : Bytes := leBytes 8 p.w0.toNat ++ leBytes 8 p.w1.toNat ++ p.body

/-- The packet that bytes spell. -/
def pktOfBytes (bs : Bytes) : Packet :=
  { w0 := BitVec.ofNat 64 (leAt bs 0 8), w1 := BitVec.ofNat 64 (leAt bs 8 8), body := bs.drop 16 }

/-! ## Routing header (R97) -/

/-- FMT. -/
def pktFmt (p : Packet) : Nat := fieldOf p.w0 3 0
/-- TC. -/
def pktTc (p : Packet) : Nat := fieldOf p.w0 6 4
/-- EPOCH. -/
def pktEpoch (p : Packet) : Nat := fieldOf p.w0 7 7
/-- The age in ns, bits [23:8]. -/
def pktAge (p : Packet) : Nat := fieldOf p.w0 23 8
/-- DST_CHIP. -/
def pktDstChip (p : Packet) : Nat := fieldOf p.w0 41 24
/-- SRC_CHIP. -/
def pktSrcChip (p : Packet) : Nat := fieldOf p.w0 59 42
/-- DEFL. -/
def pktDefl (p : Packet) : Nat := fieldOf p.w0 63 60
/-- DST_EP. -/
def pktDstEp (p : Packet) : Nat := fieldOf p.w1 23 0
/-- SRC_EP. -/
def pktSrcEp (p : Packet) : Nat := fieldOf p.w1 47 24
/-- OPCODE. -/
def pktOpcode (p : Packet) : Nat := fieldOf p.w1 55 48
/-- LAST. -/
def pktLast (p : Packet) : Bool := bitOf p.w1 57
/-- ACK_NOW. -/
def pktAckNow (p : Packet) : Bool := bitOf p.w1 58
/-- CAPTURE. -/
def pktCapture (p : Packet) : Bool := bitOf p.w1 59
/-- RETX. -/
def pktRetx (p : Packet) : Bool := bitOf p.w1 60

/-- The packet with another EPOCH. -/
def pktSetEpoch (p : Packet) (v : Nat) : Packet := { p with w0 := putField p.w0 7 7 v }
/-- The packet with another age, saturating at 65,535 ns (R99). -/
def pktSetAge (p : Packet) (v : Nat) : Packet := { p with w0 := putField p.w0 23 8 (min 65535 v) }
/-- The packet with DEFL one higher, saturating at 15 (R97). -/
def pktDeflect (p : Packet) : Packet := { p with w0 := putField p.w0 63 60 (min 15 (pktDefl p + 1)) }
/-- The packet marked as bounced (R97). -/
def pktSetBounced (p : Packet) : Packet := { p with w1 := putField p.w1 61 61 1 }
/-- The packet marked as sent before (R106). -/
def pktSetRetx (p : Packet) : Packet := { p with w1 := putField p.w1 60 60 1 }

/-- `n` bytes at packet byte `off`, for `off` at least 16, as a number. -/
def pktAt (p : Packet) (off n : Nat) : Nat := leAt p.body (off - 16) n

/-- Bytes `off` to `off + n - 1` of the packet, for `off` at least 16. -/
def pktSlice (p : Packet) (off n : Nat) : Bytes := padTo n ((p.body.drop (off - 16)).take n)

/-! ## Lengths and credits (R83, R98, R102, R103) -/

/-- PLEN of a long data packet. -/
def pktPlen (p : Packet) : Nat := pktAt p 19 2 % 8192

/-- The padded payload length of R102. -/
def padLen (plen : Nat) : Nat := max 24 (8 * ceilDiv plen 8)

/-- FMT and LEN obey R98. -/
def pktLenOk (p : Packet) : Bool :=
  match pktFmt p with
  | 1 => decide (pktLen p = 64)
  | 2 => decide (pktLen p = 32 + padLen (pktPlen p) + 8)
  | 3 => decide (pktLen p = 40 + max 16 (pktAt p 28 2) + 8)
  | _ => false

/-- Header and data credits of the frame that carries a packet (R83). -/
def pktCredits (p : Packet) : Nat × Nat :=
  if pktLenOk p then
    match pktFmt p with
    | 1 => (3, 0)
    | 2 => (2, ceilDiv (pktLen p - 32) 64)
    | _ => (2, ceilDiv (pktLen p - 40) 64)
  else (ceilDiv (12 + pktLen p) 32, 0)

/-! ## Packet CRC (R105) -/

/-- The bytes PCRC covers, with the fields a chip may change in transit taken as 0. -/
def pcrcBytes (p : Packet) : Bytes :=
  leBytes 8 (putField (putField p.w0 23 7 0) 63 60 0).toNat ++ leBytes 8 (putField p.w1 61 61 0).toNat ++
    p.body.take (p.body.length - 8)

/-- The packet passes its PCRC. -/
def pcrcOk (p : Packet) : Bool := leNat (p.body.drop (p.body.length - 8)) == crc64 (pcrcBytes p)

/-- The packet with its last 8 bytes set to its PCRC. -/
def withPcrc (p : Packet) : Packet :=
  { p with body := p.body.take (p.body.length - 8) ++ leBytes 8 (crc64 (pcrcBytes p)) }

/-! ## Packets the chip builds -/

/-- Word 0 of a packet handed to an internal port: age 0 (R99); EPOCH is written at the grant (R140). -/
def newW0 (fmt tc dst src : Nat) : Word := packFields [(3, 0, fmt), (6, 4, tc), (41, 24, dst), (59, 42, src)]

/-- Word 1 of a packet. -/
def newW1 (dstEp srcEp op : Nat) (first last ackNow : Bool) : Word :=
  packFields [(23, 0, dstEp), (47, 24, srcEp), (55, 48, op), (56, 56, b2n first), (57, 57, b2n last),
    (58, 58, b2n ackNow)]

/-- Bytes 16 to 63 of a short control packet (R100), PCRC still 0. -/
def shortBody (pseq b19 aux offset wkey : Nat) (data0 data1 : Bytes) : Bytes :=
  leBytes 3 pseq ++ leBytes 1 b19 ++ leBytes 2 aux ++ leBytes 6 offset ++ leBytes 4 wkey ++ padTo 16 data0 ++
    padTo 8 data1 ++ leBytes 8 0

/-- Bytes 16 to LEN - 1 of a long data packet (R102): the 16 bytes of its own header, the padded payload, PCRC still 0. -/
def longBody (head payload : Bytes) : Bytes :=
  padTo 16 head ++ padTo (padLen payload.length) payload ++ leBytes 8 0

/-- A whole packet with its PCRC. -/
def mkPkt (w0 w1 : Word) (body : Bytes) : Packet := withPcrc { w0 := w0, w1 := w1, body := body }

/-- PSEQ of a sequenced packet. -/
def pktPseq (p : Packet) : Nat := pktAt p 16 3

/-- The opcodes of R104 with the format each belongs to and whether it is sequenced; COL and COL_DATA have Sheepdog's own
sequence. -/
def opcodeRow (op : Nat) : Option (Nat × Bool) :=
  match op with
  | 0x01 | 0x02 | 0x03 | 0x04 | 0x05 | 0x06 | 0x07 | 0x0A | 0x0B => some (1, true)
  | 0x08 | 0x09 | 0x0C | 0x0D => some (1, false)
  | 0x21 | 0x22 | 0x23 | 0x24 => some (2, true)
  | 0x25 | 0x26 => some (2, false)
  | 0x40 => some (3, true)
  | _ => none

end Sys2Proof.Machine
end

