-- ==== Sys2Proof/Machine/CapOps.lean ====
section
/-! DEFINITION. Header capture (R359 to R363): filters, entries and the capture ring. -/

namespace Sys2Proof.Machine

/-- An event at a capture point (R359). `port` is 0 to 63 for a network port and 0x40 + n for IPn. -/
structure CapEvent where
  point : Nat
  port  : Nat
  cause : Nat
  dwell : Nat
  pkt   : Packet
deriving DecidableEq, Repr

/-- log2 of the entries the ring may have at most: the region's size and 1 MiB bound it (R362). A region of 0 bytes
leaves a ring of one entry, which no capture of R9 fits (DESIGN CHOICE, log entry 76). -/
def capMaxLog (s : State) : Nat := (min (s.image.elim 0 (·.part.capture)) 1048576 / 64).log2

/-- log2 of the ring's entries (R362). -/
def capLog (s : State) : Nat := min s.cap.logSize (capMaxLog s)

/-- Entries in the ring (R9). -/
def capCount (s : State) : Nat :=
  let n2 := 2 * 2 ^ capLog s
  (s.fget F.CAP_PI_PI + n2 - s.fget F.CAP_CI_CI % n2) % n2

/-- Filter `k` selects an event, before sampling (R360). -/
def capMatches (s : State) (k : Nat) (e : CapEvent) : Bool :=
  let chip := if s.flag F.CAP_FILT_A_CHIP_DST 0 k then pktDstChip e.pkt else pktSrcChip e.pkt
  s.flag F.CAP_FILT_A_EN 0 k && (s.fget F.CAP_FILT_A_POINTS 0 k * 2).testBit e.point &&
    (decide (s.fget F.CAP_FILT_A_PORT 0 k = 0x7F) || decide (s.fget F.CAP_FILT_A_PORT 0 k = e.port)) &&
    classIn (s.fget F.CAP_FILT_A_TC_MASK 0 k) (pktTc e.pkt) &&
    (!s.flag F.CAP_FILT_A_NEED_FLAG 0 k || pktCapture e.pkt) &&
    (!s.flag F.CAP_FILT_A_OPCODE_EN 0 k || decide (s.fget F.CAP_FILT_A_OPCODE 0 k = pktOpcode e.pkt)) &&
    decide ((chip ^^^ s.fget F.CAP_FILT_B_CHIP 0 k) &&& s.fget F.CAP_FILT_B_CHIP_MASK 0 k = 0)

/-- The capture entry of an event (R359), IDX excepted. -/
def capEntry (s : State) (filter : Nat) (e : CapEvent) : Bytes :=
  (pktBytes e.pkt).take 32 ++ leBytes 8 s.tim.now.toNat ++ leBytes 1 e.point ++ leBytes 1 e.port ++ leBytes 1 e.cause ++
    leBytes 1 (filter + 4 * b2n s.timeSync) ++ leBytes 3 s.chip ++ leBytes 1 (min 255 e.dwell) ++
    leBytes 2 (pktLen e.pkt) ++ leBytes 6 0 ++ leBytes 4 0 ++ leBytes 4 0

/-- Writes an entry whole and then advances PI (R362). -/
def capPlace (entry : Bytes) (s : State) : State :=
  let n := 2 ^ capLog s
  let pi := s.fget F.CAP_PI_PI
  let bytes := patchBytes entry 56 (leBytes 4 pi)
  { s with cap := { s.cap with mem := ramWrite s.cap.mem (64 * (pi % n)) bytes } }.fset F.CAP_PI_PI ((pi + 1) % (2 * n))

/-- An entry arrives at the ring: it is written, or with the ring full dropped (STOP) or written over the oldest
(OVERWRITE) (R362). -/
def capAppend (entry : Bytes) (s : State) : State :=
  let n := 2 ^ capLog s
  if capCount s < n then capPlace entry s
  else if s.cap.overwrite then
    let s := s.fset F.CAP_CI_CI ((s.fget F.CAP_CI_CI + 1) % (2 * n))
    capPlace entry ((s.finc F.CAP_STATUS_LOST 1).fset F.CAP_STATUS_LAPPED 1)
  else s.finc F.CAP_STATUS_LOST 1

/-- Counts the matches of every filter on one event and gives the lowest filter that keeps it (R360). -/
def capSelect (s : State) (e : CapEvent) : State × Option Nat :=
  [0, 1, 2, 3].foldl (fun (acc : State × Option Nat) (k : Nat) =>
    if capMatches acc.1 k e then
      let c := acc.1.cap.matched.toList.getD k 0
      let t := { acc.1 with cap := { acc.1.cap with matched := acc.1.cap.matched.setIfInBounds k (c + 1) } }
      (t, if acc.2.isNone && c % 2 ^ acc.1.fget F.CAP_FILT_A_SAMPLE 0 k = 0 then some k else acc.2)
    else acc) (s, none)

/-- The events of one CORE_CLK cycle: at most two are taken, those of the lowest filter and then of the lowest port; each
other selected event is counted in RATE_DROP (R361). The events of one command are one cycle's (DESIGN CHOICE, log entry 20). -/
def capture (es : List CapEvent) (s : State) : State :=
  if s.svcRuns && s.flag F.CAP_CTL_EN then
    let sel := es.foldl (fun (acc : State × List (Nat × CapEvent)) (e : CapEvent) =>
      let r := capSelect acc.1 e
      (r.1, match r.2 with | some k => acc.2 ++ [(k, e)] | none => acc.2)) (s, [])
    let order := (List.range 4).flatMap (fun k =>
      (List.range 68).flatMap (fun p => sel.2.filter (fun x => x.1 == k && x.2.port == p)))
    let taken := order.take 2
    let s := taken.foldl (fun (t : State) (x : Nat × CapEvent) =>
      pmcAdd x.2.port 0x1A 1 (capAppend (capEntry t x.1 x.2) t)) sel.1
    s.finc F.CAP_STATUS_RATE_DROP (order.length - taken.length)
  else s

end Sys2Proof.Machine
end

