-- ==== Sys2Proof/Machine/CodeOps.lean ====
section
/-! DEFINITION. The 8b/10b line code (R51, R52), the columns, delimiters and ordered sets it carries (R53, R54), and the PRBS-31
pattern (R66). A code group is ten bits, abcdeifghj from the most significant bit down; `true` is positive disparity. -/

namespace Sys2Proof.Machine

/-! ## Characters and their sub-blocks (R51) -/

/-- A character: D.x.y, or K.x.y where `k`. -/
structure Char10 where
  k : Bool
  x : Nat
  y : Nat
deriving DecidableEq, Repr

/-- The data character of a byte. -/
def dataChar (b : Byte) : Char10 := { k := false, x := b.toNat % 32, y := b.toNat / 32 }

/-- The byte of a data character. -/
def charByte (c : Char10) : Byte := BitVec.ofNat 8 (c.x + 32 * c.y)

/-- K.x.y. -/
def kChar (x y : Nat) : Char10 := { k := true, x := x, y := y }

/-- The 5b/6b sub-blocks abcdei of x = 0 to 31: at RD−, at RD+. -/
def sixTable : List (Nat × Nat) :=
  [(0b100111, 0b011000), (0b011101, 0b100010), (0b101101, 0b010010), (0b110001, 0b110001), (0b110101, 0b001010),
   (0b101001, 0b101001), (0b011001, 0b011001), (0b111000, 0b000111), (0b111001, 0b000110), (0b100101, 0b100101),
   (0b010101, 0b010101), (0b110100, 0b110100), (0b001101, 0b001101), (0b101100, 0b101100), (0b011100, 0b011100),
   (0b010111, 0b101000)] ++
  [(0b011011, 0b100100), (0b100011, 0b100011), (0b010011, 0b010011), (0b110010, 0b110010), (0b001011, 0b001011),
   (0b101010, 0b101010), (0b011010, 0b011010), (0b111010, 0b000101), (0b110011, 0b001100), (0b100110, 0b100110),
   (0b010110, 0b010110), (0b110110, 0b001001), (0b001110, 0b001110), (0b101110, 0b010001), (0b011110, 0b100001),
   (0b101011, 0b010100)]

/-- The sub-block abcdei of K28. -/
def sixK28 : Nat × Nat := (0b001111, 0b110000)

/-- The 3b/4b sub-blocks fghj of data, y = 0 to 7 with P7: at RD−, at RD+. -/
def fourData : List (Nat × Nat) :=
  [(0b1011, 0b0100), (0b1001, 0b1001), (0b0101, 0b0101), (0b1100, 0b0011), (0b1101, 0b0010), (0b1010, 0b1010),
   (0b0110, 0b0110), (0b1110, 0b0001)]

/-- The sub-block A7. -/
def fourA7 : Nat × Nat := (0b0111, 0b1000)

/-- The 3b/4b sub-blocks fghj of K codes. -/
def fourK : List (Nat × Nat) :=
  [(0b1011, 0b0100), (0b0110, 0b1001), (0b1010, 0b0101), (0b1100, 0b0011), (0b1101, 0b0010), (0b0101, 0b1010),
   (0b1001, 0b0110), (0b0111, 0b1000)]

/-- The column of a running disparity. -/
def column (rd : Bool) (e : Nat × Nat) : Nat := if rd then e.2 else e.1

/-- abcdei of a character. -/
def sixOf (rd : Bool) (c : Char10) : Nat := column rd (if c.k && c.x == 28 then sixK28 else sixTable.getD c.x (0, 0))

/-- Data with y = 7 uses A7 at this disparity at the start of fghj. -/
def usesA7 (rd : Bool) (x : Nat) : Bool := if rd then [11, 13, 14].contains x else [17, 18, 20].contains x

/-- fghj of a character. -/
def fourOf (rd : Bool) (c : Char10) : Nat :=
  column rd (if c.k then fourK.getD c.y (0, 0) else if c.y == 7 && usesA7 rd c.x then fourA7 else fourData.getD c.y (0, 0))

/-- Running disparity after a sub-block of `n` bits (R52). -/
def rdAfter (n v : Nat) (rd : Bool) : Bool :=
  let ones := popCount n v
  if n < 2 * ones || (n == 6 && v == 0b000111) || (n == 4 && v == 0b0011) then true
  else if 2 * ones < n || (n == 6 && v == 0b111000) || (n == 4 && v == 0b1100) then false
  else rd

/-- Running disparity after a code group (R52). -/
def rdAfterGroup (g : BitVec 10) (rd : Bool) : Bool := rdAfter 4 (g.toNat % 16) (rdAfter 6 (g.toNat / 16) rd)

/-- The code group of a character at a running disparity (R51). -/
def encodeChar (rd : Bool) (c : Char10) : BitVec 10 :=
  let six := sixOf rd c
  BitVec.ofNat 10 (16 * six + fourOf (rdAfter 6 six rd) c)

/-- The code groups of characters on one lane and the running disparity after them. -/
def encodeLane (rd : Bool) : List Char10 → List (BitVec 10) × Bool
  | [] => ([], rd)
  | c :: cs =>
    let g := encodeChar rd c
    let r := encodeLane (rdAfterGroup g rd) cs
    (g :: r.1, r.2)

/-! ## Decoding (R52) -/

/-- The K codes in use (R53): K28.0 to K28.6, K23.7, K27.7, K29.7, K30.7. K28.7 is not among them. -/
def kCodes : List Char10 := (List.range 7).map (kChar 28) ++ [kChar 23 7, kChar 27 7, kChar 29 7, kChar 30 7]

/-- The characters whose sub-blocks a code group may hold in some column. -/
def charsLike (g : BitVec 10) : List Char10 :=
  let six := g.toNat / 16
  let four := g.toNat % 16
  let x := sixTable.findIdx? (fun e => e.1 == six || e.2 == six)
  let y := if four == fourA7.1 || four == fourA7.2 then some 7 else fourData.findIdx? (fun e => e.1 == four || e.2 == four)
  let data := match x, y with
    | some x, some y => [{ k := false, x := x, y := y }]
    | _, _ => []
  data ++ kCodes.filter (fun c => if c.x == 28 then six == sixK28.1 || six == sixK28.2 else x == some c.x)

/-- The character a code group stands for at a running disparity. -/
def charAt (rd : Bool) (g : BitVec 10) : Option Char10 := (charsLike g).find? (fun c => encodeChar rd c == g)

/-- What a receiver makes of a code group (R52): a character, a disparity error (the character of the other disparity), or a
code violation. -/
inductive Heard
  | char (c : Char10)
  | disparity (c : Char10)
  | violation
deriving DecidableEq, Repr

/-- Decodes one code group. -/
def decodeGroup (rd : Bool) (g : BitVec 10) : Heard :=
  match charAt rd g with
  | some c => .char c
  | none => match charAt (!rd) g with
    | some c => .disparity c
    | none => .violation

/-- Decodes the code groups of one lane; after an error the disparity follows the code group received. -/
def decodeLane (rd : Bool) : List (BitVec 10) → List Heard × Bool
  | [] => ([], rd)
  | g :: gs =>
    let r := decodeLane (rdAfterGroup g rd) gs
    (decodeGroup rd g :: r.1, r.2)

/-- The character a code group is taken for, if it is taken for one. -/
def heardChar : Heard → Option Char10
  | .char c | .disparity c => some c
  | .violation => none

/-- A code violation or a disparity error. -/
def heardError : Heard → Bool
  | .char _ => false
  | _ => true

/-! ## A frame's columns (R53, R54, R69) -/

/-- SOF, EOF and ABT. -/
def charSof : Char10 := kChar 27 7
/-- End of frame. -/
def charEof : Char10 := kChar 29 7
/-- The frame in progress is abandoned. -/
def charAbt : Char10 := kChar 28 0
/-- CR. -/
def charCr : Char10 := kChar 28 2
/-- TEX. -/
def charTex : Char10 := kChar 30 7

/-- The byte a code group within a frame gives; a code group that is no data character gives an open value (R52; DESIGN CHOICE,
log entry 77). -/
def frameByte (h : Heard) : Byte :=
  match heardChar h with
  | some c => if c.k then Config.badByte else charByte c
  | none => Config.badByte

/-- The frame bytes of one lane between SOF and EOF and the errors among them: CR and TEX sets are removed, and any other K code
stands outside its place (R54). `skip` counts the columns left of a set being removed. -/
def laneBytes : Nat → List Heard → Bytes × Nat
  | _, [] => ([], 0)
  | skip + 1, h :: t =>
    let r := laneBytes skip t
    (r.1, r.2 + b2n (heardError h))
  | 0, h :: t =>
    if heardChar h = some charCr ∨ heardChar h = some charTex then
      let r := laneBytes 3 t
      (r.1, r.2 + b2n (heardError h))
    else
      let r := laneBytes 0 t
      (frameByte h :: r.1, r.2 + b2n (heardError h || (heardChar h).any (·.k)))

/-- The bytes of a frame on one lane with its errors: it opens with SOF and, where its tail has arrived, closes with EOF. -/
def laneFrame (tail : Bool) (hs : List Heard) : Bytes × Nat :=
  let first := hs.take 1
  let body := (hs.drop 1).take (hs.length - 1 - b2n tail)
  let last := if tail then (hs.drop 1).drop (hs.length - 2) else []
  let r := laneBytes 0 body
  let misplaced := (first.filter (· != .char charSof)).length + (last.filter (· != .char charEof)).length
  (r.1, r.2 + misplaced)

/-- Bytes striped across lanes, in lane order (R53). -/
def unstripe (lanes : List Bytes) : Bytes :=
  (List.range ((lanes.map (·.length)).foldl max 0)).flatMap (fun c => lanes.map (byteAt · c))

/-- The bytes that lane `i` of `n` carries. -/
def stripe (n i : Nat) (bytes : Bytes) : Bytes := (List.range (ceilDiv bytes.length n)).map (fun c => byteAt bytes (n * c + i))

/-- The characters of a frame on lane `i` of `n`: SOF, its bytes padded to whole columns with 0x00, and EOF or ABT (R69). -/
def frameChars (n i : Nat) (bytes : Bytes) (abt : Bool) : List Char10 :=
  charSof :: (stripe n i bytes).map dataChar ++ [if abt then charAbt else charEof]

/-! ## Ordered sets (R53) -/

/-- D10.2, the fill of unused data bytes. -/
def fillByte : Byte := 0x4A#8

/-- One ordered set on one lane: its K code and its bytes, filled with D10.2. -/
def setChars (c : Char10) (bytes : Bytes) : List Char10 := c :: ((bytes ++ List.replicate 3 fillByte).take 3).map dataChar

/-- An IDL set. -/
def idlChars : List Char10 := setChars (kChar 28 5) []

/-- `n` sets in a row. -/
def timesChars (n : Nat) (l : List Char10) : List Char10 := (List.replicate n l).flatten

/-- The characters of an ordered set on lane `lane`, the `i`-th of the lanes that carry it. -/
def orderedChars (o : OrderedSet) (lane i : Nat) : List Char10 :=
  let b := fun (n : Nat) => BitVec.ofNat 8 n
  match o with
  | .ts1 rate => idlChars ++ setChars (kChar 28 1) [b (lane + 16), b rate]
  | .ts2 mask n => timesChars n (setChars (kChar 28 1) [b (lane + 32), b mask, b (mask / 256)])
  | .lve reason n => timesChars n (setChars (kChar 23 7) [b reason])
  | .slp n => timesChars n (setChars (kChar 28 4) [])
  | .wak n => timesChars n (setChars (kChar 28 6) [])
  | .wch width group n => timesChars n (setChars (kChar 28 3) [b (width + 4 * group)])
  | .cr set => setChars charCr ((set.drop (3 * (i % 4))).take 3)
  | .tex set => setChars charTex ((set.drop (3 * (i % 4))).take 3)

/-! ## What a port sends, in code groups -/

/-- The lanes of a mask, lowest first. -/
def lanesIn (mask : Nat) : List Nat := (List.range 16).filter mask.testBit

/-- The disparity of a lane when its next column leaves: that after the last columns of the model's, or the other where an odd
number of IDL sets, each of which turns it, has filled the time between (DESIGN CHOICE, log entry 77). -/
def txDisparity (s : State) (p : NetPort) (lane : Nat) : Bool :=
  (s.port p).lane.txRd.getLsbD lane != Config.idleOdd s.out.length

/-- The code groups of characters given for each lane of a mask (by lane and by place among the lanes), and the disparities after
them. -/
def codeLanes (s : State) (p : NetPort) (mask : Nat) (f : Nat → Nat → List Char10) : List (Nat × List (BitVec 10)) × BitVec 16 :=
  let lanes := lanesIn mask
  let rs := lanes.zipIdx.map (fun e => (e.1, encodeLane (txDisparity s p e.1) (f e.1 e.2)))
  (rs.map (fun r => (r.1, r.2.1)),
    BitVec.ofNat 16 ((List.range 16).map (fun k =>
      2 ^ k * b2n (((rs.find? (fun r => r.1 == k)).map (·.2.2)).getD (txDisparity s p k)))).sum)

/-- An ordered set leaves on the lanes of a mask (R53). -/
def sendSetOn (p : NetPort) (mask : Nat) (o : OrderedSet) (s : State) : State :=
  let r := codeLanes s p mask (orderedChars o)
  (s.emit (.ordered p o r.1)).modLane p (fun l => { l with txRd := r.2 })

/-- Lanes of a width code (R58). -/
def lanesOf (width : Nat) : Nat := 16 / 2 ^ width

/-- The lanes of a group as a mask (R58). -/
def groupMask (width group : Nat) : Nat := (2 ^ lanesOf width - 1) * 2 ^ (lanesOf width * group)

/-- The lanes a port sends on. -/
def txLanes (l : LaneState) : Nat := groupMask l.txWidth l.txGroup

/-- An ordered set leaves on the active lanes; a CR or TEX set is repeated on each further group of four (R53, R72). -/
def sendSet (p : NetPort) (o : OrderedSet) (s : State) : State := sendSetOn p (txLanes (s.port p).lane) o s

/-- A frame leaves on the active lanes, padded to whole columns (R53, R69). -/
def sendFrame (p : NetPort) (bytes : Bytes) (abt : Bool) (s : State) : State :=
  let mask := txLanes (s.port p).lane
  let n := (lanesIn mask).length
  let r := codeLanes s p mask (fun _ i => frameChars n i bytes abt)
  (s.emit (.frame p bytes abt r.1)).modLane p (fun l => { l with txRd := r.2 })

/-! ## What a port receives, in code groups -/

/-- A frame read from the code groups of its lanes: its bytes, each lane's errors, and the receiver's disparities after it. -/
structure FrameRead where
  bytes : Bytes
  errs  : List (Nat × Nat)
  rd    : BitVec 16
deriving DecidableEq, Repr

/-- Reads a frame (R51 to R54). `turned` marks the lanes whose disparity the sets between the last columns and these have turned;
the lists stand for the active lanes in lane order. -/
def readFrame (l : LaneState) (turned : BitVec 16) (groups : List (List (BitVec 10))) (tail : Bool) : FrameRead :=
  let rd := l.rxRd ^^^ turned
  let lanes := (lanesIn (groupMask l.rxWidth l.rxGroup)).zip groups
  let rs := lanes.map (fun e =>
    let d := decodeLane (rd.getLsbD e.1) (if l.reversed.getLsbD e.1 then e.2.map (~~~ ·) else e.2)
    (e.1, laneFrame tail d.1, d.2))
  { bytes := unstripe (rs.map (·.2.1.1)), errs := rs.map (fun r => (r.1, r.2.1.2)),
    rd := BitVec.ofNat 16 ((List.range 16).map (fun k =>
      2 ^ k * b2n (((rs.find? (fun r => r.1 == k)).map (·.2.2)).getD (rd.getLsbD k)))).sum }

/-! ## PRBS-31 (R66) -/

/-- The next bit of x³¹ + x²⁸ + 1 after the last 31 bits, the newest in bit 0. -/
def prbsBit (h : BitVec 31) : Bool := h.getLsbD 30 != h.getLsbD 27

/-- A bit follows the last 31. -/
def prbsShift (h : BitVec 31) (b : Bool) : BitVec 31 := (h <<< 1) ||| BitVec.ofNat 31 (b2n b)

/-- The next `n` bits, least significant bit first, and the history after them. -/
def prbsBits : Nat → BitVec 31 → Nat × BitVec 31
  | 0, h => (0, h)
  | n + 1, h =>
    let b := prbsBit h
    let r := prbsBits n (prbsShift h b)
    (b2n b + 2 * r.1, r.2)

/-- `n` bytes of the generator. -/
def prbsBytes : Nat → BitVec 31 → Bytes
  | 0, _ => []
  | n + 1, h =>
    let r := prbsBits 8 h
    BitVec.ofNat 8 r.1 :: prbsBytes n r.2

/-- A self-synchronizing checker takes one byte: the history of received bits, and whether every bit was the one the bits before it
foretell. -/
def prbsCheck : Nat → Nat → BitVec 31 → BitVec 31 × Bool
  | 0, _, h => (h, true)
  | n + 1, v, h =>
    let r := prbsCheck n (v / 2) (prbsShift h (v % 2 == 1))
    (r.1, r.2 && (prbsBit h == (v % 2 == 1)))

/-- The characters a compliance pattern starts with on a lane, before they repeat: 1,024 PRBS columns and an IDL set, D21.5, or
K28.7. -/
def patternChars (pattern : Nat) (p lane : Nat) : List Char10 :=
  if pattern = 0 then (prbsBytes 1024 (Config.prbsStart p lane)).map dataChar ++ idlChars
  else if pattern = 1 then [{ k := false, x := 21, y := 5 }]
  else [kChar 28 7]

end Sys2Proof.Machine
end

