-- ==== Sys2Proof/Machine/LinkOps.lean ====
section
/-! DEFINITION. The link layer (R69 to R96): frames, control sets, sequence numbers, credits, the error window, departures and
admission. -/

namespace Sys2Proof.Machine

/-! ## Shares and credits (R83 to R88) -/

/-- Ports whose role is network or spare (R88). -/
def imgSharers (img : ImageDesc) : Nat :=
  ((List.range 64).filter (fun p => (imgPort img p).role != .disabled)).length

/-- A port's share of a region: the region divided by the sharers, rounded down to 64 KiB (R88). -/
def portShare (img : ImageDesc) (p region : Nat) : Nat :=
  if (imgPort img p).role = .disabled then 0 else region / imgSharers img / 65536 * 65536

/-- The staging share in bytes. -/
def stagingShare (s : State) (p : NetPort) : Nat := s.image.elim 0 (fun img => portShare img p.val img.part.staging)

/-- The replay share in bytes. -/
def replayShare (s : State) (p : NetPort) : Nat := s.image.elim 0 (fun img => portShare img p.val img.part.replay)

/-- The bytes an allotment of credits stands for (R88). -/
def allotBytes (cs : List ClassShare) : Nat := (cs.map (fun c => 32 * c.hdr + 64 * c.data)).sum

/-- What a port advertises (R88): the image's allotment, scaled down in proportion where it exceeds the staging share, with
at least 1 header credit per class; and whether it was scaled. -/
def advertised (s : State) (p : NetPort) : List ClassShare × Bool :=
  let cs := s.image.elim [] (·.classes)
  let total := allotBytes cs
  let share := stagingShare s p
  if total ≤ share then (cs, false)
  else (cs.map (fun c => { hdr := max 1 (c.hdr * share / total), data := c.data * share / total }), true)

/-- Credits of a class and kind a transmitter has (R84). -/
def creditsLeft (adv : Nat) (ret used : BitVec 16) : Nat := (adv + ret.toNat + 65536 - used.toNat) % 65536

/-- Header credits available. -/
def hdrLeft (c : ClassCredit) : Nat := creditsLeft c.hdrAdv c.hdrRet c.hdrUsed

/-- Data credits available. -/
def dataLeft (c : ClassCredit) : Nat := creditsLeft c.dataAdv c.dataRet c.dataUsed

/-- Credit counts of a class. -/
def creditOf (l : LinkState) (tc : Nat) : ClassCredit := l.credits.toList.getD tc creditReset

/-- Changes the credit counts of a class. -/
def modCredit (tc : Nat) (f : ClassCredit → ClassCredit) (l : LinkState) : LinkState :=
  { l with credits := l.credits.setIfInBounds tc (f (creditOf l tc)) }

/-- Debits the credits of a packet at its grant (R84). -/
def debit (pkt : Packet) (tc : Nat) (l : LinkState) : LinkState :=
  modCredit tc (fun c => { c with hdrUsed := c.hdrUsed + BitVec.ofNat 16 (pktCredits pkt).1,
                                  dataUsed := c.dataUsed + BitVec.ofNat 16 (pktCredits pkt).2 }) l

/-- Restores the credits debited for a packet (R81, R132). -/
def undebit (pkt : Packet) (tc : Nat) (l : LinkState) : LinkState :=
  modCredit tc (fun c => { c with hdrUsed := c.hdrUsed - BitVec.ofNat 16 (pktCredits pkt).1,
                                  dataUsed := c.dataUsed - BitVec.ofNat 16 (pktCredits pkt).2 }) l

/-- The receiver's staging takes a packet's credits. -/
def stageIn (pkt : Packet) (tc : Nat) (l : LinkState) : LinkState :=
  modCredit tc (fun c => { c with hdrHeld := c.hdrHeld + (pktCredits pkt).1, dataHeld := c.dataHeld + (pktCredits pkt).2 }) l

/-- A packet leaves staging without its credits being returned (R81, R85). -/
def stageDrop (pkt : Packet) (tc : Nat) (l : LinkState) : LinkState :=
  modCredit tc (fun c => { c with hdrHeld := c.hdrHeld - (pktCredits pkt).1, dataHeld := c.dataHeld - (pktCredits pkt).2 }) l

/-- Room for a packet's credits in the receiver's staging of its class (R87). -/
def stageRoom (pkt : Packet) (tc : Nat) (l : LinkState) : Bool :=
  let c := creditOf l tc
  decide (c.hdrHeld + (pktCredits pkt).1 ≤ c.hdrOwn) && decide (c.dataHeld + (pktCredits pkt).2 ≤ c.dataOwn)

/-! ## Sequence numbers (R74 to R76) -/

/-- How far `a` lies ahead of `b` modulo 4,096. -/
def seqDist (a b : BitVec 12) : Nat := (a - b).toNat

/-- Frames outstanding (R74). -/
def outstanding (l : LinkState) : Nat := seqDist l.txNext l.txAcked

/-- 32-byte units a packet's frame takes in the replay buffer (R82). -/
def replayUnits (pkt : Packet) : Nat := ceilDiv (12 + pktLen pkt) 32

/-- Replay units in use. -/
def replayUsed (l : LinkState) : Nat := (l.replay.map (fun f => replayUnits f.pkt)).sum

/-- Replay units in use or reserved by granted packets in the output FIFO (R122). -/
def replayBooked (l : LinkState) : Nat := replayUsed l + (l.fifo.map (fun f => replayUnits f.pkt)).sum

/-! ## What a port sends -/

/-- A CR set's 12 bytes: 10 bytes and their CRC-16 (R72). -/
def crBytes (body : Bytes) : Bytes :=
  let b := padTo 10 body
  b ++ leBytes 2 (crc16 b)

/-- A CREDIT set with both counts of a class (R72, R84). -/
def creditSet (l : LinkState) (tc : Nat) : Bytes :=
  let c := creditOf l tc
  crBytes (leBytes 1 1 ++ leBytes 1 (tc + 16) ++ leBytes 2 c.hdrBack.toNat ++ leBytes 1 (tc + 8 + 16) ++
    leBytes 2 c.dataBack.toNat)

/-- An ACK set (R72). -/
def ackSet (l : LinkState) : Bytes := crBytes (leBytes 1 2 ++ leBytes 2 l.rxNext.toNat)

/-- A NAK set that names `first` and the frames of `mask` after it (R72). -/
def nakSet (l : LinkState) (first : BitVec 12) (mask : Nat) : Bytes :=
  crBytes (leBytes 1 3 ++ leBytes 2 first.toNat ++ leBytes 2 mask ++ leBytes 2 l.rxNext.toNat)

/-- WAK sets of a wake at each rate (R62). -/
def wakSets (rate : Nat) : Nat := if rate = 0 then 22 else if rate = 1 then 19 else 10

/-- CORE_CLK cycles a wake takes from the cycle of its request (R62, R129). -/
def wakeTime (rate : Nat) : Nat := if rate = 0 then 22 else if rate = 1 then 23 else 25

/-- Cycles until a waking direction is free again: the cycle of the request and the wake's own (R123, R129: at 25.78125 Gbaud a packet
needs DWELL_MAX 26 to see it). -/
def wakeCycles (rate : Nat) : Nat := wakeTime rate + 1

/-! ## Lane groups (R58 to R60) -/

/-- The group a request names, if it exists and every lane of it is set in the partner's good mask (R58, R59). The group is
ignored at 16 lanes (R68). WIDTH 0x3 and a GROUP that its width does not have name no usable group (DESIGN CHOICE, log entry 78). -/
def usableGroup (mask width group : Nat) : Option (Nat × Nat) :=
  let g := if width = 0 then 0 else group
  if width < 3 ∧ g < 2 ^ width ∧ mask &&& groupMask width g = groupMask width g then some (width, g) else none

/-- Every group, widest first, then by number (R59). -/
def allGroups : List (Nat × Nat) := [(0, 0), (1, 0), (1, 1), (2, 0), (2, 1), (2, 2), (2, 3)]

/-- The group a transmitter chooses (R59): the one it is told to use, or else the widest usable. -/
def chooseGroup (mask width group : Nat) : Option (Nat × Nat) :=
  match usableGroup mask width group with
  | some g => some g
  | none => allGroups.findSome? (fun g => usableGroup mask g.1 g.2)

/-- The lanes a request would bring in beside the current ones. -/
def addedLanes (l : LaneState) (w g : Nat) : Nat := (groupMask w g ||| txLanes l) - txLanes l

/-- The new group takes over after two WCH sets on the lanes of a mask (R60); a request that names the group in use needs none. -/
def switchGroup (p : NetPort) (mask w g : Nat) (s : State) : State :=
  let l := (s.port p).lane
  let s := if w = l.txWidth ∧ g = l.txGroup then s else sendSetOn p mask (.wch w g 2) s
  s.modLane p (fun l => { l with widthDue := false, widthRefused := false, txWidth := w, txGroup := g, adding := 0, addWait := 0 })

/-- A request that is not usable is refused, and the current group stays (R60). -/
def refuseWidth (p : NetPort) (s : State) : State :=
  s.modLane p (fun l => { l with widthDue := false, widthRefused := true, adding := 0, addWait := 0 })

/-- A frame boundary of a transmit direction that is awake, with a WIDTH or GROUP request pending (R60). Narrowing switches at once,
widening only after the added lanes have sent WAK sets for 14 ns: at the first boundary those lanes start, at a later one the group
switches on the union of the lanes. -/
def applyWidth (p : NetPort) (s : State) : State :=
  let l := (s.port p).lane
  if !l.widthDue then s
  else match usableGroup l.partnerMask (s.fget F.LAN_CTL_WIDTH p.val) (s.fget F.LAN_CTL_GROUP p.val) with
  | none => refuseWidth p s
  | some (w, g) =>
    let added := addedLanes l w g
    if added = 0 then switchGroup p (txLanes l) w g s
    else if l.adding &&& added = added then
      if l.addWait = 0 then switchGroup p (txLanes l ||| groupMask w g) w g s else s
    else (sendSetOn p added (.wak (wakSets l.rate)) s).modLane p (fun l => { l with adding := added, addWait := wakeTime l.rate })

/-- The complete refresh: every count of every class and kind (R86). -/
def sendRefresh (p : NetPort) (s : State) : State :=
  (List.range 8).foldl (fun t tc => sendSet p (.cr (creditSet (t.port p).link tc)) t) s

/-- The WAK sets of a wake, and after them a WIDTH or GROUP request that waited for it, on the lanes of both groups (R60, R62). -/
def wakeLanes (p : NetPort) (s : State) : State :=
  let l := (s.port p).lane
  let wak := OrderedSet.wak (wakSets l.rate)
  if !l.widthDue then sendSet p wak s
  else match usableGroup l.partnerMask (s.fget F.LAN_CTL_WIDTH p.val) (s.fget F.LAN_CTL_GROUP p.val) with
  | none => refuseWidth p (sendSet p wak s)
  | some (w, g) =>
    let mask := txLanes l ||| groupMask w g
    switchGroup p mask w g (sendSetOn p mask wak s)

/-- A wake request on a transmit direction that sleeps: LC and the lanes restart, WAK sets go out, and a complete refresh
before the first frame (R62, R86). -/
def wakeTx (p : NetPort) (s : State) : State :=
  if (s.port p).lane.txAsleep then
    let s := (wakeLanes p s).modLane p (fun l => { l with txAsleep := false, waking := wakeCycles l.rate })
    if (s.port p).link.phase = .up then sendRefresh p s else s
  else s

/-- A CR set leaves; it wakes a sleeping direction (R62, R86). -/
def sendCr (p : NetPort) (set : Bytes) (s : State) : State := sendSet p (.cr set) (wakeTx p s)

/-- A frame starts in the next CORE_CLK cycle, within the 8 ns of R77: the direction is awake with no frame in progress, and a
retransmission or a granted packet waits. -/
def frameStarts (s : State) (p : NetPort) : Bool :=
  let q := s.port p
  !q.lane.txAsleep && decide (q.lane.waking = 0) && q.link.tx.isNone &&
    (q.link.replay.any (·.rtxDue) || (!q.link.fifo.isEmpty && decide (outstanding q.link < 1024)))

/-- The current acknowledgement (R77, R80): in the header of the frame that starts in time, or else in an ACK set. -/
def sendAck (p : NetPort) (s : State) : State := if frameStarts s p then s else sendCr p (ackSet (s.port p).link) s

/-- The header of a PACKET frame (R70). -/
def frameHeader (fseq : BitVec 12) (len tc : Nat) (ack : BitVec 12) (rtx : Bool) : Bytes :=
  let h := leBytes 2 (fseq.toNat + 4096) ++ leBytes 2 (len + tc * 8192) ++ leBytes 2 (ack.toNat + 4096 + 8192 * b2n rtx)
  h ++ leBytes 2 (crc16 h)

/-- A PACKET frame: header, packet and FCRC (R69, R71). -/
def frameBytes (fseq : BitVec 12) (tc : Nat) (pkt : Packet) (ack : BitVec 12) (rtx : Bool) : Bytes :=
  let b := frameHeader fseq (pktLen pkt) tc ack rtx ++ pktBytes pkt
  b ++ leBytes 4 (crc32 b)

/-- Columns of a frame on `w` lanes (R69). -/
def frameColumns (len w : Nat) : Nat := ceilDiv (12 + len) w + 2

/-- CORE_CLK cycles that `cols` columns take at a rate code: 25/6, 85/24 and 55/32 columns per cycle (R48). -/
def columnCycles (rate cols : Nat) : Nat :=
  if rate = 0 then ceilDiv (cols * 6) 25 else if rate = 1 then ceilDiv (cols * 24) 85 else ceilDiv (cols * 32) 55

/-- Adds the slots of an ended frame to its class of slot (R355). -/
def countSlots (p : NetPort) (t : TxFrame) (wasted : Bool) (s : State) : State :=
  pmcClass p.val (if wasted then 2 else 1) t.slots t.tc s

/-- Nanoseconds that `cols` columns take at a rate code, rounded up (R48). -/
def columnNs (rate cols : Nat) : Nat :=
  if rate = 0 then ceilDiv (cols * 4) 25 else if rate = 1 then ceilDiv (cols * 16) 85 else ceilDiv (cols * 64) 165

/-- The frame in progress is abandoned: ABT (R81, R93). -/
def abandonTx (p : NetPort) (s : State) : State :=
  match (s.port p).link.tx with
  | none => s
  | some t =>
    (countSlots p t true (sendFrame p (frameBytes t.fseq t.tc t.pkt t.ack t.rtx) true s)).modLink p (fun l => { l with tx := none })

/-! ## Packets at the router's input (R98, R99, R130) -/

/-- The current age of a waiting packet: the carried age and the residence so far (R99, R130). -/
def inAge (s : State) (i : InPacket) : Nat := min 65535 (pktAge i.pkt + (s.clock - i.arrived))

/-- AGE_LIMIT in ns, no less than 0x020 units (R138). -/
def ageLimit (s : State) : Nat := 32 * max 0x20 (s.fget F.RTR_TIMING_AGE_LIMIT)

/-- A capture and counter record of a discard at an input (R357, R359): cause 1 AGE, 2 DWELL, 3 ROUTE, 4 MALFORMED. -/
def recordDiscard (x cause dwell : Nat) (pkt : Packet) (s : State) : State :=
  let ev := if cause = 4 then 0x12 else if cause = 1 then 0x13 else if cause = 2 then 0x14 else 0x15
  capture [{ point := 4, port := x, cause := cause, dwell := dwell, pkt := pkt }] (pmcClass x ev 1 (pktTc pkt) s)

/-- A packet has left input staging completely: its credits are returned and the changed counts sent (R85, R86). -/
def returnCredits (p : NetPort) (i : InPacket) (s : State) : State :=
  if i.owed then
    let s := s.modLink p (fun l => modCredit i.tc (fun c =>
      { c with hdrBack := c.hdrBack + BitVec.ofNat 16 (pktCredits i.pkt).1,
               dataBack := c.dataBack + BitVec.ofNat 16 (pktCredits i.pkt).2 }) (stageDrop i.pkt i.tc l))
    if (s.port p).link.phase = .up then sendCr p (creditSet (s.port p).link i.tc) s else s
  else s

/-- The router drops a packet at an input before its tail has arrived: its credits wait for the frame's end (R81, R85). -/
def dropTailless (p : NetPort) (s : State) : State :=
  s.modLink p (fun l => { l with arriving := l.arriving.map (fun a => { a with dropped := true }) })

/-- A packet that the router discards at an input leaves staging: at once where it is whole. -/
def leaveStaging (p : NetPort) (i : InPacket) (s : State) : State := if i.whole then returnCredits p i s else dropTailless p s

/-- A frame's packet is released to the router (R79): counted, captured, checked under R98 and R130, and put last in input
staging. `owed` is false where the link has left; `arrived` is the clock when its first byte arrived (R99). -/
def releaseIn (p : NetPort) (tc : Nat) (pkt : Packet) (arrived : Nat) (whole owed : Bool) (s : State) : State :=
  let s := pmcClass p.val 0x11 (pktLen pkt) tc (pmcClass p.val 0x10 1 tc s)
  let s := capture [{ point := 1, port := p.val, cause := 0, dwell := 0, pkt := pkt }] s
  let i : InPacket := { pkt := pkt, tc := tc, arrived := arrived, fabric := 0#64, fixes := 0, whole := whole, dwell := 0, bounced := false, owed := owed }
  if !pktLenOk pkt || pktTc pkt != tc then leaveStaging p i (recordDiscard p.val 4 0 pkt s)
  else if ageLimit s < inAge s i then
    leaveStaging p i (recordDiscard p.val 1 0 pkt (s.finc F.RTR_DISC_AGE 1))
  else s.modPort p (fun q => { q with inp := { q.inp with queue := q.inp.queue ++ [i] } })

/-! ## Cut-through frames (R81) -/

/-- The part of an input's packet that is still arriving is withdrawn from an output it is cut through to: its frame in
progress ends with ABT, TX_NEXT returns to its number, its replay entry goes and its credits are restored (R81). -/
def abortOutput (o : NetPort) (x : XbarPort) (s : State) : State :=
  let l := (s.port o).link
  let s := s.modPort o (fun q => { q with busy := 0 })
  let s := match l.fifo.find? (fun f => f.source == some x) with
    | some f => s.modLink o (fun l => { undebit f.pkt f.tc l with fifo := l.fifo.filter (fun g => g.source != some x) })
    | none => s
  match l.tx with
  | some t =>
    if t.source = some x then
      let s := match l.replay.find? (fun f => f.fseq == t.fseq) with
        | some f => s.modLink o (undebit f.pkt f.tc)
        | none => s
      (abandonTx o s).modLink o (fun l =>
        { l with txNext := t.fseq, replay := l.replay.filter (fun f => f.fseq != t.fseq) })
    else s
  | none => s

/-- The frame in progress at the receiver is discarded with its outgoing copy (R81, R94). -/
def dropArriving (p : NetPort) (s : State) : State :=
  let i := (s.port p).inp
  let s := match i.cutTo with
    | some o => abortOutput o (p.castLE (by decide)) s
    | none => s
  s.modPort p (fun q => { q with
    link := { q.link with arriving := none },
    inp := { q.inp with queue := q.inp.queue.filter (·.whole), cutTo := none,
                        presented := q.inp.presented.filter (·.whole),
                        streaming := if q.inp.cutTo.isSome then 0 else q.inp.streaming } })

/-! ## Leaving (R93 to R95) -/

/-- The link of `p` leaves (R93, R94) or gives up its initialisation: frames held behind a gap go to the router, replay and
FIFO packets are lost and counted, everything else of the link is cleared. WIN_COUNT keeps its window unless `fresh`. A frame in
progress is closed with ABT whoever caused the departure (R93 says so of a local one; DESIGN CHOICE, log entry 78). -/
def linkDepart (p : NetPort) (cause : Nat) (fresh : Bool) (s : State) : State :=
  let l := (s.port p).link
  let wasUp := decide (l.phase = .up)
  let s := if wasUp then abandonTx p s else s
  let s := dropArriving p s
  let order := (List.range 1024).filterMap (fun d =>
    tblGet ((l.rxNext + BitVec.ofNat 12 d).toNat) l.held)
  let lost := l.replay.length + l.fifo.length
  let s := s.modPort p (fun q => { q with
    link := { linkReset with winCount := if fresh then 0 else l.winCount },
    flight := 0, tex := none, texHi := 0, texSent := 0, peerLevel := 31,
    inp := { q.inp with queue := q.inp.queue.map (fun i => { i with owed := false }),
                        presented := q.inp.presented.map (fun i => { i with owed := false }),
                        leaving := q.inp.leaving.map (fun i => { i with owed := false }) } })
  let s := order.foldl (fun t h => releaseIn p h.1 h.2.1 h.2.2 true false t) s
  if wasUp then
    let s := ((s.finc F.LNK_STATUS_LOST_ON_DOWN lost p.val).finc F.LNK_STATUS_DOWN_COUNT 1 p.val).fset
      F.LNK_STATUS_DOWN_CAUSE cause p.val
    asyncChip 0x02 p.val (BitVec.ofNat 64 (cause + 65536 * s.fget F.LNK_STATUS_LOST_ON_DOWN p.val)) s
  else if cause = 6 then s.fset F.LNK_STATUS_DOWN_CAUSE 6 p.val
  else s

/-- LVE sets of a departing transmitter (R64); a sleeping direction wakes for them. -/
def sendLve (p : NetPort) (reason : Nat) (s : State) : State :=
  let l := (s.port p).lane
  if l.phase = .up then
    sendSet p (.lve reason 8) (if l.txAsleep then sendSet p (.wak (wakSets l.rate)) s else s)
  else s

/-- What the lane layer forgets when it leaves UP or stops: sleep and wake, a width request under way, the masks of the last attempt
(R68 does not say what RX_MASK and PARTNER_MASK read then: 0; DESIGN CHOICE, log entry 78) and the compliance checker. -/
def laneForget (l : LaneState) : LaneState :=
  { l with widthDue := false, txAsleep := false, rxAsleep := false, rxMask := 0, partnerMask := 0, deaf := false, waking := 0,
           cmpSync := false, adding := 0, addWait := 0 }

/-- The lanes of a port stop: lane state returns to OFF; the last failure, the last reason to leave and the PLL stay. -/
def laneStop (l : LaneState) : LaneState := { laneForget l with phase := .off, stopped := true }

/-- The role of a network port; disabled while no image is committed. -/
def State.role (s : State) (p : NetPort) : Role := s.image.elim .disabled (fun img => (imgPort img p.val).role)

/-- A reset that reaches the lanes retries a PLL that was released unlocked (R314). -/
def retryPll (l : LaneState) : LaneState := if l.pll = .unlocked then { l with pll := .starting } else l

/-- An L reset of a port (R313) with the LVE reason and DOWN_CAUSE of its source. A reset that includes it absorbs it
(R303); a port without a role has no lanes to reset. A further one during the 2 µs changes nothing else. -/
def resetL (p : NetPort) (reason cause : Nat) (fresh : Bool) (s : State) : State :=
  if !s.routerRuns || s.role p = .disabled then s
  else
    let s := if (s.port p).link.phase = .up then abandonTx p s else s
    let s := linkDepart p cause fresh (sendLve p reason s)
    let s := s.modLane p (fun l => laneStop (retryPll l))
    s.restore [.L] (fun r i => ((regPlace r).block == .lnk || (regPlace r).block == .lan) && i == p.val)

/-! ## The error window (R89) -/

/-- The count has reached LIMIT, and LIMIT is not 0. -/
def windowFull (s : State) (p : NetPort) : Bool :=
  decide (s.fget F.LNK_ERRWIN_LIMIT p.val ≠ 0) && decide (s.fget F.LNK_ERRWIN_LIMIT p.val ≤ (s.port p).link.winCount)

/-- At the limit the port asserts an L reset with LVE reason 0x4, and the count and window restart (R89). -/
def windowLimit (p : NetPort) (s : State) : State :=
  if windowFull s p then
    (resetL p 4 3 true s).modLink p (fun l => { l with winCount := 0 })
  else s

/-- One error of the error window. -/
def linkError (p : NetPort) (s : State) : State :=
  windowLimit p (s.modLink p (fun l => { l with winCount := satAdd 16 l.winCount 1 }))

/-- A credit protocol error takes the link down at once (R87). -/
def protocolError (p : NetPort) (s : State) : State := resetL p 4 5 false s

/-! ## Acknowledgements, NAKs and credits received (R73, R76, R78, R84) -/

/-- Acts on an acknowledgement (R76). -/
def processAck (p : NetPort) (ack : BitVec 12) (s : State) : State :=
  let l := (s.port p).link
  let d := seqDist ack l.txAcked
  if d ≤ outstanding l then
    s.modLink p (fun l => { l with txAcked := ack, replay := l.replay.filter (fun f => d ≤ seqDist f.fseq l.txAcked) })
  else if seqDist l.txAcked ack ≤ 1024 then s
  else linkError p (s.finc F.LNK_ERR_SEQ_ERR 1 p.val)

/-- The frames a NAK names that are still outstanding are due for retransmission (R78). -/
def processNak (p : NetPort) (first : BitVec 12) (mask : Nat) (s : State) : State :=
  s.modLink p (fun l => { l with replay := l.replay.map (fun f =>
    let d := seqDist f.fseq first
    if d < 16 && mask.testBit d then { f with rtxDue := true } else f) })

/-- One entry of a CREDIT set; `none` where the count advances past the credits outstanding (R84, R87). -/
def creditEntry (b count : Nat) (l : LinkState) : Option LinkState :=
  if !b.testBit 4 then some l
  else
    let tc := b % 8
    let c := creditOf l tc
    let v := BitVec.ofNat 16 count
    if b.testBit 3 then
      if (v - c.dataRet).toNat ≤ (c.dataUsed - c.dataRet).toNat then some (modCredit tc (fun c => { c with dataRet := v }) l)
      else none
    else
      if (v - c.hdrRet).toNat ≤ (c.hdrUsed - c.hdrRet).toNat then some (modCredit tc (fun c => { c with hdrRet := v }) l)
      else none

/-- The first copy of a CR set, in lane-group order, whose CRC passes (R72, R73). -/
def crGood (set : Bytes) : Option Bytes :=
  ((List.range (set.length / 12)).map (fun k => (set.drop (12 * k)).take 12)).find? (fun c =>
    crc16 (c.take 10) == leAt c 10 2)

/-- A CR set that no copy of passes, or of unknown TYPE (R73). -/
def crBad (p : NetPort) (s : State) : State := linkError p (s.finc F.LNK_ERR_CR_ERR 1 p.val)

/-- Columns reach the port's receiver: its lanes are UP and awake, and the router core runs. -/
def receives (s : State) (p : NetPort) : Bool :=
  s.routerRuns && decide ((s.port p).lane.phase = .up) && !(s.port p).lane.rxAsleep

/-- The port's receiver takes sets and good frames: no failed wake makes code errors of its columns (R63). -/
def hears (s : State) (p : NetPort) : Bool := receives s p && !(s.port p).lane.deaf

/-- Code errors by lane: the lane counts, LAN_ERR.CODE_ERR and the group's corrected source (R52, R322). -/
def codeErrors (p : NetPort) (errs : List (Nat × Nat)) (s : State) : State :=
  let s := (errs.filter (fun e => e.2 ≠ 0)).foldl (fun t e =>
    let r : RegId := if e.1 < 8 then .LAN_LANE_ERR_LO else .LAN_LANE_ERR_HI
    (t.finc ⟨r, 8 * (e.1 % 8) + 7, 8 * (e.1 % 8)⟩ e.2 p.val).finc F.LAN_ERR_CODE_ERR e.2 p.val) s
  if errs.any (fun e => e.2 ≠ 0) then raiseFault (56 + p.val / 8) s else s

/-- `n` columns are code errors on every active lane: after a failed wake (R63), or K codes outside their place (R54). -/
def columnErrors (p : NetPort) (n : Nat) (s : State) : State :=
  let l := (s.port p).lane
  codeErrors p ((lanesIn (groupMask l.rxWidth l.rxGroup)).map (fun k => (k, n))) s

/-- `n` ordered sets reach the receiver: `f` acts on them, but while the receiver is deaf their columns are code errors (R63). -/
def setsIn (p : NetPort) (n : Nat) (f : State → State) (s : State) : State :=
  if hears s p then f s else if receives s p then columnErrors p (4 * n) s else s

/-- A CR set that reaches the receiver; only a link in UP carries them (R90). -/
def crIn (p : NetPort) (set : Bytes) (s : State) : State :=
  if (s.port p).link.phase ≠ .up then s
  else match crGood set with
  | none => crBad p s
  | some c =>
    match leAt c 0 1 % 16 with
    | 1 =>
      match (creditEntry (leAt c 1 1) (leAt c 2 2) (s.port p).link).bind (creditEntry (leAt c 4 1) (leAt c 5 2)) with
      | some l => s.modLink p (fun _ => l)
      | none => protocolError p s
    | 2 => processAck p (BitVec.ofNat 12 (leAt c 1 2)) s
    | 3 =>
      processNak p (BitVec.ofNat 12 (leAt c 1 2)) (leAt c 3 2) (processAck p (BitVec.ofNat 12 (leAt c 5 2)) s)
    | _ => crBad p s

/-- A CR set arrives (R73). -/
def crReceived (p : NetPort) (set : Bytes) (s : State) : State := setsIn p 1 (crIn p set) s

/-! ## Frames received (R75, R77 to R81) -/

/-- Sends NAK sets for the listed numbers, up to 16 per set in ascending order, and records them as named (R77). -/
def sendNaks (p : NetPort) (ds : List Nat) (s : State) : State :=
  let l := (s.port p).link
  let base := l.rxNext
  let heads := (List.range 64).map (· * 16)
  let s := heads.foldl (fun t b =>
    let grp := ds.filter (fun d => b ≤ d && d < b + 16)
    match grp with
    | [] => t
    | d0 :: _ =>
      let mask := (grp.map (fun d => 2 ^ (d - d0))).sum
      sendCr p (nakSet (t.port p).link (base + BitVec.ofNat 12 d0) mask) t) s
  let names := (ds.map (fun d => (base + BitVec.ofNat 12 d).toNat)).filter (fun n => !l.named.contains n)
  s.modLink p (fun l => { l with named := l.named ++ names })

/-- Releases held frames whose gap has filled, in FSEQ order (R79). -/
def releaseHeld (p : NetPort) : Nat → State → State
  | 0, s => s
  | n + 1, s =>
    let l := (s.port p).link
    match tblGet l.rxNext.toNat l.held with
    | none => s
    | some h =>
      let s := s.modLink p (fun l => { l with rxNext := l.rxNext + 1, held := tblDel l.rxNext.toNat l.held })
      releaseHeld p n (releaseIn p h.1 h.2.1 h.2.2 true true s)

/-- RX_NEXT passes the frame just accepted in order: later held frames follow, and the advance is acknowledged (R77). -/
def acceptNext (p : NetPort) (s : State) : State :=
  let s := s.modLink p (fun l =>
    { l with rxNext := l.rxNext + 1, named := l.named.filter (fun n => decide (n ≠ l.rxNext.toNat)) })
  sendAck p (releaseHeld p ((s.port p).link.held.length) s)

/-- A bad frame: counted, and its number named (R71, R77). -/
def badFrame (p : NetPort) (fseq : BitVec 12) (s : State) : State :=
  let d := seqDist fseq (s.port p).link.rxNext
  let s := if d < 1024 then
      (sendCr p (nakSet (s.port p).link fseq 1) s).modLink p (fun l =>
        { l with named := if l.named.contains fseq.toNat then l.named else l.named ++ [fseq.toNat] })
    else s
  linkError p (s.finc F.LNK_ERR_FCRC_ERR 1 p.val)

/-- The clock when the first byte of a frame that ends now arrived (R99). -/
def firstByte (s : State) (p : NetPort) (pkt : Packet) : Nat :=
  let l := (s.port p).lane
  s.clock - columnNs l.rate (frameColumns (pktLen pkt) (lanesOf l.rxWidth))

/-- A good PACKET frame of the window that is not a duplicate, `d` ahead of RX_NEXT, arrives whole (R75). -/
def acceptFrame (p : NetPort) (fseq : BitVec 12) (d tc : Nat) (pkt : Packet) (s : State) : State :=
  let at' := firstByte s p pkt
  let s := s.modLink p (stageIn pkt tc)
  if d = 0 then
    let n := (s.port p).link.rxNext
    let s := s.modLink p (fun l =>
      { l with rxNext := n + 1, named := l.named.filter (fun k => decide (k ≠ n.toNat)) })
    let s := releaseIn p tc pkt at' true true s
    sendAck p (releaseHeld p ((s.port p).link.held.length) s)
  else
    let s := s.modLink p (fun l => { l with held := tblSet fseq.toNat (tc, pkt, at') l.held,
                                            named := l.named.filter (fun k => decide (k ≠ fseq.toNat)) })
    let l := (s.port p).link
    sendNaks p ((List.range d).filter (fun e =>
      let n := (l.rxNext + BitVec.ofNat 12 e).toNat
      (tblGet n l.held).isNone && !l.named.contains n)) s

/-- A PACKET frame whose header has passed HCRC (R75, R76). A full staging is a protocol error only of a frame that is not bad: FMT
and LEN of an unchecked one may be corrupted (R77, R83, R87). -/
def packetFrame (p : NetPort) (bytes : Bytes) (bad tail : Bool) (s : State) : State :=
  if (s.port p).link.phase ≠ .up then s
  else
    let fseq := BitVec.ofNat 12 (leAt bytes 0 2)
    let len := leAt bytes 2 2 % 8192
    let tc := leAt bytes 2 2 / 8192
    let s := if (leAt bytes 4 2).testBit 12 then processAck p (BitVec.ofNat 12 (leAt bytes 4 2)) s else s
    if (s.port p).link.phase ≠ .up then s
    else
      let l := (s.port p).link
      let d := seqDist fseq l.rxNext
      let pkt := pktOfBytes ((bytes.drop 8).take len)
      if 1024 ≤ d && d ≤ 3072 then linkError p (s.finc F.LNK_ERR_SEQ_ERR 1 p.val)
      else if 3073 ≤ d || (tblGet fseq.toNat l.held).isSome then sendAck p (s.finc F.LNK_ERR_DUP 1 p.val)
      else if !tail then
        if d = 0 && !bad && l.arriving.isNone && stageRoom pkt tc l then
          releaseIn p tc pkt s.clock false true (s.modLink p (fun l =>
            { stageIn pkt tc l with arriving := some { tc := tc, pkt := pkt, dropped := false } }))
        else s
      else if bad || crc32 (bytes.take (8 + len)) != leAt bytes (8 + len) 4 then badFrame p fseq s
      else if !stageRoom pkt tc l then protocolError p s
      else acceptFrame p fseq d tc pkt s

/-! ## Initialisation and admission (R91, R92) -/

/-- AON_BIND.STATE. -/
def State.binding (s : State) : Nat := s.fget F.AON_BIND_STATE

/-- SERIAL of the loaded image. -/
def State.loadedSerial (s : State) : Word := if s.cfg.slot then s.cfg.serialB else s.cfg.serialA

/-- The INIT record of a port (R91). -/
def initRecord (s : State) (p : NetPort) : Bytes :=
  let adv := (advertised s p).1
  leBytes 4 (s.chip + 2 ^ 18 * p.val + 2 ^ 24 * s.binding + 2 ^ 26 * b2n (s.port p).link.peerSeen) ++
    leBytes 4 0x04B3D064 ++ leBytes 8 s.loadedSerial.toNat ++
    (List.range 8).flatMap (fun c =>
      let a := adv.getD c ⟨0, 0⟩
      leBytes 4 (a.hdr + 4096 * a.data)) ++ leBytes 16 0

/-- An INIT frame (R70, R91). -/
def initFrame (s : State) (p : NetPort) : Bytes :=
  let h := leBytes 2 0x2000 ++ leBytes 2 64 ++ leBytes 2 0
  let b := h ++ leBytes 2 (crc16 h) ++ initRecord s p
  b ++ leBytes 4 (crc32 b)

/-- A good INIT frame's record arrives (R91). -/
def initRecordIn (p : NetPort) (init : Bytes) (s : State) : State :=
  let seen := (leAt init 0 4).testBit 26
  match (s.port p).link.phase with
  | .down => s
  | .init => s.modLink p (fun l => { l with peer := some init, peerSeen := true, phase := if seen then .check else .init })
  | .check | .refused => s.modLink p (fun l => { l with peer := some init, peerSeen := true })
  | .up => if seen then s else resetL p 4 2 false s

/-- An INIT frame whose header has passed HCRC: FCRC, then its record (R89, R91). One whose LEN is not 64 is a corrupted INIT frame
too (DESIGN CHOICE, log entry 78). -/
def initFrameIn (p : NetPort) (bytes : Bytes) (bad : Bool) (s : State) : State :=
  if bad || leAt bytes 2 2 % 8192 != 64 || crc32 (bytes.take 72) != leAt bytes 72 4 then
    linkError p (s.finc F.LNK_ERR_FCRC_ERR 1 p.val)
  else initRecordIn p (padTo 64 ((bytes.drop 8).take 64)) s

/-- A frame arrives (R70, R71, R75): code errors in it are counted and mark it bad, and its header is checked first. -/
def frameIn (p : NetPort) (bytes : Bytes) (errs : List (Nat × Nat)) (tail : Bool) (s : State) : State :=
  let bad := errs.any (fun e => e.2 ≠ 0) || (s.port p).lane.deaf
  let s := codeErrors p errs s
  if crc16 (bytes.take 6) ≠ leAt bytes 6 2 then linkError p (s.finc F.LNK_ERR_HCRC_ERR 1 p.val)
  else match leAt bytes 0 2 / 4096 with
  | 1 => packetFrame p bytes bad tail s
  | 2 => if tail then initFrameIn p bytes bad s else s
  | _ => s.finc F.LNK_ERR_SEQ_ERR 1 p.val

/-- The columns of a frame reach the receiver (R51 to R53): decoded lane by lane, with every column a code error after a failed wake
(R63). `turned` marks the lanes whose running disparity the sets since the last columns have turned. -/
def frameColsIn (p : NetPort) (turned : BitVec 16) (groups : List (List (BitVec 10))) (tail : Bool) (s : State) : State :=
  if !receives s p then s
  else
    let l := (s.port p).lane
    let r := readFrame l turned groups tail
    let errs := if l.deaf then ((lanesIn (groupMask l.rxWidth l.rxGroup)).zip groups).map (fun e => (e.1, e.2.length)) else r.errs
    frameIn p r.bytes errs tail (s.modLane p (fun l => { l with rxRd := r.rd }))

/-- The admission checks of R92 and R341 on a partner record: REFUSE, or 0 with whether the port is restricted. -/
def admission (s : State) (p : NetPort) (init : Bytes) : Nat × Bool :=
  let w := leAt init 0 4
  let chip := w % 2 ^ 18
  let port := w / 2 ^ 18 % 64
  let bind := w / 2 ^ 24 % 4
  let own := s.binding
  if chip = s.chip then (1, false)
  else if s.flag F.LNK_EXPECT_CHECK_CHIP p.val && chip != s.fget F.LNK_EXPECT_CHIP_ID p.val then (2, false)
  else if s.flag F.LNK_EXPECT_CHECK_PORT p.val && port != s.fget F.LNK_EXPECT_PORT p.val then (2, false)
  else if 2 ≤ bind || 2 ≤ own then (3, false)
  else if (leAt init 16 4) % 4096 = 0 || (List.range 8).any (fun c =>
      2048 < leAt init (16 + 4 * c) 4 % 4096 || 1024 < leAt init (16 + 4 * c) 4 / 4096 % 2048) then (4, false)
  else (0, bind != 1 || own != 1)

/-- Entry to UP: sequence numbers and counts start at 0, ADV comes from the partner's record (R92). -/
def linkUp (p : NetPort) (init : Bytes) (restricted : Bool) (s : State) : State :=
  let adv := advertised s p
  let s := s.modLink p (fun l => { l with
    phase := .up, refuse := 0, advCapped := adv.2, restricted := restricted, txAcked := 0, txNext := 0, replay := [],
    rxNext := 0, held := [], named := [], fifo := [], tx := none,
    credits := Vector.ofFn (fun c : Fin 8 =>
      let w := leAt init (16 + 4 * c.val) 4
      let own := adv.1.getD c.val ⟨0, 0⟩
      { creditReset with hdrAdv := w % 4096, dataAdv := w / 4096 % 2048, hdrOwn := own.hdr, dataOwn := own.data }) })
  asyncChip 0x01 p.val (BitVec.ofNat 64 (leAt init 0 4 % 2 ^ 24)) s

/-- The admission checks run on the last INIT record (R92): the port enters UP or REFUSED. -/
def admitLink (p : NetPort) (s : State) : State :=
  let init := (s.port p).link.peer.getD []
  match admission s p init with
  | (0, restricted) => linkUp p init restricted s
  | (why, _) =>
    asyncChip 0x03 p.val (BitVec.ofNat 64 (why + 2 ^ 32 * leAt init 4 4))
      (s.modLink p (fun l => { l with phase := .refused, refuse := why }))

/-- The lane layer reports UP: INIT begins (R90, R91). -/
def linkInit (p : NetPort) (s : State) : State :=
  s.modLink p (fun l => { linkReset with phase := .init, winCount := l.winCount, advCapped := (advertised s p).2 })

end Sys2Proof.Machine
end

