-- ==== Sys2Proof/Machine/LaneOps.lean ====
section
/-! DEFINITION. The lane layer (R47 to R68): training, lane groups, sleep and wake, departures and compliance. -/

namespace Sys2Proof.Machine

/-- The rate code a port trains at (R65): 0x3 acts as 0x2, and a rate faster than RATE_MAX is replaced by it. -/
def trainRate (s : State) (p : NetPort) : Nat :=
  max (min 2 (s.fget F.LAN_CTL_RATE p.val)) (min 2 (s.image.elim 0 (fun img => (imgPort img p.val).rateMax)))

/-- The module presence input of a port's group reports a module (R55). -/
def modulePresent (s : State) (p : NetPort) : Bool := !s.modprs.toNat.testBit (p.val / 8)

/-- The port may train (R55). -/
def mayTrain (s : State) (p : NetPort) : Bool :=
  s.routerRuns && s.role p != .disabled && decide (s.fget F.LAN_CTL_MODE p.val = 0) && !(s.port p).lane.stopped &&
    modulePresent s p

/-- A lane phase that keeps TXDIS low whatever MODE now holds (R55): RETRY, WAIT_CLOCK to UP, and COMPLIANCE. -/
def phaseTransmits : LanePhase → Bool
  | .off | .noModule => false
  | _ => true

/-- TXDIS of group `g` is high (R55, R318). -/
def txdisHigh (s : State) (g : Nat) : Bool :=
  !((allPorts.filter (fun p => p.val / 8 = g)).any (fun p => mayTrain s p || phaseTransmits (s.port p).lane.phase))

/-- The compliance pattern starts on all 16 lanes at the port's rate (R66). -/
def startPattern (p : NetPort) (s : State) : State :=
  let which := s.fget F.LAN_CTL_PATTERN p.val
  let s := s.modLane p (fun l => { l with phase := .compliance, rate := trainRate s p, txWidth := 0, txGroup := 0, rxWidth := 0, rxGroup := 0,
                                          rxMask := 0, partnerMask := 0, cmpSync := false, txRd := 0#16, prbs := [] })
  let r := codeLanes s p 0xFFFF (fun k _ => patternChars which p.val k)
  (s.emit (.pattern p which r.1)).modLane p (fun l => { l with txRd := r.2 })

/-- A port's training starts (R55, R56, R66, R68): WAIT_CLOCK under NORMAL, the pattern under COMPLIANCE, nothing under HOLD;
MODE 0x3 has no meaning and starts nothing (DESIGN CHOICE, log entry 21). -/
def startTraining (p : NetPort) (s : State) : State :=
  let l := (s.port p).lane
  if !s.routerRuns || s.role p = .disabled || l.stopped then s
  else if !modulePresent s p then s.modLane p (fun l => { l with phase := .noModule })
  else
    let mode := s.fget F.LAN_CTL_MODE p.val
    if l.pll ≠ .running || 2 ≤ mode then s.modLane p (fun l => { l with phase := .off })
    else if mode = 0 then s.modLane p (fun l =>
      { l with phase := .waitClock, rate := trainRate s p, rxMask := 0, partnerMask := 0, cmpSync := false })
    else startPattern p s

/-- The transmit amplitude and pre-emphasis the image sets for a port (R31); 0 where the section does not list it. -/
def laneSetupOf (s : State) (p : NetPort) : Nat × Nat :=
  ((s.image.bind (fun img => img.laneSetup.find? (fun e => e.1 == p.val))).map (·.2)).getD (0, 0)

/-- Step 1 of a training attempt (R56) at a rate code: the equalizers start from a valid calibration set with the image's lane setup on
top (R44), every lane starts at RD− (R52), and the data lanes send IDL and TS1 alternately. -/
def startAttempt (p : NetPort) (rate : Nat) (s : State) : State :=
  let set := laneSetupOf s p
  sendSetOn p 0xFFFF (.ts1 rate) (s.modLane p (fun l =>
    { l with phase := .eq, rate := rate, rxMask := 0, partnerMask := 0, txRd := 0#16, amplitude := set.1, emphasis := set.2,
             calUsed := s.cfg.calValid }))

/-- Twice the forwarded clock of a rate code in kHz (R48). -/
def clock2Khz (rate : Nat) : Nat := if rate = 0 then 31250000 else if rate = 1 then 26562500 else 12890625

/-- The measured clock lies within 0.1 % of the rate's (R56). -/
def clockAgrees (rate khz : Nat) : Bool :=
  let n := clock2Khz rate
  decide ((max (2 * khz) n - min (2 * khz) n) * 1000 ≤ n)

/-- The frequency measurement of WAIT_CLOCK ends (R56) against the rate of LAN_CTL.RATE, which is read as training starts (R65). -/
def clockCheck (p : NetPort) (khz : Nat) (s : State) : State :=
  if (s.port p).lane.phase ≠ .waitClock then s
  else
    let rate := trainRate s p
    if clockAgrees rate khz then startAttempt p rate s
    else s.modLane p (fun l => { l with fail := 1, rate := rate })

/-- A training attempt is running. -/
def training (ph : LanePhase) : Bool :=
  match ph with
  | .eq | .align | .exchange => true
  | _ => false

/-- FAIL of a failed attempt (R57, R68). -/
def trainCode : TrainCause → Nat
  | .exchange => 3
  | .noGroup => 2
  | .partnerIdle => 4

/-- A training attempt fails (R57). -/
def trainFail (p : NetPort) (cause : TrainCause) (s : State) : State :=
  if training (s.port p).lane.phase then
    (s.finc F.LAN_ERR_TRAIN_FAIL 1 p.val).modLane p (fun l => { l with phase := .retry, fail := trainCode cause })
  else s

/-- The code group a lane's comma stands for once its polarity is corrected (R50). -/
def laneComma (c : LaneCheck) : BitVec 10 := if c.reversed then ~~~c.comma else c.comma

/-- Lane `k` passes steps 3 and 4 (R50, R56): aligned on K28.5, its own number in TS1, and skew within 1.25 ns. -/
def laneGood (k : Nat) (c : LaneCheck) : Bool :=
  (laneComma c == encodeChar false (kChar 28 5) || laneComma c == encodeChar true (kChar 28 5)) && decide (c.number = k) &&
    decide (-1250 ≤ c.skew ∧ c.skew ≤ 1250)

/-- The mask of the lanes of a list that satisfy a test. -/
def laneMask (f : Nat → LaneCheck → Bool) (cs : List LaneCheck) : Nat :=
  ((cs.take 16).zipIdx.map (fun e => 2 ^ e.2 * b2n (f e.2 e.1))).sum

/-- Steps 3 and 4 end (R56): the receive good mask stands, each lane has its starting disparity from the comma it aligned on (R52), and
16 TS2 sets carry the mask to the partner. -/
def trainDeskewed (p : NetPort) (cs : List LaneCheck) (s : State) : State :=
  let good := laneMask laneGood cs
  sendSetOn p 0xFFFF (.ts2 good 16) (s.modLane p (fun l =>
    { l with phase := .exchange, rxMask := good, reversed := BitVec.ofNat 16 (laneMask (fun _ c => c.reversed) cs),
             rxRd := BitVec.ofNat 16 (laneMask (fun _ c => rdAfterGroup (laneComma c) false) cs) }))

/-- Steps 5 to 7 end (R56, R59): the partner's mask, lane groups, two WCH sets, UP and the start of link initialisation; with no usable
group the attempt fails. -/
def trainExchanged (p : NetPort) (mask rxWidth rxGroup : Nat) (s : State) : State :=
  let s := s.modLane p (fun l => { l with partnerMask := mask })
  match chooseGroup mask (s.fget F.LAN_CTL_WIDTH p.val) (s.fget F.LAN_CTL_GROUP p.val) with
  | none => trainFail p .noGroup s
  | some (w, g) =>
    linkInit p ((sendSetOn p (groupMask w g) (.wch w g 2) s).modLane p (fun l =>
      { l with phase := .up, fail := 0, txWidth := w, txGroup := g, rxWidth := rxWidth, rxGroup := rxGroup, txAsleep := false,
               rxAsleep := false, widthDue := false, wakeFails := 0, deaf := false, waking := 0, adding := 0, addWait := 0 }))

/-- The steps of training as they end (R56): EQ to ALIGN to EXCHANGE to UP. -/
def trainStep (p : NetPort) (r : TrainResult) (s : State) : State :=
  match (s.port p).lane.phase, r with
  | .eq, .equalized => s.modLane p (fun l => { l with phase := .align })
  | .align, .deskewed cs => trainDeskewed p cs s
  | .exchange, .exchanged mask w g => trainExchanged p mask.toNat w.val g.val s
  | _, _ => s

/-- The lanes of a port that was UP leave it: the link departs with `cause`. -/
def laneLeave (p : NetPort) (cause : Nat) (s : State) : State := (linkDepart p cause false s).modLane p laneForget

/-- Partner loss or a departure (R64, R95): the lane layer starts again at WAIT_CLOCK, at the rate now in LAN_CTL (R65). -/
def laneLost (p : NetPort) (cause : Nat) (s : State) : State :=
  if (s.port p).lane.phase = .up then
    let s := laneLeave p cause s
    s.modLane p (fun l => { l with phase := .waitClock, rate := trainRate s p })
  else s

/-- The lane layer restarts training itself (R54, R60, R95): partner loss, and step 1 of an attempt. -/
def laneRetrain (p : NetPort) (s : State) : State :=
  if (s.port p).lane.phase = .up then
    let s := laneLeave p 2 s
    startAttempt p (trainRate s p) s
  else s

/-- A debounced level of MODPRS_N[g] (R55): high is partner loss on the ports that are UP and NO_MODULE for all of them; low
lets them start. -/
def presenceChange (g : Nat) (absent : Bool) (s : State) : State :=
  if 8 ≤ g then s
  else
    let s := { s with modprs := BitVec.ofNat 8 (setBitTo s.modprs.toNat g absent) }
    (allPorts.filter (fun p => p.val / 8 = g)).foldl (fun t p =>
      if absent then (if (t.port p).lane.phase = .up then laneLeave p 2 t else t).modLane p (fun l =>
        { laneForget l with phase := .noModule })
      else if (t.port p).lane.phase = .noModule then startTraining p (t.modLane p (fun l => { l with phase := .off }))
      else t) s

/-- The value more than half of a list holds (R60). -/
def majority (votes : List Nat) : Option Nat := votes.find? (fun v => votes.length < 2 * votes.count v)

/-- Two WCH sets arrive (R60): `votes` are the values of B1[3:0] on every lane of both. Without a majority, or where it names width
0x3, the direction is lost: partner loss, and training from step 1; a majority may name any group (DESIGN CHOICE, log entry 78). -/
def wchIn (p : NetPort) (votes : List Nat) (s : State) : State :=
  setsIn p 2 (fun s => match majority (votes.map (· % 16)) with
    | some v =>
      if v % 4 = 3 then laneRetrain p s
      else s.modLane p (fun l => { l with rxWidth := v % 4, rxGroup := v / 4 })
    | none => laneRetrain p s) s

/-- Two SLP sets arrive (R61). -/
def slpIn (p : NetPort) (s : State) : State := setsIn p 2 (fun s => s.modLane p (fun l => { l with rxAsleep := true })) s

/-- A wake fails at the receiver (R63): counted, and its columns are code errors; the third in a row resets the port. -/
def wakeFailed (p : NetPort) (s : State) : State :=
  let l := (s.port p).lane
  let s := s.finc F.LAN_ERR_WAKE_FAIL 1 p.val
  if 3 ≤ l.wakeFails + 1 then (resetL p 5 4 false s).modLane p (fun l => { l with wakeFails := 0 })
  else s.modLane p (fun l => { l with rxAsleep := false, deaf := true, wakeFails := l.wakeFails + 1 })

/-- `count` consecutive error-free WAK sets arrive on every active lane before the first other column (R62, R63). They wake a sleeping
direction or end its deafness from four up; on lanes that are awake they stand outside their place (R54). -/
def wakIn (p : NetPort) (count : Nat) (s : State) : State :=
  let l := (s.port p).lane
  if !s.routerRuns || l.phase ≠ .up then s
  else if l.rxAsleep then
    if 4 ≤ count then s.modLane p (fun l => { l with rxAsleep := false, deaf := false, wakeFails := 0 }) else wakeFailed p s
  else if !l.deaf then columnErrors p count s
  else if 4 ≤ count then s.modLane p (fun l => { l with deaf := false })
  else columnErrors p (4 * count) s

/-- After a failed wake the receiver decodes `n` consecutive error-free IDL sets (R63): four end it; the columns of fewer are still code
errors (DESIGN CHOICE, log entry 78). -/
def idlSetsIn (p : NetPort) (n : Nat) (s : State) : State :=
  if !(receives s p && (s.port p).lane.deaf) then s
  else if 4 ≤ n then s.modLane p (fun l => { l with deaf := false })
  else columnErrors p (4 * n) s

/-- LC stops with no SLP or LVE before it (R57, R64). -/
def lcLost (p : NetPort) (s : State) : State :=
  let l := (s.port p).lane
  if l.phase = .up then (if l.rxAsleep then s else laneLost p 2 s)
  else trainFail p .partnerIdle s

/-- The partner's eight LVE sets arrive (R64). -/
def lveIn (p : NetPort) (reason : Nat) (s : State) : State :=
  setsIn p 8 (fun s => laneLost p 1 (s.modLane p (fun l => { l with leave := reason % 8 }))) s

/-- The compliance checker synchronizes on every lane (R66): only PRBS-31 is checked. `history` holds the last 31 bits of each lane. -/
def prbsSyncIn (p : NetPort) (history : List (BitVec 31)) (s : State) : State :=
  if (s.port p).lane.phase = .compliance ∧ s.fget F.LAN_CTL_PATTERN p.val = 0 then
    s.modLane p (fun l => { l with cmpSync := true, prbs := history })
  else s

/-- A column of pattern bytes, L0 first, meets the synchronized checker (R66): each lane's byte is held against the bits before it. -/
def prbsColumn (p : NetPort) (bytes : Bytes) (s : State) : State :=
  let l := (s.port p).lane
  if l.phase = .compliance && l.cmpSync then
    let rs := (l.prbs.zip bytes).map (fun e => prbsCheck 8 e.2.toNat e.1)
    let lanes := (rs.zipIdx.map (fun r => 2 ^ r.2 * b2n (!r.1.2))).sum
    ((s.modLane p (fun l => { l with prbs := rs.map (·.1) })).finc F.LAN_CMP_ERR_ERRORS (popCount 16 lanes) p.val).fset
      F.LAN_CMP_ERR_ERR_MASK (s.fget F.LAN_CMP_ERR_ERR_MASK p.val ||| lanes) p.val
  else s

/-- A transmit direction enters lane sleep (R61). -/
def sleepTx (p : NetPort) (s : State) : State :=
  (sendSet p (.slp 2) s).modLane p (fun l => { l with txAsleep := true, waking := 0 })

/-- The 2 µs lane stop of an L reset ends (R313). -/
def laneRestart (p : NetPort) (s : State) : State :=
  if (s.port p).lane.stopped then startTraining p (s.modLane p (fun l => { l with stopped := false })) else s

end Sys2Proof.Machine
end

