-- ==== Sys2Proof/Machine/ShaOps.lean ====
section
/-! DEFINITION. SHA-256, the digest of a Getil image (R30). -/

namespace Sys2Proof.Machine

/-- The largest number of at most `n` bits whose `k`-th power does not exceed `v`, found bit by bit from the top. -/
def rootDown (k v : Nat) : Nat → Nat → Nat
  | 0, r => r
  | n + 1, r => rootDown k v n (if (r + 2 ^ n) ^ k ≤ v then r + 2 ^ n else r)

/-- The first 32 bits of the fractional part of the `k`-th root of `p`: the constants of SHA-256 are such roots of primes. -/
def rootFraction (k p : Nat) : Nat := rootDown k (p * 2 ^ (32 * k)) 37 0 % 2 ^ 32

/-- The primes below 312, the first 64: what no smaller number from 2 up divides. -/
def shaPrimes : List Nat :=
  (List.range 312).filter (fun n => decide (2 ≤ n) && (List.range 18).all (fun d => decide (d < 2) || decide (n ≤ d) || n % d != 0))

/-- The round constants: from the cube roots of the first 64 primes. -/
def shaK : List Nat := shaPrimes.map (rootFraction 3)

/-- The initial hash value: from the square roots of the first 8 primes. -/
def shaH0 : List (BitVec 32) := (shaPrimes.take 8).map (fun p => BitVec.ofNat 32 (rootFraction 2 p))

/-- The message padded to a multiple of 64 bytes: a 1 bit, zeros, and the length in bits, big-endian. -/
def shaPad (m : Bytes) : Bytes :=
  m ++ [0x80#8] ++ List.replicate ((119 - m.length % 64) % 64) 0#8 ++ (leBytes 8 (8 * m.length)).reverse

/-- A 32-bit word from big-endian bytes. -/
def shaWord (bs : Bytes) : BitVec 32 := BitVec.ofNat 32 (leNat bs.reverse)

/-- Three rotations of a word, combined. -/
def turned (i j k : Nat) (x : BitVec 32) : BitVec 32 := x.rotateRight i ^^^ x.rotateRight j ^^^ x.rotateRight k

/-- Two rotations and a shift of a word, combined. -/
def shifted (i j k : Nat) (x : BitVec 32) : BitVec 32 := x.rotateRight i ^^^ x.rotateRight j ^^^ (x >>> k)

/-- Each bit of `y` where `x` has a 1, of `z` where it has a 0. -/
def chosen (x y z : BitVec 32) : BitVec 32 := z ^^^ (x &&& (y ^^^ z))

/-- The bit that at least two of three words hold. -/
def mostOf (x y z : BitVec 32) : BitVec 32 := (x &&& (y ||| z)) ||| (y &&& z)

/-- Extends the message schedule, held newest word first, by `n` words. -/
def shaExtend : Nat → List (BitVec 32) → List (BitVec 32)
  | 0, w => w
  | n + 1, w =>
    shaExtend n ((w.getD 15 0#32 + shifted 7 18 3 (w.getD 14 0#32) + w.getD 6 0#32 + shifted 17 19 10 (w.getD 1 0#32)) :: w)

/-- One round on the working variables, with its constant and its word of the schedule added. -/
def shaRound (v : List (BitVec 32)) (kw : Nat × BitVec 32) : List (BitVec 32) :=
  let at_ := fun i => v.getD i 0#32
  let low := at_ 7 + turned 6 11 25 (at_ 4) + chosen (at_ 4) (at_ 5) (at_ 6) + (BitVec.ofNat 32 kw.1 + kw.2)
  let high := turned 2 13 22 (at_ 0) + mostOf (at_ 0) (at_ 1) (at_ 2)
  (low + high) :: (v.set 3 (at_ 3 + low)).take 7

/-- The words of a block, oldest first. -/
def shaWords (block : Bytes) : List (BitVec 32) := (List.range 16).map (fun i => shaWord ((block.drop (4 * i)).take 4))

/-- One block. -/
def shaBlock (h : List (BitVec 32)) (block : Bytes) : List (BitVec 32) :=
  let w := (shaExtend 48 (shaWords block).reverse).reverse
  List.zipWith (· + ·) h ((shaK.zip w).foldl shaRound h)

/-- Up to `n` blocks of a padded message. -/
def shaBlocks : Nat → List (BitVec 32) → Bytes → List (BitVec 32)
  | 0, h, _ => h
  | n + 1, h, m => shaBlocks n (shaBlock h (m.take 64)) (m.drop 64)

/-- The 32 bytes of the SHA-256 of a message. -/
def sha256 (m : Bytes) : Bytes :=
  let p := shaPad m
  (shaBlocks (p.length / 64) shaH0 p).flatMap (fun w => (leBytes 4 w.toNat).reverse)

end Sys2Proof.Machine
end

