-- ==== Sys2Proof/Machine/CfgOps.lean ====
section
/-! DEFINITION. The configuration store, the checks of a Getil image, activation and the image load up to its commit (R27 to
R45). -/

namespace Sys2Proof.Machine

/-- Changes the CFG block. -/
def State.modCfg (s : State) (f : CfgState → CfgState) : State := { s with cfg := f s.cfg }

/-! ## The store (R27, R39) -/

/-- Store address and size of a region code (R27): slot A, slot B, calibration, user. -/
def storeRegion (r : Nat) : Nat × Nat :=
  match r with
  | 0 => (0, 0x1E0000)
  | 1 => (0x1E0000, 0x1E0000)
  | 2 => (0x3C0000, 0x10000)
  | _ => (0x3E0000, 0x20000)

/-- Store address of a slot. -/
def slotBase (slot : Bool) : Nat := (storeRegion (b2n slot)).1

/-- The store is powered and unclamped for commands (R39). -/
def State.storeOn (s : State) : Bool := decide (s.pwr.state ≠ .sleep) && !s.flt.muzzle

/-! ## The calibration unlock (R45) -/

/-- A write of CFG_CAL_UNLOCK: 0x5CA1 arms the writer's unlock, any other value disarms it. -/
def calUnlockWrite (mid : Mid) (v : Word) (s : State) : State :=
  s.modCfg (fun c =>
    let others := c.unlocked.filter (· != mid)
    { c with unlocked := if fieldOf v 15 0 = 0x5CA1 then others ++ [mid] else others })

/-- Takes a master's unlock away: it is consumed, or its master is reset. -/
def calDisarm (mid : Mid) (s : State) : State :=
  s.modCfg (fun c => { c with unlocked := c.unlocked.filter (· != mid) })

/-! ## Store commands (R39) -/

/-- Why a store command is refused, the first that holds in the order below (DESIGN CHOICE, log entry 12): ERR of CFG_PROG_CTL, 0 accepted. -/
def progRefusal (mid : Mid) (v : Word) (s : State) : Nat :=
  let region := fieldOf v 17 16
  let write := bitOf v 24
  if !s.storeOn then 6
  else if s.cfg.prog.isSome then 4
  else if write && s.pwr.pfw then 5
  else if (storeRegion region).2 ≤ 64 * fieldOf v 14 0 then 3
  else if write && region = b2n s.cfg.slot && decide (s.cfg.state = .loaded) then 1
  else if write && region = 2 && !s.cfg.unlocked.contains mid then 2
  else 0

/-- The eight data words, as the 64 bytes of a block. -/
def progData (s : State) : Bytes :=
  (List.range 8).flatMap (fun k => leBytes 8 (s.regWord .CFG_PROG_DATA 0 k).toNat)

/-- A write of CFG_PROG_CTL (R39, R45): the block, region and AUTO_INC are set; a write with WRITE or READ is a command, which
consumes the writer's unlock, starts or is refused. With both set it is a WRITE (DESIGN CHOICE, log entry 12). -/
def progCtlWrite (mid : Mid) (v : Word) (s : State) : State :=
  let err := progRefusal mid v s
  let cmd := bitOf v 24 || bitOf v 25
  let s := s.fset F.CFG_PROG_CTL_BLOCK (fieldOf v 14 0)
  let s := (s.fset F.CFG_PROG_CTL_REGION (fieldOf v 17 16)).fset F.CFG_PROG_CTL_AUTO_INC (fieldOf v 18 18)
  if !cmd then s
  else
    let s := (calDisarm mid s).fset F.CFG_PROG_CTL_ERR err
    if err ≠ 0 then s
    else
      let addr := (storeRegion (fieldOf v 17 16)).1 + 64 * fieldOf v 14 0
      let op := if bitOf v 24 then ProgOp.write addr (progData s) (bitOf v 18) else ProgOp.read addr (bitOf v 18)
      s.modCfg (fun c => { c with prog := some op })

/-- A completed command advances BLOCK when it was written with AUTO_INC (R38): the BLOCK that stands in the register then, also
where software has rewritten it since the command (DESIGN CHOICE, log entry 75). -/
def progAdvance (inc : Bool) (s : State) : State :=
  if inc then s.fset F.CFG_PROG_CTL_BLOCK (s.fget F.CFG_PROG_CTL_BLOCK + 1) else s

/-- The command's pulse ends (R39): the block is written, or its contents stand in CFG_PROG_DATA. -/
def progDone (s : State) : State :=
  match s.cfg.prog with
  | none => s
  | some (.write addr data inc) =>
    progAdvance inc (s.modCfg (fun c => { c with prog := none, store := ramWrite c.store addr data }))
  | some (.read addr inc) =>
    let s := s.modCfg (fun c => { c with prog := none })
    let s := (List.range 8).foldl (fun t k =>
      t.setWord .CFG_PROG_DATA (BitVec.ofNat 64 (leNat (ramRead t.cfg.store (addr + 8 * k) 8))) 0 k) s
    progAdvance inc s

/-! ## The slot control record (R28) -/

/-- The trial state as the record's CRC covers it. -/
def trialCode : TrialState → Nat
  | .confirmed => 0
  | .pending => 1
  | .loaded => 2

/-- The CRC-32 of a record (R28), over slot, trial state and sequence number (DESIGN CHOICE, log entry 75). -/
def recordCrc (slot : Bool) (trial : TrialState) (seq : BitVec 32) : BitVec 32 :=
  BitVec.ofNat 32 (crc32 (leBytes 1 (b2n slot) ++ leBytes 1 (trialCode trial) ++ leBytes 4 seq.toNat))

/-- A copy as the DX64 writes it. -/
def sealRecord (slot : Bool) (trial : TrialState) (seq : BitVec 32) : CtlRecord :=
  { slot := slot, trial := trial, seq := seq, crc := recordCrc slot trial seq }

/-- The copy, where its CRC matches (R28). -/
def validRecord (r : Option CtlRecord) : Option CtlRecord := r.filter (fun r => r.crc == recordCrc r.slot r.trial r.seq)

/-- The record a load reads: the valid copy with the higher sequence number; with none, slot A, CONFIRMED (R28). -/
def ctlRecord (c : CfgState) : CtlRecord :=
  match validRecord c.recA, validRecord c.recB with
  | some a, some b => if a.seq.toNat < b.seq.toNat then b else a
  | some a, none => a
  | none, some b => b
  | none, none => sealRecord false .confirmed 0#32

/-- Starts the pulse that writes the next record into the copy not in use (R28); `act`: an activation or a confirmation makes it. -/
def writeRecord (act slot : Bool) (trial : TrialState) (c : CfgState) : CfgState :=
  let r := sealRecord slot trial ((ctlRecord c).seq + 1#32)
  if validRecord c.recA = some (ctlRecord c) then { c with recB := some r, recPulse := some (true, act) }
  else { c with recA := some r, recPulse := some (false, act) }

/-- The pulse of a record copy ends (R28, R43). -/
def recordPulsed (s : State) : State := s.modCfg (fun c => { c with recPulse := none })

/-- A pulse of the store ends (R39, R43): a record copy's before a store command's (DESIGN CHOICE, log entry 75). -/
def pulseDone (s : State) : State := if s.cfg.recPulse.isSome then recordPulsed s else progDone s

/-- A write pulse is in progress, of a block or of a record copy (R43). -/
def pulsing (c : CfgState) : Bool :=
  c.recPulse.isSome || (match c.prog with
    | some (.write _ _ _) => true
    | _ => false)

/-- All supplies are lost during a pulse of a record copy (R43): the copy's CRC is free, so that the copy may be damaged. -/
def copyLost (s : State) : State :=
  let spoiled := fun (r : Option CtlRecord) => r.map (fun r => { r with crc := s.freeValue.setWidth 32 })
  match s.cfg.recPulse with
  | some (true, _) => (s.modCfg (fun c => { c with recB := spoiled c.recB, recPulse := none })).tookFree
  | some (false, _) => (s.modCfg (fun c => { c with recA := spoiled c.recA, recPulse := none })).tookFree
  | none => s

/-- All supplies are lost during a block's pulse (R43): the block under the pulse is undefined. -/
def blockLost (s : State) : State :=
  match s.cfg.prog with
  | some (.write addr _ _) =>
    let junk := (List.range 8).flatMap (fun k => leBytes 8 (Config.free64 (s.freeCount + k)).toNat)
    { s.modCfg (fun c => { c with prog := none, store := ramWrite c.store addr junk }) with freeCount := s.freeCount + 8 }
  | _ => s

/-- All supplies are lost during whatever pulses are in progress (R43). -/
def pulseLost (s : State) : State := blockLost (copyLost s)

/-! ## The checks of an image (R30 to R33, R35) -/

/-- `n` bytes at an offset of a slot, as a number. -/
def slotNat (s : State) (slot : Bool) (off n : Nat) : Nat := leNat (ramRead s.cfg.store (slotBase slot + off) n)

/-- One entry of an image's section directory (R30). -/
structure SectionEntry where
  type     : Nat
  optional : Bool
  offset   : Nat
  length   : Nat
  reserved : Nat
deriving DecidableEq, Repr

/-- A slot's section directory (R30). -/
def slotSections (s : State) (slot : Bool) : List SectionEntry :=
  (List.range (slotNat s slot 6 2)).map (fun k =>
    let at_ := 0x40 + 16 * k
    { type := slotNat s slot at_ 2, optional := (slotNat s slot (at_ + 2) 2).testBit 0, offset := slotNat s slot (at_ + 4) 4,
      length := slotNat s slot (at_ + 8) 4, reserved := slotNat s slot (at_ + 12) 4 })

/-- The directory carries the required sections once each, nothing twice and nothing unknown that is not OPTIONAL (R31). -/
def sectionsOk (secs : List SectionEntry) : Bool :=
  [1, 2, 3, 4, 5, 6].all (fun t => secs.any (·.type == t)) && secs.all (fun e => secs.countP (·.type == e.type) == 1) &&
    secs.all (fun e => (decide (1 ≤ e.type) && decide (e.type ≤ 8)) || e.optional)

/-- Every section starts on a 64-byte boundary and lies within the image's `len` bytes, and the reserved bytes of its entry are 0
(R30; reason 5 where one does not, DESIGN CHOICE, log entry 75). -/
def directoryOk (len : Nat) (secs : List SectionEntry) : Bool :=
  secs.all (fun e => e.offset % 64 == 0 && decide (0x40 + 16 * secs.length ≤ e.offset) && decide (e.offset + e.length ≤ len) &&
    e.reserved == 0)

/-- Step 3 of the load (R35): the reason code of a slot's header and directory; 0 passes. A SECTION_COUNT outside 1 to 16 is
a fault of the directory (DEDUCED, log entry 31), a reserved header byte that is not 0 one of the form (DESIGN CHOICE, log entry 75). -/
def headerReason (s : State) (slot : Bool) : Nat :=
  let len := slotNat s slot 8 4
  let count := slotNat s slot 6 2
  if slotNat s slot 0 4 ≠ 0x4C544547 ∨ slotNat s slot 4 2 ≠ 1 ∨ slotNat s slot 0x18 8 ≠ 0 then 1
  else if len % 64 ≠ 0 ∨ 1966080 < len then 2
  else if slotNat s slot 0xC 4 ≠ 0x04B3D064 then 3
  else if count = 0 ∨ 16 < count then 5
  else if sectionsOk (slotSections s slot) && directoryOk len (slotSections s slot) then 0 else 5

/-- What the sections of a slot define: the optional sections only where the directory lists them (R31). -/
def listedSections (secs : List SectionEntry) (img : ImageDesc) : ImageDesc :=
  { img with laneSetup := if secs.any (·.type == 7) then img.laneSetup else []
             presets := if secs.any (·.type == 8) then img.presets else [] }

/-- The digest over a slot's image matches its DIGEST field (R30). -/
def digestOk (s : State) (slot : Bool) : Bool :=
  let img := ramRead s.cfg.store (slotBase slot) (slotNat s slot 8 4)
  sha256 (patchBytes img 0x20 (List.replicate 32 0#8)) == ramRead s.cfg.store (slotBase slot + 0x20) 32

/-- Queue-state footprint of one host port (R33). -/
def queueFootprint (q : QueuePool) : Nat := 229376 + 48 * q.wqs + (64 + 4096) * q.eqs + 16 * q.pds

/-- Queue state that the miscellaneous region must hold (R33). -/
def queueState (img : ImageDesc) : Nat := queueFootprint (imgPool img 0) + queueFootprint (imgPool img 1) + 65536

/-- The queue pools stay within their limits (R32, R161, R180, R206). -/
def poolOk (q : QueuePool) : Bool :=
  decide (1 ≤ q.wqs ∧ q.wqs ≤ 16384) && decide (1 ≤ q.eqs ∧ q.eqs ≤ 4096) && decide (q.pds ≤ 4096)

/-- The regions of an SRAM partition (R20). -/
def partRegions (p : Partition) : List Nat :=
  [p.tableA, p.tableB, p.matching, p.epcCache, p.sheepdog, p.staging, p.replay, p.capture, p.park, p.misc]

/-- The structure check (R32; dimension limits of R114). -/
def structureOk (img : ImageDesc) : Bool :=
  let p := img.part
  (partRegions p).all (· % 65536 == 0) && (partRegions p).sum == 67108864 &&
    p.tableA == p.tableB && decide (8 * imgChips img ≤ p.tableA) &&
    (List.range 64).all (fun q => decide ((imgPort img q).role = .disabled) ||
      (decide (65536 ≤ portShare img q p.staging) && decide (131072 ≤ portShare img q p.replay))) &&
    decide (p.posted + p.unexp ≤ p.matching / 32) && decide (65536 ≤ p.park) && decide (1048576 ≤ p.misc) &&
    img.pools.length == 2 && img.pools.all poolOk && decide (queueState img ≤ p.misc) &&
    decide (1 ≤ img.sizes.length ∧ img.sizes.length ≤ 5) && img.sizes.all (fun k => decide (2 ≤ k ∧ k ≤ 64)) &&
    decide (imgChips img ≤ 262144) && img.coords.length == img.sizes.length &&
    (img.coords.zip img.sizes).all (fun c => decide (c.1 < c.2)) &&
    img.dimPorts.all (fun e => (imgPort img e.2.2).role == .network) && img.uses.mgmt == 0

/-- Steps 4 and 5 of the load: the reason code of digest and structure; 0 passes. -/
def streamReason (s : State) (slot : Bool) (img : ImageDesc) : Nat :=
  if !digestOk s slot then 4 else if !structureOk img then 6 else 0

/-- Records the result of a slot's check (R38): its reason code, and on a pass its serial number. -/
def checkResult (slot : Bool) (reason : Nat) (s : State) : State :=
  let serial := BitVec.ofNat 64 (slotNat s slot 0x10 8)
  s.modCfg (fun c =>
    if slot then { c with failB := reason, serialB := if reason = 0 then serial else c.serialB }
    else { c with failA := reason, serialA := if reason = 0 then serial else c.serialA })

/-! ## Activation (R41, R42) -/

/-- CFG_ACTIVATE.BUSY (R38): an activation or a confirmation is in progress. -/
def activating (c : CfgState) : Bool := c.act.isSome || (c.recPulse.map (·.2)).getD false

/-- Why GO or CONFIRM is discarded (R41): ERR of CFG_ACTIVATE, 0 accepted. -/
def activateRefusal (s : State) : Nat :=
  if activating s.cfg then 1 else if !s.storeOn then 2 else if s.pwr.pfw then 3 else 0

/-- CONFIRM (R42): the slot loaded on trial is recorded CONFIRMED; without a trial nothing happens. -/
def confirmSlot (s : State) : State :=
  if s.cfg.trial then s.modCfg (fun c => { writeRecord true c.slot .confirmed c with trial := false }) else s

/-- A write of CFG_ACTIVATE (R41, R42): a write that sets GO or CONFIRM is discarded whole or starts its work, CONFIRM before GO
where both are set; a CONFIRM alone without a trial has no effect at all (DESIGN CHOICE, log entry 37). Any other write sets SLOT
and TRIAL. -/
def activateWrite (v : Word) (s : State) : State :=
  let go := bitOf v 8
  let confirm := bitOf v 9
  let err := activateRefusal s
  if (go || confirm) && err ≠ 0 then s.fset F.CFG_ACTIVATE_ERR err
  else if confirm && !go && !s.cfg.trial then s
  else
    let s := (s.fset F.CFG_ACTIVATE_SLOT (fieldOf v 0 0)).fset F.CFG_ACTIVATE_TRIAL (fieldOf v 1 1)
    if !(go || confirm) then s
    else
      let s := s.fset F.CFG_ACTIVATE_ERR 0
      let s := if confirm then confirmSlot s else s
      if go then s.modCfg (fun c => { c with act := some (bitOf v 0, bitOf v 1) }) else s

/-- The activation check ends (R41): a slot that passes is recorded, in one pulse. While the store is unavailable or the pulse of a
record is in progress it does not end; with PFW_N asserted by then no record pulse is possible, and the activation is discarded
(DESIGN CHOICE, log entry 32). -/
def activateDone (img : ImageDesc) (s : State) : State :=
  match s.cfg.act with
  | none => s
  | some (slot, trial) =>
    if !s.storeOn || s.cfg.recPulse.isSome then s
    else
      let h := headerReason s slot
      let reason := if h ≠ 0 then h else streamReason s slot (listedSections (slotSections s slot) img)
      let s := (checkResult slot reason s).modCfg (fun c => { c with act := none })
      let s := s.fset F.CFG_ACTIVATE_RESULT reason
      if reason ≠ 0 then s
      else if s.pwr.pfw then s.fset F.CFG_ACTIVATE_ERR 3
      else s.modCfg (fun c =>
        let c' := writeRecord true slot (if trial then .pending else .confirmed) c
        { c' with trial := c.trial && (trial || slot != c.slot) })

/-! ## The image load (R35 to R37, R42) -/

/-- A load may start: the reset has been released, the store is ready and no load has run since (R35, R310, R311). -/
def loadReady (s : State) : Bool :=
  s.storeOn && !s.rst.pHeld && !s.rst.cHeld && s.cfg.recPulse.isNone && !(s.rst.cold && s.rst.clearing) &&
    decide (s.cfg.state = .notLoading) && decide (s.cfg.stage = .idle)

/-- Step 1 and 2 of a load (R35, R42, R44): the record is read and a slot chosen, and the calibration region is checked
(log entry 13). With PFW_N asserted no record pulse is written (R300). -/
def loadStart (s : State) : State :=
  if !loadReady s then s
  else
    let cal := Config.calCheck (ramRead s.cfg.store (storeRegion 2).1 (storeRegion 2).2)
    let r := ctlRecord s.cfg
    s.modCfg (fun c =>
      let c := { c with state := .loading, calValid := cal, fellBack := false, fallback := false, trial := false,
                        trialLoad := false, presetSkipped := false }
      match r.trial with
      | .confirmed => { c with stage := .header r.slot }
      | .pending =>
        if s.pwr.pfw then { c with stage := .header (!r.slot), fallback := true }
        else { writeRecord false r.slot .loaded c with stage := .header r.slot, trialLoad := true }
      | .loaded =>
        let c := if s.pwr.pfw then c else writeRecord false (!r.slot) .confirmed c
        { c with stage := .header (!r.slot), fallback := true })

/-- Both slots have failed (R36): the chip enters the no-image state and CFG_IMAGE_BAD rises. -/
def noImage (s : State) : State :=
  let s := s.modCfg (fun c => { c with state := .noImage, stage := .idle, trialLoad := false })
  raiseFault 8 { s with rst := { s.rst with cold := false, phase := if s.rst.clearing then s.rst.phase else .loading } }

/-- A slot fails in a load (R36): the other slot is tried once. -/
def slotFails (slot : Bool) (reason : Nat) (s : State) : State :=
  let s := checkResult slot reason s
  if s.cfg.fellBack then noImage s
  else s.modCfg (fun c => { c with stage := .header (!slot), fellBack := true, fallback := true, trialLoad := false })

/-- Step 3: header and directory of the slot being loaded (R35). Streaming starts once the load's record pulse has ended (R42). -/
def loadHeader (s : State) : State :=
  match s.cfg.stage with
  | .header slot =>
    if s.cfg.recPulse.isSome then s
    else
    let r := headerReason s slot
    if r ≠ 0 then slotFails slot r s else s.modCfg (fun c => { c with stage := .streaming slot })
  | _ => s

/-- Steps 4 and 5: the slot has been streamed, and digest and structure decide (R35). -/
def loadStreamed (img : ImageDesc) (s : State) : State :=
  match s.cfg.stage with
  | .streaming slot =>
    let img := listedSections (slotSections s slot) img
    let r := streamReason s slot img
    if r ≠ 0 then slotFails slot r s
    else (checkResult slot 0 s).modCfg (fun c => { c with stage := .passed slot img })
  | _ => s

end Sys2Proof.Machine
end

