-- ==== Sys2Proof/Machine/RouterOps.lean ====
section
/-! DEFINITION. The router core (R114 to R142): lookup, productive sets, the allocator's cycle, transmission of granted packets,
bounces and the table commands. -/

namespace Sys2Proof.Machine

/-! ## Crossbar inputs and outputs; an output is 0 to 63 for a network port and 64 + n for IPn -/

/-- A crossbar port as a network port. -/
def netOf (x : Nat) : Option NetPort := if h : x < 64 then some ⟨x, h⟩ else none

/-- A crossbar port as an internal port. -/
def intOf (x : Nat) : Option IntPort := if h : 64 ≤ x ∧ x < 68 then some ⟨x - 64, by omega⟩ else none

/-- The crossbar input of a port. -/
def inOf (s : State) (x : XbarPort) : InPort :=
  match netOf x.val with
  | some p => (s.port p).inp
  | none => match intOf x.val with
    | some i => s.ints[i].inp
    | none => inReset

/-- Changes a crossbar input. -/
def modIn (x : XbarPort) (f : InPort → InPort) (s : State) : State :=
  match netOf x.val with
  | some p => s.modPort p (fun q => { q with inp := f q.inp })
  | none => match intOf x.val with
    | some i => s.modInt i (fun q => { q with inp := f q.inp })
    | none => s

/-- Every crossbar port in order. -/
def allX : List XbarPort := List.finRange 68

/-- CORE_CLK cycles a packet takes through the crossbar (R122). -/
def crossCycles (pkt : Packet) : Nat := ceilDiv (pktLen pkt) 128

/-- 64-byte blocks of a packet. -/
def pktBlocks (pkt : Packet) : Nat := ceilDiv (pktLen pkt) 64

/-- 64-byte blocks in use in an ejection buffer (R126). -/
def ejectUsed (q : IntPortState) : Nat := (q.eject.map (fun i => pktBlocks i.pkt)).sum

/-- The payload speed of lanes, in units of 1/1000 Gbit/s (R48). -/
def laneSpeed (rate width : Nat) : Nat :=
  (if rate = 0 then 50000 else if rate = 1 then 42500 else 20625) * lanesOf width

/-- A network port is in UP (R90). -/
def portUp (s : State) (p : NetPort) : Bool := decide ((s.port p).link.phase = .up)

/-- DWELL_MAX; values below 4 act as 4 (R138). -/
def dwellMax (s : State) : Nat := max 4 (s.fget F.RTR_TIMING_DWELL_MAX)

/-- INJ_WINDOW; values below 8 act as 8 (R138). -/
def injWindow (s : State) : Nat := max 8 (s.fget F.RTR_TIMING_INJ_WINDOW)

/-- INJ_SHARE; 0 acts as 1, values above an eighth of the window act as that (R138). -/
def injShare (s : State) : Nat := min (injWindow s / 8) (max 1 (s.fget F.RTR_TIMING_INJ_SHARE))

/-! ## Routing tables (R117 to R119, R138 to R142) -/

/-- A version of the routing tables: 0 A, 1 B. -/
def rtrTable (s : State) (v : Nat) : RouteTable := if v = 0 then s.rtr.tableA else s.rtr.tableB

/-- Entries a table holds: its region at 8 bytes each (R20). -/
def tableEntries (s : State) (v : Nat) : Nat :=
  s.image.elim 0 (fun img => (if v = 0 then img.part.tableA else img.part.tableB) / 8)

/-- The entry of a version for a chip identifier; none beyond the table. -/
def tableEntry (s : State) (v chip : Nat) : Option Word :=
  if chip < tableEntries s v then some ((tblGet chip (rtrTable s v).entries).getD (rtrTable s v).base) else none

/-- The packet is an MGMT packet (R342). -/
def isMgmt (pkt : Packet) : Bool := decide (pktOpcode pkt = 0x0D) && decide (pktTc pkt = 0)

/-- The version CURRENT names. -/
def epochCurrent (s : State) : Nat := s.fget F.RTR_EPOCH_CURRENT

/-- A version is open at this chip (R139). -/
def epochOpen (s : State) (v : Nat) : Bool := if v = 0 then s.flag F.RTR_EPOCH_OPEN_A else s.flag F.RTR_EPOCH_OPEN_B

/-- The version a lookup reads, and whether it fell back (R139, R140). -/
def lookupVersion (s : State) (pkt : Packet) (fresh : Bool) : Nat × Bool :=
  let v := if fresh then epochCurrent s else pktEpoch pkt
  if epochOpen s v then (v, false) else (1 - v, true)

/-- A packet's lookup (R118, R342): discarded, with whether it meets an INVALID entry, or the entry that routes it. -/
inductive Looked
  | drop (invalid : Bool)
  | entry (e : Word)
  | toHere
deriving DecidableEq, Repr

/-- The entry's result for an identifier inside or outside the fabric (R118). -/
def lookupEntry (s : State) (v dst : Nat) : Looked :=
  match tableEntry s v dst with
  | none => .drop false
  | some e =>
    let kind := fieldOf e 2 0
    if kind = 4 then .drop false
    else if kind = 0 ∨ 5 ≤ kind ∨ s.image.elim 0 imgChips ≤ dst then .drop true
    else if kind = 3 then .toHere else .entry e

/-- R118 with the binding rule of R342 for fresh packets. -/
def lookup (s : State) (pkt : Packet) (fresh : Bool) : Looked :=
  if pktDstChip pkt = s.chip then .toHere
  else if fresh && s.binding != 1 && !isMgmt pkt then .drop false
  else lookupEntry s (lookupVersion s pkt fresh).1 (pktDstChip pkt)

/-- The lowest override entry for (d, x), if any (R121). -/
def overrideFor (s : State) (d x : Nat) : Option Nat :=
  (List.range 64).find? (fun k => s.flag F.RTR_OVR_VALID 0 k && decide (s.fget F.RTR_OVR_DIM 0 k = d) &&
    decide (s.fget F.RTR_OVR_POS 0 k = x))

/-- A link that may stand in rank 1 or 2 for a packet: UP, and not restricted unless the packet is MGMT (R342). -/
def rankable (s : State) (pkt : Packet) (p : Nat) : Bool :=
  match netOf p with
  | some q => portUp s q && (!(s.port q).link.restricted || isMgmt pkt)
  | none => false

/-- A port whose role is network or spare. -/
def roleIn (s : State) (p : Nat) : Bool :=
  match netOf p with
  | some q => s.role q != .disabled
  | none => false

/-- The ports a packet field of seven bits names: bit 6 valid, bits [5:0] port (R117, R138). -/
def portField (w : Word) (lo : Nat) : Option Nat :=
  if bitOf w (lo + 6) then some (fieldOf w (lo + 5) lo) else none

/-- What one dimension gives a MINIMAL packet: rank 1 and rank 2 (R120, R121). -/
def dimRanks (s : State) (img : ImageDesc) (pkt : Packet) (e : Word) (d x : Nat) : List Nat × List Nat :=
  let direct := portMap img d x
  let ovr := overrideFor s d x
  let forced := ovr.any (fun k => s.flag F.RTR_OVR_FORCE 0 k)
  if direct.any (rankable s pkt) && !forced then (direct.toList, [])
  else match ovr with
  | some k =>
    let w := s.regWord .RTR_OVR 0 k
    ([], ([16, 23, 30, 37].filterMap (portField w)).filter (fun a => roleIn s a && rankable s pkt a))
  | none =>
    if s.flag F.RTR_CTL_DETOUR && !bitOf e 8 then
      ([], (img.dimPorts.filter (fun t => t.1 == d && some t.2.2 != direct && (imgPort img t.2.2).role == .network &&
        rankable s pkt t.2.2)).map (·.2.2))
    else ([], [])

/-- The productive set of a MINIMAL entry (R120). -/
def minimalRanks (s : State) (img : ImageDesc) (pkt : Packet) (e : Word) : List Nat × List Nat :=
  let dst := pktDstChip pkt
  let diff := (List.range img.sizes.length).filter (fun d => decide (coordOf img.sizes dst d ≠ img.coords.getD d 0))
  let kept := diff.filter (fun d => (fieldOf e 7 3).testBit d)
  let use := if kept.isEmpty then diff else kept
  let rs := use.map (fun d => dimRanks s img pkt e d (coordOf img.sizes dst d))
  let r1 := rs.flatMap (·.1)
  (r1, (rs.flatMap (·.2)).filter (fun p => !r1.contains p))

/-- The productive set of a PORTS entry (R120). -/
def portsRanks (s : State) (pkt : Packet) (e : Word) : List Nat :=
  ((List.range 8).filterMap (fun k => portField e (7 + 7 * k))).filter (fun p =>
    roleIn s p && (netOf p).all (fun q => !(s.port q).link.restricted || isMgmt pkt))

/-! ## Candidates and grants -/

/-- A presented packet with its productive set. `outside` marks PORTS and LOCAL entries: the outputs they name count as outside every
dimension, and every deflection of theirs is outward (R127, R128). -/
structure Cand where
  x       : XbarPort
  item    : InPacket
  fresh   : Bool
  outside : Bool
  isLocal : Bool
  r1      : List Nat
  r2      : List Nat
deriving DecidableEq, Repr

/-- A grant of this cycle; rank as CAUSE of R359: 0 rank 1, 1 rank 2, 2 deflection, 3 the widened set. -/
structure Grant where
  out  : Nat
  cand : Cand
  rank : Nat
deriving DecidableEq, Repr

/-- The packet a crossbar input presents and whether it is fresh (R124). -/
def presentedAt (s : State) (x : XbarPort) : Option (InPacket × Bool) :=
  let i := inOf s x
  if i.streaming ≠ 0 || i.cutTo.isSome then none
  else match intOf x.val with
  | some ip =>
    match s.ints[ip].bounced with
    | b :: _ => some (b, false)
    | [] => i.queue.head?.map (fun q => (q, true))
  | none => i.presented.map (fun q => (q, false))

/-- The head that an idle network input presents: the oldest of the class heads, equal ages to the lower class (R124). -/
def nextHead (s : State) (queue : List InPacket) : Option InPacket :=
  let heads := (List.range 8).filterMap (fun tc => queue.find? (fun i => i.tc == tc))
  heads.foldl (fun best i => match best with
    | none => some i
    | some b => if inAge s b < inAge s i then some i else some b) none

/-- An idle network input presents its next packet (R124). -/
def presentNext (p : NetPort) (s : State) : State :=
  let i := (s.port p).inp
  if i.presented.isSome || i.streaming ≠ 0 || i.cutTo.isSome then s
  else match nextHead s i.queue with
  | none => s
  | some k => s.modPort p (fun q => { q with inp := { q.inp with presented := some k, queue := q.inp.queue.erase k } })

/-- Takes the presented packet away from its input. -/
def takePresented (c : Cand) (s : State) : State :=
  match netOf c.x.val with
  | some p => s.modPort p (fun q => { q with inp := { q.inp with presented := none } })
  | none => match intOf c.x.val with
    | some i =>
      if c.fresh then s.modInt i (fun q => { q with inp := { q.inp with queue := q.inp.queue.drop 1 } })
      else s.modInt i (fun q => { q with bounced := q.bounced.drop 1 })
    | none => s

/-- The presented packet is discarded: a network input's credits are returned, once its tail has arrived (R81, R85). -/
def dropPresented (c : Cand) (s : State) : State :=
  match netOf c.x.val with
  | some p => leaveStaging p c.item (takePresented c s)
  | none => takePresented c s

/-- Changes the presented packet in place. -/
def modPresented (c : Cand) (f : InPacket → InPacket) (s : State) : State :=
  match netOf c.x.val with
  | some p => s.modPort p (fun q => { q with inp := { q.inp with presented := q.inp.presented.map f } })
  | none => match intOf c.x.val with
    | some i => if c.fresh then s else s.modInt i (fun q =>
        { q with bounced := match q.bounced with | b :: r => f b :: r | [] => [] })
    | none => s

/-- A discard by age (R130). -/
def discardAge (c : Cand) (s : State) : State :=
  dropPresented c (recordDiscard c.x.val 1 c.item.dwell c.item.pkt (s.finc F.RTR_DISC_AGE 1))

/-- A discard by dwell (R129). -/
def discardDwell (c : Cand) (s : State) : State :=
  dropPresented c (recordDiscard c.x.val 2 c.item.dwell c.item.pkt (s.finc F.RTR_DISC_DWELL 1))

/-- A discard at lookup (R118). -/
def discardRoute (c : Cand) (invalid : Bool) (s : State) : State :=
  let s := s.finc F.RTR_DISC_ROUTE 1
  let s := if invalid then
      (s.fset F.RTR_STATUS_INVALID_HIT 1).fset F.RTR_STATUS_LAST_DST (pktDstChip c.item.pkt)
    else s
  dropPresented c (recordDiscard c.x.val 3 c.item.dwell c.item.pkt s)

/-- The presented packet of an input is looked up: its candidate with the productive set, or its discard by age or at lookup
(R118, R120, R125, R130). Sleeping ports it names are asked to wake (R62, R123). -/
def candidate (x : XbarPort) (s : State) : State × Option Cand :=
  match presentedAt s x with
  | none => (s, none)
  | some (item, fresh) =>
    let c : Cand := { x := x, item := item, fresh := fresh, outside := false, isLocal := false, r1 := [], r2 := [] }
    if !fresh && ageLimit s < inAge s item then (discardAge c s, none)
    else
      let v := lookupVersion s item.pkt fresh
      let s := if v.2 then s.finc F.RTR_EPOCH_FALLBACK 1 else s
      let s := if !fresh && pktEpoch item.pkt ≠ epochCurrent s then { s with rtr := { s.rtr with oldSeen := s.clock } }
        else s
      match lookup s item.pkt fresh with
      | .drop inv => (discardRoute c inv s, none)
      | .toHere =>
        (s, some { c with outside := true, isLocal := true, r1 := if item.bounced then [] else [64, 65, 66, 67] })
      | .entry e =>
        let img := s.image.getD ⟨[], [], [], [], ⟨0, 0, 0, 0, 0, 0, 0, 0, 0, 0, 0, 0⟩, [], [], ⟨0, 1, 2, 3, 4, 5, [6, 7]⟩, [], [], []⟩
        let c := if fieldOf e 2 0 = 2 then { c with outside := true, r1 := portsRanks s item.pkt e }
          else
            let r := minimalRanks s img item.pkt e
            { c with r1 := r.1, r2 := r.2 }
        let s := (c.r1 ++ c.r2).foldl (fun t p => match netOf p with
          | some q => if portUp t q then wakeTx q t else t
          | none => t) s
        (s, some c)

/-! ## Free outputs (R122, R131, R342) -/

/-- The link of an output holds the packet's credits (R84). -/
def hasCredits (s : State) (p : NetPort) (i : InPacket) : Bool :=
  let c := creditOf (s.port p).link i.tc
  decide ((pktCredits i.pkt).1 ≤ hdrLeft c) && decide ((pktCredits i.pkt).2 ≤ dataLeft c)

/-- The replay buffer has room for the frame beside everything in the FIFO, and its number would lie in the window
(R74, R82). -/
def hasReplay (s : State) (p : NetPort) (i : InPacket) : Bool :=
  let l := (s.port p).link
  decide (replayBooked l + replayUnits i.pkt ≤ replayShare s p / 32) && decide (outstanding l + l.fifo.length < 1024)

/-- The transmit direction is awake. -/
def txAwake (s : State) (p : NetPort) : Bool := !(s.port p).lane.txAsleep && decide ((s.port p).lane.waking = 0)

/-- The speed at which an input's packet arrives. -/
def inSpeed (s : State) (x : XbarPort) : Nat :=
  (netOf x.val).elim 0 (fun p => laneSpeed (s.port p).lane.rate (s.port p).lane.rxWidth)

/-- The cut-through rule for a packet whose tail has not arrived (R131). -/
def cutAllowed (s : State) (x : XbarPort) (p : NetPort) : Bool :=
  let q := s.port p
  q.link.fifo.isEmpty && q.link.tx.isNone && decide (laneSpeed q.lane.rate q.lane.txWidth ≤ inSpeed s x) &&
    s.flag F.RTR_CTL_CUT_THROUGH

/-- An output is free for a presented packet (R122), not counting the grants of this cycle (DEDUCED, log entry 22). -/
def freeFor (s : State) (c : Cand) (o : Nat) : Bool :=
  match netOf o with
  | some p =>
    rankable s c.item.pkt o && txAwake s p && decide ((s.port p).busy = 0) && decide ((s.port p).link.fifo.length < 4) &&
      hasCredits s p c.item && hasReplay s p c.item && (c.item.whole || cutAllowed s c.x p)
  | none => match intOf o with
    | some i => c.item.whole && decide (s.ints[i].busy = 0) &&
        decide (ejectUsed s.ints[i] + pktBlocks c.item.pkt ≤ s.impl.ejectBlocks)
    | none => false

/-! ## Choosing (R126 to R128) -/

/-- LOAD of an output (R126). -/
def loadOf (s : State) (o : Nat) : Nat :=
  match netOf o with
  | some p =>
    let q := s.port p
    let f := (q.link.fifo.map (fun k => pktLen k.pkt)).sum
    let on := s.flag F.RTR_CTL_LOAD_MODE
    let h := if on then (q.link.credits.toList.map (fun c => c.hdrAdv - hdrLeft c)).sum else 0
    let g := if on then (q.link.credits.toList.map (fun c => c.dataAdv - dataLeft c)).sum else 0
    min 4095 ((f + 32 * h + 64 * g) * 800000 / (max 1 (laneSpeed q.lane.rate q.lane.txWidth)) / 64)
  | none => (intOf o).elim 0 (fun i => ejectUsed s.ints[i])

/-- The dimension an output belongs to, for a network-role port of the port map. -/
def dimOf (s : State) (o : Nat) : Option Nat :=
  s.image.bind (fun img => if (imgPort img o).role = .network ∧ o < 64 then (portPlace img o).map (·.1) else none)

/-- The order of R127: load, then dimension, then the distance from the deflection pointer. `outside` where the outputs are those of a
PORTS entry. -/
def pickKey (s : State) (outside : Bool) (o : Nat) : Nat :=
  let dims := s.image.elim 0 (·.sizes.length)
  let rank := match if outside then none else dimOf s o with
    | some d => if s.flag F.RTR_CTL_TIE_LOW then d else dims - 1 - d
    | none => 64
  loadOf s o * 2 ^ 20 + rank * 2 ^ 10 + (o + 68 - s.rtr.deflPtr) % 68

/-- pick() (R127). -/
def pick (s : State) (outside : Bool) (os : List Nat) : Option Nat :=
  os.foldl (fun best o => match best with
    | none => some o
    | some b => if pickKey s outside o < pickKey s outside b then some o else some b) none

/-- Outputs of a list that are free for a packet beside the grants already made (R122). -/
def freeOf (s : State) (halted : Bool) (gs : List Grant) (c : Cand) (os : List Nat) : List Nat :=
  if halted then [] else os.filter (fun o => !gs.any (fun g => g.out == o) && freeFor s c o)

/-- The deflection set: network-role outputs but the arrival port (R128). -/
def deflectSet (s : State) (c : Cand) : List Nat :=
  (List.range 64).filter (fun o => decide (o ≠ c.x.val) && s.image.any (fun img => (imgPort img o).role == .network))

/-- A port of the neutral group: its dimension still differs (R128). -/
def neutral (s : State) (c : Cand) (o : Nat) : Bool :=
  !c.outside && (dimOf s o).any (fun d => s.image.any (fun img =>
    decide (coordOf img.sizes (pktDstChip c.item.pkt) d ≠ img.coords.getD d 0)))

/-- pick_deflect() (R128). -/
def pickDeflect (s : State) (c : Cand) (os : List Nat) : Option Nat :=
  match pick s false (os.filter (neutral s c)) with
  | some o => some o
  | none => pick s false (os.filter (fun o => !neutral s c o))

/-- The transit steps of R125 for one packet. -/
inductive Placed
  | at (o rank : Nat)
  | waking
  | nowhere
deriving DecidableEq, Repr

/-- A port of rank 1 or rank 2 is waking. -/
def namesWaking (s : State) (c : Cand) : Bool :=
  (c.r1 ++ c.r2).any (fun o => (netOf o).any (fun p => portUp s p && !txAwake s p))

/-- Places a transit packet (R125, R129). A packet for this chip whose tail has not arrived waits for it (R131; log
entry 22). -/
def place (s : State) (halted : Bool) (gs : List Grant) (c : Cand) : Placed :=
  match pick s c.outside (freeOf s halted gs c c.r1) with
  | some o => .at o 0
  | none => match pick s c.outside (freeOf s halted gs c c.r2) with
    | some o => .at o 1
    | none =>
      if !c.item.whole && c.isLocal && !c.item.bounced then .nowhere
      else if c.item.dwell < dwellMax s then
        if namesWaking s c then .waking
        else match pickDeflect s c (freeOf s halted gs c (deflectSet s c)) with
          | some o => .at o 2
          | none => .nowhere
      else match pick s false (freeOf s halted gs c ((List.range 64).filter (roleIn s))) with
        | some o => .at o 3
        | none => .nowhere

/-- The deflection pointer advances after a grant that pick() or pick_deflect() makes (R127). -/
def advanceDefl (s : State) : State := { s with rtr := { s.rtr with deflPtr := (s.rtr.deflPtr + 1) % 68 } }

/-- One more cycle of dwell (R129); a packet whose tail has not arrived counts none (R131). -/
def addDwell (c : Cand) (s : State) : State :=
  if c.item.whole then modPresented c (fun i => { i with dwell := i.dwell + 1 }) s else s

/-- Places one transit packet and applies the outcome that is not a grant (R125). -/
def transitStep (halted : Bool) (c : Cand) (acc : State × List Grant) : State × List Grant :=
  match place acc.1 halted acc.2 c with
  | .at o r => (advanceDefl acc.1, acc.2 ++ [{ out := o, cand := c, rank := r }])
  | .waking => (addDwell c acc.1, acc.2)
  | .nowhere =>
    if !c.item.whole then acc
    else if dwellMax acc.1 ≤ c.item.dwell then (discardDwell c acc.1, acc.2)
    else (addDwell c acc.1, acc.2)

/-! ## Fresh packets and the injection guarantee (R132) -/

/-- IPn is due (R132). -/
def injDue (s : State) (i : IntPort) : Bool :=
  let q := s.ints[i]
  decide (injWindow s - 1 ≤ q.waited) && decide ((q.grants.filter (fun a => a < injWindow s)).length < injShare s)

/-- The grant a due fresh packet takes over: of rank 1, to a transit packet whose dwell is below DWELL_MAX, on an output that
is otherwise free for the fresh packet; the youngest grantee's (R132). -/
def preemptable (s : State) (gs : List Grant) (c : Cand) : Option Grant :=
  (gs.filter (fun g => g.out < 64 && c.r1.contains g.out && g.rank == 0 && !g.cand.fresh &&
      g.cand.item.dwell < dwellMax s && freeFor s c g.out)).foldl (fun best g => match best with
    | none => some g
    | some b => if inAge s g.cand.item < inAge s b.cand.item then some g else some b) none

/-- A due fresh packet preempts (R132); the displaced packet is placed once more. -/
def preempt (halted : Bool) (c : Cand) (acc : State × List Grant) : State × List Grant :=
  match preemptable acc.1 acc.2 c with
  | none => (acc.1.fset F.RTR_STATUS_INJ_MISS 1, acc.2)
  | some g =>
    let s := pmcAdd g.out 0x0C 1 (acc.1.finc F.RTR_DISC_PREEMPT 1)
    let gs := acc.2.filter (fun k => k.out != g.out) ++ [{ out := g.out, cand := c, rank := 0 }]
    match place s halted gs g.cand with
    | .at o r => (advanceDefl s, gs ++ [{ out := o, cand := g.cand, rank := r }])
    | .waking | .nowhere => (addDwell g.cand s, gs)

/-- Places a fresh packet (R125). -/
def freshStep (halted : Bool) (c : Cand) (acc : State × List Grant) : State × List Grant :=
  match pick acc.1 c.outside (freeOf acc.1 halted acc.2 c c.r1) with
  | some o => (advanceDefl acc.1, acc.2 ++ [{ out := o, cand := c, rank := 0 }])
  | none => match pick acc.1 c.outside (freeOf acc.1 halted acc.2 c c.r2) with
    | some o => (advanceDefl acc.1, acc.2 ++ [{ out := o, cand := c, rank := 1 }])
    | none => match intOf c.x.val with
      | some i => if !halted && injDue acc.1 i then preempt halted c acc else acc
      | none => acc

/-! ## Carrying out a grant (R122, R125, R140) -/

/-- A granted packet enters its output: an output FIFO, with its credits debited, or an ejection buffer, with its residence
added to its age. -/
def enterOutput (g : Grant) (pkt : Packet) (s : State) : State :=
  let i := g.cand.item
  match netOf g.out with
  | some p =>
    (s.modLink p (fun l => { debit pkt i.tc l with fifo := l.fifo ++
        [{ pkt := pkt, tc := i.tc, arrived := i.arrived, wasted := decide (2 ≤ g.rank),
           source := if i.whole then none else some g.cand.x }] })).modPort p (fun q => { q with busy := crossCycles pkt })
  | none => match intOf g.out with
    | some k => s.modInt k (fun q => { q with busy := crossCycles pkt, eject := q.eject ++
        [{ pkt := pktSetAge pkt (inAge s i), tc := i.tc, arrived := s.clock, fabric := s.tim.now, fixes := s.tim.fixes, whole := true,
           dwell := i.dwell, bounced := false, owed := false }] })
    | none => s

/-- A granted packet streams out of its input; it has left staging when it has streamed completely (R85). A packet cut through keeps the
input until its tail has arrived (R124, R131). -/
def leaveInput (g : Grant) (s : State) : State :=
  let c := g.cand
  if c.item.whole then
    modIn c.x (fun i => { i with streaming := crossCycles c.item.pkt, leaving := (netOf c.x.val).map (fun _ => c.item) })
      (takePresented c s)
  else match netOf g.out with
    | some p => modIn c.x (fun i => { i with cutTo := some p }) s
    | none => s

/-- A grant takes effect: DEFL, EPOCH, counters, capture, the output and the input. -/
def commitGrant (s : State) (g : Grant) : State :=
  let c := g.cand
  let pkt := if 2 ≤ g.rank then pktDeflect c.item.pkt else c.item.pkt
  let pkt := if c.fresh then pktSetEpoch pkt (epochCurrent s) else pkt
  let s := pmcClass g.out 0x09 1 c.item.tc s
  let s := if 2 ≤ g.rank then pmcClass g.out 0x0A 1 c.item.tc s else s
  let s := if c.item.whole then s else pmcClass g.out 0x0B 1 c.item.tc s
  let s := if c.fresh then pmcClass c.x.val 0x18 1 c.item.tc s else s
  let s := leaveInput g (enterOutput g pkt s)
  match intOf c.x.val with
  | some i => if c.fresh then s.modInt i (fun q => { q with grants := 0 :: q.grants }) else s
  | none => s

/-- The capture event of a grant (R359). -/
def grantEvent (g : Grant) : CapEvent :=
  { point := if g.cand.fresh then 6 else 2, port := g.out, cause := if g.cand.fresh then 0 else g.rank,
    dwell := g.cand.item.dwell, pkt := g.cand.item.pkt }

/-! ## Transmission (R69, R74, R78, R82, R99) -/

/-- The frame in progress ends with EOF (R81, R355). -/
def endFrame (p : NetPort) (t : TxFrame) (s : State) : State :=
  let s := sendFrame p (frameBytes t.fseq t.tc t.pkt t.ack t.rtx) false s
  (countSlots p t t.wasted s).modLink p (fun l => { l with tx := none })

/-- One cycle of the frame in progress: its EOF waits for the tail of a cut-through source (R81). -/
def sendCycle (p : NetPort) (t : TxFrame) (s : State) : State :=
  let t' : TxFrame := { t with slots := t.slots + 1, cycles := if t.source.isSome then max 1 (t.cycles - 1) else t.cycles - 1 }
  if t'.cycles = 0 then endFrame p t' s else s.modLink p (fun l => { l with tx := some t' })

/-- A retransmission starts: the first frame due in sequence order (R78). -/
def startResend (p : NetPort) (f : ReplayFrame) (s : State) : State :=
  let lane := (s.port p).lane
  let n := columnCycles lane.rate (frameColumns (pktLen f.pkt) (lanesOf lane.txWidth))
  (pmcAdd p.val 0x0E 1 s).modLink p (fun l =>
    { l with replay := l.replay.map (fun k => if k.fseq = f.fseq then { k with rtxDue := false } else k),
             tx := some { fseq := f.fseq, tc := f.tc, len := pktLen f.pkt, ack := l.rxNext, cycles := n, slots := 0,
                          wasted := true, rtx := true, source := none, pkt := f.pkt } })

/-- A new frame starts: it takes the next number, its age is that at its departure (R99), and it enters the replay buffer. -/
def startFrame (p : NetPort) (k : OutPkt) (s : State) : State :=
  let q := s.port p
  let pkt := pktSetAge k.pkt (pktAge k.pkt + (s.clock - k.arrived) + q.flight)
  let n := columnCycles q.lane.rate (frameColumns (pktLen pkt) (lanesOf q.lane.txWidth))
  let s := pmcClass p.val 0x0F (pktLen pkt) k.tc (pmcClass p.val 0x0D 1 k.tc s)
  s.modLink p (fun l =>
    { l with fifo := l.fifo.drop 1, txNext := l.txNext + 1,
             replay := l.replay ++ [{ fseq := l.txNext, tc := k.tc, pkt := pkt, rtxDue := false }],
             tx := some { fseq := l.txNext, tc := k.tc, len := pktLen pkt, ack := l.rxNext, cycles := n, slots := 0,
                          wasted := k.wasted, rtx := false, source := k.source, pkt := pkt } })

/-- The frame due first for retransmission (R78). -/
def resendFirst (l : LinkState) : Option ReplayFrame :=
  (l.replay.filter (·.rtxDue)).foldl (fun best f => match best with
    | none => some f
    | some b => if seqDist f.fseq l.txAcked < seqDist b.fseq l.txAcked then some f else some b) none

/-- A transmit direction with no frame in progress starts the next: a retransmission ahead of a new frame (R78). -/
def startNext (p : NetPort) (s : State) : State :=
  let l := (s.port p).link
  match resendFirst l with
  | some f => startResend p f s
  | none => match l.fifo with
    | k :: _ => if outstanding l < 1024 then startFrame p k s else s
    | [] => s

/-- One cycle of a network port's transmit direction. -/
def transmit (p : NetPort) (s : State) : State :=
  if !portUp s p || !txAwake s p then s
  else
    let s := if (s.port p).link.tx.isNone then startNext p s else s
    match (s.port p).link.tx with
    | some t => sendCycle p t s
    | none => s

/-! ## The cycle -/

/-- The cause that keeps an output from a packet that names it, as the BACK event codes of R357: credit, replay, sleep,
eject (R355). -/
def backCause (s : State) (o : Nat) (c : Cand) : Option Nat :=
  match netOf o with
  | some p =>
    if !hasCredits s p c.item then some 5 else if !hasReplay s p c.item then some 6
    else if !txAwake s p then some 7 else none
  | none => (intOf o).bind (fun i =>
    if ejectUsed s.ints[i] + pktBlocks c.item.pkt ≤ s.impl.ejectBlocks then none else some 8)

/-- The slot of an output on which no column leaves in this cycle (R355). -/
def idleSlot (cs : List Cand) (o : Nat) (s : State) : State :=
  let named := cs.filter (fun c => c.r1.contains o || c.r2.contains o)
  let causes := named.filterMap (backCause s o)
  match [5, 6, 7, 8].find? causes.contains with
  | some ev => pmcAdd o ev 1 (pmcAdd o 4 1 s)
  | none => pmcAdd o 3 1 s

/-- The counters of one cycle of a crossbar port: dwell, staging and the slots on which nothing leaves (R355, R357). -/
def portCycle (cs : List Cand) (gs : List Grant) (x : XbarPort) (s : State) : State :=
  let i := inOf s x
  let unplaced := (cs.filter (fun c => c.x == x && !gs.any (fun g => g.cand.x == x))).length
  let s := pmcAdd x.val 0x16 unplaced s
  let held := (netOf x.val).elim [] (fun p => (s.port p).link.held.map (fun h => pktBlocks h.2.2.1))
  let s := pmcAdd x.val 0x17 (((i.queue ++ i.presented.toList ++ i.leaving.toList).map (fun k => pktBlocks k.pkt)).sum + held.sum) s
  match netOf x.val with
  | some p => if portUp s p && (s.port p).link.tx.isNone then idleSlot cs x.val s else s
  | none => (intOf x.val).elim s (fun k => if s.ints[k].busy = 0 then idleSlot cs x.val s else s)

/-- The countdowns of one cycle: waking lanes, streaming inputs and outputs (R60, R62, R122, R124, R132). An output that a packet is cut
through to stays busy until the packet's tail has arrived. -/
def tickPorts (s : State) : State :=
  let cut := s.ports.toList.filterMap (fun q => q.inp.cutTo.map (·.val))
  { s with
    ports := Vector.ofFn (fun p : Fin 64 =>
      let q := s.ports[p]
      { q with busy := if cut.contains p.val then max 1 (q.busy - 1) else q.busy - 1,
               inp := { q.inp with streaming := q.inp.streaming - 1 },
               lane := { q.lane with waking := q.lane.waking - 1, addWait := q.lane.addWait - 1 } })
    ints := s.ints.map (fun q =>
      { q with busy := q.busy - 1, inp := { q.inp with streaming := q.inp.streaming - 1 },
               grants := (q.grants.map (· + 1)).filter (fun a => decide (a < 256)) }) }

/-- Packets that have streamed out of their inputs have left staging: their credits are returned (R85). -/
def finishLeaving (s : State) : State :=
  allPorts.foldl (fun t p =>
    match (t.port p).inp.leaving with
    | some k =>
      if (t.port p).inp.streaming = 0 then
        returnCredits p k (t.modPort p (fun q => { q with inp := { q.inp with leaving := none } }))
      else t
    | none => t) s

/-- The candidates of a cycle, with discards by age and at lookup done (R125). -/
def candidates (s : State) : State × List Cand :=
  allX.foldl (fun (acc : State × List Cand) x =>
    let r := candidate x acc.1
    (r.1, acc.2 ++ r.2.toList)) (allPorts.foldl (fun t p => presentNext p t) s, [])

/-- Inserts a transit packet in the order of R125: oldest first, equal ages by the input pointer. -/
def insertOrder (s : State) (c : Cand) : List Cand → List Cand
  | [] => [c]
  | d :: r =>
    let dist := fun (k : Cand) => (k.x.val + 68 - s.rtr.inPtr) % 68
    if inAge s d.item < inAge s c.item ∨ (inAge s d.item = inAge s c.item ∧ dist c < dist d) then c :: d :: r
    else d :: insertOrder s c r

/-- The allocator's grants of one cycle (R125). -/
def allocate (halted : Bool) (s : State) : State × List Cand × List Grant :=
  let r := candidates s
  let transit := (r.2.filter (fun c => !c.fresh)).foldl (fun l c => insertOrder s c l) []
  let fresh := [0, 1, 2, 3].filterMap (fun k => r.2.find? (fun c => c.fresh && c.x.val == 64 + (s.rtr.injPtr + k) % 4))
  let acc := transit.foldl (fun a c => transitStep halted c a) (r.1, [])
  let acc := fresh.foldl (fun a c => freshStep halted c a) acc
  (acc.1, r.2, acc.2)

/-- The cycle counters of every enabled unit (R354). -/
def countCycles (s : State) : State :=
  if s.svcRuns then
    (List.range 72).foldl (fun t u =>
      if t.flag F.PMC_CTL_EN u then t.fset F.PMC_CYC_CYCLES (t.fget F.PMC_CYC_CYCLES u + 1) u else t) s
  else s

/-- Cycles in a row in which a fresh packet has been at the head of each internal port, granted at last or not (R132). -/
def countWaits (gs : List Grant) (s : State) : State :=
  { s with ints := Vector.ofFn (fun k : Fin 4 =>
      let q := s.ints[k]
      if gs.any (fun g => g.cand.fresh && g.cand.x.val == 64 + k.val) || !q.inp.queue.isEmpty then { q with waited := q.waited + 1 }
      else { q with waited := 0 }) }

/-- One cycle of the allocator: grants, then the pointers (R125). -/
def allocatorStep (halted : Bool) (s : State) : State :=
  let r := allocate halted s
  let s := r.2.2.foldl commitGrant r.1
  let s := capture (r.2.2.map grantEvent) s
  let s := allX.foldl (fun t x => portCycle r.2.1 r.2.2 x t) s
  let s := countWaits r.2.2 s
  { s with rtr := { s.rtr with inPtr := (s.rtr.inPtr + 1) % 68, injPtr := (s.rtr.injPtr + 1) % 4 } }

/-- The allocator is halted by DBG_HALT.RTR (R348). -/
def rtrHalted (s : State) : Bool := s.flag F.DBG_HALT_RTR

/-- The ATC's replacement register advances with every CORE_CLK cycle (R199). -/
def lfsrStep (v : BitVec 16) : BitVec 16 :=
  let bit := (v ^^^ (v >>> 2) ^^^ (v >>> 3) ^^^ (v >>> 5)) &&& 1#16
  (v >>> 1) ||| (bit <<< 15)

/-- One CORE_CLK cycle: the allocator's cycle, one cycle of every transmit direction, and the cycle counters. -/
def coreCycle (s : State) : State :=
  let s := countCycles s
  let s := if s.nicRuns then
      { s with hosts := s.hosts.map (fun h => { h with xlt := { h.xlt with lfsr := lfsrStep h.xlt.lfsr } }) }
    else s
  if s.routerRuns then
    let s := allocatorStep (rtrHalted s) (finishLeaving (tickPorts s))
    allPorts.foldl (fun t p => transmit p t) s
  else s

/-! ## Bounce and discards as events of their own -/

/-- The packet at the head of an ejection buffer is bounced (R23), which wastes a slot of the NIC (R356). -/
def bounce (ip : IntPort) (s : State) : State :=
  match s.ints[ip].eject with
  | [] => s
  | e :: _ =>
    let pkt := pktSetBounced (pktSetAge e.pkt (inAge s e))
    let s := pmcAdd 68 2 1 (pmcClass (64 + ip.val) 2 (crossCycles pkt) e.tc (pmcAdd (64 + ip.val) 0x19 1 s))
    let s := capture [{ point := 5, port := 64 + ip.val, cause := 0, dwell := 0, pkt := pkt }] s
    s.modInt ip (fun q => { q with eject := q.eject.drop 1, bounced := q.bounced ++
      [{ e with pkt := pkt, arrived := s.clock, bounced := true, dwell := 0 }] })

/-- The presented packet of an input as a candidate, its productive set left out. -/
def presentedCand (s : State) (x : XbarPort) : Option Cand :=
  (presentedAt s x).map (fun r =>
    { x := x, item := r.1, fresh := r.2, outside := false, isLocal := false, r1 := [], r2 := [] })

/-- DWELL_DISCARD (R129): a whole transit packet at DWELL_MAX with no free output in the widened set. -/
def dwellEvent (x : XbarPort) (s : State) : State :=
  match presentedCand s x with
  | none => s
  | some c =>
    if !c.fresh && c.item.whole && decide (dwellMax s ≤ c.item.dwell) &&
        (freeOf s (rtrHalted s) [] c ((List.range 64).filter (roleIn s))).isEmpty then discardDwell c s
    else s

/-- AGE_DISCARD (R130): a transit packet whose current age exceeds the limit. -/
def ageEvent (x : XbarPort) (s : State) : State :=
  match presentedCand s x with
  | none => s
  | some c => if !c.fresh && decide (ageLimit s < inAge s c.item) then discardAge c s else s

/-! ## The end of a frame that was arriving (R81) -/

/-- The source of an output's cut-through frame has arrived whole and good: its EOF may go (R81). -/
def releaseOutput (o : NetPort) (x : XbarPort) (s : State) : State :=
  s.modLink o (fun l =>
    { l with fifo := l.fifo.map (fun k => if k.source = some x then { k with source := none } else k),
             tx := l.tx.map (fun t => if t.source = some x then { t with source := none } else t) })

/-- The good end of an arriving frame at its input: a packet cut through streams on for what is left of it, one that the router has
dropped leaves staging, and any other is whole (R81, R85, R122). -/
def arrivedWhole (p : NetPort) (a : Arriving) (s : State) : State :=
  let i := (s.port p).inp
  let whole := fun (j : InPacket) => { j with whole := true }
  match i.cutTo with
  | some o =>
    (releaseOutput o (p.castLE (by decide)) s).modPort p (fun q => { q with inp :=
      { q.inp with presented := none, cutTo := none, streaming := max 1 (s.port o).busy, leaving := q.inp.presented.map whole } })
  | none =>
    if a.dropped then
      returnCredits p { pkt := a.pkt, tc := a.tc, arrived := s.clock, fabric := 0#64, fixes := 0, whole := true, dwell := 0,
                        bounced := false, owed := true } s
    else s.modPort p (fun q => { q with inp :=
      { q.inp with presented := q.inp.presented.map whole, queue := q.inp.queue.map whole } })

/-- The frame arriving on `p` is discarded (R81): its copy ends with ABT, its staging is freed and nothing is returned. -/
def discardArriving (p : NetPort) (a : Arriving) (s : State) : State :=
  (dropArriving p s).modLink p (stageDrop a.pkt a.tc)

/-- The frame arriving on `p` ends: with its FCRC passed it is accepted in order, whatever the router has done with its packet, and a copy
cut through gets its EOF; with its FCRC failed it is a bad frame and the copy ends with ABT (R75, R77, R81). -/
def closeArriving (p : NetPort) (ok : Bool) (s : State) : State :=
  match (s.port p).link.arriving with
  | none => s
  | some a =>
    if ok then acceptNext p (arrivedWhole p a (s.modLink p (fun l => { l with arriving := none })))
    else badFrame p (s.port p).link.rxNext (discardArriving p a s)

/-- A frame closed by ABT (R81). -/
def abtIn (p : NetPort) (s : State) : State :=
  if hears s p then
    (((s.port p).link.arriving).elim s (fun a => discardArriving p a s)).finc F.LNK_ERR_ABT_RX 1 p.val
  else if receives s p then columnErrors p 1 s
  else s

/-! ## Table commands and the epoch (R119, R138, R141, R142) -/

/-- A table command is in progress, or the copy (R138, R142). -/
def tableBusy (s : State) : Bool := s.rtr.command.isSome || s.rtr.copying.isSome

/-- The port map's entry for INDEX = 64 × d + x (R138). -/
def portMapEntry (s : State) (index : Nat) : Word :=
  match s.image with
  | none => 0#64
  | some img => match portMap img (index / 64) (index % 64) with
    | some p => BitVec.ofNat 64 (p + 64)
    | none => 0#64

/-- INDEX lies in its table (R138); the port map has 64 positions for each of the fabric's dimensions. -/
def indexIn (s : State) (table index : Nat) : Bool :=
  if table < 2 then decide (index < tableEntries s table)
  else s.image.any (fun img => decide (index / 64 < img.sizes.length ∧ index % 64 < img.sizes.getD (index / 64) 0))

/-- AUTO_INC after a completed command (R138). -/
def tableAdvance (s : State) : State :=
  if s.flag F.RTR_TBL_CTL_AUTO_INC then
    s.fset F.RTR_TBL_CTL_INDEX ((s.fget F.RTR_TBL_CTL_INDEX + 1) % 2 ^ 18)
  else s

/-- The entry a command reads. -/
def readEntry (s : State) (table index : Nat) : Word :=
  if table < 2 then (tableEntry s table index).getD 0#64 else portMapEntry s index

/-- A write of RTR_TBL_CTL (R119, R138): INDEX, TABLE and AUTO_INC are set; a command that fails a check is discarded whole;
READ alone copies at once, WRITE runs until TABLE_WRITE_DONE (DESIGN CHOICE, log entry 56). -/
def tableCommand (v : Word) (s : State) : State :=
  let write := bitOf v 24
  let read := bitOf v 25
  let index := fieldOf v 17 0
  let table := fieldOf v 21 20
  if (write || read) && tableBusy s then s.fset F.RTR_TBL_CTL_ERR 3
  else if (write || read) && (table = 3 || (write && table = 2)) then s.fset F.RTR_TBL_CTL_ERR 2
  else if (write || read) && !indexIn s table index then s.fset F.RTR_TBL_CTL_ERR 1
  else
    let s := ((s.fset F.RTR_TBL_CTL_INDEX index).fset F.RTR_TBL_CTL_TABLE table).fset F.RTR_TBL_CTL_AUTO_INC
      (fieldOf v 26 26)
    if write then
      { s.fset F.RTR_TBL_CTL_ERR 0 with rtr :=
        { s.rtr with command := some (table, index, some (s.regWord .RTR_TBL_DATA 0 0), read) } }
    else if read then
      tableAdvance ((s.fset F.RTR_TBL_CTL_ERR 0).setWord .RTR_TBL_DATA (readEntry s table index) 0 0)
    else s

/-- Writes an entry of a version. -/
def putEntry (table index : Nat) (e : Word) (r : RtrState) : RtrState :=
  if table = 0 then { r with tableA := { r.tableA with entries := tblSet index e r.tableA.entries } }
  else { r with tableB := { r.tableB with entries := tblSet index e r.tableB.entries } }

/-- The table write in progress completes (R119). -/
def tableDone (s : State) : State :=
  match s.rtr.command with
  | none => s
  | some (table, index, data, read) =>
    let s := match data with
      | some e => { s with rtr := putEntry table index e s.rtr }
      | none => s
    let s := { s with rtr := { s.rtr with command := none } }
    let s := if read then s.setWord .RTR_TBL_DATA (readEntry s table index) 0 0 else s
    tableAdvance s

/-- An OPEN bit as a write of RTR_EPOCH would leave it: the target of a running copy stays closed throughout (R142; DESIGN CHOICE, log
entry 79). -/
def openAfter (s : State) (v : Word) (ver : Nat) : Bool := bitOf v (1 + ver) && s.rtr.copying != some (1 - ver)

/-- A write of RTR_EPOCH (R141, R142), checked against the value it would produce. A table write still running when a copy starts ends
first, so that the copy takes the version as it stands (DESIGN CHOICE, log entry 79). -/
def epochWrite (v : Word) (s : State) : State :=
  let cur := fieldOf v 0 0
  let copy := bitOf v 3
  if !openAfter s v cur then s.fset F.RTR_EPOCH_ERR 1
  else if copy && (s.rtr.copying.isSome || openAfter s v (1 - cur)) then s.fset F.RTR_EPOCH_ERR 2
  else
    let changed := decide (cur ≠ epochCurrent s)
    let s := if copy then tableDone s else s
    let a := openAfter s v 0
    let b := openAfter s v 1
    let s := (((s.fset F.RTR_EPOCH_CURRENT cur).fset F.RTR_EPOCH_OPEN_A (b2n a)).fset F.RTR_EPOCH_OPEN_B (b2n b)).fset F.RTR_EPOCH_ERR 0
    { s with rtr := { s.rtr with copying := if copy then some cur else s.rtr.copying, oldSeen := if changed then s.clock else s.rtr.oldSeen } }

/-- The copy ends (R142): the other version holds the whole current one. -/
def copyEnd (s : State) : State :=
  match s.rtr.copying with
  | none => s
  | some src =>
    let r := s.rtr
    { s with rtr := if src = 0 then { r with copying := none, tableB := r.tableA }
                    else { r with copying := none, tableA := r.tableB } }

end Sys2Proof.Machine
end

