-- ==== Sys2Proof/Machine/HostOps.lean ====
section
/-! DEFINITION. What every NIC function shares (R14, R26, R154 to R157, R175, R176, R180 to R188): injection, refusals, host
requests, MSI-X, event queues and the halt of a function. -/

namespace Sys2Proof.Machine

/-! ## Injection (R14, R99) -/

/-- The class of a use; the default map's while no image is committed (R11). -/
def State.useClass (s : State) (f : ClassUses → Nat) : Nat :=
  f (s.image.elim ⟨0, 1, 2, 3, 4, 5, [6, 7]⟩ (·.uses))

/-- A class the image permits for requests (R104, R166). -/
def State.requestClass (s : State) (tc : Nat) : Bool :=
  let u := s.image.elim (⟨0, 1, 2, 3, 4, 5, [6, 7]⟩ : ClassUses) (·.uses)
  decide (tc = u.request) || u.user.contains tc

/-- 64-byte blocks in an injection buffer. -/
def injUsed (q : IntPortState) : Nat := (q.inp.queue.map (fun i => pktBlocks i.pkt)).sum

/-- The internal port with the lowest occupancy of its injection buffer (R14); of equals the lowest (DESIGN CHOICE, log entry 23). -/
def chooseInt (s : State) : IntPort :=
  [1, 2, 3].foldl (fun (b : IntPort) (i : IntPort) => if injUsed s.ints[i] < injUsed s.ints[b] then i else b) 0

/-- Hands a packet to an internal port (R14). -/
def inject (pkt : Packet) (s : State) : State :=
  let i : InPacket := { pkt := pkt, tc := pktTc pkt, arrived := s.clock, fabric := 0#64, fixes := 0, whole := true, dwell := 0,
                        bounced := false, owed := false }
  s.modInt (chooseInt s) (fun q => { q with inp := { q.inp with queue := q.inp.queue ++ [i] } })

/-! ## Acknowledgements and refusals (R108, R110, R399) -/

/-- A short control packet in the control class from this chip, answering packet `p`: to its source endpoint, from its
destination endpoint. -/
def answerPkt (s : State) (p : Packet) (op : Nat) (body : Bytes) : Packet :=
  mkPkt (newW0 1 (s.useClass (·.control)) (pktSrcChip p) s.chip)
    (newW1 (pktSrcEp p) (pktDstEp p) op true true false) body

/-- Bytes 16 to 63 of an ACK. -/
def ackBody (ackSeq status trig hold : Nat) (sack : Nat) : Bytes :=
  leBytes 3 ackSeq ++ leBytes 1 status ++ leBytes 3 trig ++ leBytes 1 0 ++ leBytes 4 (min 0xFFFFFFFF hold) ++ leBytes 4 0 ++
    leBytes 16 sack ++ leBytes 8 0 ++ leBytes 8 0

/-- Bytes 16 to 63 of a NACK; BACKOFF 0 gives no hint (DEDUCED, log entry 24). -/
def nackBody (nackSeq reason ackSeq detail sack : Nat) : Bytes :=
  leBytes 3 nackSeq ++ leBytes 1 reason ++ leBytes 3 ackSeq ++ leBytes 1 0 ++ leBytes 4 detail ++ leBytes 4 0 ++
    leBytes 16 sack ++ leBytes 8 0 ++ leBytes 8 0

/-- A slot of the check pipeline: 1 delivered, 2 wasted, 4 starved at the back (R356; DESIGN CHOICE, log entry 82). -/
def nicSlot (code : Nat) (s : State) : State := pmcAdd 68 code 1 s

/-- Refuses packet `p` with the pair's EXP and SACK. -/
def nackWith (p : Packet) (reason detail ackSeq sack : Nat) (s : State) : State :=
  nicSlot 2 (pmcRefusal reason (inject (answerPkt s p 0x09 (nackBody (pktPseq p) reason ackSeq detail sack)) s))

/-- A refusal raised before the pair record was on chip (R399). -/
def nackEarly (p : Packet) (reason : Nat) (s : State) : State :=
  nackWith p reason 0 ((pktPseq p + 16777216 - 4096) % 16777216) 0 s

/-! ## Host memory (R154, R156, R157) -/

/-- The function runs: neither halted nor in F reset. -/
def State.hostLive (s : State) (h : HostPort) : Bool := !(s.host h).hif.halted && !(s.host h).hif.inReset

/-- Attributes of a write that is not a data write (R156). -/
def plainAttr : TlpAttr := { relaxed := false, noSnoop := false, st := none }

/-- A slot of the HOST unit goes to a TLP: one whose request succeeds, or one that fails or repeats a read (R356; DESIGN CHOICE, log
entry 82). -/
def hostSlot (h : HostPort) (ok : Bool) (s : State) : State := pmcHost h.val (if ok then 1 else 2) 1 s

/-- A posted write; nothing leaves a port whose function is halted or in reset (R176, R177). -/
def hostWrite (h : HostPort) (addr : Nat) (data : Bytes) (attr : TlpAttr) (s : State) : State :=
  if s.hostLive h then hostSlot h true (pmcHost h.val 0x3E data.length (s.emit (.hostWrite h addr data attr))) else s

/-- Pieces of [va, va + len): none crosses a 4 KiB boundary or is longer than one request may be (R154, R193). -/
def pagePieces (lim : Nat) : Nat → Nat → Nat → List (Nat × Nat)
  | 0, _, _ => []
  | n + 1, va, len =>
    if len = 0 then []
    else
      let k := min len (min (max 1 lim) (4096 - va % 4096))
      (va, k) :: pagePieces lim n (va + k) (len - k)

/-- The pieces of one contiguous range: address and length. -/
def rangePieces (lim va len : Nat) : List (Nat × Nat) := pagePieces lim (len / max 1 lim + len / 4096 + 2) va len

/-- Bytes one posted request may carry (R154). -/
def maxWrite (s : State) (h : HostPort) : Nat := (s.host h).hif.mps

/-- Bytes one read of data may ask for (R154). -/
def maxRead (s : State) (h : HostPort) : Nat := (s.host h).hif.mrrs

/-- A write of a byte string, in as many posted requests as it takes. -/
def hostWrites (h : HostPort) (addr : Nat) (data : Bytes) (attr : TlpAttr) (s : State) : State :=
  (rangePieces (maxWrite s h) addr data.length).foldl
    (fun t p => hostWrite h p.1 ((data.drop (p.1 - addr)).take p.2) attr t) s

/-- One posted write to an area of the DX64's own. -/
def areaPiece (h : HostPort) (addr len : Nat) (s : State) : State :=
  if s.hostLive h then hostSlot h true (pmcHost h.val 0x3E len (s.emit (.areaWrite h addr len))) else s

/-- A write to an area of the DX64's own, in as many posted requests as it takes. -/
def areaWrite (h : HostPort) (addr len : Nat) (s : State) : State :=
  (rangePieces (maxWrite s h) addr len).foldl (fun t p => areaPiece h p.1 p.2 t) s

/-- The lowest tag not in use. -/
def freeTag (t : Tbl HostReq) : Nat := ((List.range (t.length + 1)).find? (fun k => (tblGet k t).isNone)).getD 0

/-- Sends a non-posted request with a free tag. -/
def sendReq (h : HostPort) (r : HostReq) (s : State) : State :=
  let tag := freeTag (s.host h).hif.reqs
  let s := s.modHif h (fun x => { x with reqs := tblSet tag r x.reqs })
  pmcHost h.val 0x3D 1 (s.emit (.hostRead h tag r.addr r.len r.noSnoop))

/-- A tag is free, and no earlier request waits for it (R154). -/
def tagFree (s : State) (h : HostPort) : Bool := (s.host h).hif.reqWait.isEmpty && decide ((s.host h).hif.reqs.length < 1024)

/-- Issues a non-posted request made under a translation; beyond 1,024 outstanding it waits for a tag (R154). -/
def hostReqUnder (h : HostPort) (kind : ReqKind) (addr len : Nat) (noSnoop : Bool) (under : Option PageUse) (s : State) : State :=
  let r : HostReq := { kind := kind, addr := addr, len := len, noSnoop := noSnoop, under := under, invs := [] }
  if !s.hostLive h then s
  else if tagFree s h then sendReq h r s
  else s.modHif h (fun x => { x with reqWait := x.reqWait ++ [r] })

/-- Issues a non-posted request to a bus address that no translation gave. -/
def hostReq (h : HostPort) (kind : ReqKind) (addr len : Nat) (noSnoop : Bool) (s : State) : State :=
  hostReqUnder h kind addr len noSnoop none s

/-- The read repeats an earlier one (R170, R221). -/
def reqRepeats (s : State) (h : HostPort) (k : ReqKind) : Bool :=
  match k with
  | .admin _ n => decide (0 < n)
  | .desc _ _ _ phase => phase
  | .getRead r _ _ => (tblGet r (s.host h).rem.resvs).any (·.respSeq.isSome)
  | _ => false

/-- The request with a tag has ended, well or not; `issueWaiting` gives the tag to the next. -/
def reqEnd (h : HostPort) (tag : Nat) (ok : Bool) (s : State) : State :=
  let good := ok && (tblGet tag (s.host h).hif.reqs).all (fun r => !reqRepeats s h r.kind)
  hostSlot h good (s.modHif h (fun x => { x with reqs := tblDel tag x.reqs }))

/-- A request of this kind is outstanding or waits for a tag. -/
def reqOut (s : State) (h : HostPort) (f : ReqKind → Bool) : Bool :=
  (s.host h).hif.reqs.any (fun r => f r.2.kind) || (s.host h).hif.reqWait.any (fun r => f r.kind)

/-- A non-posted request ends in error (R157): HOST_REQ_FAIL rises. -/
def reqFail (h : HostPort) (s : State) : State := raiseFault (22 + h.val) s

/-- Bus addresses of the port's own BAR0 (16 MiB) and BAR2 (1 MiB) as assigned (R155, R195). -/
def ownBars (s : State) (h : HostPort) : List (Nat × Nat) :=
  [((s.host h).hif.bar0.toNat, 16777216), ((s.host h).hif.bar2.toNat, 1048576)].filter (fun b => b.1 != 0)

/-- Two address ranges overlap. -/
def overlaps (a n b m : Nat) : Bool := decide (a < b + m) && decide (b < a + n)

/-! ## MSI-X (R154, R155, R184) -/

/-- Word `k` of the MSI-X table: message address, or data and vector control (masked after reset). -/
def msixWord (x : HifState) (k : Nat) : Word := (tblGet k x.msixTable).getD (if k % 2 = 0 then 0#64 else 0x100000000#64)

/-- Sends a vector, or sets its pending bit while it is masked or MSI-X is not enabled (R184; DEDUCED, log entry 25). A function that
is halted or in reset sends none (R176). -/
def msixSend (h : HostPort) (vec : Nat) (s : State) : State :=
  let x := (s.host h).hif
  let ctl := msixWord x (2 * vec + 1)
  if !s.hostLive h then s
  else if x.msixOn && !x.msixMask && !bitOf ctl 32 then
    (hostSlot h true (s.emit (.msix h vec (msixWord x (2 * vec)) (ctl.setWidth 32)))).modHif h
      (fun x => { x with msixPend := setBitTo x.msixPend vec false })
  else s.modHif h (fun x => { x with msixPend := setBitTo x.msixPend vec true })

/-- After a change of masks, every pending vector that may go is sent. -/
def msixRecheck (h : HostPort) (s : State) : State :=
  (List.range 2048).foldl (fun t v => if (t.host h).hif.msixPend.testBit v then msixSend h v t else t) s

/-! ## Event queues (R180 to R188) -/

/-- Changes an event queue. -/
def modEq (h : HostPort) (eq : Nat) (f : EventQueue → EventQueue) (s : State) : State :=
  s.modHost h (fun x => { x with eqs := tblMod eq f x.eqs })

/-- An entry as decided: PHASE and STASHED are set when it is written (R181). `body` is bytes 4 to 55. -/
def mkEvent (s : State) (typ status : Nat) (body : Bytes) : Bytes :=
  leBytes 1 typ ++ leBytes 1 (2 * b2n (decide (status ≠ 0))) ++ leBytes 2 status ++ padTo 52 body ++ leBytes 8 s.tim.now.toNat

/-- A queue can take an event (R186). -/
def eqTakes (s : State) (h : HostPort) (eq : Nat) : Bool :=
  match tblGet eq (s.host h).eqs with
  | some q => eqRoom q
  | none => true

/-- An event is decided for a queue that takes it; an event for a queue that is gone is dropped. -/
def eqDecide (h : HostPort) (eq : Nat) (entry : Bytes) (s : State) : State :=
  modEq h eq (fun q => { q with decided := q.decided ++ [entry], decidedNo := q.decidedNo + 1 }) s

/-- Events decided for a queue so far. -/
def eqDecided (s : State) (h : HostPort) (eq : Nat) : Nat := (tblGet eq (s.host h).eqs).elim 0 (·.decidedNo)

/-- An armed queue with a vector sends it, which disarms the queue (R184). -/
def eqFire (h : HostPort) (eq : Nat) (s : State) : State :=
  match tblGet eq (s.host h).eqs with
  | some q => if q.armed && q.vecEn then msixSend h q.vector (modEq h eq (fun q => { q with armed := false }) s) else s
  | none => s

/-- Messages due at arming go once every entry decided before their arming has been written (R184). -/
def eqDue (h : HostPort) (eq : Nat) (s : State) : State :=
  match tblGet eq (s.host h).eqs with
  | some q =>
    (q.due.filter (· ≤ q.writtenNo)).foldl (fun t _ => msixSend h q.vector t)
      (modEq h eq (fun q => { q with due := q.due.filter (fun n => !decide (n ≤ q.writtenNo)) }) s)
  | none => s

/-- Writes an entry at the producer index as one posted write, and sends the vector of an armed queue and what is due (R181, R184). -/
def eqPlace (h : HostPort) (eq : Nat) (entry : Bytes) (stashed : Bool) (s : State) : State :=
  match tblGet eq (s.host h).eqs with
  | none => s
  | some q =>
    let n := 2 ^ q.logSize
    let flags := (byteAt entry 1).toNat + q.pi / n % 2 + 4 * b2n stashed
    let attr : TlpAttr := { plainAttr with st := if q.tphEn then some q.st else none }
    let s := hostWrite h (q.ring + 64 * (q.pi % n)) (patchBytes entry 1 (leBytes 1 flags)) attr s
    eqDue h eq (eqFire h eq (modEq h eq (fun q => { q with pi := (q.pi + 1) % (2 * n), writtenNo := q.writtenNo + 1 }) s))

/-- The ring has a free slot. -/
def eqFree (q : EventQueue) : Bool := decide (ringCount q.logSize q.pi q.ci < 2 ^ q.logSize)

/-- EVENT_WRITE (R184, R186): the oldest decided event goes to the ring, or to the stash when the ring is full or the stash is
not empty. -/
def eventWrite (h : HostPort) (eq : Nat) (s : State) : State :=
  match tblGet eq (s.host h).eqs with
  | none => s
  | some q =>
    match q.decided with
    | [] => s
    | e :: rest =>
      let s' := modEq h eq (fun q => { q with decided := rest }) s
      if !s.hostLive h then s
      else if q.stash.isEmpty && eqFree q then eqPlace h eq e false s'
      else if q.stash.length < 64 then modEq h eq (fun q => { q with stash := q.stash ++ [e] }) s'
      else s

/-- STASH_DRAIN (R186), one entry at a time while slots are free; a halted function writes nothing and keeps its stash (R176). -/
def stashDrainN (h : HostPort) (eq : Nat) : Nat → State → State
  | 0, s => s
  | n + 1, s =>
    match tblGet eq (s.host h).eqs with
    | none => s
    | some q =>
      match q.stash with
      | [] => s
      | e :: rest =>
        if eqFree q && s.hostLive h then
          stashDrainN h eq n (eqPlace h eq e true (modEq h eq (fun q => { q with stash := rest }) s))
        else s

/-- ASYNC entry bytes 4 to 55 (R182). -/
def asyncBody (code : Nat) (a : AsyncPend) : Bytes :=
  leBytes 4 code ++ leBytes 2 a.source ++ leBytes 4 0 ++ leBytes 2 a.count ++ leBytes 16 0 ++ leBytes 8 a.data.toNat

/-- One pending entry is written to the async queue, to its ring or its stash, and its pending bit is cleared (R188); while events
decided before it wait to be written, or there is no room, it stays pending and merges. -/
def asyncPut (h : HostPort) (eq code : Nat) (a : AsyncPend) (s : State) : State :=
  match tblGet eq (s.host h).eqs with
  | none => s
  | some q =>
    let entry := patchBytes (mkEvent s 8 0 (asyncBody code a)) 56 (leBytes 8 a.time.toNat)
    let s' := (modEq h eq (fun q => { q with decidedNo := q.decidedNo + 1 }) s).modHost h
      (fun x => { x with async := tblDel code x.async })
    if !q.decided.isEmpty then s
    else if q.stash.isEmpty && eqFree q then eqPlace h eq entry false s'
    else if q.stash.length < 64 then modEq h eq (fun q => { q with stash := q.stash ++ [entry] }) s'
    else s

/-- ASYNC_PENDING_WRITE (R188): pending entries that are not suppressed go to the async queue while it has room, lowest code
first. -/
def asyncWrite (h : HostPort) (s : State) : State :=
  let eq := s.fget F.EQ_ASYNC_EQ h.val
  if s.flag F.EQ_ASYNC_ENABLE h.val && s.hostLive h then
    (s.host h).async.foldl (fun t e =>
      if (t.fget F.EQ_ASYNC_MASK h.val).testBit e.1 then t else asyncPut h eq e.1 e.2 t) s
  else s

/-! ## The halt of a function (R175, R176) -/

/-- Bytes 16 to 63 of a COL packet (R261). -/
def colBody (opseq kind b19 rop idx group treeId len : Nat) (data : Bytes) : Bytes :=
  leBytes 2 opseq ++ leBytes 1 kind ++ leBytes 1 b19 ++ leBytes 1 rop ++ leBytes 1 idx ++ leBytes 2 group ++ leBytes 4 treeId ++
    leBytes 4 len ++ padTo 16 data ++ leBytes 8 0 ++ leBytes 8 0

/-- The chip at the far end of a tree edge: edge 0 is the parent, edge k + 1 child k. -/
def edgeChip (g : ColGroup) (edge : Nat) : Nat := if edge = 0 then g.parent else g.children.getD (edge - 1) 0

/-- The tree edges of a group (R252). -/
def groupEdges (g : ColGroup) : List Nat := (if g.root then [] else [0]) ++ (List.range g.children.length).map (· + 1)

/-- A COL packet to the far end of an edge. CHILD_IDX is this chip's place in the parent's list on the parent edge. -/
def colPkt (s : State) (grp : Nat) (g : ColGroup) (o : ColOp) (edge kind : Nat) (data : Bytes) : Packet :=
  mkPkt (newW0 1 (s.useClass (·.collective)) (edgeChip g edge) s.chip) (newW1 0 0 0x0C true true false)
    (colBody o.opseq.toNat kind (o.cop + 16 * o.dtype) o.rop (if edge = 0 then g.parentIdx else 0) grp g.treeId.toNat o.len data)

/-- Changes a group. -/
def modGroup (grp : Nat) (f : ColGroup → ColGroup) (s : State) : State := { s with groups := tblMod grp f s.groups }

/-- Changes an operation slot of a group. -/
def modSlot (grp slot : Nat) (f : ColOp → ColOp) (s : State) : State :=
  modGroup grp (fun g => { g with slots := tblMod slot f g.slots }) s

/-- Cycles of the combiner: 1 delivered, 2 wasted (R356; DESIGN CHOICE, log entry 82). -/
def colSlots (code n : Nat) (s : State) : State := pmcAdd 70 code n s

/-- An operation of a group fails at this node (R263), its completion left out: ABORT goes to every neighbour but the one the
ABORT came from, and the group is FAILED unless it is being disarmed. -/
def colAbort (grp slot cause : Nat) (from_ : Option Nat) (s : State) : State :=
  match tblGet grp s.groups with
  | none => s
  | some g =>
    match tblGet slot g.slots with
    | none => s
    | some o =>
      if o.failed then s
      else
        let dests := (groupEdges g).filter (fun e => some e != from_)
        let s := dests.foldl (fun t e => inject (colPkt t grp g o e 5 []) t) s
        let s := colSlots 2 (o.work.map (·.2)).sum s
        let s := modSlot grp slot (fun o => { o with failed := true, work := [], edges := o.edges.map (fun e =>
          (e.1, { e.2 with abort := dests.contains e.1, tries := 0, unarmed := false })) }) s
        let rises := g.status = .armed
        let s := modGroup grp (fun g =>
          if g.status = .armed then { g with status := .failed, cause := cause } else g) s
        let s := s.finc F.COL_ERR_ABORTS 1
        if rises then raiseFault 24 s else s

/-- Every packet of an operation slot is answered (R263): of a failed one, its ABORTs. -/
def colAnswered (o : ColOp) : Bool :=
  o.edges.all (fun e => !e.2.abort &&
    (o.failed || (List.range e.2.sent).all (fun k => decide (k < e.2.freed) || e.2.acked.contains k)))

/-- An operation slot is in progress: its local operation has not completed, or a packet of it is unanswered. -/
def colActive (o : ColOp) : Bool := o.started && (o.owner.isSome || !colAnswered o)

/-- A halt of the owning port fails every operation in progress of its groups, and keeps each group FAILED (R265). -/
def colHalt (h : HostPort) (s : State) : State :=
  s.groups.foldl (fun t e =>
    if e.2.owner = h then
      modGroup e.1 (fun g => if g.status = .armed then { g with status := .failed, cause := 7 } else g)
        (e.2.slots.foldl (fun u o => if colActive o.2 then colAbort e.1 o.1 7 none u else u) t)
    else t) s

/-- A packet is sequenced, so that it can be refused (R104, R110). -/
def pktSequenced (p : Packet) : Bool := ((opcodeRow (pktOpcode p)).map (·.2)).getD true

/-- A packet is a request: neither an acknowledgement nor a response. -/
def pktIsReply (p : Packet) : Bool :=
  decide (pktOpcode p = 0x08 ∨ pktOpcode p = 0x09 ∨ pktOpcode p = 0x0B ∨ pktOpcode p = 0x23)

/-- The host port of an endpoint number (R208). -/
def epPort (ep : Nat) : HostPort := if ep < 8388608 then 0 else 1

/-- The parked packets of a port's endpoints are refused, replies dropped (R25, R176). -/
def refuseParked (h : HostPort) (s : State) : State :=
  let mine := s.park.filter (fun k => k.h == h)
  let s := { s with park := s.park.filter (fun k => k.h != h) }
  mine.foldl (fun t k => if pktSequenced k.pkt && !pktIsReply k.pkt then nackEarly k.pkt 4 t else t) s

/-- The function of a host port halts (R175, R176); a halted function stays as it is. -/
def haltHost (h : HostPort) (cause wq : Nat) (admin eq : Bool) (idx : Nat) (s : State) : State :=
  if !s.hostLive h then s
  else
    let s := recordHalt h cause wq admin eq idx s
    let s := msixSend h (s.fget F.HIF_CTL_HALT_VECTOR h.val) s
    let s := s.modHif h (fun x => { x with halted := true })
    let s := raiseFault (14 + h.val) s
    let other : HostPort := if h = 0 then 1 else 0
    let s := asyncPost other 0x05 (0x40 + h.val) (BitVec.ofNat 64 cause) s
    colHalt h (refuseParked h s)

/-! ## EQ_CI (R184, R185) -/

/-- Arms a queue (R184): with unconsumed entries the message is due at once and the queue is disarmed (DESIGN CHOICE, log entry 69). -/
def eqArm (h : HostPort) (eq : Nat) (s : State) : State :=
  match tblGet eq (s.host h).eqs with
  | none => s
  | some q =>
    if !q.vecEn then s
    else if q.pi ≠ q.ci || !q.decided.isEmpty || !q.stash.isEmpty then
      eqDue h eq (modEq h eq (fun q => { q with armed := false, due := q.due ++ [q.decidedNo] }) s)
    else modEq h eq (fun q => { q with armed := true }) s

/-- A write of EQ_CI[n] (R185). -/
def eqCiWrite (h : HostPort) (eq : Nat) (v : Word) (s : State) : State :=
  match tblGet eq (s.host h).eqs with
  | none => s
  | some q =>
    let ci := fieldOf v 16 0
    let c := ci % (2 * 2 ^ q.logSize)
    if 2 ^ q.logSize < ringCount q.logSize q.pi c then haltHost h 6 eq false true ci s
    else
      let s := modEq h eq (fun q => { q with ci := c }) s
      if bitOf v 31 then eqArm h eq s else s

end Sys2Proof.Machine
end

