-- ==== Sys2Proof/Machine/XltOps.lean ====
section
/-! DEFINITION. Address translation (R190 to R205): the ATC, walks, faults, invalidation. -/

namespace Sys2Proof.Machine

/-! ## Choices the spec leaves open -/

/-- One of several: the only one, or any one of them by a free value (DESIGN CHOICE, log entry 1). -/
def pickOne {α : Type} (xs : List α) (s : State) : Option α × State :=
  match xs with
  | [] => (none, s)
  | [x] => (some x, s)
  | _ => (xs[s.freeValue.toNat % xs.length]?, s.tookFree)

/-! ## The ATC (R199) -/

/-- Changes the translation state of a port. -/
def modXlt (h : HostPort) (f : XltState → XltState) (s : State) : State := s.modHost h (fun x => { x with xlt := f x.xlt })

/-- The LFSR after a load of SEED; 0 acts as 0xACE1 (R205). -/
def xltSeed (h : HostPort) (s : State) : State :=
  let seed := s.fget F.XLT_CTL_SEED h.val
  modXlt h (fun x => { x with lfsr := if seed = 0 then 0xACE1#16 else BitVec.ofNat 16 seed }) s

/-- The entry covers an address of its domain. -/
def atcCovers (e : AtcEntry) (pd va : Nat) : Bool :=
  decide (e.pd = pd) && decide (e.page ≤ va) && decide (va < e.page + e.size)

/-- The entries that cover an address (DESIGN CHOICE, log entry 70). -/
def atcHits (x : XltState) (pd va : Nat) : List AtcEntry := (x.atc.map (·.2)).filter (fun e => atcCovers e pd va)

/-- The lowest key at or above `k` that a table with rising keys does not hold. -/
def firstGap {α : Type} (k : Nat) : Tbl α → Nat
  | [] => k
  | e :: t => if e.1 = k then firstGap (k + 1) t else if e.1 < k then firstGap k t else k

/-- Installs a walk's result (R199): the lowest invalid entry, or the one the LFSR selects. -/
def atcInsert (e : AtcEntry) (x : XltState) : XltState :=
  let k := firstGap 0 x.atc
  { x with atc := tblSet (if k < 4096 then k else x.lfsr.toNat % 4096) e x.atc }

/-! ## Faults (R197, R198) -/

/-- How a walk ends: its translation is installed; it is covered by a later invalidation; an entry was not present; a fault with
its level. -/
inductive WalkEnd
  | installed
  | stale
  | absent (level : Nat)
  | fault (code level : Nat)
deriving DecidableEq, Repr

/-- What a translation gives: a bus address, a fault, an absent page under on-demand paging, or a wait for a walk in progress or
for one of the 32 walks. -/
inductive Xlt
  | hit (bus : Nat) (noSnoop : Bool) (under : PageUse)
  | fault (code level : Nat)
  | absent
  | wait
  | full
deriving DecidableEq, Repr

/-- A demand fault is recorded (R198). NEED: bit 0 read, bit 1 write. -/
def xltFault (h : HostPort) (pd va : Nat) (remote : Bool) (need code level : Nat) (s : State) : State :=
  let s := if s.flag F.XLT_FREC_INFO_FLAG h.val then s
    else
      let info := packFields [(0, 0, 1), (8, 1, code), (20, 9, pd), (21, 21, b2n remote), (23, 22, need), (26, 24, level),
        (47, 32, s.fget F.XLT_FREC_INFO_COUNT h.val)]
      (s.setWord .XLT_FREC_ADDR (BitVec.ofNat 64 va) h.val 0).setWord .XLT_FREC_INFO info h.val 0
  let s := s.finc F.XLT_FREC_INFO_COUNT 1 h.val
  if code = 6 ∨ code = 7 ∨ code = 0xA then raiseFault (16 + h.val) s else s

/-! ## The walk (R194 to R196) -/

/-- Address of the entry a level reads (R190). -/
def walkEntry (table va level : Nat) : Nat := table + 8 * bitsOf va (12 + 9 * (level - 1) + 8) (12 + 9 * (level - 1))

/-- All 8 bytes lie inside one enabled walk-permitted range (R195). -/
def insideWpr (s : State) (h : HostPort) (ea : Nat) : Bool :=
  (List.range 8).any (fun k => s.flag F.XLT_WPR_BASE_EN h.val k &&
    decide (4096 * s.fget F.XLT_WPR_BASE_BASE h.val k ≤ ea) &&
    decide (ea + 8 ≤ 4096 * (s.fget F.XLT_WPR_LIMIT_LIMIT h.val k + 1)))

/-- A range overlaps the port's own BARs. -/
def hitsOwnBar (s : State) (h : HostPort) (a n : Nat) : Bool := (ownBars s h).any (fun b => overlaps a n b.1 b.2)

/-- The check before a table read (R195): a fault code, if it fails. -/
def walkCheck (s : State) (h : HostPort) (ea : Nat) : Option Nat :=
  if hitsOwnBar s h ea 8 then some 6 else if !insideWpr s h ea then some 5 else none

/-- Starts a walk (R194, R196); a demand walk gives its waiter. With 32 walks in progress it waits before anything is checked. Its first
read is checked when it is issued (R195): at once where a tag is free. -/
def startWalk (h : HostPort) (pd va : Nat) (kind : WalkKind) (who : Option XltUser) (s : State) : Xlt × State :=
  let x := (s.host h).xlt
  let page := va / 4096
  match x.walks.find? (fun w => decide (w.2.pd = pd ∧ w.2.va / 4096 = page)) with
  | some w =>
    (.wait, modXlt h (fun x => { x with walks := tblMod w.1 (fun k =>
      { k with waiters := k.waiters ++ who.toList.filter (fun u => !k.waiters.contains u) }) x.walks }) s)
  | none =>
    let root := (tblGet pd (s.host h).pds).getD 0
    let ea := walkEntry root va 4
    let refused := if tagFree s h then walkCheck s h ea else none
    if 32 ≤ x.walks.length then (.full, s)
    else if root = 0 then (.fault 8 0, s)
    else match refused with
    | some c => (.fault c 4, s)
    | none =>
      let id := firstGap 0 x.walks
      let w : Walk := { pd := pd, va := va, kind := kind, level := 4, table := root, invs := [], waiters := who.toList }
      (.wait, hostReq h (.walk id) ea 8 false (modXlt h (fun x => { x with walks := tblSet id w x.walks }) s))

/-- Starts a walk no access asked for (R200): nothing comes of its failure, and it is dropped while 32 walks run. -/
def startAhead (h : HostPort) (pd va : Nat) (kind : WalkKind) (s : State) : State :=
  if va < 2 ^ 48 && (atcHits (s.host h).xlt pd va).isEmpty then (startWalk h pd va kind none s).2 else s

/-- An invalidation covers a page (R201). -/
def invCovers (v : InvScope) (pd page size : Nat) : Bool :=
  match v.scope with
  | 0 => decide (pd = v.pd) && overlaps page size v.va (4096 * v.pages)
  | 1 => decide (pd = v.pd)
  | _ => true

/-- What the entry a walk read gives (R194): the next table, or the walk's end with the translation to install. -/
def walkPte (s : State) (h : HostPort) (w : Walk) (pte : Word) : Except (WalkEnd × Option AtcEntry) Nat :=
  let leafBit := bitOf pte 3
  let size64 := bitOf pte 4
  let base := 4096 * fieldOf pte 51 12
  if !bitOf pte 0 then .error (.absent w.level, none)
  else if fieldOf pte 7 6 ≠ 0 ∨ bitOf pte 63 then .error (.fault 3 w.level, none)
  else if (w.level = 4 ∧ leafBit) ∨ (w.level = 1 ∧ !leafBit) ∨ (size64 ∧ w.level ≠ 1) then .error (.fault 4 w.level, none)
  else if !leafBit then .ok base
  else
    let size := if w.level = 3 then 2 ^ 30 else if w.level = 2 then 2 ^ 21 else if size64 then 2 ^ 16 else 4096
    if base % size ≠ 0 then .error (.fault 4 w.level, none)
    else if hitsOwnBar s h base size then .error (.fault 0xA w.level, none)
    else
      let page := w.va - w.va % size
      let e : AtcEntry := { pd := w.pd, page := page, size := size, base := base, r := bitOf pte 1, w := bitOf pte 2,
                            noSnoop := bitOf pte 5 }
      if w.invs.any (fun v => invCovers v.2 w.pd page size) then .error (.stale, none) else .error (.installed, some e)

/-- The end of a walk as those that wait for it meet it: a fault or an absent entry that a later invalidation covers is no result of
theirs (R202). -/
def walkEndOf (w : Walk) (e : WalkEnd) : WalkEnd :=
  match e with
  | .fault .. | .absent _ => if w.invs.any (fun v => invCovers v.2 w.pd (w.va - w.va % 4096) 4096) then .stale else e
  | _ => e

/-- A walk ends: it leaves the table, and its translation enters the ATC. -/
def endWalk (h : HostPort) (id : Nat) (e : Option AtcEntry) (s : State) : State :=
  modXlt h (fun x =>
    let x := { x with walks := tblDel id x.walks }
    e.elim x (fun e => atcInsert e x)) s

/-- The next read of a walk is issued (R194, R195), or waits for a tag and is checked then. -/
def walkNext (h : HostPort) (id : Nat) (w : Walk) (level table : Nat) (s : State) : State × Option (Walk × WalkEnd) :=
  let ea := walkEntry table w.va level
  match (if tagFree s h then walkCheck s h ea else none) with
  | some c => (endWalk h id none s, some (w, walkEndOf w (.fault c level)))
  | none =>
    (hostReq h (.walk id) ea 8 false (modXlt h (fun x =>
      { x with walks := tblMod id (fun k => { k with level := level, table := table }) x.walks }) s), none)

/-- The table read of a walk completes, or ends in error (R194): the walk goes on, or ends. -/
def walkRead (h : HostPort) (id : Nat) (data : Option Bytes) (s : State) : State × Option (Walk × WalkEnd) :=
  match tblGet id (s.host h).xlt.walks with
  | none => (s, none)
  | some w =>
    match data with
    | none => (endWalk h id none s, some (w, walkEndOf w (.fault 7 w.level)))
    | some d =>
      match walkPte s h w (BitVec.ofNat 64 (leAt d 0 8)) with
      | .error (r, e) => (endWalk h id e s, some (w, walkEndOf w r))
      | .ok table => walkNext h id w (w.level - 1) table s

/-! ## One access (R193, R197, R200) -/

/-- One access to be translated: domain, address, length, what it needs, whether its page may be absent, and the end of the
buffer it belongs to. -/
structure XAccess where
  pd    : Nat
  va    : Nat
  len   : Nat
  read  : Bool
  write : Bool
  paged : Bool
  stop  : Nat
deriving DecidableEq, Repr

/-- NEED of R205. -/
def accessNeed (a : XAccess) : Nat := b2n a.read + 2 * b2n a.write

/-- With PREFETCH, an access also starts a walk for the next page of its buffer (R200). -/
def prefetchNext (h : HostPort) (a : XAccess) (next : Nat) (s : State) : State :=
  if s.flag F.XLT_CTL_PREFETCH h.val && decide (next < a.stop) then startAhead h a.pd next .prefetch s else s

/-- Translates one access (R193 to R200). `known` is the end of a walk this access waited for: what it found applies to the
page it was for. -/
def translate (h : HostPort) (a : XAccess) (who : Option XltUser) (known : Option (Walk × WalkEnd)) (s : State) : Xlt × State :=
  if 2 ^ 48 < a.va + a.len then (.fault 9 0, s)
  else
    let hits := pickOne (atcHits (s.host h).xlt a.pd a.va) s
    match hits.1 with
    | some e =>
      let s := prefetchNext h a (e.page + e.size) (pmcHost h.val 0x3B 1 hits.2)
      if (a.read && !e.r) || (a.write && !e.w) then (.fault 2 (if e.size = 2 ^ 30 then 3 else if e.size = 2 ^ 21 then 2 else 1), s)
      else (.hit (e.base + (a.va - e.page)) e.noSnoop ⟨e.pd, e.page, e.size⟩, s)
    | none =>
      let s := pmcHost h.val 0x3C 1 hits.2
      let found := known.bind (fun k =>
        if k.1.kind = .demand && decide (k.1.pd = a.pd ∧ k.1.va / 4096 = a.va / 4096) then some k.2 else none)
      match found with
      | some (.fault c l) => (.fault c l, s)
      | some (.absent l) => if a.paged then (.absent, s) else (.fault 1 l, s)
      | _ =>
        let r := startWalk h a.pd a.va .demand who s
        (r.1, prefetchNext h a (4096 * (a.va / 4096 + 1)) r.2)

/-- One request's part of a translated range: bus address, length, No Snoop, and the translation it was given. -/
structure Piece where
  bus     : Nat
  len     : Nat
  noSnoop : Bool
  under   : PageUse
deriving DecidableEq, Repr

/-- What several accesses give together: their pieces, or the first that does not hit. -/
inductive XltAll
  | all (pieces : List Piece)
  | stop (a : XAccess) (r : Xlt)
deriving DecidableEq, Repr

/-- Translates accesses in order until one does not hit. -/
def translateAll (h : HostPort) (who : Option XltUser) (known : Option (Walk × WalkEnd)) :
    List XAccess → State → XltAll × State
  | [], s => (.all [], s)
  | a :: rest, s =>
    match translate h a who known s with
    | (.hit bus ns u, s) =>
      match translateAll h who known rest s with
      | (.all ps, s) => (.all (⟨bus, a.len, ns, u⟩ :: ps), s)
      | r => r
    | (r, s) => (.stop a r, s)

/-! ## Invalidation (R201, R202) -/

/-- An access of these numbers of waiting invalidations takes on one more, if it was given a removed translation. -/
def markUse (gone : List PageUse) (n : Nat) (u : Option PageUse) (invs : List Nat) : List Nat :=
  if u.any gone.contains then invs ++ [n] else invs

/-- The invalidation point: the entries covered leave the ATC, and the walks of the domain in progress, and the reads and atomics under
a removed entry that have not ended, take on the invalidation's number. Gives the number of entries removed and that number. -/
def invalidatePoint (h : HostPort) (v : InvScope) (s : State) : (Nat × Nat) × State :=
  let x := (s.host h).xlt
  let keep := x.atc.filter (fun e => !invCovers v e.2.pd e.2.page e.2.size)
  let gone := (x.atc.filter (fun e => invCovers v e.2.pd e.2.page e.2.size)).map (fun e => (⟨e.2.pd, e.2.page, e.2.size⟩ : PageUse))
  let n := x.nextInv
  let mark (r : HostReq) : HostReq := { r with invs := markUse gone n r.under r.invs }
  ((x.atc.length - keep.length, n),
   s.modHost h (fun y => { y with
     xlt := { x with atc := keep, nextInv := n + 1, walks := x.walks.map (fun w =>
       if v.scope = 2 ∨ w.2.pd = v.pd then (w.1, { w.2 with invs := w.2.invs ++ [(n, v)] }) else w) },
     hif := { y.hif with reqs := y.hif.reqs.map (fun r => (r.1, mark r.2)), reqWait := y.hif.reqWait.map mark },
     rem := { y.rem with atomics := y.rem.atomics.map (fun a => (a.1, { a.2 with invs := markUse gone n a.2.under a.2.invs })) } }))

/-- Everything an invalidation waits for has ended (R202): no walk, read or atomic carries its number. -/
def invSettled (s : State) (h : HostPort) (n : Nat) : Bool :=
  !(s.host h).xlt.walks.any (fun w => w.2.invs.any (fun v => v.1 == n)) &&
    !(s.host h).hif.reqs.any (fun r => r.2.invs.contains n) && !(s.host h).hif.reqWait.any (fun r => r.invs.contains n) &&
    !(s.host h).rem.atomics.any (fun a => a.2.invs.contains n)

/-- An invalidation on either path is in progress (R205). -/
def invBusy (s : State) (h : HostPort) : Bool :=
  (s.host h).xlt.inv.isSome ||
    (s.host h).adm.late.any (fun l => match l.2 with | .invalidate .. => true | _ => false)

/-- XLT_INV_CTL.GO (R201, R205). -/
def invGo (h : HostPort) (s : State) : State :=
  let scope := s.fget F.XLT_INV_CTL_SCOPE h.val
  let pd := s.fget F.XLT_INV_CTL_PD h.val
  let va := 4096 * s.fget F.XLT_INV_VA_VA h.val
  let pages := max 1 (s.fget F.XLT_INV_PAGES_PAGES h.val)
  if (s.host h).xlt.inv.isSome then s.fset F.XLT_INV_CTL_ERR 1 h.val
  else if scope = 3 ∨ (scope < 2 ∧ (tblGet pd (s.host h).pds).isNone) ∨
      (scope = 0 ∧ (2 ^ 36 < pages ∨ 2 ^ 48 < va + 4096 * pages)) then s.fset F.XLT_INV_CTL_ERR 2 h.val
  else
    let r := invalidatePoint h ⟨scope, pd, va, pages⟩ s
    (modXlt h (fun x => { x with inv := some r.1.2 }) r.2).fset F.XLT_INV_CTL_ERR 0 h.val

/-- The register-path invalidation completes (R202). -/
def invRegDone (h : HostPort) (s : State) : State :=
  match (s.host h).xlt.inv with
  | some n => if invSettled s h n then modXlt h (fun x => { x with inv := none }) s else s
  | none => s

end Sys2Proof.Machine
end

