-- ==== Sys2Proof/Machine/EpcOps.lean ====
section
/-! DEFINITION. Endpoint contexts, pair records, windows and their cache, the Retriever and the miss park (R21, R25,
R208 to R217). -/

namespace Sys2Proof.Machine

/-! ## Keys and records -/

/-- The key of a pair record: local endpoint, peer chip, peer endpoint (R211). -/
def pairKey (ep chip peer : Nat) : Nat := ep * 2 ^ 42 + chip * 2 ^ 24 + peer
/-- Local endpoint of a key. -/
def keyEp (key : Nat) : Nat := key / 2 ^ 42
/-- Peer chip of a key. -/
def keyChip (key : Nat) : Nat := key / 2 ^ 24 % 2 ^ 18
/-- Peer endpoint of a key. -/
def keyPeer (key : Nat) : Nat := key % 2 ^ 24

/-- A pair record. -/
def getPair (s : State) (h : HostPort) (key : Nat) : Option PairRec := tblGet key (s.host h).pairs

/-- Changes a pair record. -/
def modPair (h : HostPort) (key : Nat) (f : PairRec → PairRec) (s : State) : State :=
  s.modHost h (fun x => { x with pairs := tblMod key f x.pairs })

/-- A live endpoint of a port (R208): created and not discarded by an F reset. -/
def liveEp (s : State) (h : HostPort) (ep : Nat) : Option EpCtx :=
  match tblGet ep (s.host h).eps with
  | some c => if c.gone then none else some c
  | none => none

/-- Changes an endpoint context. -/
def modEp (h : HostPort) (ep : Nat) (f : EpCtx → EpCtx) (s : State) : State :=
  s.modHost h (fun x => { x with eps := tblMod ep f x.eps })

/-- Changes a window. -/
def modWin (h : HostPort) (w : Nat) (f : Window → Window) (s : State) : State :=
  s.modHost h (fun x => { x with wins := tblMod w f x.wins })

/-- Changes the remote-access state of a port. -/
def modRem (h : HostPort) (f : RemState → RemState) (s : State) : State := s.modHost h (fun x => { x with rem := f x.rem })

/-- Changes the matching state of a port. -/
def modMte (h : HostPort) (f : MteState → MteState) (s : State) : State := s.modHost h (fun x => { x with mte := f x.mte })

/-- Changes a work queue. -/
def modWq (h : HostPort) (wq : Nat) (f : WorkQueue → WorkQueue) (s : State) : State :=
  s.modHost h (fun x => { x with wqs := tblMod wq f x.wqs })

/-- A LOG field within its range, else 0 (R228, R250; DEDUCED, log entry 27). -/
def logIn (lo hi v : Nat) : Nat := if lo ≤ v ∧ v ≤ hi then v else 0

/-- log2 of the context slots of a port. -/
def ctxLog (s : State) (h : HostPort) : Nat := logIn 12 23 (s.fget F.EPC_KENNEL_CTX_LOG h.val)
/-- log2 of the pair slots of a port. -/
def pairLog (s : State) (h : HostPort) : Nat := logIn 10 24 (s.fget F.EPC_KENNEL_PAIR_LOG h.val)
/-- log2 of the entries of a port's window table. -/
def tableLog (s : State) (h : HostPort) : Nat := logIn 10 19 (s.fget F.WIN_TABLE_LOG h.val)
/-- The port is in host-table mode (R215). -/
def hostTable (s : State) (h : HostPort) : Bool := s.flag F.WIN_CFG_MODE h.val

/-- Windows of a port (R215). -/
def winCount (s : State) (h : HostPort) : Nat :=
  if hostTable s h then (if tableLog s h = 0 then 0 else 2 ^ tableLog s h) else 32768

/-- Kennel address of a context slot (R209). -/
def ctxSlot (s : State) (h : HostPort) (ep : Nat) : Nat := 4096 * s.fget F.EPC_KENNEL_CTX_BASE h.val + 256 * (ep % 2 ^ 23)
/-- Kennel address of a pair slot (R209). -/
def pairSlot (s : State) (h : HostPort) (slot : Nat) : Nat := 4096 * s.fget F.EPC_KENNEL_PAIR_BASE h.val + 768 * slot
/-- Host address of a window-table entry (R215). -/
def winSlot (s : State) (h : HostPort) (w : Nat) : Nat := 4096 * s.fget F.WIN_TABLE_BASE h.val + 32 * w

/-! ## The cache region (R210, R212) -/

/-- Cached host-table windows of a port. -/
def cachedWins (s : State) (h : HostPort) : List (Nat × Window) :=
  if hostTable s h then (s.host h).wins.filter (fun w => w.2.onChip) else []

/-- Units that hold a port's cached host-table windows. -/
def winUnitList (s : State) (h : HostPort) : List Nat := ((cachedWins s h).map (fun w => w.2.unit)).eraseDups

/-- Cache units that hold a port's windows, with room for `more` entries besides (R210, R228). -/
def winUnits (s : State) (h : HostPort) (more : Nat) : Nat :=
  if !s.hostPresent h.val then 0
  else if hostTable s h then
    let n := (winUnitList s h).length
    n + ceilDiv (more - (8 * n - (cachedWins s h).length)) 8
  else 4096

/-- The unit the next cached window goes to: the lowest with room, else the lowest not in use. -/
def winUnit (s : State) (h : HostPort) : Nat :=
  let us := winUnitList s h
  ((List.range (us.length + 1)).find? (fun u =>
    !us.contains u || decide (((cachedWins s h).filter (fun w => w.2.unit == u)).length < 8))).getD us.length

/-- Fetches of a port that are outstanding or wait for a tag. -/
def fetchKinds (s : State) (h : HostPort) : List ReqKind :=
  ((s.host h).hif.reqs.map (·.2.kind) ++ (s.host h).hif.reqWait.map (·.kind)).filter (fun k => match k with
    | .context .. | .pair .. | .window .. => true
    | _ => false)

/-- Units in use, with those that fetches in progress will take. -/
def epcHeld (s : State) : Nat :=
  (allHosts.map (fun h =>
    let count := fun (f : ReqKind → Bool) => ((fetchKinds s h).filter f).length
    ((s.host h).eps.filter (fun e => e.2.onChip)).length + count (fun k => match k with | .context _ => true | _ => false) +
    3 * (((s.host h).pairs.filter (fun e => e.2.onChip)).length + count (fun k => match k with | .pair _ => true | _ => false)) +
    winUnits s h (count (fun k => match k with | .window _ => true | _ => false)))).sum

/-- Units of the region (R20, R210). -/
def epcUnits (s : State) : Nat := s.image.elim 0 (·.part.epcCache) / 256

/-- A context is pinned (R25): packets of it wait in the park, or an operation of it is in progress. -/
def ctxPinned (s : State) (h : HostPort) (ep : Nat) : Bool :=
  let x := s.host h
  s.park.any (fun k => k.h == h && decide (pktDstEp k.pkt = ep)) ||
    x.wqs.any (fun q => decide (q.2.ep = ep) && !q.2.ops.isEmpty) ||
    x.mte.deliveries.any (fun d => decide (d.2.ep = ep)) ||
    x.rem.resvs.any (fun r => decide (keyEp r.2.pair = ep)) ||
    x.rem.atomics.any (fun a => decide (keyEp a.2.pair = ep)) ||
    x.rem.unflushed.any (fun d => decide (keyEp d.pair = ep)) ||
    x.rem.flushes.any (fun f => f.2.any (fun d => decide (keyEp d.pair = ep)))

/-- The host port of a cached unit. -/
def unitPort (u : CacheUnit) : HostPort :=
  match u with
  | .ctx h _ | .pair h _ | .wins h _ => h

/-- The unit is cached. -/
def unitCached (s : State) (u : CacheUnit) : Bool :=
  match u with
  | .ctx h ep => (tblGet ep (s.host h).eps).any (·.onChip)
  | .pair h key => (getPair s h key).any (·.onChip)
  | .wins h n => (winUnitList s h).contains n

/-- The sweep may choose the unit (R212). -/
def mayEvict (s : State) (u : CacheUnit) : Bool :=
  s.hostLive (unitPort u) && (match u with
    | .ctx h ep => !ctxPinned s h ep
    | _ => true)

/-- A unit is referenced (R212). -/
def touchUnit (u : CacheUnit) (s : State) : State :=
  { s with sweep := s.sweep.map (fun e => if e.1 = u then (e.1, true) else e) }

/-- A unit enters the cache, last in the sweep's order (DESIGN CHOICE, log entry 28). -/
def cacheUnit (u : CacheUnit) (s : State) : State :=
  { s with sweep := s.sweep.filter (fun e => !decide (e.1 = u)) ++ [(u, true)] }

/-- The second-chance sweep (R212): a unit that may not be chosen is passed over, one referenced since the last pass is skipped once,
and the first other unit is the victim. Gives the victim and the order the next sweep starts with. -/
def sweepOne (s : State) : Nat → List (CacheUnit × Bool) → Option CacheUnit × List (CacheUnit × Bool)
  | 0, l => (none, l)
  | _, [] => (none, [])
  | n + 1, (u, used) :: rest =>
    if !unitCached s u then sweepOne s n rest
    else if !mayEvict s u then sweepOne s n (rest ++ [(u, used)])
    else if used then sweepOne s n (rest ++ [(u, false)])
    else (some u, rest)

/-- An evicted unit is written back (R212). -/
def evict (u : CacheUnit) (s : State) : State :=
  match u with
  | .ctx h ep => areaWrite h (ctxSlot s h ep) 256 (modEp h ep (fun c => { c with onChip := false }) s)
  | .pair h key =>
    let slot := (getPair s h key).elim 0 (·.slot)
    areaWrite h (pairSlot s h slot) 768 (modPair h key (fun p => { p with onChip := false }) s)
  | .wins h n =>
    ((cachedWins s h).filter (fun w => w.2.unit == n)).foldl (fun t w =>
      areaWrite h (winSlot t h w.1) 32 (modWin h w.1 (fun x => { x with onChip := false }) t)) s

/-- Makes room for `n` units (R212), evicting at most `f` times. -/
def makeRoom (n : Nat) : Nat → State → Option State
  | 0, s => if epcHeld s + n ≤ epcUnits s then some s else none
  | f + 1, s =>
    if epcHeld s + n ≤ epcUnits s then some s
    else match sweepOne s (2 * s.sweep.length + 1) s.sweep with
      | (some u, l) => makeRoom n f (evict u { s with sweep := l })
      | (none, _) => none

/-! ## The Retriever (R211, R213) -/

/-- Retriever fetches in progress at a port. -/
def fetchCount (s : State) (h : HostPort) : Nat := (fetchKinds s h).length

/-- A fetch of this record is in progress. -/
def fetching (s : State) (h : HostPort) (k : ReqKind) : Bool := reqOut s h (fun r => decide (r = k))

/-- Units a record takes beside those in use and those being fetched. -/
def recordUnits (s : State) (h : HostPort) (k : ReqKind) : Nat :=
  match k with
  | .context _ => 1
  | .pair _ => 3
  | _ =>
    let m := ((fetchKinds s h).filter (fun k => match k with | .window _ => true | _ => false)).length
    winUnits s h (m + 1) - winUnits s h m

/-- Fetches a record, or says what to wait for. -/
def fetchRecord (h : HostPort) (k : ReqKind) (addr len : Nat) (w : ParkWait) (s : State) : State × Option ParkWait :=
  if fetching s h k then (s, some w)
  else if 64 ≤ fetchCount s h then (s, some .room)
  else match makeRoom (recordUnits s h k) (recordUnits s h k) s with
    | none => (s, some .room)
    | some s => (pmcAdd 68 0x24 1 (hostReq h k addr len false s), some w)

/-- The context is on chip, or what to wait for. -/
def needCtx (h : HostPort) (ep : Nat) (s : State) : State × Option ParkWait :=
  match tblGet ep (s.host h).eps with
  | some c =>
    if c.onChip then (touchUnit (.ctx h ep) s, none) else fetchRecord h (.context ep) (ctxSlot s h ep) 256 (.context ep) s
  | none => (s, none)

/-- What the pair record's turn gives: there, to be waited for, or impossible for want of a slot (R211). -/
inductive PairTurn
  | ready
  | wait (w : ParkWait)
  | full
deriving DecidableEq, Repr

/-- A window of at most WMAX and at least WMIN bytes (R269, R280). -/
def clampW (s : State) (h : HostPort) (w : Nat) : Nat :=
  max (s.fget F.CC_WIN_WMIN h.val) (min (s.fget F.CC_WIN_WMAX h.val) w)

/-- The congestion state of a new pair (R269). -/
def newCong (s : State) (h : HostPort) : CongState :=
  { w := clampW s h (s.fget F.CC_WIN_WINIT h.val), base := none, baseT := 0#64, tCut := none, lastRtt := 0, inflight := 0,
    carry := 0 }

/-- A new pair record (R211): every PSEQ field and EXP at 0. -/
def newPair (s : State) (h : HostPort) (slot : Nat) : PairRec :=
  { next := 0#24, out := [], gets := [], broken := false, quiet := false, exp := 0#24, consumed := [], durable := [],
    unacked := 0, trig := none, held := [], cong := newCong s h, onChip := true, slot := slot }

/-- The first free of the 4 slots a key probes (R211). -/
def probeSlot (s : State) (h : HostPort) (key : Nat) : Option Nat :=
  let log := pairLog s h
  if log = 0 then none
  else
    let home := crc32 (Config.pairKeyBytes key) % 2 ^ log
    ([0, 1, 2, 3].map (fun k => (home + k) % 2 ^ log)).find? (fun sl => !(s.host h).pairs.any (fun p => decide (p.2.slot = sl)))

/-- The pair record is on chip, created if there is none (R211, R213). -/
def needPair (h : HostPort) (key : Nat) (s : State) : State × PairTurn :=
  match getPair s h key with
  | some p =>
    if p.onChip then (touchUnit (.pair h key) s, .ready)
    else match fetchRecord h (.pair key) (pairSlot s h p.slot) 768 (.pair key) s with
      | (s, some w) => (s, .wait w)
      | (s, none) => (s, .ready)
  | none =>
    match probeSlot s h key with
    | none => (s.finc F.EPC_ERR_PAIR_FULL 1 h.val, .full)
    | some slot =>
      match makeRoom 3 3 s with
      | none => (s, .wait .room)
      | some s =>
        (cacheUnit (.pair h key) (s.modHost h (fun x => { x with pairs := tblSet key (newPair s h slot) x.pairs })), .ready)

/-- The context is on chip, or what to wait for; the read of a pair record that is needed with it is issued together with the
context's (R213). -/
def needBoth (h : HostPort) (ep key : Nat) (s : State) : State × Option ParkWait :=
  match needCtx h ep s with
  | (s, none) => (s, none)
  | (s, some w) => (if (getPair s h key).any (fun p => !p.onChip) then (needPair h key s).1 else s, some w)

/-- The window's entry is on chip (R215). -/
def needWin (h : HostPort) (w : Nat) (s : State) : State × Option ParkWait :=
  if hostTable s h then
    match tblGet w (s.host h).wins with
    | some x =>
      if x.onChip then (touchUnit (.wins h x.unit) s, none) else fetchRecord h (.window w) (winSlot s h w) 32 (.window w) s
    | none => fetchRecord h (.window w) (winSlot s h w) 32 (.window w) s
  else (s, none)

/-! ## Windows (R215 to R217, R242) -/

/-- A window index never opened: closed, generation 0. -/
def closedWin (onChip : Bool) : Window :=
  { gen := 0, isOpen := false, pd := 0, access := 0, eq := 0, va := 0, len := 0, onChip := onChip, unit := 0, rndv := none }

/-- The record of a window index. -/
def winOf (s : State) (h : HostPort) (w : Nat) : Window := (tblGet w (s.host h).wins).getD (closedWin true)

/-- Opens a window with the next generation (R216, R242). -/
def openWin (h : HostPort) (w : Nat) (x : Window) (s : State) : State :=
  let old := winOf s h w
  let x := { x with gen := (old.gen + 1) % 4096, isOpen := true, onChip := true, unit := old.unit }
  let s := s.modHost h (fun y => { y with wins := tblSet w x y.wins })
  if hostTable s h then areaWrite h (winSlot s h w) 32 s else s

/-- Closes a window (R218, R244). -/
def closeWin (h : HostPort) (w : Nat) (s : State) : State :=
  let s := modWin h w (fun x => { x with isOpen := false, rndv := none }) s
  if hostTable s h then areaWrite h (winSlot s h w) 32 s else s

/-- The key of a window: generation and index with bit 19 naming the port (R216). -/
def winKey (s : State) (h : HostPort) (w : Nat) : Nat := (winOf s h w).gen * 2 ^ 20 + h.val * 2 ^ 19 + w

/-- The index lies in the port's rendezvous range (R242). -/
def rndvIndex (s : State) (h : HostPort) (w : Nat) : Bool :=
  decide (s.fget F.MTE_RNDV_BASE h.val ≤ w) && decide (w < s.fget F.MTE_RNDV_BASE h.val + s.fget F.MTE_RNDV_COUNT h.val)

/-- The lowest free rendezvous window (R242). -/
def freeRndv (s : State) (h : HostPort) : Option Nat :=
  ((List.range (s.fget F.MTE_RNDV_COUNT h.val)).map (· + s.fget F.MTE_RNDV_BASE h.val)).find? (fun w =>
    !(winOf s h w).isOpen && decide (w < winCount s h))

/-! ## The miss park (R21, R24, R25) -/

/-- 64-byte blocks of the park in use. -/
def parkBlocks (s : State) : Nat := (s.park.map (fun k => pktBlocks k.pkt)).sum

/-- The park takes the packet (R21): its count and its blocks stay within capacity. The count is 4,096 whatever size the image gives the
region (DESIGN CHOICE, log entry 80). -/
def parkRoom (s : State) (pkt : Packet) : Bool :=
  decide (s.park.length < 4096) && decide (parkBlocks s + pktBlocks pkt ≤ s.image.elim 0 (·.part.park) / 64)

/-- What a parked packet waits for is over. -/
def waitOver (s : State) (k : Parked) : Bool :=
  match k.wait with
  | .context ep => !fetching s k.h (.context ep)
  | .pair key => !fetching s k.h (.pair key)
  | .window w => !fetching s k.h (.window w)
  | .walk pd page => !(s.host k.h).xlt.walks.any (fun w => decide (w.2.pd = pd ∧ w.2.va / 4096 = page))
  | .record id => !(tblGet id (s.host k.h).mte.deliveries).any (·.segsDue)
  | .room => true

end Sys2Proof.Machine
end

