-- ==== Sys2Proof/Machine/Operands.lean ====
section
/-! DEFINITION. The operand forms: the fields of a descriptor and its format checks (R168 to R171, R175), the parameters of an
admin command (R162), atomic operand codes (R101). -/

namespace Sys2Proof.Machine

/-! ## Descriptor fields (R168, R169) -/

/-- OPCODE. -/
def dOp (d : Bytes) : Nat := leAt d 0 1
/-- Bit `k` of FLAGS: 0 PHASE, 1 FIRST, 2 LAST, 3 SIGNAL, 4 FENCE, 5 ACK_NOW, 6 CAPTURE. -/
def dFlag (d : Bytes) (k : Nat) : Bool := (leAt d 1 1).testBit k
/-- ILEN. -/
def dIlen (d : Bytes) : Nat := leAt d 2 1 % 32
/-- USER_TAG. -/
def dTag (d : Bytes) : Nat := leAt d 4 4
/-- DST_CHIP, or the source chip of a RECV. -/
def dChip (d : Bytes) : Nat := leAt d 8 4 % 2 ^ 18
/-- ANY_SRC of a RECV. -/
def dAnySrc (d : Bytes) : Bool := (leAt d 8 4).testBit 31
/-- DST_EP, or the source endpoint of a RECV. -/
def dEp (d : Bytes) : Nat := leAt d 12 3
/-- LADDR. -/
def dLaddr (d : Bytes) : Nat := leAt d 16 8
/-- SEG0_LEN. -/
def dSeg0 (d : Bytes) : Nat := leAt d 24 4
/-- RESULT_ADDR. -/
def dResult (d : Bytes) : Nat := leAt d 24 8
/-- LENGTH. -/
def dLen (d : Bytes) : Nat := leAt d 32 4
/-- WKEY. -/
def dWkey (d : Bytes) : Nat := leAt d 36 4
/-- VP_KEY; also GROUP, in its low 12 bits. -/
def dVpKey (d : Bytes) : Nat := leAt d 36 2
/-- VP_TAG. -/
def dVpTag (d : Bytes) : Nat := leAt d 38 2
/-- GROUP. -/
def dGroup (d : Bytes) : Nat := leAt d 36 2 % 4096
/-- COL_OP. -/
def dColOp (d : Bytes) : Nat := leAt d 38 1
/-- DTYPE. -/
def dDtype (d : Bytes) : Nat := leAt d 39 1
/-- RED_OP. -/
def dRedOp (d : Bytes) : Nat := leAt d 40 1
/-- ROFFSET. -/
def dRoff (d : Bytes) : Nat := leAt d 40 6
/-- VP_ADDR; also IGNORE. -/
def dVpAddr (d : Bytes) : Nat := leAt d 40 8
/-- ATOP. -/
def dAtop (d : Bytes) : Nat := leAt d 46 1
/-- ATYPE. -/
def dAtype (d : Bytes) : Nat := leAt d 47 1
/-- VP_FLAGS. -/
def dVpFlags (d : Bytes) : Nat := leAt d 48 1
/-- OPERAND or MATCH. -/
def dMatch (d : Bytes) : Nat := leAt d 48 8
/-- COMPARE. -/
def dCompare (d : Bytes) : Nat := leAt d 56 8
/-- COMM. -/
def dComm (d : Bytes) : Nat := leAt d 56 2

/-- The opcodes of R169 by number: 1 PUT, 2 PUT_DURABLE, 3 GET, 4 ATOMIC, 5 ATOMIC_FETCH, 6 SEND, 7 RECV, 8 VP_WRITE,
9 COLLECTIVE, 10 NOP, 15 CONT. -/
def listedOp (op : Nat) : Bool := decide (1 ≤ op ∧ op ≤ 10) || decide (op = 15)

/-- The opcodes whose operations may span a chain (R169). -/
def chainable (op : Nat) : Bool := [1, 2, 3, 6, 7, 8].contains op

/-- The opcode has a LENGTH (R169). -/
def hasLength (op : Nat) : Bool := [1, 2, 3, 6, 7, 8, 9].contains op

/-- Inline data may stand in the descriptor (R169). -/
def mayInline (op : Nat) : Bool := [1, 2, 6].contains op

/-- An ATOP and ATYPE pair that R101 gives a meaning. -/
def atomicOk (atop atype : Nat) : Bool :=
  decide (atop ≤ 7) && decide (atype ≤ 5) && (decide (atype < 4) || [0, 4, 5, 6, 7].contains atop)

/-- Bytes of an operand of an ATYPE (R101). -/
def atypeBytes (atype : Nat) : Nat := if atype % 2 = 0 then 4 else 8

/-- Which bits of byte `i` of a descriptor that is no CONT its opcode uses (R168, R169). -/
def usedBits (d : Bytes) (i : Nat) : Nat :=
  let op := dOp d
  let inl := mayInline op && decide (0 < dIlen d)
  if i = 0 then 255
  else if i = 1 then 127
  else if i = 2 then 31
  else if i = 3 then 0
  else if i < 10 then 255
  else if i = 10 then 3
  else if i = 11 then (if op = 7 then 128 else 0)
  else if i < 15 then 255
  else if i = 15 then 0
  else if i < 24 then (if op = 10 ∨ op = 4 ∨ op = 5 then 0 else 255)
  else if i < 32 then
    if inl ∨ op = 5 ∨ op = 9 then 255
    else if i < 28 ∧ chainable op ∧ dFlag d 1 ∧ !dFlag d 2 then 255
    else 0
  else if i < 36 then (if hasLength op then 255 else 0)
  else if i < 40 then
    if op ≤ 5 ∨ op = 8 then 255
    else if op = 9 then (if i = 37 then 15 else 255)
    else 0
  else if i < 46 then
    if op ≤ 5 ∨ op = 7 ∨ op = 8 then 255
    else if op = 9 ∧ i = 40 then 255
    else 0
  else if i < 48 then
    if op = 4 ∨ op = 5 then 15
    else if op = 7 ∨ op = 8 then 255
    else 0
  else if i < 56 then
    if op = 4 ∨ op = 5 ∨ op = 6 ∨ op = 7 then 255
    else if op = 8 ∧ i = 48 then 3
    else 0
  else if (op = 4 ∨ op = 5) ∧ dAtop d = 7 then 255
  else if (op = 6 ∨ op = 7) ∧ i < 58 then 255
  else 0

/-- A CONT: PHASE, FIRST and LAST, and three segments with 4 reserved bytes each (R171). -/
def usedBitsCont (i : Nat) : Nat :=
  if i = 0 then 255 else if i = 1 then 7 else if i < 16 then 0 else if 12 ≤ (i - 16) % 16 then 0 else 255

/-- A reserved field or flag is not 0. -/
def reservedSet (d : Bytes) : Bool :=
  (List.range 64).any (fun i =>
    let b := (byteAt d i).toNat
    let m := if dOp d = 15 then usedBitsCont i else usedBits d i
    decide (b &&& m ≠ b))

/-- LENGTH, ILEN or the atomic pair is out of range (R175, BAD_LENGTH). -/
def badLength (d : Bytes) : Bool :=
  let op := dOp d
  let ilen := dIlen d
  let len := dLen d
  decide (16 < ilen) || (decide (0 < ilen) && (!mayInline op || decide (ilen ≠ len))) ||
    (match op with
     | 1 | 2 | 3 => decide (len = 0 ∨ 1073741824 < len)
     | 6 | 7 => decide (1073741824 < len)
     | 8 => decide (len < 8 ∨ 2048 < len ∨ len % 8 ≠ 0)
     | 9 => decide (dColOp d ≠ 1) && decide (len = 0 ∨ 1073741824 < len)
     | 4 | 5 => !atomicOk (dAtop d) (dAtype d)
     | _ => false)

/-- An address that must be 8-byte aligned is not (R175, ALIGN). -/
def badAlign (d : Bytes) : Bool :=
  (decide (dOp d = 5) && decide (dResult d % 8 ≠ 0)) || (decide (dOp d = 8) && decide (dVpAddr d % 8 ≠ 0))

/-- A chain being gathered: descriptors so far, LENGTH of its FIRST, bytes of its segments so far. -/
structure OpenChain where
  count : Nat
  len   : Nat
  bytes : Nat
deriving DecidableEq, Repr

/-- Segments of a CONT; SEG_LEN 0 ends the list (R171). -/
def contSegs (d : Bytes) : List Segment :=
  (([0, 1, 2].map (fun k => (⟨leAt d (16 + 16 * k) 8, leAt d (24 + 16 * k) 4⟩ : Segment))).takeWhile (fun g => g.len ≠ 0))

/-- The halt cause of one descriptor in its place, 0 for none (R175); of several conditions the lowest code (DESIGN CHOICE, log entry 29). -/
def descCause (open_ : Option OpenChain) (d : Bytes) : Nat :=
  let op := dOp d
  if !listedOp op ∨ (op = 15 ∧ open_.isNone) then 1
  else if reservedSet d then 2
  else if op ≠ 15 ∧ badLength d then 3
  else
    let chain : Bool := match open_ with
      | some c => decide (op ≠ 15) || dFlag d 1 || decide (16 ≤ c.count) ||
          (dFlag d 2 && decide (c.bytes + ((contSegs d).map (·.len)).sum ≠ c.len))
      | none => !dFlag d 1 || (!dFlag d 2 && (!chainable op || decide (0 < dIlen d)))
    if chain then 4 else if op ≠ 15 ∧ badAlign d then 8 else 0

/-- The chain state after a descriptor without a cause. -/
def chainAfter (open_ : Option OpenChain) (d : Bytes) : Option OpenChain :=
  match open_ with
  | some c => if dFlag d 2 then none else some { c with count := c.count + 1, bytes := c.bytes + ((contSegs d).map (·.len)).sum }
  | none => if dFlag d 2 then none else some ⟨1, dLen d, dSeg0 d⟩

/-- The first halt cause in a run of descriptors, with its index. -/
def scanDescs : Option OpenChain → List (Nat × Bytes) → Option (Nat × Nat)
  | _, [] => none
  | o, (i, d) :: rest =>
    let c := descCause o d
    if c ≠ 0 then some (c, i) else scanDescs (chainAfter o d) rest

/-- The local buffer of an operation: one segment, or the chain's segment list (R171). -/
def opSegs (descs : List Bytes) : List Segment :=
  match descs with
  | [] => []
  | [d] => [⟨dLaddr d, dLen d⟩]
  | d :: rest => ⟨dLaddr d, dSeg0 d⟩ :: rest.flatMap contSegs

/-- Bytes [off, off + len) of a segment list as address ranges; `stop` is the end of the segment each lies in. -/
def segRanges : List Segment → Nat → Nat → List (Nat × Nat × Nat)
  | [], _, _ => []
  | g :: rest, off, len =>
    if len = 0 then []
    else if g.len ≤ off then segRanges rest (off - g.len) len
    else
      let k := min len (g.len - off)
      (g.addr + off, k, g.addr + g.len) :: segRanges rest 0 (len - k)

/-- The accesses to bytes [off, off + len) of a local buffer, each one request of at most `lim` bytes (R154, R193). -/
def segAccesses (lim pd : Nat) (segs : List Segment) (off len : Nat) (read write : Bool) : List XAccess :=
  (segRanges segs off len).flatMap (fun r => (rangePieces lim r.1 r.2.1).map (fun p =>
    { pd := pd, va := p.1, len := p.2, read := read, write := write, paged := false, stop := r.2.2 }))

/-- The first descriptor of an operation. -/
def opFirst (op : OpState) : Bytes := op.descs.headD []

/-- The class, target chip and endpoint of an operation name its pair: the key at the source (R211). -/
def opKey (q : WorkQueue) (op : OpState) : Nat := pairKey q.ep (dChip (opFirst op)) (dEp (opFirst op))

/-- The operation travels in an endpoint pair. -/
def opPaired (op : Nat) : Bool := [1, 2, 3, 4, 5, 6, 8].contains op

/-! ## Admin commands (R162) -/

/-- Parameter bytes [off, off + n) of an admin command. -/
def aAt (c : Bytes) (off n : Nat) : Nat := leAt c off n

/-- Every byte of the given ranges is 0: the reserved bytes of a command. -/
def zeroBytes (c : Bytes) (rs : List (Nat × Nat)) : Bool :=
  rs.all (fun r => (List.range (r.2 + 1 - r.1)).all (fun k => byteAt c (r.1 + k) == 0#8))

/-- The reserved bytes of an admin command's header are 0 (R162, R164). -/
def adminHeadOk (c : Bytes) : Bool := decide (leAt c 1 1 < 2) && zeroBytes c [(2, 3)]

end Sys2Proof.Machine
end

