-- ==== Sys2Proof/Machine/SendOps.lean ====
section
/-! DEFINITION. The source side (R106, R172 to R174, R240, R242, R268 to R277): the two brakes, sequenced packets, operations and
their completion. -/

namespace Sys2Proof.Machine

/-! ## The congestion window (R268 to R272) -/

/-- The packet is governed by the window (R268). -/
def governed (pkt : Packet) : Bool := [1, 2, 3, 4, 5, 6, 7, 0x21, 0x22, 0x24, 0x40].contains (pktOpcode pkt)

/-- LEN of the response a GET_REQ of `len` bytes brings (R102). -/
def getRespLen (len : Nat) : Nat := 32 + padLen len + 8

/-- LENGTH of a GET_REQ. -/
def getReqLen (pkt : Packet) : Nat := pktAt pkt 32 2 % 8192

/-- Window charge of a packet: its own part and the response's (R268). -/
def windowCharge (s : State) (h : HostPort) (pkt : Packet) : Nat × Nat :=
  if governed pkt then
    (pktLen pkt, if !s.flag F.CC_CTL_GET_CHARGE h.val then 0
      else if pktOpcode pkt = 3 then getRespLen (getReqLen pkt) else if pktOpcode pkt = 5 then 64 else 0)
  else (0, 0)

/-- The congestion window admits the packet (R269). -/
def windowOpen (s : State) (h : HostPort) (c : CongState) (pkt : Packet) : Bool :=
  let k := windowCharge s h pkt
  !governed pkt || !s.flag F.CC_CTL_EN h.val || decide (c.inflight = 0) || decide (c.inflight + k.1 + k.2 ≤ c.w)

/-- PSEQ distance from `b` up to `a`, modulo 2^24. -/
def pseqDist (a b : Nat) : Nat := (a + 16777216 - b % 16777216) % 16777216

/-- The oldest PSEQ not yet acknowledged (R106); NEXT when none is outstanding. -/
def oldestPseq (p : PairRec) : Nat :=
  p.out.foldl (fun o e => if pseqDist p.next.toNat o < pseqDist p.next.toNat e.1 then e.1 else o) p.next.toNat

/-- The pair window of R106 admits one more PSEQ. -/
def pseqOpen (p : PairRec) : Bool := decide (pseqDist p.next.toNat (oldestPseq p) < 4096)

/-- MD_MAX; 0 acts as 1 (R280). -/
def mdMax (s : State) (h : HostPort) : Nat := max 1 (s.fget F.CC_DELAY_MD_MAX h.val)

/-- A decrease is applied only once per round trip (R271). -/
def cutAllowedAt (c : CongState) (sentAt : Word) : Bool := c.tCut.all (fun t => decide (t.toNat < sentAt.toNat))

/-- The decrease of R271 for a sample. -/
def cwDecrease (s : State) (h : HostPort) (w rtt target : Nat) : Nat :=
  let d := min (w * s.fget F.CC_DELAY_GAIN h.val * (rtt - target) / (256 * rtt)) (w * mdMax s h / 256)
  clampW s h (w - d)

/-- BASE after a sample (R270). -/
def baseAfter (s : State) (h : HostPort) (c : CongState) (rtt : Nat) : CongState :=
  let age := 1000 * max 1 (s.fget F.CC_DELAY_BASE_AGE h.val)
  match c.base with
  | none => { c with base := some rtt, baseT := s.tim.now }
  | some b =>
    if age ≤ (s.tim.now - c.baseT).toNat then { c with base := some rtt, baseT := s.tim.now }
    else { c with base := some (min b rtt) }

/-- One sample updates the window (R270, R271); `freed` is the charge freed. An increase of a window of 0 is a free value
(DESIGN CHOICE, log entry 67). -/
def ccSample (h : HostPort) (key rtt freed : Nat) (sentAt : Word) (s : State) : State :=
  match getPair s h key with
  | none => s
  | some p =>
    let c := baseAfter s h { p.cong with lastRtt := rtt } rtt
    let target := c.base.getD 0 + s.fget F.CC_DELAY_TARGET_NS h.val
    let b := freed + c.carry
    if rtt ≤ target then
      let grow := if c.w = 0 then s.freeValue.toNat else s.fget F.CC_DELAY_AI h.val * b / c.w
      let s := if c.w = 0 then s.tookFree else s
      modPair h key (fun p => { p with cong := { c with w := clampW s h (c.w + grow), carry := 0 } }) s
    else if cutAllowedAt c sentAt then
      (modPair h key (fun p => { p with cong := { c with w := cwDecrease s h c.w rtt target, tCut := some s.tim.now, carry := 0 } })
        s).finc F.CC_STAT_DELAY_CUTS 1 h.val
    else modPair h key (fun p => { p with cong := { c with carry := 0 } }) s

/-- A decrease on a refusal for want of a resource (R272). -/
def ccRefusal (h : HostPort) (key : Nat) (sentAt : Word) (s : State) : State :=
  match getPair s h key with
  | none => s
  | some p =>
    if s.flag F.CC_CTL_REFUSAL_CUT h.val && cutAllowedAt p.cong sentAt then
      let tns := s.fget F.CC_DELAY_TARGET_NS h.val
      let target := p.cong.base.elim tns (· + tns)
      (modPair h key (fun p => { p with cong :=
        { p.cong with w := cwDecrease s h p.cong.w (2 * target) target, tCut := some s.tim.now } }) s).finc
          F.CC_STAT_REFUSAL_CUTS 1 h.val
    else s

/-- A decrease on a timeout (R272). -/
def ccTimeout (h : HostPort) (key : Nat) (sentAt : Word) (s : State) : State :=
  match getPair s h key with
  | none => s
  | some p =>
    if s.flag F.CC_CTL_TIMEOUT_CUT h.val && cutAllowedAt p.cong sentAt then
      (modPair h key (fun p => { p with cong :=
        { p.cong with w := clampW s h (p.cong.w - p.cong.w * mdMax s h / 256), tCut := some s.tim.now } }) s).finc
          F.CC_STAT_TIMEOUT_CUTS 1 h.val
    else s

/-! ## The Leash (R273 to R277) -/

/-- The Leash of a queue lets a packet start (R274). -/
def leashOpen (l : Option Leash) : Bool := l.all (fun l => decide (l.rate = 0) || decide (0 ≤ l.tokens))

/-- The charge of a packet of a shaped queue (R275). -/
def leashCharge (l : Leash) (pkt : Packet) : Nat :=
  l.overhead + (if l.chargeGet && decide (pktOpcode pkt = 3) then getRespLen (getReqLen pkt)
    else if l.chargeGet && decide (pktOpcode pkt = 5) then 64 else pktLen pkt)

/-- A packet's charge is debited at hand-over (R274). -/
def leashDebit (h : HostPort) (wq : Nat) (pkt : Packet) (s : State) : State :=
  modWq h wq (fun q => { q with leash := q.leash.map (fun l =>
    if l.rate = 0 then l else { l with tokens := l.tokens - 256 * (leashCharge l pkt : Int) }) }) s

/-- The queue's Leash, if the queue still exists. -/
def leashOf (s : State) (h : HostPort) (wq : Nat) : Option Leash := (tblGet wq (s.host h).wqs).bind (·.leash)

/-- One refill of a Leash (R274, R276): tokens first, then a waiting SET_SHAPER applies. -/
def refillLeash (refill : Nat) (l : Leash) : Leash :=
  let l := if l.rate = 0 then l
    else { l with tokens := min (256 * (l.burst : Int)) (l.tokens + ((l.rate * refill * 64 * 256 / 1000 : Nat) : Int)) }
  let l := match l.waiting with
    | some (rate, burst, ovh, chargeGet, fill) =>
      { l with rate := rate, burst := burst, overhead := ovh, chargeGet := chargeGet, waiting := none,
               tokens := if fill then 256 * (burst : Int) else min (256 * (burst : Int)) l.tokens }
    | none => l
  if l.rate = 0 then { l with tokens := 256 * (l.burst : Int) } else l

/-! ## Sequenced packets (R106, R268) -/

/-- Sends a new sequenced packet of a pair: it takes the next PSEQ and is charged to the window; `get` is what a request with a
response expects (owner, offset, length). -/
def sendSeq (h : HostPort) (key : Nat) (owner : Owner) (mk : Nat → Packet) (get : Option (Nat × Nat)) (s : State) : State :=
  match getPair s h key with
  | none => s
  | some p =>
    let seq := p.next.toNat
    let pkt := mk seq
    let k := windowCharge s h pkt
    let e : SentPkt := { pkt := pkt, owner := owner, timeouts := 0, refusals := 0, resent := false, sentAt := s.tim.now,
                         charge := k.1, backoff := false, due := false, fixes := s.tim.fixes }
    inject pkt (modPair h key (fun p => { p with
      next := p.next + 1, out := tblSet seq e p.out,
      gets := match get with
        | some (off, len) => tblSet seq ⟨owner, off, len, k.2⟩ p.gets
        | none => p.gets,
      cong := { p.cong with inflight := p.cong.inflight + k.1 + k.2 } }) s)

/-- Why a brake holds a packet. -/
inductive Held | leash | window
deriving DecidableEq, Repr

/-- The brakes on a packet of a queue (R277): the Leash first, then the windows. -/
def brakes (s : State) (h : HostPort) (wq key : Nat) (pkt : Packet) : Option Held :=
  if !leashOpen (leashOf s h wq) then some .leash
  else match getPair s h key with
  | some p => if windowOpen s h p.cong pkt && pseqOpen p then none else some .window
  | none => none

/-- The sampling slots that name a queue and are not yet in a list, after that list (R278). -/
def slotsHeld (s : State) (h : HostPort) (wq : Nat) (l : List Nat) : List Nat :=
  l ++ (List.range 16).filter (fun k => decide (s.fget F.SHP_SAMPLE_SEL_WQ h.val k = wq) && !l.contains k)

/-- A brake's holding back is noted in every sampling slot of the queue (R278). -/
def noteHeld (h : HostPort) (wq : Nat) (b : Held) (s : State) : State :=
  s.modHost h (fun x => match b with
    | .leash => { x with leashHeld := slotsHeld s h wq x.leashHeld }
    | .window => { x with cwndHeld := slotsHeld s h wq x.cwndHeld })

/-- The queue that a sent packet's Leash belongs to (R275). -/
def ownerQueue (s : State) (h : HostPort) (o : Owner) : Option Nat :=
  match o with
  | .op wq _ => some wq
  | .autoGet id => (tblGet id (s.host h).mte.deliveries).map (·.recv.wq)
  | .owed wq => some wq
  | _ => none

/-- Sends an outstanding packet again (R106, R110), or leaves it due while its queue has no tokens (R275). -/
def resend (h : HostPort) (key seq : Nat) (s : State) : State :=
  match (getPair s h key).bind (fun p => tblGet seq p.out) with
  | none => s
  | some e =>
    let wq := ownerQueue s h e.owner
    if wq.any (fun w => !leashOpen (leashOf s h w)) then
      modPair h key (fun p => { p with out := tblMod seq (fun e => { e with due := true, backoff := false }) p.out }) s
    else
      let pkt := withPcrc (pktSetAge (pktSetRetx e.pkt) 0)
      let s := wq.elim s (fun w => leashDebit h w pkt s)
      inject pkt (modPair h key (fun p => { p with out := tblMod seq (fun e =>
        { e with resent := true, sentAt := s.tim.now, backoff := false, due := false, fixes := s.tim.fixes }) p.out }) s)

/-! ## Completion (R172, R173, R183, R186, R398) -/

/-- COMPLETION entry bytes 4 to 55 (R182). -/
def completionBody (op : OpState) (wq idx : Nat) : Bytes :=
  let d := opFirst op
  leBytes 4 (dTag d) ++ leBytes 2 wq ++ leBytes 3 idx ++ leBytes 1 (dOp d % 16) ++ leBytes 2 op.detail ++ leBytes 4 op.moved ++
    leBytes 20 0 ++ leBytes 8 op.value.toNat

/-- HEAD moves over completed operations (R173). -/
def advanceHead : Nat → WorkQueue → WorkQueue
  | 0, q => q
  | n + 1, q =>
    match tblGet q.head q.completed with
    | some (span, after) =>
      advanceHead n { q with head := (q.head + span) % (2 * 2 ^ q.logSize), completed := tblDel q.head q.completed,
                             headDue := decide (q.headAddr ≠ 0), headAfter := max q.headAfter after }
    | none => q

/-- Doorbells that HEAD has passed are forgotten (R278). -/
def pruneBells (q : WorkQueue) : WorkQueue :=
  { q with bells := q.bells.filter (fun b => decide (ringCount q.logSize b.1 q.head ≠ 0) &&
      decide (ringCount q.logSize b.1 q.head ≤ ringCount q.logSize q.pi q.head)) }

/-- The operation at an index counts as completed (R173); a write of a HEAD past it follows the first `after` events of its event
queue. -/
def completeIdx (h : HostPort) (wq idx span after : Nat) (s : State) : State :=
  pmcHost h.val 0x3A 1 (modWq h wq (fun q =>
    let q := { q with completed := tblSet idx (span, after) q.completed }
    pruneBells (advanceHead (q.completed.length + 1) q)) s)

/-- An operation ends: its COMPLETION is decided where it posts one, and it completes; with the stash full it waits, not
completed (R183, R186). -/
def finishOp (h : HostPort) (wq idx : Nat) (s : State) : State :=
  match tblGet wq (s.host h).wqs with
  | none => s
  | some q =>
    match tblGet idx q.ops with
    | none => s
    | some op =>
      let s := modWq h wq (fun q => { q with ops := tblDel idx q.ops, side := q.side.filter (· != idx) }) s
      let d := opFirst op
      if dOp d ≠ 7 && (op.status ≠ 0 || dFlag d 3) then
        let e := mkEvent s 1 op.status (completionBody op wq idx)
        if eqTakes s h q.eq then
          let s := eqDecide h q.eq e s
          completeIdx h wq idx op.descs.length (eqDecided s h q.eq) s
        else modWq h wq (fun q => { q with waitEvents := q.waitEvents ++ [(idx, op.descs.length, e)] }) (eqOverflow h q.eq s)
      else completeIdx h wq idx op.descs.length 0 s

/-- Waiting completions of a queue enter its event queue once that takes them (R186). -/
def drainWaits (h : HostPort) (wq : Nat) : Nat → State → State
  | 0, s => s
  | n + 1, s =>
    match tblGet wq (s.host h).wqs with
    | none => s
    | some q =>
      match q.waitEvents with
      | [] => s
      | (idx, span, e) :: rest =>
        if eqTakes s h q.eq then
          let s := eqDecide h q.eq e (modWq h wq (fun q => { q with waitEvents := rest }) s)
          drainWaits h wq n (completeIdx h wq idx span (eqDecided s h q.eq) s)
        else s

/-- Reservations whose response travels through a window are still held. -/
def winHeld (s : State) (h : HostPort) (w : Nat) : Bool := (s.host h).rem.resvs.any (fun r => decide (r.2.win = w))

/-- The operation has ended: no packet is left to send, every packet it sent is settled, and a rendezvous has been fetched
(R172, R244). -/
def opEnded (s : State) (h : HostPort) (op : OpState) : Bool :=
  op.begun && (decide (op.status ≠ 0) || op.allSent) && decide (op.unsettled = 0) &&
    (match op.rndvWin with
     | some w => op.lastSeen && !winHeld s h w
     | none => true)

/-- Ends an operation that has nothing left (R172); a rendezvous closes its window (R244). -/
def checkOp (h : HostPort) (wq idx : Nat) (s : State) : State :=
  match (tblGet wq (s.host h).wqs).bind (fun q => tblGet idx q.ops) with
  | none => s
  | some op =>
    if opEnded s h op && s.hostLive h then
      let s := match op.rndvWin with
        | some w => closeWin h w s
        | none => s
      finishOp h wq idx s
    else s

/-- Changes an operation. -/
def modOp (h : HostPort) (wq idx : Nat) (f : OpState → OpState) (s : State) : State :=
  modWq h wq (fun q => { q with ops := tblMod idx f q.ops }) s

/-- An operation meets an error: the first decided is the one reported (R172). -/
def opError (h : HostPort) (wq idx status detail : Nat) (s : State) : State :=
  modOp h wq idx (fun o => if o.status = 0 then { o with status := status, detail := detail } else o) s

/-! ## What an operation sends next (R169, R240) -/

/-- EAGER_MAX (R250). -/
def eagerMax (s : State) (h : HostPort) : Nat := min 4096 (max 16 (s.fget F.MTE_CTL_EAGER_MAX h.val))

/-- The SEND goes out as a RNDV_REQ (R240). -/
def isRndv (s : State) (h : HostPort) (d : Bytes) : Bool := decide (dOp d = 6) && decide (eagerMax s h < dLen d)

/-- Bytes of the next packet of an operation from offset `off`, and whether they are local data. A SEND keeps the form that EAGER_MAX
gave it at its start (R8). -/
def chunkOf (op : OpState) (off : Nat) : Nat × Bool :=
  let d := opFirst op
  match dOp d with
  | 3 => (min 4096 (dLen d - off), false)
  | 4 | 5 => (0, false)
  | 6 => (dLen d, !op.rndv)
  | _ => (min 4096 (dLen d - off), true)

/-- Word 1 of a packet of an operation. -/
def opW1 (q : WorkQueue) (d : Bytes) (code : Nat) (first last : Bool) : Word :=
  putField (newW1 (dEp d) q.ep code first last (dFlag d 5)) 59 59 (b2n (dFlag d 6))

/-- The packet an operation sends for bytes [off, off + len) with PSEQ `seq` (R100 to R103). -/
def opPacket (s : State) (h : HostPort) (q : WorkQueue) (op : OpState) (off len : Nat) (data : Bytes) (seq : Nat) : Packet :=
  let d := opFirst op
  let first := decide (off = 0)
  let last := decide (dLen d ≤ off + len)
  let short (code b19 aux offset wkey : Nat) (d0 d1 : Bytes) : Packet :=
    mkPkt (newW0 1 q.tc (dChip d) s.chip) (opW1 q d code first last) (shortBody seq b19 aux offset wkey d0 d1)
  let long (code : Nat) (head : Bytes) : Packet :=
    mkPkt (newW0 2 q.tc (dChip d) s.chip) (opW1 q d code first last) (longBody (leBytes 3 seq ++ leBytes 2 len ++ leBytes 1 0 ++ head) data)
  match dOp d with
  | 1 | 2 =>
    let durable := decide (dOp d = 2)
    if dLen d ≤ 16 then short (if durable then 2 else 1) len 0 (dRoff d + off) (dWkey d) data []
    else long (if durable then 0x22 else 0x21) (leBytes 6 (dRoff d + off) ++ leBytes 4 (dWkey d))
  | 3 => short 3 0 0 (dRoff d + off) (dWkey d) (leBytes 2 len) []
  | 4 | 5 =>
    short (dOp d) 0 (dAtop d + 256 * dAtype d) (dRoff d) (dWkey d) (leBytes 8 (dMatch d))
      (if dAtop d = 7 then leBytes 8 (dCompare d) else [])
  | 6 =>
    match op.rndvWin with
    | some w => short 7 0 (dComm d) 0 (winKey s h w) (leBytes 4 (dLen d)) (leBytes 8 (dMatch d))
    | none =>
      if dLen d ≤ 16 then short 6 len (dComm d) 0 0 data (leBytes 8 (dMatch d))
      else long 0x24 (leBytes 2 (dComm d) ++ leBytes 8 (dMatch d))
  | _ =>
    mkPkt (newW0 3 q.tc (dChip d) s.chip) (opW1 q d 0x40 first last)
      (leBytes 3 seq ++ leBytes 5 0 ++ leBytes 1 0x21 ++ leBytes 1 (dVpFlags d) ++ leBytes 2 (dVpKey d) ++ leBytes 2 len ++
        leBytes 2 (dVpTag d) ++ leBytes 8 (dVpAddr d) ++ padTo (max 16 len) data ++ leBytes 8 0)

/-- An earlier operation of the queue to the same destination has not handed everything over (R172). -/
def earlierOpen (q : WorkQueue) (idx : Nat) (op : OpState) : Bool :=
  q.ops.any (fun e => decide (ringCount q.logSize e.1 q.head < ringCount q.logSize idx q.head) && !e.2.allSent &&
    decide (e.2.status = 0) && opPaired (dOp (opFirst e.2)) && decide (opKey q e.2 = opKey q op))

/-- Another operation has handed over part of a long put of the pair (R102): until it is done, no other packet takes a PSEQ of it. -/
def longPutOpen (s : State) (h : HostPort) (key : Nat) (me : Option (Nat × Nat)) : Bool :=
  (s.host h).wqs.any (fun q => q.2.ops.any (fun o =>
    let d := opFirst o.2
    decide (dOp d = 1 ∨ dOp d = 2) && decide (0 < o.2.sent) && !o.2.allSent && decide (o.2.status = 0) &&
      decide (opKey q.2 o.2 = key) && decide (me ≠ some (q.1, o.1))))

/-- Moves an operation to the side list, if it has room (R172). -/
def toSide (h : HostPort) (wq idx : Nat) (s : State) : State :=
  modWq h wq (fun q => if q.side.contains idx || decide (16 ≤ q.side.length) then q else { q with side := q.side ++ [idx] }) s

/-- The operation leaves the side list. -/
def offSide (h : HostPort) (wq idx : Nat) (s : State) : State :=
  modWq h wq (fun q => { q with side := q.side.filter (· != idx) }) s

/-- One more read of local source data for the packet being built (R172, R193): a host read, a walk to wait for, or a fault that
ends the operation. -/
def gatherMore (h : HostPort) (wq idx : Nat) (q : WorkQueue) (op : OpState) (len : Nat) (known : Option (Walk × WalkEnd))
    (s : State) : State :=
  match segAccesses (maxRead s h) q.pd (opSegs op.descs) (op.sent + op.got.length) (len - op.got.length) true false with
  | [] => s
  | a :: _ =>
    match translate h a (some (.op wq idx)) known s with
    | (.hit bus ns u, s) => hostReqUnder h (.local wq idx a.len) bus a.len ns (some u) (modOp h wq idx (fun o => { o with reading := true }) s)
    | (.fault c l, s) => opError h wq idx 3 c (xltFault h a.pd a.va false 1 c l s)
    | (_, s) => s

/-- The operation hands over one packet. -/
def handOver (h : HostPort) (wq idx : Nat) (q : WorkQueue) (op : OpState) (len : Nat) (data : Bytes) (s : State) : State :=
  let d := opFirst op
  let get := if dOp d = 3 then some (op.sent, len) else if dOp d = 5 then some (0, atypeBytes (dAtype d)) else none
  let pkt := opPacket s h q op op.sent len data 0
  let st := s
  let s := sendSeq h (opKey q op) (.op wq idx) (opPacket st h q op op.sent len data) get s
  let s := leashDebit h wq pkt s
  offSide h wq idx (modOp h wq idx (fun o => { o with
    sent := o.sent + len, got := [], unsettled := o.unsettled + 1,
    allSent := decide (dLen d ≤ o.sent + len) || decide (dOp d = 4 ∨ dOp d = 5) }) s)

/-- An operation goes on: it gathers local data and hands over packets while both brakes are open (R172, R277). `fuel` bounds the
packets of one go (DESIGN CHOICE, log entry 68). -/
def pumpOp (h : HostPort) (wq idx : Nat) (known : Option (Walk × WalkEnd)) : Nat → State → State
  | 0, s => s
  | n + 1, s =>
    match tblGet wq (s.host h).wqs with
    | none => s
    | some q =>
      match tblGet idx q.ops with
      | none => s
      | some op =>
        let d := opFirst op
        if !s.hostLive h || !op.begun || op.reading || op.allSent || op.status ≠ 0 || !opPaired (dOp d) then checkOp h wq idx s
        else if (liveEp s h q.ep).any (·.lost) then checkOp h wq idx (opError h wq idx 2 0 s)
        else if earlierOpen q idx op then s
        else
          let key := opKey q op
          match needBoth h q.ep key s with
          | (s, some _) => s
          | (s, none) =>
            match needPair h key s with
            | (s, .wait _) => s
            | (s, .full) => checkOp h wq idx (opError h wq idx 1 6 s)
            | (s, .ready) =>
              match getPair s h key with
              | none => s
              | some p =>
                if p.broken then checkOp h wq idx (opError h wq idx 2 0 s)
                else if p.quiet then toSide h wq idx s
                else if longPutOpen s h key (some (wq, idx)) then s
                else
                  let c := chunkOf op op.sent
                  let inl := decide (0 < dIlen d)
                  if c.2 && !inl && decide (op.got.length < c.1) then
                    checkOp h wq idx (gatherMore h wq idx q op c.1 known s)
                  else
                    let data := if inl then (d.drop 16).take (dIlen d) else op.got
                    match brakes s h wq key (opPacket s h q op op.sent c.1 data 0) with
                    | some b => toSide h wq idx (noteHeld h wq b s)
                    | none => pumpOp h wq idx known n (handOver h wq idx q op c.1 data s)

/-- Packets one command may hand over for an operation: no more than the pair window of R106 admits. -/
def pumpFuel : Nat := 4100

/-- A rendezvous SEND needs its window before it begins (R240, R242): none configured refuses it, none free makes it wait, and in
host-table mode its entry is read first (R216). -/
def beginRndv (h : HostPort) (wq idx : Nat) (q : WorkQueue) (op : OpState) (s : State) : State × Bool :=
  if s.fget F.MTE_RNDV_COUNT h.val = 0 then
    (opError h wq idx 1 1 (modOp h wq idx (fun o => { o with begun := true }) s), true)
  else match freeRndv s h with
  | none => (toSide h wq idx s, false)
  | some w =>
    match needWin h w s with
    | (s, some _) => (toSide h wq idx s, false)
    | (s, none) =>
      let s := openWin h w { closedWin true with pd := q.pd, access := 1, len := dLen (opFirst op), rndv := some (wq, idx) } s
      (modOp h wq idx (fun o => { o with begun := true, rndvWin := some w }) s, true)

/-- The work of a started operation begins (R172): operations of one queue to one destination begin in index order. -/
def beginOp (h : HostPort) (wq idx : Nat) (s : State) : State :=
  match tblGet wq (s.host h).wqs with
  | none => s
  | some q =>
    match tblGet idx q.ops with
    | none => s
    | some op =>
      if op.begun then pumpOp h wq idx none pumpFuel s
      else if earlierOpen q idx op then s
      else
        let r := if op.rndv then beginRndv h wq idx q op s
          else (modOp h wq idx (fun o => { o with begun := true }) s, true)
        if r.2 then pumpOp h wq idx none pumpFuel r.1 else r.1

/-- Tokens, a window, a record or a rendezvous window have returned: the queue's side list goes on, oldest first, then its other
operations in progress (R277). -/
def pumpQueue (h : HostPort) (wq : Nat) (s : State) : State :=
  match tblGet wq (s.host h).wqs with
  | none => s
  | some q =>
    let s := q.side.foldl (fun t idx => match (tblGet wq (t.host h).wqs).bind (fun q => tblGet idx q.ops) with
      | some o => if opPaired (dOp (opFirst o)) then beginOp h wq idx t else t
      | none => t) s
    q.ops.foldl (fun t e => if q.side.contains e.1 || !e.2.begun then t else pumpOp h wq e.1 none pumpFuel t) s

/-- Every queue of a port goes on. -/
def pumpHost (h : HostPort) (s : State) : State :=
  (s.host h).wqs.foldl (fun t e => pumpQueue h e.1 (drainWaits h e.1 (e.2.waitEvents.length + 1) t)) s

end Sys2Proof.Machine
end

