-- ==== Sys2Proof/Machine/WqOps.lean ====
section
/-! DEFINITION. Work queues and the admin queue (R158 to R174): doorbells, descriptor fetch, the start of operations, admin
commands. -/

namespace Sys2Proof.Machine

/-! ## Waking from DOZE (R294, R296 to R298) -/

/-- PWR_STATUS.STATE's code (R302). -/
def powerCode : PowerState → Nat
  | .active => 0
  | .doze => 1
  | .standby => 2
  | .sleep => 3

/-- A wake is recorded in PWR_WAKE_SRC (R298). -/
def recordWake (source : Nat) (noRef : Bool) (s : State) : State :=
  s.setWord .PWR_WAKE_SRC (packFields [(3, 0, source), (4, 4, b2n noRef), (6, 5, powerCode s.pwr.state),
    (63, 16, s.tim.now.toNat)]) 0 0

/-- A wake source of DOZE wakes the NIC: the chip is ACTIVE, and the NIC is ready later (R294, R297). -/
def dozeWake (source : Nat) (s : State) : State :=
  if s.pwr.state = .doze && s.pwr.transition.isNone then
    let s := recordWake source false s
    { s with pwr := { s.pwr with state := .active, nicWaking := true } }
  else s

/-- The NIC may start work and accept arrivals: running, awake, and not halted by DBG_HALT (R294, R348). -/
def State.nicWorks (s : State) : Bool := s.nicRuns && !s.pwr.nicWaking && !s.flag F.DBG_HALT_NIC && decide (s.pwr.state = .active)

/-! ## Doorbells (R158 to R160) -/

/-- The wrap bit of an index of a ring (R9). -/
def wrapBit (log idx : Nat) : Nat := idx / 2 ^ log % 2

/-- FETCH passes descriptors that inline doorbells delivered (R158). -/
def skipInline : Nat → WorkQueue → WorkQueue
  | 0, q => q
  | n + 1, q =>
    if q.fetch ≠ q.pi && q.store.any (fun e => e.1 == q.fetch) then
      skipInline n { q with fetch := (q.fetch + 1) % (2 * 2 ^ q.logSize) }
    else q

/-- Inserts a descriptor into the store, in ring order from NEXT. -/
def storePut (q : WorkQueue) (idx : Nat) (d : Bytes) : List (Nat × Bytes) → List (Nat × Bytes)
  | [] => [(idx, d)]
  | e :: t => if ringCount q.logSize e.1 q.next < ringCount q.logSize idx q.next then e :: storePut q idx d t else (idx, d) :: e :: t

/-- The descriptors at the front of the store whose indices follow on from `idx` without a gap. -/
def contiguous (log : Nat) : Nat → List (Nat × Bytes) → List (Nat × Bytes)
  | _, [] => []
  | idx, e :: t => if e.1 = idx then e :: contiguous log ((idx + 1) % (2 * 2 ^ log)) t else []

/-- Every descriptor in its place is checked; the first condition halts the function (R175). -/
def checkStore (h : HostPort) (wq : Nat) (s : State) : State :=
  match tblGet wq (s.host h).wqs with
  | none => s
  | some q =>
    match scanDescs none (contiguous q.logSize q.next q.store) with
    | some (c, i) => haltHost h c wq false false i s
    | none => s

/-- This member reads local data in an operation with this COL_OP (R256). -/
def colReads (cop : Nat) (g : ColGroup) : Bool := decide (cop = 3 ∨ cop = 4) || (decide (cop = 2) && g.root)

/-- This member writes the result of an operation with this COL_OP (R256). -/
def colWrites (cop : Nat) (g : ColGroup) : Bool :=
  decide (cop = 4) || (decide (cop = 3) && g.root) || (decide (cop = 2) && !g.root)

/-- With SPECULATE, the first page of each local range of a descriptor not yet started is walked ahead (R200). -/
def speculate (h : HostPort) (q : WorkQueue) (d : Bytes) (s : State) : State :=
  if s.flag F.XLT_CTL_SPECULATE h.val then
    let op := dOp d
    let vas := (if op = 15 then (contSegs d).map (·.addr)
        else if op = 9 then (if (tblGet (dGroup d) s.groups).any (colReads (dColOp d)) then [dLaddr d] else [])
        else if [1, 2, 3, 6, 7, 8].contains op && decide (dIlen d = 0) && decide (dLen d ≠ 0) then [dLaddr d] else []) ++
      (if op = 5 ∨ (op = 9 ∧ (tblGet (dGroup d) s.groups).any (colWrites (dColOp d))) then [dResult d] else [])
    vas.foldl (fun t va => startAhead h q.pd va .speculative t) s
  else s

/-- A descriptor enters the store. -/
def storeDesc (h : HostPort) (wq idx : Nat) (d : Bytes) (s : State) : State :=
  match tblGet wq (s.host h).wqs with
  | none => s
  | some q => speculate h q d (modWq h wq (fun q => { q with store := storePut q idx d (q.store.filter (fun e => e.1 != idx)) }) s)

/-- An index doorbell that HIF passes on (R158). -/
def indexBell (h : HostPort) (wq : Nat) (v : Word) (s : State) : State :=
  if !s.hostLive h then s
  else match tblGet wq (s.host h).wqs with
  | none => s.finc F.HIF_ERR_DB_NOQ 1 h.val
  | some q =>
    if q.closing then s.finc F.HIF_ERR_DB_CLOSED 1 h.val
    else
      let s := pmcHost h.val 0x38 1 s
      let pi := fieldOf v 16 0 % (2 * 2 ^ q.logSize)
      if 2 ^ q.logSize < ringCount q.logSize pi q.head then haltHost h 6 wq false false (fieldOf v 16 0) s
      else if pi = q.pi then s
      else modWq h wq (fun q => skipInline (2 ^ q.logSize) { q with pi := pi, bells := q.bells ++ [(pi, s.clock)] }) s

/-- An inline doorbell that HIF passes on (R158, R159). -/
def inlineBell (h : HostPort) (wq : Nat) (d : Bytes) (s : State) : State :=
  if !s.hostLive h then s
  else match tblGet wq (s.host h).wqs with
  | none => s.finc F.HIF_ERR_DB_NOQ 1 h.val
  | some q =>
    if q.closing then s.finc F.HIF_ERR_DB_CLOSED 1 h.val
    else
      let s := pmcHost h.val 0x38 1 s
      let n := 2 ^ q.logSize
      if n ≤ ringCount q.logSize q.pi q.head then haltHost h 6 wq false false q.pi s
      else if b2n (dFlag d 0) ≠ wrapBit q.logSize q.pi then haltHost h 5 wq false false q.pi s
      else
        let pi := (q.pi + 1) % (2 * n)
        let s := storeDesc h wq q.pi (padTo 64 d) s
        checkStore h wq (modWq h wq (fun q => skipInline n { q with pi := pi, bells := q.bells ++ [(pi, s.clock)] }) s)

/-- A doorbell arrives (R158, R294): in DOZE it wakes the NIC, and until the NIC is ready HIF holds it. -/
def bell (h : HostPort) (wq : Nat) (bytes : Bytes) (s : State) : State :=
  if !(s.hifRuns h.val && (s.host h).hif.linkUp && s.coreRuns) then s
  else
    let s := dozeWake 8 s
    if s.pwr.nicWaking then s.modHif h (fun x => { x with heldBells := x.heldBells ++ [(wq, bytes)] })
    else if bytes.length = 64 then inlineBell h wq bytes s
    else indexBell h wq (BitVec.ofNat 64 (leNat bytes)) s

/-- The NIC is ready: HIF passes on what it held (R294). -/
def releaseBells (h : HostPort) (s : State) : State :=
  let held := (s.host h).hif.heldBells
  held.foldl (fun t b => bell h b.1 b.2 t) (s.modHif h (fun x => { x with heldBells := [] }))

/-! ## Descriptor fetch (R170, R174) -/

/-- Fetched descriptors not yet started; a chain whose LAST is not yet fetched does not count (R174). -/
def unstarted (q : WorkQueue) : Nat :=
  (((contiguous q.logSize q.next q.store).foldl (fun (acc : Nat × Nat) e =>
    if dFlag e.2 2 then (acc.1 + acc.2 + 1, 0) else (acc.1, acc.2 + 1)) (0, 0))).1

/-- Tags of a queue's descriptor reads, with what each asks for. -/
def descReqs (s : State) (h : HostPort) (wq : Nat) : List (Nat × Nat × Nat × Bool) :=
  (s.host h).hif.reqs.filterMap (fun r => match r.2.kind with
    | .desc w i c p => if w = wq then some (r.1, i, c, p) else none
    | _ => none)

/-- A queue's descriptor reads that wait for a tag. -/
def descWaiting (s : State) (h : HostPort) (wq : Nat) : Bool :=
  (s.host h).hif.reqWait.any (fun r => match r.kind with
    | .desc w _ _ _ => decide (w = wq)
    | _ => false)

/-- Descriptors from HEAD to PI. -/
def queued (q : WorkQueue) : Nat := ringCount q.logSize q.pi q.head

/-- Descriptors the next fetch reads: up to PREFETCH and PI, and not past one that an inline doorbell delivered. A doorbell may have
moved PI below FETCH (R160): there is nothing to read then. -/
def fetchLen (q : WorkQueue) : Nat :=
  let n := min q.prefetch (queued q - ringCount q.logSize q.fetch q.head)
  ((List.range n).takeWhile (fun k => !q.store.any (fun e => decide (e.1 = (q.fetch + k) % (2 * 2 ^ q.logSize))))).length

/-- The descriptor store of the port: 1,024 descriptors, with those being fetched (R174). -/
def storeUsed (s : State) (h : HostPort) : Nat :=
  ((s.host h).wqs.map (fun q => q.2.store.length)).sum +
    (((s.host h).hif.reqs.map (·.2.kind) ++ (s.host h).hif.reqWait.map (·.kind)).map (fun k => match k with
      | .desc _ _ c _ => c
      | _ => 0)).sum

/-- One read of descriptors. -/
def readDescs (h : HostPort) (wq idx count : Nat) (phase : Bool) (q : WorkQueue) (s : State) : State :=
  hostReq h (.desc wq idx count phase) (q.ring + 64 * (idx % 2 ^ q.logSize)) (64 * count) false s

/-- DESCRIPTOR_FETCH (R174). -/
def fetchDescs (h : HostPort) (wq : Nat) (s : State) : State :=
  match tblGet wq (s.host h).wqs with
  | none => s
  | some q =>
    let n := fetchLen q
    if !s.hostLive h || !(descReqs s h wq).isEmpty || descWaiting s h wq || q.reread.isSome || decide (n = 0) ||
        decide (q.prefetch ≤ unstarted q) || decide (1024 < storeUsed s h + n) then s
    else
      let size := 2 ^ q.logSize
      let first := min n (size - q.fetch % size)
      let s := readDescs h wq q.fetch first false q s
      if first < n then readDescs h wq ((q.fetch + first) % (2 * size)) (n - first) false q s else s

/-- Descriptors arrive in index order (R170): each whose PHASE matches enters the store; the first that does not is read again. -/
def takeDescs (h : HostPort) (wq : Nat) (tried : Nat) : List (Nat × Bytes) → State → State
  | [], s => s
  | (i, d) :: rest, s =>
    match tblGet wq (s.host h).wqs with
    | none => s
    | some q =>
      if b2n (dFlag d 0) = wrapBit q.logSize i then
        takeDescs h wq 0 rest (modWq h wq (fun q => skipInline (2 ^ q.logSize)
          { q with fetch := (i + 1) % (2 * 2 ^ q.logSize), reread := none }) (storeDesc h wq i d s))
      else if 3 ≤ tried then haltHost h 5 wq false false i s
      else modWq h wq (fun q => { q with reread := some (i, tried) }) s

/-- DESCRIPTOR_FETCH_DONE (R157, R170, R174): the reads of a queue's fetch complete, or one of them fails. -/
def descsDone (h : HostPort) (wq : Nat) (data : Option Bytes) (s : State) : State :=
  let rs := descReqs s h wq
  match rs, tblGet wq (s.host h).wqs with
  | [], _ => s
  | _, none => s
  | r :: _, some q =>
    let s := rs.foldl (fun t r => reqEnd h r.1 data.isSome t) s
    let from_ := (rs.map (fun r => r.2.1)).foldl (fun a b =>
      if ringCount q.logSize b q.fetch < ringCount q.logSize a q.fetch then b else a) r.2.1
    if !s.hostLive h then s
    else match data with
    | none => haltHost h 7 wq false false from_ (reqFail h s)
    | some bytes =>
      let n := (rs.map (fun r => r.2.2.1)).sum
      let ds := (List.range n).map (fun k => ((from_ + k) % (2 * 2 ^ q.logSize), padTo 64 (bytes.drop (64 * k))))
      let tried := if r.2.2.2 then q.reread.elim 0 (fun x => x.2 + 1) else 0
      checkStore h wq (takeDescs h wq tried ds s)

/-- PHASE_REREAD (R170): a descriptor whose PHASE did not match is read again. -/
def rereadDesc (h : HostPort) (wq : Nat) (s : State) : State :=
  match tblGet wq (s.host h).wqs with
  | none => s
  | some q =>
    match q.reread with
    | none => s
    | some (i, _) =>
      if !s.hostLive h || !(descReqs s h wq).isEmpty || descWaiting s h wq then s else readDescs h wq i 1 true q s

/-! ## Starting operations (R172) -/

/-- The next operation in the store, complete or not. -/
def storedOp (q : WorkQueue) : Option (Nat × List Bytes) :=
  match contiguous q.logSize q.next q.store with
  | [] => none
  | (i, d) :: rest =>
    if dFlag d 2 then some (i, [d])
    else
      let more := rest.takeWhile (fun e => !dFlag e.2 2)
      match (rest.drop more.length) with
      | [] => none
      | l :: _ => some (i, d :: (more.map (·.2)) ++ [l.2])

/-- The next operation to start: its index and descriptors, if all of it lies below PI (R174). -/
def nextOp (q : WorkQueue) : Option (Nat × List Bytes) :=
  (storedOp q).filter (fun o => decide (ringCount q.logSize o.1 q.head + o.2.length ≤ queued q))

/-- The slot the group's next operation would take is still in progress (R258). -/
def colBusy (s : State) (grp : Nat) : Bool :=
  match tblGet grp s.groups with
  | some g => decide (g.status = .armed) && (tblGet (g.next.toNat % max 1 g.ops) g.slots).any colActive
  | none => false

/-- An operation about to start cannot go on yet (R172): an earlier one to its destination is in the side list, a brake is closed,
its group is busy, or no rendezvous window is free. -/
def startHeld (s : State) (h : HostPort) (q : WorkQueue) (op : OpState) : Bool :=
  let d := opFirst op
  let code := dOp d
  if code = 9 then colBusy s (dGroup d)
  else if !opPaired code then false
  else
    let key := opKey q op
    q.side.any (fun i => (tblGet i q.ops).any (fun o => opPaired (dOp (opFirst o)) && decide (opKey q o = key))) ||
      !leashOpen q.leash ||
      (match getPair s h key with
       | some p => !p.broken && (p.quiet || !pseqOpen p ||
           !windowOpen s h p.cong (opPacket s h q op 0 (chunkOf op 0).1 [] 0))
       | none => false) ||
      (op.rndv && decide (s.fget F.MTE_RNDV_COUNT h.val ≠ 0) && (freeRndv s h).isNone)

/-- A started operation before its work begins. A NOP has nothing to hand over; a SEND takes its form from EAGER_MAX now (R8). -/
def newOp (s : State) (h : HostPort) (descs : List Bytes) : OpState :=
  { descs := descs, begun := false, sent := 0, allSent := decide (dOp (descs.headD []) = 10), rndv := isRndv s h (descs.headD []), got := [], reading := false, unsettled := 0, status := 0, detail := 0,
    moved := 0, value := 0#64, rndvWin := none, lastSeen := false }

/-- OPERATION_START (R172): the queue's next operation starts, or moves to the side list. -/
def startOp (h : HostPort) (wq : Nat) (s : State) : State :=
  match tblGet wq (s.host h).wqs with
  | none => s
  | some q =>
    if !s.hostLive h || !s.nicWorks || decide (16 ≤ q.side.length) || !q.waitEvents.isEmpty then s
    else match nextOp q with
    | none => s
    | some (i, ds) =>
      if dFlag (ds.headD []) 4 && decide (q.head ≠ i) then s
      else
        let op := newOp s h ds
        let held := startHeld s h q op
        let s := modWq h wq (fun q => { q with
          store := q.store.drop ds.length, next := (i + ds.length) % (2 * 2 ^ q.logSize), ops := tblSet i op q.ops,
          side := if held then q.side ++ [i] else q.side }) s
        pmcHost h.val 0x39 1 s

/-- The work of a started operation with one of the given opcodes begins. -/
def beginOf (codes : List Nat) (h : HostPort) (wq idx : Nat) (s : State) : State :=
  match (tblGet wq (s.host h).wqs).bind (fun q => tblGet idx q.ops) with
  | some op => if codes.contains (dOp (opFirst op)) && !op.begun && s.hostLive h && s.nicWorks then beginOp h wq idx s else s
  | none => s

/-- The events that the write of HEAD follows have been written (R156, R173). -/
def headReady (s : State) (h : HostPort) (q : WorkQueue) : Bool :=
  (tblGet q.eq (s.host h).eqs).all (fun e => decide (q.headAfter ≤ e.writtenNo))

/-- HEAD_INDEX_WRITE (R173): the current HEAD goes to HEAD_ADDR. -/
def writeHead (h : HostPort) (wq : Nat) (s : State) : State :=
  match tblGet wq (s.host h).wqs with
  | none => s
  | some q =>
    if q.headDue && headReady s h q && s.hostLive h then
      modWq h wq (fun q => { q with headDue := false }) (hostWrite h q.headAddr (leBytes 8 q.head) plainAttr s)
    else s

/-! ## The admin queue (R161 to R165) -/

/-- Changes the admin queue of a port. -/
def modAdm (h : HostPort) (f : AdmState → AdmState) (s : State) : State := s.modHost h (fun x => { x with adm := f x.adm })

/-- An admin command read is in progress. -/
def admReading (s : State) (h : HostPort) : Bool :=
  reqOut s h (fun k => match k with | .admin .. => true | _ => false)

/-- Reads the next admin command, if one may start (R165). -/
def admNext (h : HostPort) (s : State) : State :=
  let a := (s.host h).adm
  if s.hostLive h && s.flag F.WQ_ADM_CFG_ENABLE h.val && a.cur.isNone && !admReading s h && decide (a.late.length < 16) &&
      decide (a.next ≠ s.fget F.WQ_ADM_PI_PI h.val) then
    hostReq h (.admin a.next 0) (a.base + 64 * (a.next % 2 ^ a.logSize)) 64 false s
  else s

/-- The admin HEAD moves over completed commands (R165). -/
def admHead : Nat → AdmState → AdmState
  | 0, a => a
  | n + 1, a =>
    if a.done.contains a.head then
      admHead n { a with head := (a.head + 1) % (2 * 2 ^ a.logSize), done := a.done.filter (· != a.head) }
    else a

/-- An admin command completes (R162): RESULT and CODE are written, HEAD advances, the vector goes out, the next command starts. -/
def admDone (h : HostPort) (idx code result : Nat) (s : State) : State :=
  if !s.hostLive h then s
  else
    let a := (s.host h).adm
    let s := hostWrite h (a.base + 64 * (idx % 2 ^ a.logSize) + 56) (leBytes 4 result ++ leBytes 2 code ++ leBytes 2 0) plainAttr s
    let s := modAdm h (fun a => admHead (a.done.length + 1) { a with
      cur := if a.cur.any (fun c => c.1 == idx) then none else a.cur, done := a.done ++ [idx],
      late := a.late.filter (fun l => l.1 != idx) }) s
    let s := if s.flag F.WQ_ADM_CFG_VEC_EN h.val then msixSend h (s.fget F.WQ_ADM_CFG_VECTOR h.val) s else s
    admNext h s

/-- A command that completes late releases the admin queue (R165). -/
def admLate (h : HostPort) (idx : Nat) (k : LateKind) (s : State) : State :=
  admNext h (modAdm h (fun a => { a with cur := none, late := a.late ++ [(idx, k)] }) s)

/-- The late command that waits for something of a kind. -/
def lateOf (s : State) (h : HostPort) (f : LateKind → Bool) : Option Nat :=
  ((s.host h).adm.late.find? (fun l => f l.2)).map (·.1)

/-- ADMIN_ENABLE (R161): ENABLE's rise reads BASE and LOG_SIZE and starts with both indices 0. -/
def admEnable (h : HostPort) (s : State) : State :=
  let log := s.fget F.WQ_ADM_CFG_LOG_SIZE h.val
  (modAdm h (fun a => { a with
    base := 4096 * s.fget F.WQ_ADM_BASE_BASE h.val, logSize := if 6 ≤ log ∧ log ≤ 16 then log else 6, next := 0, head := 0,
    done := [], cur := none, late := [] }) s).fset F.WQ_ADM_PI_PI 0 h.val

/-- ADMIN_DOORBELL (R161): a write of WQ_ADM_PI. -/
def admBell (h : HostPort) (v : Word) (s : State) : State :=
  if !s.flag F.WQ_ADM_CFG_ENABLE h.val || !s.hostLive h then s
  else
    let s := dozeWake 8 s
    let a := (s.host h).adm
    let pi := fieldOf v 16 0 % (2 * 2 ^ a.logSize)
    if 2 ^ a.logSize < ringCount a.logSize pi a.head then haltHost h 6 0 true false (fieldOf v 16 0) s
    else admNext h (s.fset F.WQ_ADM_PI_PI pi h.val)

/-- The outstanding admin command read: tag, index and re-reads so far. -/
def admReq (s : State) (h : HostPort) : Option (Nat × Nat × Nat) :=
  (s.host h).hif.reqs.findSome? (fun r => match r.2.kind with
    | .admin i n => some (r.1, i, n)
    | _ => none)

/-- ADMIN_COMMAND_READ_DONE (R157, R162, R165, R170). -/
def admRead (h : HostPort) (data : Option Bytes) (s : State) : State :=
  match admReq s h with
  | none => s
  | some (tag, i, n) =>
    let s := reqEnd h tag data.isSome s
    if !s.hostLive h then s
    else match data with
    | none => haltHost h 7 0 true false i (reqFail h s)
    | some d =>
      let c := padTo 64 d
      let a := (s.host h).adm
      if b2n (dFlag c 0) ≠ wrapBit a.logSize i then
        if 3 ≤ n then haltHost h 5 0 true false i s
        else hostReq h (.admin i (n + 1)) (a.base + 64 * (i % 2 ^ a.logSize)) 64 false s
      else
        let s := modAdm h (fun a => { a with cur := some (i, c), next := (i + 1) % (2 * 2 ^ a.logSize) }) s
        if dOp c = 0 ∨ 15 < dOp c then admDone h i 1 0 s
        else if !adminHeadOk c then admDone h i 2 0 s
        else s

/-- The admin command in progress, if it has the given opcode. -/
def admCur (s : State) (h : HostPort) (op : Nat) : Option (Nat × Bytes) :=
  if s.hostLive h then (s.host h).adm.cur.filter (fun c => decide (dOp c.2 = op)) else none

end Sys2Proof.Machine
end

