-- ==== Sys2Proof/Machine/MteOps.lean ====
section
/-! DEFINITION. Message matching (R229 to R248): the lists, the reorder stores, delivery, automatic gets. -/

namespace Sys2Proof.Machine

/-! ## Storage and limits (R229 to R233, R246) -/

/-- Entries a message takes: a MSG_SHORT with data takes a continuation entry too (R232). -/
def msgEntries (m : Msg) : Nat := 1 + b2n (decide (m.kind = .short) && decide (0 < m.length))

/-- Posted entries of a port (R249): posted receives, rendezvous fetches in progress and waiting events. -/
def postedUsed (s : State) (h : HostPort) : Nat :=
  ((s.host h).eps.map (fun e => e.2.posted.length)).sum +
    ((s.host h).mte.deliveries.filter (fun d => d.2.isGet || d.2.waitEvent.isSome)).length

/-- Every stored message of a port: unexpected lists and reorder stores. -/
def storedMsgs (s : State) (h : HostPort) : List Msg :=
  (s.host h).eps.flatMap (fun e => e.2.unexp) ++ (s.host h).pairs.flatMap (fun p => p.2.held.map (·.2))

/-- On-chip unexpected entries of a port, reorder stores included. -/
def unexpUsed (s : State) (h : HostPort) : Nat :=
  (((storedMsgs s h).filter (fun m => !m.kennel)).map msgEntries).sum

/-- Kennel overflow entries of a port. -/
def kennelUsed (s : State) (h : HostPort) : Nat :=
  (((storedMsgs s h).filter (fun m => m.kennel)).map msgEntries).sum

/-- Entries in reorder stores of a port. -/
def heldUsed (s : State) (h : HostPort) : Nat :=
  ((s.host h).pairs.map (fun p => (p.2.held.map (fun m => msgEntries m.2)).sum)).sum

/-- A sum over both ports. -/
def bothPorts (f : HostPort → Nat) : Nat := f 0 + f 1

/-- A port may take one more posted entry (R229, R246). -/
def postedRoom (s : State) (h : HostPort) : Bool :=
  decide (postedUsed s h < s.fget F.MTE_LIMIT_POST h.val) && decide (bothPorts (postedUsed s) < s.fget F.MTE_PART_POSTED)

/-- Receives that hold a posted entry or a record slot of a port. -/
def keptRecvs (s : State) (h : HostPort) : List Recv :=
  (s.host h).eps.flatMap (fun e => e.2.posted) ++ (s.host h).mte.deliveries.map (fun d => d.2.recv)

/-- Record slots in use. -/
def recSlots (s : State) (h : HostPort) : List Nat := (keptRecvs s h).filterMap (·.slot)

/-- On-chip posted entries in use: both ports draw from one pool (R229). -/
def postedNums (s : State) : List Nat := allHosts.flatMap (fun h => (keptRecvs s h).filterMap (·.entry))

/-- The lowest free of `n` slots. -/
def freeSlot (n : Nat) (used : List Nat) : Option Nat := (List.range (min n (used.length + 1))).find? (fun k => !used.contains k)

/-- The lowest `n` numbers not in use (DESIGN CHOICE, log entry 83). -/
def freeNums (n : Nat) (used : List Nat) : List Nat := ((List.range (used.length + n)).filter (fun k => !used.contains k)).take n

/-- Slots an area with a LOG field offers. -/
def areaSlots (log : Nat) : Nat := if log = 0 then 0 else 2 ^ log

/-- A posted entry and a record slot for a RECV (R236). -/
def takePosted (s : State) (h : HostPort) : Option (Nat × Nat) :=
  if postedRoom s h then
    (freeSlot (areaSlots (logIn 10 19 (s.fget F.MTE_RREC_LOG h.val))) (recSlots s h)).map (fun k =>
      ((freeNums 1 (postedNums s)).headD 0, k))
  else none

/-- Address of a record slot (R231). -/
def recAddr (s : State) (h : HostPort) (slot : Nat) : Nat := 4096 * s.fget F.MTE_RREC_BASE h.val + 768 * slot

/-- Address of a data slot (R232). -/
def uxdAddr (s : State) (h : HostPort) (slot : Nat) : Nat := 4096 * s.fget F.MTE_UXD_BASE h.val + 4096 * slot

/-- Address of an entry of the Kennel overflow (R232, R233). -/
def kennelAddr (s : State) (h : HostPort) (entry : Nat) : Nat := 4096 * s.fget F.MTE_KENNEL_UX_BASE h.val + 32 * entry

/-- Entry numbers a message holds. -/
def msgNums (m : Msg) : List Nat := m.entry :: m.cont.toList

/-- On-chip unexpected entries in use: both ports draw from one pool (R229). -/
def unexpNums (s : State) : List Nat :=
  allHosts.flatMap (fun h => ((storedMsgs s h).filter (fun m => !m.kennel)).flatMap msgNums)

/-- Kennel overflow entries of a port in use. -/
def kennelNums (s : State) (h : HostPort) : List Nat := ((storedMsgs s h).filter (fun m => m.kennel)).flatMap msgNums

/-- The Kennel overflow has room for the entries of a message. -/
def kennelRoom (s : State) (h : HostPort) (m : Msg) : Bool :=
  decide (kennelUsed s h + msgEntries m ≤ areaSlots (logIn 10 22 (s.fget F.MTE_KENNEL_UX_LOG h.val)))

/-- The message in entries of the Kennel overflow, or of the on-chip part. -/
def entered (s : State) (h : HostPort) (kennel : Bool) (m : Msg) : Msg :=
  let ns := freeNums (msgEntries m) (if kennel then kennelNums s h else unexpNums s)
  { m with kennel := kennel, entry := ns.headD 0, cont := (ns.drop 1).head? }

/-- Where a message goes (R233): on chip, or to the Kennel overflow when either limit is reached or `follow` (an earlier entry of
its list is there); a MSG_EAGER also takes a data slot. `none`: no storage (R237). -/
def placeMsg (s : State) (h : HostPort) (follow : Bool) (m : Msg) : Option Msg :=
  let n := msgEntries m
  let onChip := !follow && decide (unexpUsed s h + n ≤ s.fget F.MTE_LIMIT_UNEXP h.val) &&
    decide (bothPorts (unexpUsed s) + n ≤ s.fget F.MTE_PART_UNEXP)
  if !onChip && !kennelRoom s h m then none
  else if m.kind = .eager then
    (freeSlot (areaSlots (logIn 6 18 (s.fget F.MTE_UXD_LOG h.val))) (s.host h).mte.slots).map (fun k =>
      { entered s h (!onChip) m with slot := some k })
  else some (entered s h (!onChip) m)

/-! ## The entries' bytes (R230, R232) -/

/-- A posted receive's entry: STATE code, and the entry after it in its list. -/
def recvEntry (r : Recv) (h : HostPort) (state next : Nat) : Bytes :=
  leBytes 8 r.mtch.toNat ++ leBytes 8 r.ignore.toNat ++ leBytes 2 r.comm ++ leBytes 3 r.srcEp ++
    leBytes 3 (r.srcChip + 2 ^ 18 * b2n r.anySrc + 2 ^ 19 * state) ++ leBytes 3 next ++ leBytes 3 (r.slot.getD 0) ++
    leBytes 1 h.val ++ leBytes 1 0

/-- Number and bytes of every entry of a posted list, in its order; the last entry's NEXT is 0 (DESIGN CHOICE, log entry 83). -/
def postedBytes (h : HostPort) : List Recv → List (Nat × Bytes)
  | [] => []
  | r :: rest => (r.entry.getD 0, recvEntry r h 1 ((rest.head?.bind (·.entry)).getD 0)) :: postedBytes h rest

/-- STATE of a delivery's posted entry: a rendezvous fetch in progress, or an event waiting. -/
def deliveryState (d : Delivery) : Nat := if d.waitEvent.isSome then 3 else if d.isGet then 2 else 0

/-- Number and bytes of every posted entry a port holds on chip (R230). -/
def postedEntries (s : State) (h : HostPort) : List (Nat × Bytes) :=
  (s.host h).eps.flatMap (fun e => postedBytes h e.2.posted) ++
    (s.host h).mte.deliveries.filterMap (fun d => d.2.recv.entry.map (fun k => (k, recvEntry d.2.recv h (deliveryState d.2) 0)))

/-- KIND of a message. -/
def msgKindCode : MsgKind → Nat
  | .short => 0
  | .eager => 1
  | .rndv => 2

/-- REF of an entry. -/
def msgRef (m : Msg) : Nat :=
  match m.kind with
  | .short => m.cont.getD 0
  | .eager => m.slot.getD 0
  | .rndv => m.wkey

/-- An unexpected entry, linked to the entry after it in its list. -/
def msgEntry (m : Msg) (held : Bool) (next : Option Msg) : Bytes :=
  leBytes 8 m.mtch.toNat ++ leBytes 2 m.comm ++ leBytes 3 m.srcEp ++
    leBytes 3 (m.srcChip + 2 ^ 18 * msgKindCode m.kind + 2 ^ 20 * b2n held) ++ leBytes 4 m.length ++ leBytes 3 m.pseq ++ leBytes 1 0 ++
    leBytes 3 (next.elim 0 (fun x => x.entry + 2 ^ 22 * b2n x.kennel)) ++ leBytes 1 0 ++ leBytes 4 (msgRef m)

/-- A continuation entry. -/
def contEntry (m : Msg) : Bytes := padTo 16 m.data ++ leBytes 16 0

/-- Address and bytes of every Kennel entry of a list, in its order. -/
def kennelBytes (s : State) (h : HostPort) (held : Bool) : List Msg → List (Nat × Bytes)
  | [] => []
  | m :: rest => (if m.kennel then [(kennelAddr s h m.entry, msgEntry m held rest.head?)] else []) ++ kennelBytes s h held rest

/-- A list has changed: every Kennel entry of it that reads otherwise than before is written (R232, R233). -/
def syncKennel (h : HostPort) (held : Bool) (old new : List Msg) (s : State) : State :=
  let was := kennelBytes s h held old
  ((kennelBytes s h held new).filter (fun e => !was.contains e)).foldl (fun t e => hostWrite h e.1 e.2 plainAttr t) s

/-- The continuation entry of a message that is in Kennel is written. -/
def writeCont (h : HostPort) (m : Msg) (s : State) : State :=
  match m.cont with
  | some k => if m.kennel then hostWrite h (kennelAddr s h k) (contEntry m) plainAttr s else s
  | none => s

/-- A placed message's data is written to where it goes: the payload of a MSG_EAGER to its data slot, a continuation entry to the
overflow. -/
def writeMsg (h : HostPort) (m : Msg) (s : State) : State :=
  let s := match m.slot with
    | some k => modMte h (fun x => { x with slots := x.slots ++ [k] }) (hostWrites h (uxdAddr s h k) m.data plainAttr s)
    | none => s
  writeCont h m s

/-- The message as its entry keeps it: a data slot holds the payload of a MSG_EAGER. -/
def keptMsg (m : Msg) : Msg := if m.slot.isSome then { m with data := [] } else m

/-- A data slot is freed (R241). -/
def freeData (h : HostPort) (k : Nat) (s : State) : State := modMte h (fun x => { x with slots := x.slots.erase k }) s

/-! ## Matching (R234, R235) -/

/-- A message matches a posted receive (R234). -/
def msgMatches (m : Msg) (r : Recv) : Bool :=
  decide (m.comm = r.comm) && (r.anySrc || (decide (m.srcChip = r.srcChip) && decide (m.srcEp = r.srcEp))) &&
    decide ((m.mtch ^^^ r.mtch) &&& ~~~r.ignore = 0#64)

/-- A slot of the MTE goes to an operation that stands, or to one that is refused (R356; DESIGN CHOICE, log entry 82). -/
def mteSlot (ok : Bool) (s : State) : State := pmcAdd 69 (if ok then 1 else 2) 1 s

/-- A search examines entries up to and including the one it takes (R357). -/
def countSearch (examined : Nat) (s : State) : State := pmcAdd 69 0x29 examined (pmcAdd 69 0x28 1 s)

/-- The first receive of a posted list that matches, and the list without it. -/
def takeRecv (m : Msg) : List Recv → Option (Recv × List Recv)
  | [] => none
  | r :: rest => if msgMatches m r then some (r, rest) else (takeRecv m rest).map (fun x => (x.1, r :: x.2))

/-- The first message of a list that a receive matches, and the list without it. -/
def takeMsg (r : Recv) : List Msg → Option (Msg × List Msg)
  | [] => none
  | m :: rest => if msgMatches m r then some (m, rest) else (takeMsg r rest).map (fun x => (x.1, m :: x.2))

/-! ## RECV_MATCH (R182, R183, R245) -/

/-- RECV_MATCH bytes 4 to 55. -/
def matchBody (r : Recv) (trunc : Bool) (comm len chip ep : Nat) (mtch : Word) : Bytes :=
  leBytes 4 r.userTag ++ leBytes 2 r.wq ++ leBytes 3 r.index ++ leBytes 1 (b2n trunc) ++ leBytes 2 comm ++ leBytes 4 len ++
    leBytes 4 chip ++ leBytes 4 ep ++ leBytes 4 0 ++ leBytes 8 mtch.toNat

/-- The message is longer than the receive's buffer (R241, R243). -/
def truncated (d : Delivery) : Bool := decide (d.recv.length < d.msg.length)

/-- Changes a delivery. -/
def modDelivery (h : HostPort) (id : Nat) (f : Delivery → Delivery) (s : State) : State :=
  modMte h (fun x => { x with deliveries := tblMod id f x.deliveries }) s

/-- Bytes 14 and 15 of a RECV_MATCH: DETAIL where there is one, else COMM (R182, R198, R236, R241, R243; DESIGN CHOICE, log entry
84). -/
def matchDetail (e : Bytes) (comm detail : Nat) : Bytes := patchBytes e 14 (leBytes 2 (if detail = 0 then comm else detail))

/-- A delivery ends: its RECV_MATCH is decided, or waits in a posted entry while the stash is full (R241, R243, R245). -/
def endDelivery (h : HostPort) (id : Nat) (s : State) : State :=
  match tblGet id (s.host h).mte.deliveries with
  | none => s
  | some d =>
    let status := if d.status = 0 && truncated d then 6 else d.status
    let s := if truncated d then s.finc F.MTE_ERR_TRUNC 1 h.val else s
    let e := mkEvent s 2 status (matchBody d.recv (truncated d) d.msg.comm d.moved d.msg.srcChip d.msg.srcEp d.msg.mtch)
    let e := matchDetail e d.msg.comm d.detail
    if eqTakes s h d.recv.eq then
      modMte h (fun x => { x with deliveries := tblDel id x.deliveries }) (eqDecide h d.recv.eq e s)
    else
      let k := d.recv.entry.getD ((freeNums 1 (postedNums s)).headD 0)
      modDelivery h id (fun d => { d with waitEvent := some e, recv := { d.recv with entry := some k } }) (eqOverflow h d.recv.eq s)

/-- Waiting RECV_MATCH entries enter their queues once those take them (R186, R245). -/
def drainMatches (h : HostPort) (s : State) : State :=
  (s.host h).mte.deliveries.foldl (fun t d => match d.2.waitEvent with
    | some e => if eqTakes t h d.2.recv.eq then
        modMte h (fun x => { x with deliveries := tblDel d.1 x.deliveries }) (eqDecide h d.2.recv.eq e t)
      else t
    | none => t) s

/-- A RECV_MATCH of a receive that ends without a message (R236, R248): LENGTH, MATCH and the source fields are 0. -/
def emptyMatch (s : State) (r : Recv) (status detail : Nat) : Bytes :=
  matchDetail (mkEvent s 2 status (matchBody r false r.comm 0 0 0 0#64)) r.comm detail

/-! ## Delivery (R231, R241) -/

/-- Data writes carry relaxed ordering with RO_EN (R156, R179). -/
def dataAttr (s : State) (h : HostPort) (noSnoop : Bool) : TlpAttr :=
  { relaxed := s.flag F.HIF_CTL_RO_EN h.val, noSnoop := noSnoop, st := none }

/-- Bytes of the receive's buffer in the segments that have been read (R231). -/
def segReach (d : Delivery) : Nat := ((d.recv.segs.take d.segsIn).map (·.len)).sum

/-- Data that ends at `stop` reaches segments of the record that have not been read. -/
def segsShort (d : Delivery) (stop : Nat) : Bool := decide (d.segsIn < d.recv.segs.length) && decide (segReach d < stop)

/-- The rest of a receive record is read (R231; DESIGN CHOICE, log entry 83). -/
def readSegs (h : HostPort) (id : Nat) (d : Delivery) (s : State) : State :=
  if d.segsDue then s
  else hostReq h (.record id) (recAddr s h (d.recv.slot.getD 0) + 64) 704 false
    (modDelivery h id (fun d => { d with segsDue := true }) s)

/-- Writes delivered data piece by piece, each once its segment has been read and its page is translated. -/
def deliverOn (h : HostPort) (id : Nat) (known : Option (Walk × WalkEnd)) : Nat → State → State
  | 0, s => s
  | n + 1, s =>
    match tblGet id (s.host h).mte.deliveries with
    | none => s
    | some d =>
      let len := min d.msg.length d.recv.length
      if d.isGet || !d.record || !d.ready || d.waitEvent.isSome || !s.hostLive h then s
      else if len ≤ d.moved || d.status ≠ 0 then endDelivery h id s
      else match segAccesses (maxWrite s h) d.recv.pd (d.recv.segs.take d.segsIn) d.moved (len - d.moved) false true with
      | [] => if segsShort d len then readSegs h id d s else endDelivery h id s
      | a :: _ =>
        match translate h a (some (.delivery id)) known s with
        | (.hit bus ns _, s) =>
          let s := hostWrite h bus ((d.msg.data.drop d.moved).take a.len) (dataAttr s h ns) s
          deliverOn h id known n (modDelivery h id (fun d => { d with moved := d.moved + a.len }) s)
        | (.fault c l, s) =>
          endDelivery h id (modDelivery h id (fun d => { d with status := 3, detail := c }) (xltFault h a.pd a.va false 2 c l s))
        | (_, s) => s

/-- Writes one delivery may make: at most 4,096 bytes of data, in segments of one byte each at the least. -/
def deliverFuel : Nat := 4200

/-- A delivery goes on. -/
def deliver (h : HostPort) (id : Nat) (s : State) : State := deliverOn h id none deliverFuel s

/-- A receive has taken a message: its record is read unless the RECV itself is at hand, a data slot is read, and a rendezvous
waits for its automatic get in its posted entry (R231, R241, R243). -/
def startDelivery (h : HostPort) (ep : Nat) (r : Recv) (m : Msg) (record : Bool) (s : State) : State :=
  let id := (s.host h).mte.nextId
  let r := if m.kind = .rndv then r else { r with entry := none }
  let d : Delivery := { ep := ep, recv := r, msg := m, record := record, ready := m.slot.isNone,
                        segsIn := if record then r.segs.length else max 1 Config.recordSegs, segsDue := false, waitEvent := none,
                        isGet := decide (m.kind = .rndv), started := false, off := 0, open_ := 0, depth := 0, lastSent := false,
                        moved := 0, status := 0, detail := 0 }
  let s := modMte h (fun x => { x with deliveries := tblSet id d x.deliveries, nextId := id + 1 }) s
  let s := if record then s else hostReq h (.record id) (recAddr s h (r.slot.getD 0)) 64 false s
  let s := match m.slot with
    | some k => hostReq h (.dataSlot id) (uxdAddr s h k) m.length false s
    | none => s
  deliver h id s

/-- MATCH_RECORD_READ_DONE (R231, R241): the first 64 bytes of a record, or its further segments. A read that fails ends the delivery,
once a read of its data slot has ended as well; the segments of an automatic get that could not be read take no data. -/
def recordDone (h : HostPort) (id : Nat) (ok : Bool) (s : State) : State :=
  if ok then
    deliver h id (modDelivery h id (fun d =>
      { d with record := true, segsIn := if d.segsDue then d.recv.segs.length else d.segsIn, segsDue := false }) s)
  else
    let s := s.finc F.MTE_ERR_HOST_ERR 1 h.val
    deliver h id (modDelivery h id (fun d =>
      { d with record := true, status := if d.status = 0 then 5 else d.status, isGet := d.isGet && d.segsDue,
               recv := { d.recv with segs := d.recv.segs.take d.segsIn }, segsDue := false }) s)

/-- DATA_SLOT_READ_DONE (R241): the slot is freed once its data has been read. -/
def dataSlotDone (h : HostPort) (id : Nat) (data : Option Bytes) (s : State) : State :=
  match tblGet id (s.host h).mte.deliveries with
  | none => s
  | some d =>
    let s := d.msg.slot.elim s (fun k => freeData h k s)
    match data with
    | some b => deliver h id (modDelivery h id (fun d => { d with ready := true, msg := { d.msg with data := padTo d.msg.length b } }) s)
    | none =>
      let s := s.finc F.MTE_ERR_HOST_ERR 1 h.val
      deliver h id (modDelivery h id (fun d =>
        { d with ready := true, record := true, status := if d.status = 0 then 5 else d.status }) s)

/-! ## Messages (R237, R238) -/

/-- The message an arriving packet carries. -/
def msgOf (pkt : Packet) : Msg :=
  let base : Msg := { kind := .short, mtch := 0#64, comm := 0, srcEp := pktSrcEp pkt, srcChip := pktSrcChip pkt, length := 0,
                      pseq := pktPseq pkt, data := [], slot := none, wkey := 0, kennel := false, entry := 0, cont := none }
  match pktOpcode pkt with
  | 6 =>
    let n := pktAt pkt 19 1 % 32
    { base with mtch := BitVec.ofNat 64 (pktAt pkt 48 8), comm := pktAt pkt 20 2, length := n, data := pktSlice pkt 32 n }
  | 7 =>
    { base with kind := .rndv, mtch := BitVec.ofNat 64 (pktAt pkt 48 8), comm := pktAt pkt 20 2, length := pktAt pkt 32 4,
                wkey := pktAt pkt 28 4 }
  | _ =>
    { base with kind := .eager, mtch := BitVec.ofNat 64 (pktAt pkt 24 8), comm := pktAt pkt 22 2, length := pktPlen pkt,
                data := pktSlice pkt 32 (pktPlen pkt) }

/-- A message joins the tail of its endpoint's unexpected list, and the Kennel entries of the list follow (R233). -/
def appendUnexp (h : HostPort) (ep : Nat) (c : EpCtx) (m : Msg) (s : State) : State :=
  syncKennel h false c.unexp (c.unexp ++ [m]) (modEp h ep (fun c => { c with unexp := c.unexp ++ [m] }) s)

/-- A held message that no receive takes keeps its entry, or moves to Kennel behind an entry of the list that is there (R233); with
the overflow full it stays on chip (DESIGN CHOICE, log entry 83). -/
def releasedMsg (s : State) (h : HostPort) (c : EpCtx) (m : Msg) : Msg :=
  if c.unexp.any (·.kennel) && !m.kennel && kennelRoom s h m then entered s h true m else m

/-- A message already consumed leaves its reorder store and is released to matching (R238). -/
def releaseMsg (h : HostPort) (ep : Nat) (m : Msg) (s : State) : State :=
  match tblGet ep (s.host h).eps with
  | none => s
  | some c =>
    match takeRecv m c.posted with
    | some (r, rest) =>
      startDelivery h ep r m false (modEp h ep (fun c => { c with posted := rest })
        (mteSlot true (countSearch (c.posted.length - rest.length) s)))
    | none =>
      let k := releasedMsg s h c m
      let s := if k.kennel && !m.kennel then writeCont h k s else s
      appendUnexp h ep c k (mteSlot true (countSearch c.posted.length s))

/-- Held messages below EXP, which wait for their release (R238). -/
def readyHeld (p : PairRec) : Tbl Msg :=
  p.held.filter (fun m => decide (pseqDist p.exp.toNat m.1 ≠ 0 ∧ pseqDist p.exp.toNat m.1 ≤ 8192))

/-- A message leaves its pair's reorder store. -/
def unhold (h : HostPort) (key : Nat) (p : PairRec) (pseq : Nat) (s : State) : State :=
  syncKennel h true (p.held.map (·.2)) ((tblDel pseq p.held).map (·.2))
    (modPair h key (fun p => { p with held := tblDel pseq p.held }) s)

/-- Held messages below EXP are released one at a time in PSEQ order (R238); a search of the endpoint holds them back. -/
def releaseReady (h : HostPort) (key : Nat) : Nat → State → State
  | 0, s => s
  | n + 1, s =>
    match getPair s h key, tblGet (keyEp key) (s.host h).eps with
    | some p, some c =>
      if c.search.isSome || !s.hostLive h then s
      else
        match readyHeld p with
        | [] => s
        | x :: rest =>
          let first := rest.foldl (fun a b => if pseqDist p.exp.toNat a.1 < pseqDist p.exp.toNat b.1 then b else a) x
          releaseReady h key n (releaseMsg h (keyEp key) first.2 (unhold h key p first.1 s))
    | _, _ => s

/-- What the check order gives for an arriving packet (R219): it commits; it is refused with a reason and detail; it waits in the
miss park; it cannot be taken yet and stays in the ejection buffer; it is dropped; `early`: refused before its pair record was on
chip (R399). -/
inductive Verdict
  | commit
  | refuse (reason detail : Nat)
  | early (reason : Nat)
  | park (w : ParkWait)
  | later
  | drop
deriving DecidableEq, Repr

/-- A message cannot be stored (R237). -/
def msgRefused (h : HostPort) (s : State) : State × Verdict :=
  (mteSlot false (s.finc F.MTE_ERR_UX_FULL 1 h.val), .refuse 0x0F 0)

/-- A message that is New (R237, R238): steps 4 to 7 of R219 for it. -/
def msgNew (h : HostPort) (key : Nat) (p : PairRec) (pkt : Packet) (s : State) : State × Verdict :=
  let ep := keyEp key
  let m := msgOf pkt
  match tblGet ep (s.host h).eps with
  | none => (s, .drop)
  | some c =>
    if c.search.isSome then (s, .later)
    else if m.pseq = p.exp.toNat then
      match takeRecv m c.posted with
      | some (r, rest) =>
        if eqTakes s h r.eq then
          (startDelivery h ep r m false (modEp h ep (fun c => { c with posted := rest })
            (mteSlot true (countSearch (c.posted.length - rest.length) s))), .commit)
        else (mteSlot false (eqOverflow h r.eq s), .refuse 0x0F r.eq)
      | none =>
        match placeMsg s h (c.unexp.any (·.kennel)) m with
        | some k => (appendUnexp h ep c (keptMsg k) (writeMsg h k (mteSlot true (countSearch c.posted.length s))), .commit)
        | none => msgRefused h s
    else match placeMsg s h (p.held.any (fun x => x.2.kennel)) m with
      | some k =>
        (syncKennel h true (p.held.map (·.2)) ((tblSet m.pseq (keptMsg k) p.held).map (·.2))
          (pmcAdd 69 0x2B 1 (mteSlot true (writeMsg h k (modPair h key (fun p => { p with held := tblSet m.pseq (keptMsg k) p.held }) s)))),
         .commit)
      | none => msgRefused h s

/-! ## RECV (R236) -/

/-- The receive of a RECV descriptor, before it takes an entry or a record slot. -/
def recvOf (q : WorkQueue) (wq idx : Nat) (op : OpState) : Recv :=
  let d := opFirst op
  { id := idx, mtch := BitVec.ofNat 64 (dMatch d), ignore := BitVec.ofNat 64 (dVpAddr d), comm := dComm d, srcEp := dEp d,
    srcChip := dChip d, anySrc := dAnySrc d, segs := opSegs op.descs, length := dLen d, userTag := dTag d, wq := wq, index := idx,
    eq := q.eq, pd := q.pd, tc := q.tc, entry := none, slot := none }

/-- A RECV has ended its search and completes (R236). -/
def recvDone (h : HostPort) (wq idx : Nat) (s : State) : State := checkOp h wq idx (modOp h wq idx (fun o => { o with allSent := true }) s)

/-- A RECV that ends without being posted: its RECV_MATCH, which waits like a completion while the stash is full. -/
def recvFail (h : HostPort) (r : Recv) (status detail : Nat) (s : State) : State :=
  let e := emptyMatch s r status detail
  if eqTakes s h r.eq then recvDone h r.wq r.index (eqDecide h r.eq e s)
  else
    let s := eqOverflow h r.eq s
    modWq h r.wq (fun q => { q with ops := tblDel r.index q.ops,
                                    waitEvents := q.waitEvents ++ [(r.index, (tblGet r.index q.ops).elim 1 (·.descs.length), e)] }) s

/-- A RECV finds no entry or record slot (R236). -/
def recvRefuse (h : HostPort) (r : Recv) (s : State) : State := recvFail h r 1 0x0F (mteSlot false (s.finc F.MTE_ERR_POST_FULL 1 h.val))

/-- The endpoint's list after a RECV has taken a message from it. -/
def setUnexp (h : HostPort) (ep : Nat) (rest : List Msg) (s : State) : State :=
  syncKennel h false ((tblGet ep (s.host h).eps).elim [] (·.unexp)) rest
    (modEp h ep (fun c => { c with unexp := rest, search := none }) s)

/-- A receive's record is written to its slot (R231). -/
def writeRecord768 (h : HostPort) (slot : Nat) (s : State) : State := areaWrite h (recAddr s h slot) 768 s

/-- A RECV takes message `m`, leaving `rest` on the list (R236, R243). -/
def recvTake (h : HostPort) (ep : Nat) (r : Recv) (m : Msg) (rest : List Msg) (s : State) : State :=
  if m.kind = .rndv then
    match takePosted s h with
    | none => recvRefuse h r s
    | some (e, k) =>
      let r := { r with entry := some e, slot := some k }
      recvDone h r.wq r.index (startDelivery h ep r m true (writeRecord768 h k (setUnexp h ep rest (mteSlot true s))))
  else recvDone h r.wq r.index (startDelivery h ep r m true (setUnexp h ep rest (mteSlot true s)))

/-- A RECV that no message matches is appended to the posted list (R236). -/
def recvAppend (h : HostPort) (ep : Nat) (r : Recv) (s : State) : State :=
  match takePosted s h with
  | none => recvRefuse h r s
  | some (e, k) =>
    let r := { r with entry := some e, slot := some k }
    recvDone h r.wq r.index (writeRecord768 h k (modEp h ep (fun c => { c with posted := c.posted ++ [r] }) (mteSlot true s)))

/-- The 2 KiB block of the overflow that holds an entry (R235). -/
def kennelBlockOf (m : Msg) : Nat := m.entry / 64

/-- The block of the Kennel part that holds entry `m` of a list is read (R235). -/
def readBlock (h : HostPort) (ep : Nat) (m : Msg) (s : State) : State :=
  pmcAdd 69 0x2A 1 (hostReq h (.kennelBlock ep) (kennelAddr s h (64 * kennelBlockOf m)) 2048 false s)

/-- A RECV searches its endpoint's unexpected list, the part before the first Kennel entry first (R235, R236). -/
def recvSearch (h : HostPort) (ep : Nat) (r : Recv) (s : State) : State :=
  match tblGet ep (s.host h).eps with
  | none => s
  | some c =>
    let chip := c.unexp.takeWhile (fun m => !m.kennel)
    let kennel := c.unexp.drop chip.length
    match takeMsg r chip with
    | some (m, rest) => recvTake h ep r m (rest ++ kennel) (countSearch (chip.length - rest.length) s)
    | none =>
      let s := countSearch chip.length s
      match kennel with
      | [] => recvAppend h ep r s
      | m :: _ => readBlock h ep m (modEp h ep (fun c => { c with search := some (r, chip.length) }) s)

/-- A RECV goes on once its context is on chip and no other search of the endpoint runs (R235, R236). -/
def recvStep (h : HostPort) (wq idx : Nat) (s : State) : State :=
  match tblGet wq (s.host h).wqs with
  | none => s
  | some q =>
    match tblGet idx q.ops with
    | none => s
    | some op =>
      if dOp (opFirst op) ≠ 7 || op.allSent || !op.begun || !s.hostLive h then s
      else match liveEp s h q.ep with
      | none => recvFail h (recvOf q wq idx op) 1 2 s
      | some c =>
        if c.lost then recvFail h (recvOf q wq idx op) 2 0 s
        else if c.search.isSome || q.ops.any (fun e => decide (dOp (opFirst e.2) = 7) && !e.2.allSent &&
            decide (ringCount q.logSize e.1 q.head < ringCount q.logSize idx q.head)) then s
        else match needCtx h q.ep s with
        | (s, some _) => s
        | (s, none) => recvSearch h q.ep (recvOf q wq idx op) s

/-- Every RECV of a port that waits goes on. -/
def pumpRecvs (h : HostPort) (s : State) : State :=
  (s.host h).wqs.foldl (fun t q => q.2.ops.foldl (fun u o => recvStep h q.1 o.1 u) t) s

/-- After a search of an endpoint, what it held back goes on: reorder stores, then RECVs. -/
def searchOver (h : HostPort) (ep : Nat) (s : State) : State :=
  let s := (s.host h).pairs.foldl (fun t p => if keyEp p.1 = ep then releaseReady h p.1 (p.2.held.length + 1) t else t) s
  pumpRecvs h s

/-- KENNEL_BLOCK_READ_DONE (R235): the entries of the list that follow one another in the block are searched, and on-chip ones behind
them; the next block is read for the first entry in another. A failed read ends the RECV in HOST_ERROR (DEDUCED, log entry 30). -/
def kennelDone (h : HostPort) (ep : Nat) (ok : Bool) (s : State) : State :=
  match (tblGet ep (s.host h).eps).bind (fun c => c.search.map (fun x => (c, x))) with
  | none => s
  | some (c, r, pos) =>
    if !ok then searchOver h ep (recvFail h r 5 0 (modEp h ep (fun c => { c with search := none }) s))
    else
      let left := c.unexp.drop pos
      let here := (left.head?).elim 0 kennelBlockOf
      let block := left.takeWhile (fun m => !m.kennel || decide (kennelBlockOf m = here))
      let after := left.drop block.length
      match takeMsg r block with
      | some (m, rest) =>
        let s := modEp h ep (fun c => { c with search := none }) (pmcAdd 69 0x29 (block.length - rest.length) s)
        searchOver h ep (recvTake h ep r m (c.unexp.take pos ++ rest ++ after) s)
      | none =>
        let s := pmcAdd 69 0x29 block.length s
        match after with
        | m :: _ => readBlock h ep m (modEp h ep (fun c => { c with search := some (r, pos + block.length) }) s)
        | [] => searchOver h ep (recvAppend h ep r (modEp h ep (fun c => { c with search := none }) s))

/-! ## Automatic gets (R243) -/

/-- Bytes an automatic get fetches. -/
def getTotal (d : Delivery) : Nat := min d.msg.length d.recv.length

/-- The pair an automatic get travels in. -/
def getKey (d : Delivery) : Nat := pairKey d.ep d.msg.srcChip d.msg.srcEp

/-- A GET_REQ of an automatic get. -/
def autoReq (s : State) (d : Delivery) (off len : Nat) (last : Bool) (seq : Nat) : Packet :=
  mkPkt (newW0 1 d.recv.tc d.msg.srcChip s.chip) (newW1 d.msg.srcEp d.ep 3 (decide (off = 0)) last false)
    (shortBody seq 0 0 off d.msg.wkey (leBytes 2 len) [])

/-- RNDV_DEPTH; 0 acts as 1. -/
def rndvDepth (s : State) (h : HostPort) : Nat := max 1 (s.fget F.MTE_CTL_RNDV_DEPTH h.val)

/-- Automatic gets of the chip that have been started. -/
def autoGets (s : State) (h : HostPort) : Nat := ((s.host h).mte.deliveries.filter (fun d => d.2.isGet && d.2.started && d.2.waitEvent.isNone)).length

/-- The LAST request of an automatic get: offset and length. -/
def lastGet (d : Delivery) : Nat × Nat :=
  let total := getTotal d
  if total = 0 then (0, 1) else ((total - 1) / 4096 * 4096, total - (total - 1) / 4096 * 4096)

/-- The LAST request that a broken pair keeps from going out stays owed until the pair is connected again (R106, R243). -/
def oweLast (h : HostPort) (d : Delivery) (s : State) : State :=
  if d.lastSent then s
  else modRem h (fun x => { x with owed := x.owed ++
    [⟨getKey d, d.recv.tc, d.msg.wkey, (lastGet d).1, (lastGet d).2, d.recv.wq⟩] }) s

/-- An automatic get ends once nothing is outstanding and its LAST request has gone out, or its pair is broken (R243). -/
def checkGet (h : HostPort) (id : Nat) (s : State) : State :=
  match tblGet id (s.host h).mte.deliveries with
  | none => s
  | some d =>
    if d.isGet && d.started && d.waitEvent.isNone && decide (d.open_ = 0) && (d.lastSent || decide (d.status = 2)) then
      endDelivery h id (oweLast h d s)
    else s

/-- A LAST request that is still owed. -/
def owedReq (s : State) (o : OwedGet) (seq : Nat) : Packet :=
  mkPkt (newW0 1 o.tc (keyChip o.pair) s.chip) (newW1 (keyPeer o.pair) (keyEp o.pair) 3 (decide (o.off = 0)) true false)
    (shortBody seq 0 0 o.off o.wkey (leBytes 2 o.len) [])

/-- Owed requests go out on pairs that send again (R214, R243). -/
def pumpOwed (h : HostPort) (s : State) : State :=
  (s.host h).rem.owed.foldl (fun t o =>
    match needPair h o.pair t with
    | (t, .ready) =>
      if (getPair t h o.pair).any (fun p => !p.broken && !p.quiet) && !longPutOpen t h o.pair none &&
          (brakes t h o.wq o.pair (owedReq t o 0)).isNone then
        leashDebit h o.wq (owedReq t o 0) (sendSeq h o.pair (.owed o.wq) (owedReq t o) none
          (modRem h (fun x => { x with owed := x.owed.erase o }) t))
      else t
    | (t, _) => t) s

/-- The next request of an automatic get: offset, length, LAST. After a failure only the LAST request is still sent. -/
def nextGet (d : Delivery) : Nat × Nat × Bool :=
  let total := getTotal d
  if total = 0 then (0, 1, true)
  else
    let off := if d.status = 0 then d.off else (total - 1) / 4096 * 4096
    (off, min 4096 (total - off), decide (total ≤ off + 4096))

/-- An automatic get issues requests while its depth and the brakes allow (R243). -/
def pumpGet (h : HostPort) (id : Nat) : Nat → State → State
  | 0, s => s
  | n + 1, s =>
    match tblGet id (s.host h).mte.deliveries with
    | none => s
    | some d =>
      if !d.isGet || !d.started || d.lastSent || d.waitEvent.isSome || decide (d.status = 2) || decide (d.depth ≤ d.open_) ||
          !s.hostLive h then checkGet h id s
      else
        let key := getKey d
        match needPair h key s with
        | (s, .wait _) => s
        | (s, .full) =>
          checkGet h id (modDelivery h id (fun d => { d with lastSent := true, status := if d.status = 0 then 1 else d.status,
                                                             detail := if d.status = 0 then 6 else d.detail }) s)
        | (s, .ready) =>
          match getPair s h key with
          | none => s
          | some p =>
            let g := nextGet d
            if p.broken then
              checkGet h id (oweLast h d (modDelivery h id (fun d =>
                { d with status := if d.status = 0 then 2 else d.status, lastSent := true }) s))
            else if p.quiet || longPutOpen s h key none then s
            else
              let pkt := autoReq s d g.1 g.2.1 g.2.2 0
              match brakes s h d.recv.wq key pkt with
              | some b => noteHeld h d.recv.wq b s
              | none =>
                let st := s
                let s := sendSeq h key (.autoGet id) (autoReq st d g.1 g.2.1 g.2.2) (some (g.1, g.2.1)) s
                let s := leashDebit h d.recv.wq pkt s
                pumpGet h id n (modDelivery h id (fun d => { d with off := g.1 + g.2.1, open_ := d.open_ + 1, lastSent := g.2.2 }) s)

/-- AUTO_GET_START (R243): the oldest matched rendezvous that waits takes one of the chip's 1,024 automatic gets, once its record has
been read; RNDV_DEPTH is read now (R8). -/
def autoStart (h : HostPort) (s : State) : State :=
  if 1024 ≤ bothPorts (autoGets s) then s
  else match (s.host h).mte.deliveries.find? (fun d => d.2.isGet && !d.2.started) with
  | none => s
  | some d =>
    if d.2.record then pumpGet h d.1 20 (modDelivery h d.1 (fun d => { d with started := true, depth := rndvDepth s h }) s) else s

/-- Everything of a port that may go on after tokens, windows, records or event slots have returned. -/
def pumpAll (h : HostPort) (s : State) : State :=
  if s.hostLive h then
    let s := drainMatches h s
    let s := pumpOwed h s
    let s := pumpHost h s
    let s := (s.host h).mte.deliveries.foldl (fun t d => if d.2.isGet then pumpGet h d.1 20 t else deliver h d.1 t) s
    pumpRecvs h s
  else s

/-! ## The end of an endpoint (R248) -/

/-- DESTROY_EP removes the endpoint's posted receives, each with a RECV_MATCH, and its stored messages. -/
def mteDestroy (h : HostPort) (ep : Nat) (s : State) : State :=
  match tblGet ep (s.host h).eps with
  | none => s
  | some c =>
    let msgs := c.unexp ++ (s.host h).pairs.flatMap (fun p => if keyEp p.1 = ep then p.2.held.map (·.2) else [])
    let s := (msgs.filterMap (·.slot)).foldl (fun t k => freeData h k t) s
    let s := modEp h ep (fun c => { c with posted := [], unexp := [], search := none }) s
    let s := s.modHost h (fun x => { x with pairs := x.pairs.map (fun p => if keyEp p.1 = ep then (p.1, { p.2 with held := [] }) else p) })
    c.posted.foldl (fun t r =>
      let k := r.entry
      let r := { r with entry := none, slot := none }
      let e := emptyMatch t r 1 2
      if eqTakes t h r.eq then eqDecide h r.eq e t
      else
        let m : Msg := { kind := .short, mtch := 0#64, comm := r.comm, srcEp := 0, srcChip := 0, length := 0, pseq := 0, data := [],
                         slot := none, wkey := 0, kennel := false, entry := 0, cont := none }
        let d : Delivery := { ep := ep, recv := { r with entry := k }, msg := m, record := true, ready := true, segsIn := 0,
                              segsDue := false, waitEvent := some e, isGet := false, started := false, off := 0, open_ := 0,
                              depth := 0, lastSent := false, moved := 0, status := 1, detail := 2 }
        modMte h (fun x => { x with deliveries := tblSet x.nextId d x.deliveries, nextId := x.nextId + 1 }) (eqOverflow h r.eq t)) s

end Sys2Proof.Machine
end

