-- ==== Sys2Proof/Machine/SharedOps.lean ====
section
/-! DEFINITION. Lock registers, fabric binding, debug levels and the test access port (R336 to R349). -/

namespace Sys2Proof.Config

/-- What the scan chains of the core domains hold after a SCAN operation (R347; DESIGN CHOICE, log entry 35). -/
opaque scannedState : Nat → Sys2Proof.Machine.State

end Sys2Proof.Config

namespace Sys2Proof.Machine

/-! ## Lock registers (R337 to R340) -/

/-- Changes a lock. -/
def modLock (k : Fin 256) (f : Lock → Lock) (s : State) : State := { s with locks := vecMod s.locks k f }

/-- A lock is freed; a waiter is told by LOCK_RELEASED, which carries the abandoned mark (R339). -/
def freeLock (k : Fin 256) (abandon : Bool) (s : State) : State :=
  let l := s.locks[k]
  let mark := l.abandoned || abandon
  let s := modLock k (fun _ => { held := false, abandoned := mark, waiter := false, owner := 0#8 }) s
  if l.waiter then asyncChip 0x0A k.val (BitVec.ofNat 64 (k.val + 256 * b2n mark)) s else s

/-- A lock is freed as by a reset of its owner: it is marked and LOCK_ABANDONED rises (R322, R339, R340). -/
def abandonLock (k : Fin 256) (s : State) : State := raiseFault 25 (freeLock k true s)

/-- A master is reset (R319, R45): its locks are freed and marked, and its calibration unlock is disarmed. -/
def resetMaster (mid : Mid) (s : State) : State :=
  (List.finRange 256).foldl (fun t k =>
    if t.locks[k].held && t.locks[k].owner == mid then abandonLock k t else t) (calDisarm mid s)

/-- The word a 64-bit read of a lock returns, and the lock after it (R337). Fields the acquire changes are returned as it
leaves them, ABANDONED as it stood (DESIGN CHOICE, log entry 33). -/
def lockRead (mid : Mid) (l : Lock) : Word × Lock :=
  let word (acq : Bool) (mark : Bool) (m : Lock) := packFields [(0, 0, b2n acq), (1, 1, b2n m.held), (2, 2, b2n mark),
    (3, 3, b2n m.waiter), (15, 8, m.owner.toNat)]
  if !l.held then
    let m : Lock := { l with held := true, owner := mid, abandoned := false }
    (word true l.abandoned m, m)
  else if l.owner = mid then (word true l.abandoned l, l)
  else
    let m : Lock := { l with waiter := true }
    (word false l.abandoned m, m)

/-- A write of a lock register (R339): RELEASE from the owner frees it, FORCE with its CONFIRM frees and marks it; either one
otherwise is a register-access error. -/
def lockWrite (mid : Mid) (k : Fin 256) (v : Word) (s : State) : State :=
  let off := 0x50000 + 8 * k.val
  let l := s.locks[k]
  let s := if bitOf v 32 then
      (if l.held && l.owner = mid then freeLock k false s else regAccessError mid 2 off s)
    else s
  if bitOf v 33 then
    (if fieldOf v 47 40 = 0xA5 then abandonLock k s else regAccessError mid 2 off s)
  else s

/-- SEM_PORT_RESTR (R342). -/
def portRestr (s : State) : Nat :=
  ((allPorts.filter (fun p => (s.port p).link.phase = .up && (s.port p).link.restricted)).map (fun p => 2 ^ p.val)).sum

/-! ## Fabric binding (R343) -/

/-- Why a write of AON_BIND.STATE is discarded; 0 accepted. Of several reasons the first listed is recorded
(DESIGN CHOICE, log entry 16). -/
def bindRefusal (mid : Mid) (code : Nat) (s : State) : Nat :=
  let cur := s.fget F.AON_BIND_STATE
  if cur = 2 ∧ code ≠ 2 ∧ mid ≠ 0#8 ∧ mid ≠ 1#8 then 1
  else if code = 1 ∧ s.fget F.DBG_LEVEL_LEVEL = 2 then 2
  else if code = 3 then 3
  else 0

/-- A write of AON_BIND (R343). A change while ports are UP makes their L resets due. -/
def bindWrite (mid : Mid) (v : Word) (s : State) : State :=
  let code := fieldOf v 1 0
  let err := bindRefusal mid code s
  let cur := s.fget F.AON_BIND_STATE
  let s := s.fset F.AON_BIND_ERR err
  if err ≠ 0 ∨ code = cur then s
  else
    let s := (s.fset F.AON_BIND_STATE code).fset F.AON_BIND_LAST_MID mid.toNat
    if allPorts.any (fun p => (s.port p).link.phase = .up) then { s with rst := { s.rst with bindDue := true } } else s

/-- The L resets of a binding change take hold on every UP port (R343). -/
def bindPorts (s : State) : State :=
  if s.rst.bindDue then
    allPorts.foldl (fun t p => if (t.port p).link.phase = .up then resetL p 2 4 false t else t)
      { s with rst := { s.rst with bindDue := false } }
  else s

/-! ## Debug levels (R347, R348) -/

/-- DBG features are in effect: the chip services run (R350). -/
def State.debugLevel (s : State) : Nat := if s.svcRuns then s.fget F.DBG_LEVEL_LEVEL else 0

/-- A write of DBG_LEVEL (R347): raising to INTRUSIVE is checked, leaving it releases the halts. The code 0x3 names no level
and is discarded (DESIGN CHOICE, log entry 34). -/
def debugLevelSet (v : Word) (s : State) : State :=
  let level := fieldOf v 1 0
  if level = 3 then s
  else if level = 2 ∧ s.fget F.AON_BIND_STATE = 1 then s.fset F.DBG_LEVEL_ERR 1
  else if level = 2 ∧ fieldOf v 15 8 ≠ 0xA5 then s.fset F.DBG_LEVEL_ERR 2
  else
    let s := (s.fset F.DBG_LEVEL_ERR 0).fset F.DBG_LEVEL_LEVEL level
    if level = 2 then s else (s.fset F.DBG_HALT_RTR 0).fset F.DBG_HALT_NIC 0

/-- AUTO_INC of DBG_MEM_ADDR: each data access advances ADDR by 8. -/
def dbgAdvance (s : State) : State :=
  if s.flag F.DBG_MEM_ADDR_AUTO_INC then s.fset F.DBG_MEM_ADDR_ADDR (s.fget F.DBG_MEM_ADDR_ADDR + 1) else s

/-- A 64-bit read of DBG_MEM_DATA (R347): below OBSERVE 0 and a register-access error; else the word DBG_MEM last wrote
there, or a free value (DESIGN CHOICE, log entry 18). -/
def dbgRead (mid : Mid) (s : State) : State × Word :=
  if s.fget F.DBG_LEVEL_LEVEL = 0 then (regAccessError mid 1 0xC00010 s, 0#64)
  else
    match tblGet (8 * s.fget F.DBG_MEM_ADDR_ADDR) s.sram with
    | some w => (dbgAdvance s, w)
    | none => (dbgAdvance s.tookFree, s.freeValue)

/-- A write of DBG_MEM_DATA (R347): below INTRUSIVE it is discarded and recorded. -/
def dbgWrite (mid : Mid) (v : Word) (s : State) : State :=
  if s.fget F.DBG_LEVEL_LEVEL ≠ 2 then regAccessError mid 2 0xC00010 s
  else dbgAdvance { s with sram := tblSet (8 * s.fget F.DBG_MEM_ADDR_ADDR) v s.sram }

/-- A write of DBG_HALT (R348): at INTRUSIVE it sets both halts, and STEP runs the halted allocator for one cycle. -/
def dbgHaltWrite (v : Word) (s : State) : State :=
  if s.fget F.DBG_LEVEL_LEVEL ≠ 2 then s
  else
    let s := (s.fset F.DBG_HALT_RTR (fieldOf v 0 0)).fset F.DBG_HALT_NIC (fieldOf v 1 1)
    if bitOf v 8 && bitOf v 0 && s.routerRuns then allocatorStep false (finishLeaving (tickPorts s)) else s

/-! ## Pins and the test access port (R318, R345) -/

/-- The levels of the single-ended pins as the core drives and sees them; GPIO pins are inputs of unknown level. -/
def State.pins (s : State) : Pins :=
  { txdis := BitVec.ofNat 8 (((List.range 8).filter (fun g => s.flt.muzzle || txdisHigh s g)).map (2 ^ ·)).sum,
    faultN := s.rst.pHeld || !s.faultN, alertN := s.rst.pHeld || !s.alertN, pwrgd := s.pwr.pwrgd, pfwN := !s.pwr.pfw,
    resetN := !s.rst.resetN,
    perstN := BitVec.ofNat 2 (b2n (!(s.host 0).hif.perst) + 2 * b2n (!(s.host 1).hif.perst)),
    modprsN := s.modprs, gpio := s.freeValue.setWidth 16,
    straps := BitVec.ofNat 8 (s.impl.smbAddr.toNat + 8 * b2n s.impl.hp1En + 16 * s.impl.board.toNat) }

/-- EXTEST, CLAMP and HIGHZ are available: the chip is neither BOUND nor in SLEEP (R345). -/
def State.scanPins (s : State) : Bool := decide (s.fget F.AON_BIND_STATE ≠ 1) && decide (s.pwr.state ≠ .sleep)

/-- The levels at the package (R318, R345): under EXTEST and CLAMP the outputs come from the boundary register, under HIGHZ they are released
to their pull-ups, and otherwise they are the core's. Inputs are the board's. -/
def State.pads (s : State) : Pins :=
  let driven (b : Pins) : Pins := { s.pins with txdis := b.txdis, faultN := b.faultN, alertN := b.alertN, gpio := b.gpio }
  if !s.scanPins then s.pins
  else match s.jtag.instr with
    | .extest | .clamp => s.jtag.boundary.elim s.pins driven
    | .highz => { s.pins with txdis := 0xFF#8, faultN := true, alertN := true }
    | _ => s.pins

/-- The JTAG identification (R345, R369): the revision, part number and manufacturer of SYS, and a final 1. -/
def State.idcode (s : State) : BitVec 32 :=
  BitVec.ofNat 32 (1 + 2 * s.fget F.SYS_ID_MFR + 4096 * s.fget F.SYS_ID_PART_NUM + 268435456 * s.fget F.SYS_ID_REVISION)

/-- The data register between TDI and TDO (R345). -/
inductive DataReg
  | bypass
  | ident (w : BitVec 32)
  | access (status : BitVec 3) (data : Word)
  | boundary (p : Option Pins)
  | scan
deriving DecidableEq, Repr

/-- The data register that the loaded instruction selects (R345). EXTEST acts as BYPASS while the chip is BOUND or in SLEEP. -/
def State.dataReg (s : State) : DataReg :=
  match s.jtag.instr with
  | .idcode => .ident s.idcode
  | .regAccess => .access s.jtag.status s.jtag.data
  | .samplePreload => .boundary s.jtag.boundary
  | .extest => if s.scanPins then .boundary s.jtag.boundary else .bypass
  | .scan => .scan
  | .clamp | .highz | .bypass => .bypass

/-- A TAP instruction is loaded (R345). -/
def jtagLoad (i : JtagInstr) (s : State) : State :=
  if s.pwr.vddAon then { s with jtag := { s.jtag with instr := i } } else s

/-- SAMPLE/PRELOAD: the boundary register takes the pin levels (R345). -/
def jtagSample (s : State) : State :=
  if s.pwr.vddAon then
    ({ s with jtag := { s.jtag with instr := .samplePreload, boundary := some s.pins } }).tookFree
  else s

/-- Test-Logic-Reset: IDCODE is loaded and JTAG's locks are freed (R319, R345). -/
def jtagTlr (s : State) : State := resetMaster 1#8 (jtagLoad .idcode s)

/-- A register of the AON region or of CFG, which no scan chain reaches. -/
def aonAddr (a : Nat) : Bool := decide (a < 0x50000)

/-- SCAN at INTRUSIVE leaves every scanned block's state undefined (R347): everything outside the always-on domain and the CFG
block is free. Below INTRUSIVE it acts as BYPASS (R345). -/
def jtagScan (s : State) : State :=
  if s.debugLevel ≠ 2 then jtagLoad .bypass s
  else
    let f := Config.scannedState s.freeCount
    let regs := (f.regs.filter (fun e => !aonAddr e.1)).foldl (fun t e => tblSet e.1 e.2 t)
      (s.regs.filter (fun e => aonAddr e.1))
    jtagLoad .scan { s.tookFree with regs := regs, locks := f.locks, cap := f.cap, sram := f.sram, ports := f.ports,
                                     ints := f.ints, rtr := f.rtr, hosts := f.hosts, park := f.park, groups := f.groups,
                                     sweep := f.sweep, discards := f.discards, agent := f.agent }

end Sys2Proof.Machine
end

