-- ==== Sys2Proof/Machine/FuncOps.lean ====
section
/-! DEFINITION. The host links and the function reset (R154, R177 to R179, R226, R248, R265). -/

namespace Sys2Proof.Machine

/-- HIF_STATUS.STATE (R179). -/
def hostStatus (s : State) (h : HostPort) : Nat :=
  let x := (s.host h).hif
  if x.inReset then 1 else if !x.linkUp then 0 else if x.halted then 3 else 2

/-- The function of a host port can be reset: HIF is released and its state is powered. -/
def funcReady (s : State) (h : HostPort) : Bool :=
  s.rst.hifRel && !s.rst.cHeld && !s.rst.pHeld && !s.flt.muzzle && s.hostPresent h.val &&
    decide (s.pwr.state ≠ .sleep)

/-- An F reset releases a host port clamped for its PLL, which starts again (R314) (DESIGN CHOICE, log entry 46). -/
def funcUnclamp (h : HostPort) (s : State) : State :=
  if s.rst.clamped.testBit (2 + h.val) then
    { s with rst := { s.rst with clamped := setBitTo s.rst.clamped (2 + h.val) false },
             pwr := { s.pwr with hostPll := s.pwr.hostPll.set h .starting } }
  else s

/-- An F reset arrives (R177): the function stops, its parked packets are refused and its master's locks are freed. One that
meets an F reset in progress is absorbed. -/
def funcStart (h : HostPort) (s : State) : State :=
  if !funcReady s h || (s.host h).hif.inReset then s
  else
    let s := funcUnclamp h s
    let s := s.modHif h (fun x => { x with inReset := true, heldBells := [] })
    resetMaster (BitVec.ofNat 8 (0x10 + h.val)) (refuseParked h s)

/-- An endpoint whose context an F reset has discarded. -/
def epGone (c : EpCtx) : EpCtx :=
  { c with gone := true, closing := false, lost := false, onChip := false, posted := [], unexp := [], search := none }

/-- What an F reset leaves of a host port (R178, R226): the link stays, and the generations of its windows in small-configuration mode; in
host-table mode they lie in the table (R215). Its endpoints are remembered as discarded; ones discarded before are forgotten if `known`,
the port's EPC_LOST.FLAG, has been cleared since. -/
def funcClear (table known : Bool) (x : HostState) : HostState :=
  { hostReset with
    hif := { hifReset with linkUp := x.hif.linkUp, perst := x.hif.perst, width := x.hif.width, rate := x.hif.rate, flit := x.hif.flit }
    wins := if table then [] else x.wins.map (fun w => (w.1, { w.2 with isOpen := false, rndv := none }))
    eps := (x.eps.filter (fun e => known || !e.2.gone)).map (fun e => (e.1, epGone e.2)) }

/-- A register of a block that belongs to one host port. -/
def hostBlock (b : Block) : Bool :=
  match b with
  | .hif | .wq | .eq | .xlt | .win | .epc | .mte | .cc => true
  | _ => false

/-- The F reset ends (R177, R178): the port's state is cleared, its Sheepdog groups with it (R265), and EPC_LOST is set. A chip
that is still starting up completes its start-up first. -/
def funcDone (h : HostPort) (s : State) : State :=
  if !(s.host h).hif.inReset || !(s.rst.coreRel || decide (s.cfg.state = .noImage)) then s
  else
    let s := s.modHost h (funcClear (hostTable s h) (s.flag F.EPC_LOST_FLAG h.val))
    let s := { s with groups := s.groups.filter (fun g => g.2.owner != h) }
    (s.restore [.F] (fun r i => hostBlock (regPlace r).block && i == h.val)).fset F.EPC_LOST_FLAG 1 h.val

/-- A host link is down. -/
def linkOff (h : HostPort) (s : State) : State :=
  s.modHif h (fun x => { x with linkUp := false, width := 0, rate := 0, flit := false })

/-- HOST_LINK_TRAINED: the link is up at a width and rate code (R154, R179). -/
def hostTrained (h : HostPort) (width rate : Nat) (flit : Bool) (s : State) : State :=
  if s.hifRuns h.val && !(s.host h).hif.perst && decide (width ≤ 2) && decide (1 ≤ rate ∧ rate ≤ 6) then
    s.modHif h (fun x => { x with linkUp := true, width := width, rate := rate, flit := flit })
  else s

/-- HOST_LINK_DOWN: a link-down while RUNNING is an uncorrectable error (R322). -/
def hostDown (h : HostPort) (s : State) : State :=
  if !(s.host h).hif.linkUp then s
  else
    let running := hostStatus s h = 2
    let s := linkOff h s
    if running then raiseFault (20 + h.val) s else s

/-- PERST# is asserted: the link goes down and the function is reset (R177). -/
def perstOn (h : HostPort) (s : State) : State :=
  if (s.host h).hif.perst || !s.hostPresent h.val then s
  else funcStart h (linkOff h (s.modHif h (fun x => { x with perst := true })))

/-- A host reaches its function through the link: HIF runs, the link is up and no F reset is in progress. -/
def hostReaches (s : State) (h : HostPort) : Bool := s.hifRuns h.val && (s.host h).hif.linkUp && !(s.host h).hif.inReset

/-- A BAR as a read returns it: its base, and the type bits of a 64-bit BAR, prefetchable or not (R155). -/
def barWord (base : Word) (prefetch : Bool) : Word := base ||| (if prefetch then 0xC#64 else 0x4#64)

/-- The function exposes BAR2: while no image is committed it enumerates with BAR0 only (R36). -/
def hasBar2 (s : State) : Bool := s.image.isSome

/-- The features of R154 that the capability list declares. -/
def hostFeatures : List HostFeature := [.msix, .pageRequest, .functionReset, .steeringTags]

/-- A request of the host to its function's configuration space (R154, R155), and a read of its BAR2 (R158) (PRESUMED and DESIGN CHOICE,
log entry 81). -/
def configWrite (h : HostPort) (req : ConfigReq) (s : State) : State :=
  if !hostReaches s h then s
  else match req with
  | .bar0 b => s.modHif h (fun x => { x with bar0 := b &&& 0xFFFFFFFFFF000000#64 })
  | .bar2 b => if hasBar2 s then s.modHif h (fun x => { x with bar2 := b &&& 0xFFFFFFFFFFF00000#64 }) else s
  | .memoryEnable on => s.modHif h (fun x => { x with memEnable := on })
  | .busMaster on => s.modHif h (fun x => { x with bme := on })
  | .msixEnable on => msixRecheck h (s.modHif h (fun x => { x with msixOn := on }))
  | .msixFunctionMask on => msixRecheck h (s.modHif h (fun x => { x with msixMask := on }))
  | .maxPayload code => if code ≤ 2 then s.modHif h (fun x => { x with mps := 128 * 2 ^ code }) else s
  | .maxReadRequest code => if code ≤ 5 then s.modHif h (fun x => { x with mrrs := 128 * 2 ^ code }) else s
  | .readBar0 => s.emit (.configRead h (barWord (s.host h).hif.bar0 false))
  | .readBar2 => s.emit (.configRead h (if hasBar2 s then barWord (s.host h).hif.bar2 true else 0#64))
  | .readCapabilities => s.emit (.capabilities h hostFeatures)
  | .readDoorbell off => s.emit (.bar2Read h off 0#64)

end Sys2Proof.Machine
end

