-- ==== Sys2Proof/Machine/ResetOps.lean ====
section
/-! DEFINITION. Resets and start-up (R303 to R321): how each kind takes hold and is released, the PLLs (R281, R314), the self-test
and the clear. -/

namespace Sys2Proof.Machine

/-- Changes the reset controller. -/
def State.modRst (s : State) (f : RstState → RstState) : State := { s with rst := f s.rst }

/-- Changes the power block. -/
def State.modPwr (s : State) (f : PwrState → PwrState) : State := { s with pwr := f s.pwr }

/-! ## Requests (R304 to R306) -/

/-- A reset is caused and waits to take hold (DESIGN CHOICE, log entry 44). -/
def askReset (kind : ResetKind) (target source : Nat) (mid : Mid) (s : State) : State :=
  s.modRst (fun r => { r with waiting := r.waiting ++ [⟨kind, target, source, mid, false⟩] })

/-- The source code of an RST_CMD write (R304). -/
def cmdSource (mid : Mid) : Nat := if mid = 0#8 then 5 else if mid = 2#8 then 6 else 7

/-- Why an RST_CMD write is discarded (R321): CONFIRM, then KIND and TARGET, then the role; 0 accepted. -/
def cmdRefusal (v : Word) (s : State) : Nat :=
  let kind := fieldOf v 2 0
  let target := fieldOf v 9 4
  if fieldOf v 23 16 ≠ 0xA5 then 2
  else if kind = 0 ∨ 4 < kind then 1
  else if kind = 3 ∧ (1 < target ∨ !s.hostPresent target) then 1
  else if kind = 4 ∧ s.role (BitVec.ofNat 6 target).toFin = .disabled then 3
  else 0

/-- A write of RST_CMD (R306, R321). -/
def resetCommand (mid : Mid) (v : Word) (s : State) : State :=
  let err := cmdRefusal v s
  let s := s.fset F.RST_CMD_ERR err
  if err ≠ 0 then s
  else
    let kind : ResetKind := match fieldOf v 2 0 with
      | 1 => .C
      | 2 => .T
      | 3 => .F
      | _ => .L
    askReset kind (fieldOf v 9 4) (cmdSource mid) mid s

/-- RESET_N_ASSERT (R304): RESET_N has been low for 1 µs. In a P reset only the level is noted (R303). -/
def resetPin (s : State) : State :=
  if s.rst.resetN then s
  else
    let s := s.modRst (fun r => { r with resetN := true })
    if s.rst.pHeld then s else askReset .C 0 2 0#8 s

/-! ## Taking hold (R307, R311, R312) -/

/-- RST_LAST records a P, C or T reset (R304). -/
def recordReset (source kind : Nat) (mid : Mid) (s : State) : State :=
  s.setWord .RST_LAST (packFields [(4, 0, source), (7, 5, kind), (15, 8, if 5 ≤ source ∧ source ≤ 7 then mid.toNat else 0),
    (63, 16, s.tim.now.toNat)]) 0 0

/-- A source whose line the AON domain drives; every other line is held low while the core domains are in reset (R323). -/
def aonSource (n : Nat) : Bool := [0, 1, 2, 3, 4, 6, 8, 9, 11, 26, 27, 30].contains n

/-- A source whose line the router core or a network port drives (R322). -/
def routerSource (n : Nat) : Bool := decide (n = 5) || decide (n = 12) || decide (32 ≤ n)

/-- A source whose line the NIC drives (R322). -/
def nicSource (n : Nat) : Bool := [7, 16, 17, 18, 19, 24, 29].contains n

/-- The lines of some sources stay as they are; those of the others are low. -/
def keepLines (keep : Nat → Bool) (s : State) : State :=
  { s with flt := { s.flt with lines := (((List.range 64).filter (fun n => s.flt.lines.testBit n && keep n)).map (2 ^ ·)).sum } }

/-- REFCLK_LOSS (R282): its line is high while REFCLK is absent in ACTIVE or DOZE. -/
def watchRefclk (s : State) : State :=
  if s.pwr.refclk || !(decide (s.pwr.state = .active) || decide (s.pwr.state = .doze)) then
    { s with flt := { s.flt with lines := setBitTo s.flt.lines 2 false } }
  else if s.flt.lines.testBit 2 then s
  else raiseFault 2 { s with flt := { s.flt with lines := setBitTo s.flt.lines 2 true } }

/-- SUPPLY_CORE (R289): its line is high while the core supply is below its threshold outside SLEEP. -/
def watchSupply (s : State) : State :=
  if s.pwr.coreOk || decide (s.pwr.state = .sleep) then
    { s with flt := { s.flt with lines := setBitTo s.flt.lines 0 false } }
  else if s.flt.lines.testBit 0 then s
  else raiseFault 0 { s with flt := { s.flt with lines := setBitTo s.flt.lines 0 true } }

/-- Every port whose transmitter is UP sends its LVE sets with a reason, any frame in progress closed with ABT (R64, R93). -/
def leaveAll (reason : Nat) (s : State) : State :=
  if s.routerRuns then allPorts.foldl (fun t p => sendLve p reason (abandonTx p t)) s else s

/-- The locks of every master are freed and marked, as a C reset does (R319, R340) (DEDUCED, log entry 45). -/
def locksC (s : State) : State :=
  let any := s.locks.any (·.held)
  let s := { s with locks := s.locks.map (fun l => { lockReset with abandoned := l.abandoned || l.held }) }
  if any then raiseFault 25 s else s

/-- The CFG block through a P or C reset: the store and the control records stay; a load, a command and every unlock are gone
(R37, R45). -/
def cfgCleared (c : CfgState) : CfgState := { cfgReset with store := c.store, recA := c.recA, recB := c.recB }

/-- The core domains are cleared (R307): everything outside the AON domain and CFG, but for the pins of the host ports. -/
def coreCleared (s : State) : State :=
  { s with
    image := none
    regs := s.regs.filter (fun e => aonAddr e.1)
    cap := capReset
    sram := []
    ports := Vector.replicate 64 portReset
    ints := Vector.replicate 4 intReset
    rtr := rtrReset
    hosts := s.hosts.map (fun h => { hostReset with hif := { hifReset with perst := h.hif.perst } })
    park := []
    sweep := []
    discards := ⟨0, 0, 0⟩
    agent := []
    groups := [] }

/-- A C reset takes hold (R307, R311), with no LVE where PWRGD was lost (R64: source 3); `keepLocks` is false where the core domains lost their power with SLEEP (R340). -/
def holdC (source : Nat) (mid : Mid) (deferred keepLocks : Bool) (s : State) : State :=
  let s := if source = 3 then s else leaveAll 3 s
  let s := recordReset source 1 mid s
  let s := (s.finc F.RST_COUNT_C_COUNT 1).fset F.RST_STATUS_DEFERRED (b2n deferred)
  let s := if keepLocks then locksC s else { s with locks := Vector.replicate 256 lockReset }
  let s := coreCleared s
  let s := keepLines aonSource { s with cfg := cfgCleared s.cfg, flt := { s.flt with muzzle := false } }
  let s := s.modPwr (fun p =>
    { p with state := .active, transition := none, nicWaking := false, whistle := false, corePll := .off,
             hostPll := Vector.replicate 2 .off, coreOn := decide (source ≠ 3) })
  watchRefclk (s.modRst (fun r =>
    { r with phase := .held, cHeld := true, tHeld := false, coreRel := false, hifRel := false, clearing := true,
             cold := r.cold || source == 3, clamped := 0, bindDue := false,
             waiting := r.waiting.filter (fun q => q.kind == .P || q.kind == .C) }))

/-- An internal port through a T reset: the NIC's injection buffer waits, everything else is lost (R307, R308). -/
def intHeld (q : IntPortState) : IntPortState := { intReset with inp := { inReset with queue := q.inp.queue } }

/-- A T reset takes hold (R307, R312). It is absorbed by a C or P reset in force and by Muzzle (R303, R331). -/
def holdT (source : Nat) (mid : Mid) (s : State) : State :=
  if !s.coreRuns then s
  else
    let s := if s.routerRuns then
        allPorts.foldl (fun t p =>
          let t := sendLve p 1 (abandonTx p t)
          if (t.port p).link.phase = .up then linkDepart p 4 false t else t) s
      else s
    let s := (recordReset source 2 mid s).finc F.RST_COUNT_T_COUNT 1
    let s := { s with ports := s.ports.map (fun q => { portReset with lane := { laneReset with pll := (retryPll q.lane).pll } }),
                      ints := s.ints.map intHeld
                      agent := [] }
    let s := [0x02, 0x20, 0x21, 0x22, 0x23].foldl (fun t m => resetMaster (BitVec.ofNat 8 m) t) s
    let s := keepLines (fun n => !routerSource n) (s.restore [.T, .L] (fun _ _ => true))
    s.modRst (fun r =>
      { r with tHeld := true, bindDue := false, clamped := setBitTo r.clamped 0 false,
               waiting := r.waiting.filter (fun q => q.kind != .L) })

/-- RESET_TAKE_HOLD (R305, R311, R315): the oldest waiting reset takes hold. A C reset that finds a write pulse in progress is
deferred until the pulse ends. -/
def takeHold (s : State) : State :=
  match s.rst.waiting with
  | [] => s
  | q :: rest =>
    let s' := s.modRst (fun r => { r with waiting := rest })
    match q.kind with
    | .C | .P =>
      if pulsing s.cfg then
        (s'.modRst (fun r => { r with waiting := { q with deferred := true } :: rest })).fset F.RST_STATUS_DEFERRED 1
      else if s.rst.pHeld then s' else holdC q.source q.mid q.deferred (decide (s.pwr.state ≠ .sleep)) s'
    | .T => holdT q.source q.mid s'
    | .F => if h : q.target < 2 then funcStart ⟨q.target, h⟩ s' else s'
    | .L => if h : q.target < 64 then resetL ⟨q.target, h⟩ 2 4 false s' else s'

/-! ## Power-on (R289, R304) -/

/-- A P reset is asserted (R303, R304, R307): a pulse in progress is finished first (R315), unless the core supply and PWRGD are
gone with VDD_AON, so that all supplies are lost (R43). Kept are the store, its records, what
the part and its pins hold; the retained SRAM and the backup registers are undefined (R3). -/
def holdP (s : State) : State :=
  let pulse := pulsing s.cfg
  let s := if s.pwr.coreOk || s.pwr.pwrgd then recordPulsed (progDone s) else pulseLost s
  let fresh := State.reset
  let backups := (List.range 16).map (fun k => (regAddr .AON_BACKUP 0 k, Config.free64 (s.freeCount + 1 + k)))
  let t := { fresh with
    impl := s.impl
    regs := backups
    cfg := cfgCleared s.cfg
    pwr := { pwrReset with vddAon := false, coreOk := s.pwr.coreOk, pwrgd := s.pwr.pwrgd, pfw := s.pwr.pfw, refclk := s.pwr.refclk,
                           tempNow := s.pwr.tempNow, rsram := { era := s.freeCount + 1, cells := [] } }
    rst := { rstReset with pHeld := true, resetN := s.rst.resetN }
    hosts := s.hosts.map (fun (h : HostState) => { hostReset with hif := { hifReset with perst := h.hif.perst } })
    modprs := s.modprs
    clock := s.clock
    freeCount := s.freeCount + 17
    out := s.out
    pending := s.pending }
  t.fset F.RST_STATUS_DEFERRED (b2n pulse)

/-! ## Release (R310, R311) -/

/-- The lane PLLs start (R281). -/
def startLanePlls (s : State) : State :=
  { s with ports := s.ports.map (fun q => { q with lane := { q.lane with pll := .starting } }) }

/-- The hold of a C reset ends (R304, R310, R311): fields with C in their Reset column are restored, the watchdog restarts, and
the PLLs start; a cold start powers the core domains and starts the lane PLLs after its self-test. It waits for RESET_N and
PWRGD to be high, and in Muzzle for the C reset that ends it (R331). -/
def releaseC (s : State) : State :=
  if !s.rst.cHeld || s.rst.pHeld || s.rst.resetN || !s.pwr.pwrgd || s.flt.muzzle then s
  else
    let s := s.restore [.C] (fun _ _ => true)
    let s := s.modPwr (fun p => { p with coreOn := true, corePll := .starting, hostPll := Vector.replicate 2 .starting })
    let s := s.modRst (fun r => { r with cHeld := false, wdogLeft := 1000000 * max 1 (s.fget F.RST_WDOG_TIMEOUT_MS) })
    if s.rst.cold then s else startLanePlls s

/-- P_RESET_RELEASE (R304, R310): the AON domain is released and the straps are latched; with PWRGD already high the cold start
begins. -/
def releaseP (s : State) : State :=
  if s.rst.pHeld && s.pwr.vddAon && s.pwr.refclk then releaseC (s.modRst (fun r => { r with pHeld := false })) else s

/-! ## PLLs (R281, R314) -/

/-- Blocks released without a locked clock are recorded and stay clamped; PLL_LOCK rises (R281, R314). -/
def unlocked (blocks : List Nat) (s : State) : State :=
  let old := s.fget F.RST_STATUS_CLK_UNSTABLE_REL
  let s := s.fset F.RST_STATUS_CLK_UNSTABLE_REL (blocks.foldl (fun v b => setBitTo v b true) old)
  let s := s.modRst (fun r => { r with clamped := blocks.foldl (fun v b => setBitTo v b true) r.clamped })
  raiseFault 9 (s.fset F.PWR_STATUS_LOCK_FAIL 1)

/-- PLL_RELEASE (R281, R310, R311, R314). After a reset the core PLL's release brings HIF out of reset and starts the self-test of a
cold start or the clear of a warm one. -/
def pllReleased (pll : Pll) (locked : Bool) (s : State) : State :=
  let next : PllState := if locked then .running else .unlocked
  match pll with
  | .core =>
    if s.pwr.corePll ≠ .starting then s
    else
      let s := s.modPwr (fun p => { p with corePll := next })
      let s := if s.rst.coreRel then s
        else s.modRst (fun r => { r with hifRel := true, phase := if r.cold then .sramTest else .sramClear })
      if locked then s else unlocked [0, 1, 4] s
  | .host h =>
    if s.pwr.hostPll[h] ≠ .starting then s
    else
      let s := s.modPwr (fun p => { p with hostPll := p.hostPll.set h next })
      if locked then s else unlocked [2 + h.val] s
  | .lane p =>
    if (s.port p).lane.pll ≠ .starting then s
    else
      let s := s.modLane p (fun l => { l with pll := next })
      if locked then startTraining p s else unlocked [5] s

/-! ## The self-test and the clear (R310, R311) -/

/-- SRAM_TEST_DONE: the arrays are tested, repaired and cleared, and the lane PLLs start; an array beyond repair is fatal. -/
def sramTested (ok : Bool) (s : State) : State :=
  if !(s.rst.cold && decide (s.rst.phase = .sramTest)) || s.flt.muzzle then s
  else if ok then startLanePlls (s.modRst (fun r => { r with clearing := false, phase := .loading }))
  else raiseFault 3 s

/-- SRAM_CLEAR_DONE: the warm clear ends. -/
def sramCleared (s : State) : State :=
  if s.rst.phase = .sramClear && !s.flt.muzzle then s.modRst (fun r => { r with clearing := false, phase := .loading }) else s

/-- T_RESET_RELEASE (R312): every port that may train starts. -/
def releaseT (s : State) : State :=
  if s.rst.tHeld && !s.flt.muzzle then allPorts.foldl (fun t p => startTraining p t) (s.modRst (fun r => { r with tHeld := false })) else s

/-! ## The watchdog (R317) -/

/-- A write of RST_WDOG (R317, R321): setting EN and KICK start the count at TIMEOUT_MS. -/
def wdogWrite (v : Word) (s : State) : State :=
  let was := s.flag F.RST_WDOG_EN
  let s := (s.fset F.RST_WDOG_EN (fieldOf v 0 0)).fset F.RST_WDOG_TIMEOUT_MS (fieldOf v 31 16)
  if (bitOf v 0 && !was) || bitOf v 32 then
    s.modRst (fun r => { r with wdogLeft := 1000000 * max 1 (fieldOf v 31 16) })
  else s

/-- The watchdog expires (R317). -/
def wdogExpire (s : State) : State :=
  if s.flag F.RST_WDOG_EN && !s.rst.pHeld && (decide (s.pwr.state = .active) || decide (s.pwr.state = .doze)) then
    askReset .C 0 4 0#8 ((s.finc F.RST_COUNT_WDOG_COUNT 1).modRst (fun r => { r with wdogLeft := 0 }))
  else s

/-- LEFT_MS (R321). -/
def wdogLeftMs (s : State) : Nat :=
  if s.flag F.RST_WDOG_EN then ceilDiv s.rst.wdogLeft 1000000 else s.fget F.RST_WDOG_TIMEOUT_MS

end Sys2Proof.Machine
end

