-- ==== Sys2Proof/Machine/TimeOps.lean ====
section
/-! DEFINITION. What passes with time when no command waits (R283, R287): the model's clock and fabric time. -/

namespace Sys2Proof.Machine

/-- Fabric time counts: AON_CLK runs, that is REFCLK is present and the chip is not in SLEEP (R283, R289). -/
def State.fabricRuns (s : State) : Bool :=
  !s.rst.pHeld && s.pwr.refclk && decide (s.pwr.state ≠ .sleep)

/-- One nanosecond of fabric time at the servo's rate: the counter advances by 1, and by the whole nanoseconds the rate has
accumulated (R287). -/
def timTick (t : TimState) : TimState :=
  let acc := t.rateAcc + t.ratePpm
  let adj := acc / 1000000
  { t with now := BitVec.ofInt 64 (t.now.toNat + 1 + adj), rateAcc := acc - adj * 1000000 }

/-- The watchdog counts on AON_CLK in ACTIVE and DOZE while it is enabled (R317). -/
def State.wdogRuns (s : State) : Bool :=
  s.flag F.RST_WDOG_EN && s.fabricRuns && (decide (s.pwr.state = .active) || decide (s.pwr.state = .doze))

/-- An empty queue lets one nanosecond pass (DESIGN CHOICE, log entry 9). -/
def idleTick (s : State) : State :=
  { s with clock := s.clock + 1, tim := if s.fabricRuns then timTick s.tim else s.tim,
           rst := if s.wdogRuns then { s.rst with wdogLeft := s.rst.wdogLeft - 1 } else s.rst }

end Sys2Proof.Machine
end

