-- ==== Sys2Proof/Machine/SyncOps.lean ====
section
/-! DEFINITION. The time exchange and the setting of fabric time (R283 to R288). -/

namespace Sys2Proof.Machine

/-- A signed number of `n` bits as an integer. -/
def signedOf (n v : Nat) : Int := if v < 2 ^ (n - 1) then (v : Int) else (v : Int) - 2 ^ n

/-- The counter takes a new value: a step (R287, TIM_SET). -/
def timStep (now : Word) (s : State) : State :=
  let t := s.finc F.TIM_STATUS_STEPS 1
  { t with tim := { t.tim with now := now, fixes := t.tim.fixes + 1, sinceStep := 0, fresh := false } }

/-- The UP ports in ascending order. -/
def upPorts (s : State) : List NetPort := allPorts.filter (fun p => (s.port p).link.phase = .up)

/-- The choice of a parent, once per period (R286). A LEVEL of 31 that ends makes the next offset a step (R287)
(DESIGN CHOICE, log entry 50). -/
def chooseParent (s : State) : State :=
  if s.flag F.TIM_CTL_GM then { s with tim := { s.tim with level := 0 } }
  else
    let best := (upPorts s).foldl (fun (b : Option NetPort) p => match b with
      | none => some p
      | some q => if (s.port p).peerLevel < (s.port q).peerLevel then some p else b) none
    match best with
    | some p =>
      let lv := (s.port p).peerLevel
      if lv < s.fget F.TIM_CTL_MAX_LEVEL && lv < 30 then
        { s with tim := { s.tim with level := lv + 1, parent := p, fresh := s.tim.fresh || s.tim.level == 31 } }
      else { s with tim := { s.tim with level := 31 } }
    | none => { s with tim := { s.tim with level := 31 } }

/-- The TEX set a port sends now (R284). -/
def texSet (s : State) (p : NetPort) : Bytes :=
  let q := s.port p
  let hi := (q.texSent + 1) % 8 = 0
  let t1 := s.tim.now.toNat
  let (mid, valid) := if hi then (leBytes 3 (t1 / 2 ^ 40) ++ leBytes 1 0, false)
    else match q.tex with
      | some (pt, rx) => (leBytes 4 ((rx - pt).toNat % 2 ^ 32), true)
      | none => (leBytes 4 0, false)
  crBytes (leBytes 5 (t1 % 2 ^ 40) ++ mid ++ leBytes 1 (s.tim.level + 32 * b2n valid + 64 * b2n hi))

/-- TEX_SEND (R285, R286): an UP port sends a TEX, waking a sleeping direction; the period's choice of a parent is made with
the set of the lowest UP port. -/
def texSendGo (p : NetPort) (s : State) : State :=
  if !(s.routerRuns && s.fabricRuns && decide ((s.port p).link.phase = .up)) then s
  else
    let s := if (upPorts s).head? = some p then
        withTimeSync (fun t => chooseParent { t with tim := { t.tim with sinceStep := min 4 (t.tim.sinceStep + 1) } }) s
      else s
    let set := texSet s p
    (sendSet p (.tex set) (wakeTx p s)).modPort p (fun q => { q with texSent := q.texSent + 1 })

/-- The 64-bit value of a 40-bit T1 (R285): the one nearest own time, or under LEVEL 31 the one with the latest HI set's
upper bits. -/
def fullT1 (level : Nat) (now t1 hi : Nat) : Nat :=
  if level = 31 then t1 + 2 ^ 40 * hi
  else
    let base := now / 2 ^ 40 * 2 ^ 40 + t1
    let cands := [base, base + 2 ^ 40] ++ (if 2 ^ 40 ≤ base then [base - 2 ^ 40] else [])
    cands.foldl (fun b c => if (max c now - min c now) < (max b now - min b now) then c else b) base

/-- The servo's answer to an offset measured to the parent (R287): a step, or a slew at a free rate within 500 ppm (DESIGN CHOICE, log entry
15). -/
def servo (offset : Int) (s : State) : State :=
  let s := { s with tim := { s.tim with offsets := (offset :: s.tim.offsets).take 4 } }
  if (s.fget F.TIM_CTL_STEP_NS : Int) < offset.natAbs ∨ s.tim.fresh then
    raiseFault 26 (timStep (BitVec.ofInt 64 (s.tim.now.toNat - offset)) s)
  else
    { s with tim := { s.tim with ratePpm := (s.freeValue.toNat % 1001 : Nat) - (500 : Int) } }.tookFree

/-- Half of a signed number of nanoseconds; an odd one is rounded as a free bit says (DESIGN CHOICE, log entry 36). -/
def halfOf (v : Int) (up : Bool) : Int := (v + (if up then 1 else 0)).fdiv 2

/-- A TEX set that reaches the receiver of an UP link (R284 to R287). -/
def texHeard (p : NetPort) (set : Bytes) (s : State) : State :=
  if !(s.fabricRuns && decide ((s.port p).link.phase = .up)) then s
  else match crGood set with
  | none => crBad p s
  | some c =>
    let flags := leAt c 9 1
    let hi := flags.testBit 6
    let rx := s.tim.now
    let s := s.modPort p (fun q => { q with texHi := if hi then leAt c 5 3 else q.texHi, peerLevel := flags % 32 })
    let pt := BitVec.ofNat 64 (fullT1 s.tim.level rx.toNat (leAt c 0 5) (s.port p).texHi)
    let s := s.modPort p (fun q => { q with tex := some (pt, rx) })
    let s := withTimeSync (fun t => { t with tim := { t.tim with unsync := false } }) s
    if hi || !flags.testBit 5 then s
    else
      let u := signedOf 32 (leAt c 5 4)
      let v := (rx - pt).toInt
      let b := s.freeValue
      let s := s.tookFree
      let flight := halfOf (u + v) (bitOf b 0)
      let offset := halfOf (v - u) (bitOf b 1)
      let s := s.modPort p (fun q => { q with flight := flight.toNat })
      if s.tim.parent = p && decide (1 ≤ s.tim.level ∧ s.tim.level ≤ 30) then withTimeSync (servo offset) s else s

/-- TEX_RECEIVED (R284). -/
def texIn (p : NetPort) (set : Bytes) (s : State) : State := setsIn p 1 (texHeard p set) s

/-- A write of TIM_SET (R302): it steps the counter on a grandmaster or at LEVEL 31. -/
def timSetGo (v : Word) (s : State) : State :=
  if s.flag F.TIM_CTL_GM || s.tim.level = 31 then withTimeSync (timStep v) s else s

/-- A SLOW32 tick (R282, R283): in SLEEP, or with REFCLK absent, fabric time advances by 30,517 or 30,518 ns. -/
def slowTick (s : State) : State :=
  if s.rst.pHeld || s.fabricRuns then s
  else
    let f := s.tim.frac + 18944
    { s with tim := { s.tim with frac := f % 32768,
                                 now := s.tim.now + (if 32768 ≤ f then 30518#64 else 30517#64) } }

end Sys2Proof.Machine
end

