-- ==== Sys2Proof/Machine/AckOps.lean ====
section
/-! DEFINITION. Settlement of sent packets (R106, R108 to R111, R172, R221, R244, R268, R398, R399): acknowledgements, refusals,
timeouts, retries and broken pairs. -/

namespace Sys2Proof.Machine

/-! ## Reply reservations (R221, R244) -/

/-- A reservation is released; one that served a rendezvous window counts the bytes acknowledged for its SEND, which may then
complete (R221, R244, R398). -/
def releaseResv (h : HostPort) (r : Nat) (acked : Bool) (s : State) : State :=
  match tblGet r (s.host h).rem.resvs with
  | none => s
  | some v =>
    let s := modRem h (fun x => { x with resvs := tblDel r x.resvs }) s
    match (winOf s h v.win).rndv with
    | some (wq, idx) =>
      checkOp h wq idx (modOp h wq idx (fun o => if acked && v.isGet then { o with moved := o.moved + v.len } else o) s)
    | none => s

/-! ## How one packet ends -/

/-- How a sent packet ends: acknowledged, or with an error status and detail (R183). -/
inductive SentEnd
  | acked
  | failed (status detail : Nat)
deriving DecidableEq, Repr

/-- Payload bytes of a packet that moves data from the sender (R398). -/
def movedBytes (pkt : Packet) : Nat :=
  match pktOpcode pkt with
  | 1 | 2 | 6 => pktAt pkt 19 1 % 32
  | 0x21 | 0x22 | 0x24 => pktPlen pkt
  | 0x40 => pktAt pkt 28 2
  | _ => 0

/-- The request part of a packet's charge and its outstanding mark go (R106, R268). -/
def dropSent (h : HostPort) (key seq : Nat) (e : SentPkt) (s : State) : State :=
  modPair h key (fun p => { p with out := tblDel seq p.out, cong := { p.cong with inflight := p.cong.inflight - e.charge } }) s

/-- The response awaited for a request comes no more, or has come: its charge goes (R268). -/
def dropGet (h : HostPort) (key seq : Nat) (g : PendingGet) (s : State) : State :=
  modPair h key (fun p => { p with gets := tblDel seq p.gets,
                                   cong := { p.cong with inflight := p.cong.inflight - g.respCharge } }) s

/-- A request of an operation has ended. -/
def opSettled (h : HostPort) (wq idx : Nat) (s : State) : State :=
  checkOp h wq idx (modOp h wq idx (fun o => { o with unsettled := o.unsettled - 1 }) s)

/-- A rendezvous SEND whose RNDV_REQ failed closes its window and completes at once (R244). -/
def rndvFailed (h : HostPort) (wq idx : Nat) (s : State) : State :=
  match (tblGet wq (s.host h).wqs).bind (fun q => tblGet idx q.ops) with
  | some op =>
    match op.rndvWin with
    | some w => closeWin h w (modOp h wq idx (fun o => { o with rndvWin := none }) s)
    | none => s
  | none => s

/-- A request of an automatic get has ended (R243). -/
def getSettled (h : HostPort) (id status detail : Nat) (s : State) : State :=
  checkGet h id (modDelivery h id (fun d =>
    { d with open_ := d.open_ - 1, status := if d.status = 0 then status else d.status,
             detail := if d.status = 0 then detail else d.detail }) s)

/-- A request that awaits a response ends without one. -/
def getFailed (h : HostPort) (key seq status detail : Nat) (g : PendingGet) (s : State) : State :=
  let s := dropGet h key seq g s
  match g.owner with
  | .op wq idx => opSettled h wq idx (opError h wq idx status detail s)
  | .autoGet id => getSettled h id status detail s
  | _ => s

/-- What the end of a sent packet means to what it belongs to. A request with a response is settled by that response alone. -/
def ownerEnd (h : HostPort) (key seq : Nat) (e : SentPkt) (fin : SentEnd) (s : State) : State :=
  let waits := decide (pktOpcode e.pkt = 3 ∨ pktOpcode e.pkt = 5)
  match e.owner with
  | .reply r => releaseResv h r (decide (fin = .acked) && decide (pktOpcode e.pkt ≠ 0x0A)) s
  | .owed _ | .none => s
  | .autoGet _ =>
    match fin, (getPair s h key).bind (fun p => tblGet seq p.gets) with
    | .failed st d, some g => getFailed h key seq st d g s
    | _, _ => s
  | .op wq idx =>
    match fin with
    | .acked =>
      if waits then s else opSettled h wq idx (modOp h wq idx (fun o => { o with moved := o.moved + movedBytes e.pkt }) s)
    | .failed st d =>
      if waits then
        match (getPair s h key).bind (fun p => tblGet seq p.gets) with
        | some g => getFailed h key seq st d g s
        | none => s
      else
        let s := modOp h wq idx (fun o => if st = 4 then { o with moved := o.moved + movedBytes e.pkt } else o) s
        let s := if pktOpcode e.pkt = 7 then rndvFailed h wq idx s else s
        opSettled h wq idx (opError h wq idx st d s)

/-- One outstanding packet ends. -/
def endSent (h : HostPort) (key seq : Nat) (fin : SentEnd) (s : State) : State :=
  match (getPair s h key).bind (fun p => tblGet seq p.out) with
  | none => s
  | some e => ownerEnd h key seq e fin (dropSent h key seq e s)

/-! ## Giving up on a pair (R106, R110, R214) -/

/-- Every operation of the pair in progress completes GAVE_UP. -/
def giveUpOps (h : HostPort) (key : Nat) (s : State) : State :=
  (s.host h).wqs.foldl (fun t q =>
    q.2.ops.foldl (fun u o =>
      if o.2.begun && opPaired (dOp (opFirst o.2)) && decide (opKey q.2 o.2 = key) then
        let u := rndvFailed h q.1 o.1 u
        checkOp h q.1 o.1 (modOp h q.1 o.1 (fun o => { o with unsettled := 0, allSent := true }) (opError h q.1 o.1 2 0 u))
      else u) t) s

/-- The sender gives up on the pair: it is BROKEN, everything outstanding on it is dropped, its operations complete GAVE_UP, and the
reservations whose responses travel in it are released (DESIGN CHOICE, log entry 62). -/
def breakPair (h : HostPort) (key : Nat) (s : State) : State :=
  match getPair s h key with
  | none => s
  | some p =>
    let s := modPair h key (fun p => { p with broken := true, out := [], gets := [], cong := { p.cong with inflight := 0 } }) s
    let s := p.gets.foldl (fun t g => match g.2.owner with
      | .autoGet id => getSettled h id 2 0 t
      | _ => t) s
    let s := (s.host h).rem.resvs.foldl (fun t r => if r.2.pair = key then releaseResv h r.1 false t else t) s
    giveUpOps h key s

/-! ## ACK (R108, R109, R222, R270) -/

/-- The outstanding PSEQs that ACK_SEQ and SACK free. -/
def freedBy (p : PairRec) (ackSeq sack : Nat) : List Nat :=
  (p.out.map (·.1)).filter (fun q =>
    let behind := pseqDist ackSeq q
    let ahead := pseqDist q (ackSeq + 1)
    (decide (0 < behind) && decide (behind ≤ 4096)) || (decide (ahead < 128) && sack.testBit ahead))

/-- The round-trip sample of an ACK, if it gives one (R270): governed, never retransmitted, not negative, no correction of the
counter between hand-over and the ACK's ejection. -/
def rttSample (e : SentPkt) (ej : Ejection) (hold : Nat) : Option Nat :=
  let span := ej.fabric.toNat - e.sentAt.toNat
  if e.resent || !governed e.pkt || decide (e.fixes ≠ ej.fixes) || decide (ej.fabric.toNat < e.sentAt.toNat + hold) then none
  else some (span - hold)

/-- An ACK at the source (R108): it frees PSEQs, takes its sample, updates the window and settles operations. -/
def ackIn (h : HostPort) (key : Nat) (pkt : Packet) (ej : Ejection) (s : State) : State :=
  match getPair s h key with
  | none => s
  | some p =>
    let ackSeq := pktAt pkt 16 3
    let status := pktAt pkt 19 1
    let trig := pktAt pkt 20 3
    let hold := pktAt pkt 24 4
    let freed := freedBy p ackSeq (pktAt pkt 32 16)
    let bad := decide (status = 1 ∨ status = 2)
    let gone := if bad && (tblGet trig p.out).isSome && !freed.contains trig then freed ++ [trig] else freed
    let bytes := (gone.map (fun q => (tblGet q p.out).elim 0 (·.charge))).sum
    let s := match tblGet trig p.out with
      | none => s
      | some e =>
        match rttSample e ej hold with
        | some rtt => ccSample h key rtt bytes e.sentAt s
        | none =>
          let s := modPair h key (fun p => { p with cong := { p.cong with carry := p.cong.carry + bytes } }) s
          if e.resent then s.finc F.CC_STAT_NO_SAMPLE 1 h.val else s
    gone.foldl (fun t q =>
      endSent h key q (if bad && decide (q = trig) then .failed (if status = 1 then 4 else 5) 0 else .acked) t) s

/-! ## NACK (R110, R111, R399) -/

/-- A retry-class reason. -/
def retryReason (r : Nat) : Bool := [0x04, 0x05, 0x06, 0x0D, 0x0E, 0x0F, 0x10, 0x11].contains r

/-- The NOP that fills a refused PSEQ, in the class of its packet (R104, R110). -/
def nopFor (s : State) (e : SentPkt) (seq : Nat) : Packet :=
  mkPkt (newW0 1 (pktTc e.pkt) (pktDstChip e.pkt) s.chip) (newW1 (pktDstEp e.pkt) (pktSrcEp e.pkt) 0x0A true true false)
    (shortBody seq 0 0 0 0 [] [])

/-- A final refusal (R110): the operation ends, and a NOP takes the PSEQ; a NOP finally refused, or ENDPOINT_LOST, breaks the pair.
A response's reservation stays with its PSEQ. -/
def finalRefusal (h : HostPort) (key seq reason : Nat) (s : State) : State :=
  match (getPair s h key).bind (fun p => tblGet seq p.out) with
  | none => s
  | some e =>
    if pktOpcode e.pkt = 0x0A then breakPair h key s
    else
      let isReply := match e.owner with
        | .reply _ => true
        | _ => false
      let s := dropSent h key seq e s
      let s := if isReply then s else ownerEnd h key seq e (.failed 1 reason) s
      if reason = 3 then breakPair h key s
      else
        let nop := nopFor s e seq
        let r : SentPkt := { pkt := nop, owner := if isReply then e.owner else .none, timeouts := 0, refusals := 0, resent := false,
                             sentAt := s.tim.now, charge := 0, backoff := false, due := false, fixes := s.tim.fixes }
        inject nop (modPair h key (fun p => { p with out := tblSet seq r p.out }) s)

/-- A NACK at the source (R110, R111, R272). -/
def nackIn (h : HostPort) (key : Nat) (pkt : Packet) (s : State) : State :=
  match getPair s h key with
  | none => s
  | some p =>
    let seq := pktAt pkt 16 3
    let reason := pktAt pkt 19 1
    let freed := freedBy p (pktAt pkt 20 3) (pktAt pkt 32 16)
    let s := freed.foldl (fun t q => endSent h key q .acked t) s
    match (getPair s h key).bind (fun p => tblGet seq p.out) with
    | none => s
    | some e =>
      if !retryReason reason then finalRefusal h key seq reason s
      else
        let n := e.refusals + b2n (decide (reason ≠ 0x0D))
        let s := modPair h key (fun p => { p with out := tblMod seq (fun e => { e with timeouts := 0, refusals := n, backoff := true }) p.out }) s
        let s := if (reason = 5 ∨ reason = 0xE ∨ reason = 0xF) ∧ governed e.pkt then ccRefusal h key e.sentAt s else s
        if 256 ≤ n then finalRefusal h key seq reason s else s

/-! ## Timeouts and retries (R106, R110) -/

/-- A transmission again: a GET_RESP reads its window again, once its data comes it is sent (R221); any other packet goes as it is. -/
def againReply (h : HostPort) (key seq : Nat) (reread : Nat → State → State) (s : State) : State :=
  match (getPair s h key).bind (fun p => tblGet seq p.out) with
  | none => s
  | some e =>
    match e.owner, decide (pktOpcode e.pkt = 0x23) with
    | .reply r, true => reread r s
    | _, _ => resend h key seq s

end Sys2Proof.Machine
end

