-- ==== Sys2Proof/Machine/FloatOps.lean ====
section
/-! DEFINITION. IEEE 754 binary arithmetic on encoded values (R101, R257): F32 and F64, round to nearest even, subnormals kept. -/

namespace Sys2Proof.Machine

/-- A binary format: its exponent and fraction bits. -/
structure FloatFmt where
  e : Nat
  m : Nat
deriving DecidableEq, Repr

/-- F32 (ATYPE 0x4). -/
def f32 : FloatFmt := ⟨8, 23⟩
/-- F64 (ATYPE 0x5). -/
def f64 : FloatFmt := ⟨11, 52⟩

/-- Exponent field. -/
def fExp (f : FloatFmt) (x : Nat) : Nat := x / 2 ^ f.m % 2 ^ f.e
/-- Fraction field. -/
def fFrac (f : FloatFmt) (x : Nat) : Nat := x % 2 ^ f.m
/-- Sign bit. -/
def fNeg (f : FloatFmt) (x : Nat) : Bool := x.testBit (f.e + f.m)
/-- The value is a NaN. -/
def fNan (f : FloatFmt) (x : Nat) : Bool := decide (fExp f x = 2 ^ f.e - 1) && decide (fFrac f x ≠ 0)
/-- The value is an infinity. -/
def fInf (f : FloatFmt) (x : Nat) : Bool := decide (fExp f x = 2 ^ f.e - 1) && decide (fFrac f x = 0)
/-- A finite value's magnitude in units of the smallest subnormal. -/
def fMag (f : FloatFmt) (x : Nat) : Nat := if fExp f x = 0 then fFrac f x else (2 ^ f.m + fFrac f x) * 2 ^ (fExp f x - 1)
/-- The infinity of a sign. -/
def fInfOf (f : FloatFmt) (neg : Bool) : Nat := b2n neg * 2 ^ (f.e + f.m) + (2 ^ f.e - 1) * 2 ^ f.m

/-- The value of a sign and a magnitude of `mag` units divided by 2^sh, rounded to nearest, ties to even. -/
def fRound (f : FloatFmt) (neg : Bool) (mag sh : Nat) : Nat :=
  let lsb := max sh (mag.log2 - f.m)
  let q := mag / 2 ^ lsb
  let r := mag % 2 ^ lsb
  let up := decide (2 ^ lsb < 2 * r) || (decide (2 ^ lsb = 2 * r) && q % 2 == 1)
  let t := q + b2n (up && decide (0 < lsb))
  let bits := (lsb - sh) * 2 ^ f.m + t
  if (2 ^ f.e - 1) * 2 ^ f.m ≤ bits then fInfOf f neg else b2n neg * 2 ^ (f.e + f.m) + bits

/-- The signed number of units of a finite value. -/
def fUnits (f : FloatFmt) (x : Nat) : Int := if fNeg f x then -(fMag f x : Int) else (fMag f x : Int)

/-- Sum; `none` is a NaN. -/
def fAdd (f : FloatFmt) (x y : Nat) : Option Nat :=
  if fNan f x || fNan f y then none
  else if fInf f x then (if fInf f y && fNeg f x != fNeg f y then none else some x)
  else if fInf f y then some y
  else
    let n := fUnits f x + fUnits f y
    if n = 0 then some (fRound f (fNeg f x && fNeg f y) 0 0) else some (fRound f (decide (n < 0)) n.natAbs 0)

/-- Product; `none` is a NaN. The unit of a product is the square of the smallest subnormal. -/
def fMul (f : FloatFmt) (x y : Nat) : Option Nat :=
  let neg := fNeg f x != fNeg f y
  if fNan f x || fNan f y then none
  else if fInf f x || fInf f y then
    (if (!fInf f x && fMag f x == 0) || (!fInf f y && fMag f y == 0) then none else some (fInfOf f neg))
  else some (fRound f neg (fMag f x * fMag f y) (2 ^ (f.e - 1) - 2 + f.m))

/-- `x` lies below `y`, with −0 below +0; neither is a NaN. The encodings order like signed magnitudes. -/
def fLess (f : FloatFmt) (x y : Nat) : Bool :=
  let n := 2 ^ (f.e + f.m)
  match fNeg f x, fNeg f y with
  | true, false => true
  | false, true => false
  | false, false => decide (x % n < y % n)
  | true, true => decide (y % n < x % n)

/-- IEEE 754 minimum; `none` is a NaN. -/
def fMin (f : FloatFmt) (x y : Nat) : Option Nat :=
  if fNan f x || fNan f y then none else some (if fLess f y x then y else x)

/-- IEEE 754 maximum; `none` is a NaN. -/
def fMax (f : FloatFmt) (x y : Nat) : Option Nat :=
  if fNan f x || fNan f y then none else some (if fLess f x y then y else x)

/-- The quiet NaN of R257. -/
def fQuiet (f : FloatFmt) : Nat := (2 ^ f.e - 1) * 2 ^ f.m + 2 ^ (f.m - 1)

/-- Some NaN, chosen by a free value: sign and non-zero fraction. -/
def fSomeNan (f : FloatFmt) (v : Word) : Nat :=
  b2n (bitOf v 63) * 2 ^ (f.e + f.m) + (2 ^ f.e - 1) * 2 ^ f.m + (v.toNat % (2 ^ f.m - 1) + 1)

end Sys2Proof.Machine
end

