-- ==== Sys2Proof/Machine/TargetOps.lean ====
section
/-! DEFINITION. The target of a remote access (R101, R103 to R109, R217 to R225, R237): the check order, the commits, replies,
atomics, flushes, page requests and the miss park. -/

namespace Sys2Proof.Machine

/-! ## Acknowledging (R107 to R109) -/

/-- PSEQ `q` lies behind EXP. -/
def seqBehind (exp q : Nat) : Bool := decide (0 < pseqDist exp q) && decide (pseqDist exp q ≤ 8192)

/-- ACK_SEQ: EXP, or the oldest consumed PSEQ whose flush or atomic has not ended (R109, R222). -/
def ackBase (p : PairRec) : Nat :=
  p.durable.foldl (fun a q => if pseqDist p.exp.toNat a < pseqDist p.exp.toNat q && seqBehind p.exp.toNat q then q else a) p.exp.toNat

/-- An acknowledgement covers PSEQ `q`. -/
def ackCovers (p : PairRec) (q : Nat) : Bool :=
  (seqBehind p.exp.toNat q || p.consumed.contains q) && !p.durable.contains q

/-- SACK: bit i for PSEQ ACK_SEQ + 1 + i (R108). -/
def ackSack (p : PairRec) : Nat :=
  (List.range 128).foldl (fun a i => a + (if ackCovers p ((ackBase p + 1 + i) % 16777216) then 2 ^ i else 0)) 0

/-- EXP moves over consumed PSEQs. -/
def advanceExp : Nat → PairRec → PairRec
  | 0, p => p
  | n + 1, p =>
    if p.consumed.contains p.exp.toNat then
      advanceExp n { p with exp := p.exp + 1, consumed := p.consumed.erase p.exp.toNat }
    else p

/-- PSEQ `q` is consumed (R107). -/
def takeSeq (q : Nat) (p : PairRec) : PairRec := advanceExp (p.consumed.length + 1) { p with consumed := p.consumed ++ [q] }

/-- Sends an ACK for everything consumed (R108); `time` is the trigger's ejection by the model clock. -/
def ackOut (h : HostPort) (key status trig : Nat) (time : Word) (s : State) : State :=
  match getPair s h key with
  | none => s
  | some p =>
    let pkt := mkPkt (newW0 1 (s.useClass (·.control)) (keyChip key) s.chip) (newW1 (keyPeer key) (keyEp key) 0x08 true true false)
      (ackBody (ackBase p) status trig (s.clock - time.toNat) (ackSack p))
    inject pkt (modPair h key (fun p => { p with unacked := 0, trig := none }) s)

/-- A consumption that may be acknowledged (R108): at once with ACK_NOW or as the 16th, else within 256 ns of the first. -/
def noteConsumed (h : HostPort) (key q : Nat) (now : Bool) (time : Word) (s : State) : State :=
  let s := modPair h key (fun p => { p with unacked := p.unacked + 1, trig := p.trig.orElse (fun _ => some (q, time)) }) s
  if now || (getPair s h key).any (fun p => decide (16 ≤ p.unacked)) then ackOut h key 0 q time s else s

/-- A packet is consumed; messages that its pair held back are released (R107, R238). -/
def consume (h : HostPort) (key : Nat) (pkt : Packet) (time : Word) (s : State) : State :=
  let s := modPair h key (takeSeq (pktPseq pkt)) s
  let s := noteConsumed h key (pktPseq pkt) (pktAckNow pkt) time s
  releaseReady h key 4100 s

/-- A packet is consumed, and no acknowledgement covers it before its flush or its atomic has ended (R109, R222). -/
def consumePending (h : HostPort) (key : Nat) (pkt : Packet) (s : State) : State :=
  let s := modPair h key (fun p => takeSeq (pktPseq pkt) { p with durable := p.durable ++ [pktPseq pkt] }) s
  releaseReady h key 4100 s

/-- ACK_COALESCE_TIMEOUT (R108). -/
def coalesced (h : HostPort) (key : Nat) (s : State) : State :=
  match (getPair s h key).bind (·.trig) with
  | some (q, time) => if s.hostLive h then ackOut h key 0 q time s else s
  | none => s

/-! ## Free data -/

/-- `n` words whose values nothing fixes. -/
def freeWords : Nat → State → Bytes × State
  | 0, s => ([], s)
  | n + 1, s =>
    let r := freeWords n s.tookFree
    (leBytes 8 s.freeValue.toNat ++ r.1, r.2)

/-- `n` bytes whose values nothing fixes (DESIGN CHOICE, log entry 1). -/
def freeBytes (n : Nat) (s : State) : Bytes × State :=
  let r := freeWords (ceilDiv n 8) s
  (r.1.take n, r.2)

/-! ## Replies (R102, R104, R221) -/

/-- Changes a reservation. -/
def modResv (h : HostPort) (r : Nat) (f : Resv → Resv) (s : State) : State :=
  modRem h (fun x => { x with resvs := tblMod r f x.resvs }) s

/-- The response of a reservation with PSEQ `seq`. -/
def replyPkt (s : State) (v : Resv) (seq : Nat) : Packet :=
  let tc := s.useClass (·.response)
  let dst := keyChip v.pair
  if v.isGet then
    mkPkt (newW0 2 tc dst s.chip) (newW1 (keyPeer v.pair) (keyEp v.pair) 0x23 true true false)
      (longBody (leBytes 3 seq ++ leBytes 2 v.len ++ leBytes 1 0 ++ leBytes 3 v.reqSeq) (padTo v.len v.data))
  else
    mkPkt (newW0 1 tc dst s.chip) (newW1 (keyPeer v.pair) (keyEp v.pair) 0x0B true true false)
      (shortBody seq 0 0 v.reqSeq 0 (padTo 8 v.data ++ leBytes 2 (b2n v.failed)) [])

/-- A response whose data is complete is sent from its reserved space, or sent again with what was read anew (R221). -/
def replySend (h : HostPort) (r : Nat) (s : State) : State :=
  match tblGet r (s.host h).rem.resvs with
  | none => s
  | some v =>
    if !v.ready || !s.hostLive h then s
    else match needPair h v.pair s with
    | (s, .ready) =>
      match getPair s h v.pair with
      | none => s
      | some p =>
        if p.broken then releaseResv h r false s
        else if p.quiet || longPutOpen s h v.pair none then s
        else match v.respSeq with
        | some q =>
          let pkt := withPcrc (pktSetRetx (replyPkt s v q))
          let s := modPair h v.pair (fun p => { p with out := tblMod q (fun e => { e with pkt := pkt }) p.out }) s
          resend h v.pair q (modResv h r (fun v => { v with ready := false }) s)
        | none =>
          if !pseqOpen p then s
          else
            let st := s
            sendSeq h v.pair (.reply r) (replyPkt st v) none
              (modResv h r (fun v => { v with ready := false, respSeq := some p.next.toNat }) s)
    | (s, _) => s

/-- The reads of a response's data. -/
def replyReads (h : HostPort) (r : Nat) : Nat → List Piece → State → State
  | _, [], s => s
  | off, p :: rest, s =>
    replyReads h r (off + p.len) rest (hostReqUnder h (.getRead r off p.len) p.bus p.len p.noSnoop (some p.under) s)

/-- A get starts the read of its window (R221). -/
def startReply (h : HostPort) (r : Nat) (pieces : List Piece) (s : State) : State :=
  replyReads h r 0 pieces (modResv h r (fun v =>
    { v with reads := pieces.length, again := false, data := List.replicate v.len 0#8 }) s)

/-- The accesses to the ranges of a window access, each one request of at most `lim` bytes (R154, R193). -/
def rangeAccesses (lim pd : Nat) (ranges : List (Nat × Nat × Nat)) (read write paged : Bool) : List XAccess :=
  ranges.flatMap (fun r => (rangePieces lim r.1 r.2.1).map (fun p =>
    { pd := pd, va := p.1, len := p.2, read := read, write := write, paged := paged, stop := r.2.2 }))

/-! ## On-demand paging (R224, R225) -/

/-- The page of a window access is held as failed. -/
def pageFailed (s : State) (h : HostPort) (a : XAccess) : Bool :=
  a.paged && (s.host h).rem.pages.any (fun p => p.2.failed && decide (p.2.pd = a.pd ∧ p.2.page = a.va / 4096))

/-- Outstanding page requests. -/
def pagesOut (s : State) (h : HostPort) : Nat := ((s.host h).rem.pages.filter (fun p => !p.2.failed)).length

/-- An absent page (R224): the tag of the request for it, or none can be sent. -/
def pageRequest (h : HostPort) (a : XAccess) (s : State) : Nat × State :=
  match (s.host h).rem.pages.find? (fun p => !p.2.failed && decide (p.2.pd = a.pd ∧ p.2.page = a.va / 4096)) with
  | some p => (p.1, s)
  | none =>
    if 512 ≤ pagesOut s h then (0xFFFFFFFF, s.finc F.EPC_ERR_PRI_FULL 1 h.val)
    else
      let tag := firstGap 0 (s.host h).rem.pages
      (tag, hostSlot h true ((modRem h (fun x => { x with pages := tblSet tag ⟨a.pd, a.va / 4096, a.write, false⟩ x.pages }) s).emit
        (.pageRequest h tag a.pd (a.va / 4096) a.write)))

/-- A page request ends without success: the page is held as failed (R225). Held pages are numbered from 512
(DESIGN CHOICE, log entry 63). -/
def pageFail (h : HostPort) (tag : Nat) (s : State) : State :=
  match tblGet tag (s.host h).rem.pages with
  | some p =>
    if p.failed then s
    else modRem h (fun x => { x with pages := tblSet (firstGap 512 x.pages) { p with failed := true } (tblDel tag x.pages) }) s
  | none => s

/-- A retransmitted GET_RESP reads its window again (R221); where that ends in a fault its data is free. While a page of it is absent the
page is requested, and nothing is sent until the next timeout (R224; DESIGN CHOICE, log entry 85). -/
def replyReread (h : HostPort) (known : Option (Walk × WalkEnd)) (r : Nat) (s : State) : State :=
  match tblGet r (s.host h).rem.resvs with
  | none => s
  | some v =>
    if decide (0 < v.reads) || v.ready || !v.isGet then s
    else match translateAll h (some (.reply r)) known (rangeAccesses (maxRead s h) v.pd v.ranges true false v.paged) s with
    | (.all ps, s) => startReply h r ps s
    | (.stop a .absent, s) => modResv h r (fun v => { v with again := false }) (pageRequest h a s).2
    | (.stop a (.fault c l), s) =>
      let f := freeBytes v.len (xltFault h a.pd a.va true 1 c l s)
      replySend h r (modResv h r (fun v => { v with data := f.1, ready := true, again := false }) f.2)
    | (_, s) => modResv h r (fun v => { v with again := true }) s

/-- GET_READ_DONE (R221): the window read completes; the bytes of a read that failed are free. -/
def getReadDone (h : HostPort) (r off len : Nat) (data : Option Bytes) (s : State) : State :=
  let d := match data with
    | some b => (padTo len b, s)
    | none => freeBytes len (reqFail h s)
  let s := modResv h r (fun v => { v with data := patchBytes v.data off d.1, reads := v.reads - 1, ready := decide (v.reads = 1) }) d.2
  replySend h r s

/-- Responses that wait go on. -/
def pumpReplies (h : HostPort) (s : State) : State :=
  (s.host h).rem.resvs.foldl (fun t r => if r.2.again then replyReread h none r.1 t else replySend h r.1 t) s

/-! ## Timeouts (R106, R110) -/

/-- A timeout of a packet whose pair record is on chip (R106, R272): 16 in a row give up the pair. -/
def timeoutHere (h : HostPort) (key seq : Nat) (e : SentPkt) (s : State) : State :=
  let n := e.timeouts + 1
  let s := if governed e.pkt then ccTimeout h key e.sentAt s else s
  if 16 ≤ n then breakPair h key s
  else againReply h key seq (replyReread h none)
    (modPair h key (fun p => { p with out := tblMod seq (fun e => { e with timeouts := n }) p.out }) s)

/-- A timeout, or the end of a BACKOFF, of a packet whose pair record is on chip (R106, R110). -/
def lateHere (h : HostPort) (key seq : Nat) (retry : Bool) (s : State) : State :=
  match (getPair s h key).bind (fun p => tblGet seq p.out) with
  | none => s
  | some e =>
    if !retry then timeoutHere h key seq e s
    else if e.backoff then againReply h key seq (replyReread h none) s
    else s

/-- A timeout, or the end of a BACKOFF, falls due. A pair record that is not on chip is fetched first (R213), and it is served then. -/
def lateDue (h : HostPort) (key seq : Nat) (retry : Bool) (s : State) : State :=
  if !(getPair s h key).any (fun p => (tblGet seq p.out).isSome) then s
  else match needPair h key s with
  | (s, .ready) => lateHere h key seq retry s
  | (s, _) => modRem h (fun x => if x.late.contains (key, seq, retry) then x else { x with late := x.late ++ [(key, seq, retry)] }) s

/-- What fell due while its pair's record was off chip is served once the record is there. -/
def pumpLate (h : HostPort) (s : State) : State :=
  (s.host h).rem.late.foldl (fun t e =>
    if fetching t h (.pair e.1) then t
    else lateDue h e.1 e.2.1 e.2.2 (modRem h (fun x => { x with late := x.late.erase e }) t)) s

/-- E2E_TIMEOUT (R106). -/
def e2eTimeoutIn (h : HostPort) (key seq : Nat) (s : State) : State := if s.hostLive h then lateDue h key seq false s else s

/-- REFUSAL_RETRY (R110): the BACKOFF of a refused packet has ended. -/
def refusalRetryIn (h : HostPort) (key seq : Nat) (s : State) : State := if s.hostLive h then lateDue h key seq true s else s

/-- Everything of a port that waits goes on: timeouts, replies, operations, deliveries and receives. -/
def pumpPort (h : HostPort) (s : State) : State := if s.hostLive h then pumpAll h (pumpReplies h (pumpLate h s)) else s

/-! ## Flushes (R109, R223) -/

/-- Issues a flush that covers every put waiting for one. -/
def startFlush (h : HostPort) (s : State) : State :=
  let x := (s.host h).rem
  if x.unflushed.isEmpty || decide (64 ≤ x.flushes.length) then s
  else
    let id := firstGap 0 x.flushes
    pmcHost h.val 0x3F 1 (hostReq h (.flush id) 0 0 false
      (modRem h (fun x => { x with flushes := tblSet id x.unflushed x.flushes, unflushed := [] }) s))

/-- A put whose flush has ended is acknowledged (R109). -/
def flushAck (h : HostPort) (ok : Bool) (d : DurablePut) (s : State) : State :=
  ackOut h d.pair (b2n (!ok)) d.pseq d.time (modPair h d.pair (fun p => { p with durable := p.durable.erase d.pseq }) s)

/-- FLUSH_DONE (R223). -/
def flushEnd (h : HostPort) (id : Nat) (ok : Bool) (s : State) : State :=
  let puts := (tblGet id (s.host h).rem.flushes).getD []
  let s := if ok then s else reqFail h s
  let s := modRem h (fun x => { x with flushes := tblDel id x.flushes }) s
  startFlush h (puts.foldl (fun t d => flushAck h ok d t) s)

/-! ## Atomics (R101, R222) -/

/-- A signed value of `n` bits. -/
def toSigned (n v : Nat) : Int := if v < 2 ^ (n - 1) then (v : Int) else (v : Int) - 2 ^ n

/-- An integer operation of R101 on `n`-bit values. -/
def intAtomic (atop n : Nat) (signed : Bool) (old x cmp : Nat) : Nat :=
  let less := if signed then decide (toSigned n old < toSigned n x) else decide (old < x)
  match atop with
  | 0 => (old + x) % 2 ^ n
  | 1 => old &&& x
  | 2 => old ||| x
  | 3 => old ^^^ x
  | 4 => if less then old else x
  | 5 => if less then x else old
  | 6 => x
  | _ => if old = cmp then x else old

/-- A floating-point operation of R101; `none` is a NaN. -/
def floatAtomic (atop : Nat) (f : FloatFmt) (old x cmp : Nat) : Option Nat :=
  match atop with
  | 0 => fAdd f old x
  | 4 => fMin f old x
  | 5 => fMax f old x
  | 6 => some x
  | _ => some (if old = cmp then x else old)

/-- The result an atomic writes; which NaN a floating-point result is, R101 leaves open (DESIGN CHOICE, log entry 1). -/
def atomicResult (a : AtomicOp) (old : Nat) (s : State) : Nat × State :=
  let n := 8 * atypeBytes a.atype
  let x := a.opnd.toNat % 2 ^ n
  let c := a.cmp.toNat % 2 ^ n
  if a.atype < 4 then (intAtomic a.atop n (decide (2 ≤ a.atype)) old x c, s)
  else
    let f := if a.atype = 4 then f32 else f64
    match floatAtomic a.atop f old x c with
    | some v => (v, s)
    | none => (fSomeNan f s.freeValue, s.tookFree)

/-- Starts every atomic that no earlier one on the same 8-byte-aligned address holds back (R222). -/
def startAtomics (h : HostPort) (s : State) : State :=
  (s.host h).rem.atomics.foldl (fun t a =>
    match tblGet a.1 (t.host h).rem.atomics with
    | none => t
    | some x =>
      if x.started || (t.host h).rem.atomics.any (fun b => decide (b.1 < a.1) && decide (b.2.addr / 8 = x.addr / 8)) then t
      else
        hostReqUnder h (.atomicRead a.1) x.addr (atypeBytes x.atype) x.noSnoop x.under
          (modRem h (fun y => { y with atomics := tblMod a.1 (fun k => { k with started := true }) y.atomics }) t)) s

/-- ATOMIC_READ_DONE (R222): the result is written and acknowledged or responded; a failed read writes nothing. -/
def atomicDone (h : HostPort) (u : Nat) (data : Option Bytes) (s : State) : State :=
  match tblGet u (s.host h).rem.atomics with
  | none => s
  | some a =>
    let n := atypeBytes a.atype
    let s := modRem h (fun x => { x with atomics := tblDel u x.atomics }) s
    let old := leAt (data.getD []) 0 n
    let s := match data with
      | none => reqFail h s
      | some _ =>
        let r := atomicResult a old s
        hostWrite h a.addr (leBytes n r.1) { plainAttr with noSnoop := a.noSnoop } r.2
    let s := match a.resv with
      | some r => replySend h r (modResv h r (fun v => { v with
          data := if data.isSome then leBytes 8 old else [], failed := data.isNone, ready := true }) s)
      | none =>
        let s := modPair h a.pair (fun p => { p with durable := p.durable.erase a.pseq }) s
        if data.isSome then noteConsumed h a.pair a.pseq true a.time s else ackOut h a.pair 2 a.pseq a.time s
    startAtomics h s

/-! ## Format and class (R98, R100 to R104, R110) -/

/-- The class is permitted for the opcode (R104). -/
def classOk (s : State) (pkt : Packet) : Bool :=
  let tc := pktTc pkt
  match pktOpcode pkt with
  | 8 | 9 => decide (tc = s.useClass (·.control))
  | 0x0A => s.requestClass tc || decide (tc = s.useClass (·.response))
  | 0x0B | 0x23 => decide (tc = s.useClass (·.response))
  | _ => s.requestClass tc

/-- A length, count or code of the packet is out of its range (R100 to R103). -/
def rangeBad (pkt : Packet) : Bool :=
  let ilen := pktAt pkt 19 1 % 32
  match pktOpcode pkt with
  | 1 | 2 => decide (ilen = 0 ∨ 16 < ilen)
  | 3 => decide (getReqLen pkt = 0 ∨ 4096 < getReqLen pkt)
  | 4 | 5 => !atomicOk (pktAt pkt 20 1) (pktAt pkt 21 1 % 16)
  | 6 => decide (16 < ilen)
  | 7 => decide (pktAt pkt 32 4 = 0)
  | 0x21 | 0x22 | 0x23 | 0x24 => decide (pktPlen pkt = 0 ∨ 4096 < pktPlen pkt)
  | 0x40 => decide (pktAt pkt 24 1 ≠ 0x21) || decide (pktAt pkt 28 2 < 8 ∨ 2048 < pktAt pkt 28 2 ∨ pktAt pkt 28 2 % 8 ≠ 0)
  | _ => false

/-- The packet is MALFORMED (R104, R110). -/
def malformed (s : State) (pkt : Packet) : Bool :=
  match opcodeRow (pktOpcode pkt) with
  | none => true
  | some (fmt, _) => decide (pktFmt pkt ≠ fmt) || !classOk s pkt || rangeBad pkt

/-! ## The window check (R215 to R218, R242) -/

/-- What a packet asks of its window: key check, index in the port's range, offset, length, needed ACCESS bit, alignment. -/
structure WinAsk where
  index : Option Nat
  gen   : Option Nat
  off   : Nat
  len   : Nat
  need  : Nat
  align : Nat
  /-- The alignment is that of the packet's own address, not of the target address (R101, R103). -/
  own   : Bool
deriving DecidableEq, Repr

/-- The window access of a request (DESIGN CHOICE, log entry 64). -/
def winAsk (s : State) (h : HostPort) (pkt : Packet) : WinAsk :=
  let wkey := pktAt pkt 28 4
  let idx := if wkey % 2 ^ 20 / 2 ^ 19 = h.val then some (wkey % 2 ^ 19) else none
  let base : WinAsk := { index := idx, gen := some (wkey / 2 ^ 20), off := pktAt pkt 22 6, len := 0, need := 1, align := 1,
                         own := false }
  match pktOpcode pkt with
  | 1 | 2 => { base with len := pktAt pkt 19 1 % 32 }
  | 3 => { base with len := getReqLen pkt, need := 0 }
  | 4 | 5 =>
    let n := atypeBytes (pktAt pkt 21 1 % 16)
    { base with len := n, need := 2, align := n }
  | 0x40 =>
    let key := pktAt pkt 26 2
    { index := if key < s.fget F.WIN_VP_COUNT h.val then some (s.fget F.WIN_VP_BASE h.val + key) else none, gen := none,
      off := pktAt pkt 32 8, len := pktAt pkt 28 2, need := 1, align := 8, own := true }
  | _ => { base with len := pktPlen pkt }

/-- VP_FLAGS.NOTIFY. -/
def vpNotify (pkt : Packet) : Bool := pktOpcode pkt = 0x40 && (pktAt pkt 25 1).testBit 0
/-- VP_FLAGS.ORDERED. -/
def vpOrdered (pkt : Packet) : Bool := pktOpcode pkt = 0x40 && (pktAt pkt 25 1).testBit 1

/-- Step 4 of R219 on an entry that is on chip: the reason of a refusal. -/
def winCheck (w : Window) (q : WinAsk) (pd : Nat) (notify : Bool) : Option Nat :=
  if !w.isOpen || q.gen.any (fun g => decide (g ≠ w.gen)) then some 7
  else if w.pd ≠ pd then some 8
  else if !w.access.testBit q.need || (notify && !w.access.testBit 4) then some 9
  else if w.len < q.off + q.len then some 0xA
  else if (if q.own then q.off else w.va + q.off) % q.align ≠ 0 then some 0xB
  else none

/-- The ranges a window access touches: for a rendezvous window those of the SEND's segment list (R242). -/
def winRanges (s : State) (h : HostPort) (w : Window) (q : WinAsk) : List (Nat × Nat × Nat) :=
  match w.rndv with
  | some (wq, idx) =>
    match (tblGet wq (s.host h).wqs).bind (fun x => tblGet idx x.ops) with
    | some op => segRanges (opSegs op.descs) q.off q.len
    | none => []
  | none => [(w.va + q.off, q.len, w.va + w.len)]

/-! ## The commits (R103, R220 to R223) -/

/-- Data bytes of a put. -/
def putData (pkt : Packet) : Bytes :=
  match pktOpcode pkt with
  | 1 | 2 => pktSlice pkt 32 (pktAt pkt 19 1 % 32)
  | 0x40 => pktSlice pkt 40 (pktAt pkt 28 2)
  | _ => pktSlice pkt 32 (pktPlen pkt)

/-- The data writes of a packet, one per piece. -/
def writePieces (h : HostPort) (durable : Bool) : Bytes → List Piece → State → State
  | _, [], s => s
  | data, p :: rest, s =>
    let attr := if durable then { plainAttr with noSnoop := p.noSnoop } else dataAttr s h p.noSnoop
    writePieces h durable (data.drop p.len) rest (hostWrite h p.bus (data.take p.len) attr s)

/-- NOTIFY entry bytes 4 to 55 (R182). -/
def notifyBody (pkt : Packet) : Bytes :=
  leBytes 4 (pktAt pkt 30 2) ++ leBytes 2 (pktAt pkt 26 2) ++ leBytes 6 0 ++ leBytes 4 (pktAt pkt 28 2) ++
    leBytes 4 (pktSrcChip pkt) ++ leBytes 4 (pktSrcEp pkt) ++ leBytes 4 (pktDstEp pkt) ++ leBytes 8 (pktAt pkt 32 8)

/-- The put is durable. -/
def isDurable (pkt : Packet) : Bool := decide (pktOpcode pkt = 2 ∨ pktOpcode pkt = 0x22)

/-- Step 7 of R219: the refusal for want of a commit resource. -/
def commitRefusal (h : HostPort) (p : PairRec) (w : Window) (pkt : Packet) (s : State) : State × Option (Nat × Nat) :=
  let op := pktOpcode pkt
  if (op = 3 ∨ op = 5) ∧ 4096 ≤ (s.host h).rem.resvs.length then (s, some (0xE, 0))
  else if isDurable pkt && s.pwr.pfwActive && s.flag F.PWR_PFW_DURABLE_REFUSE then (s, some (0xF, 0))
  else if vpNotify pkt && !eqTakes s h w.eq then (eqOverflow h w.eq s, some (0xF, w.eq))
  else if vpOrdered pkt && decide (pktPseq pkt ≠ p.exp.toNat) then (s, some (0x10, 0))
  else (s, none)

/-- A rendezvous SEND learns that its LAST GET_REQ has been consumed (R244). -/
def noteLast (h : HostPort) (w : Window) (pkt : Packet) (s : State) : State :=
  match w.rndv with
  | some (wq, idx) => if pktOpcode pkt = 3 && pktLast pkt then modOp h wq idx (fun o => { o with lastSeen := true }) s else s
  | none => s

/-- A final refusal of a GET_REQ through a rendezvous window is the SEND's error (R244); one that WINDOW_INVALID refuses does not name
the SEND's window. -/
def noteRefused (h : HostPort) (w : Window) (pkt : Packet) (reason : Nat) (s : State) : State :=
  match w.rndv with
  | some (wq, idx) =>
    if pktOpcode pkt = 3 && !retryReason reason && decide (reason ≠ 7) then
      let s := opError h wq idx 1 reason s
      checkOp h wq idx (noteLast h w pkt s)
    else s
  | none => s

/-- Takes a reply reservation. -/
def takeResv (h : HostPort) (v : Resv) (s : State) : Nat × State :=
  let r := (s.host h).rem.nextResv
  (r, modRem h (fun x => { x with resvs := tblSet r v x.resvs, nextResv := r + 1 }) s)

/-- An atomic enters the atomic unit (R222). -/
def atomicIn (h : HostPort) (key : Nat) (pkt : Packet) (time : Word) (p : Piece) (resv : Option Nat) (win : Nat) (s : State) : State :=
  let a : AtomicOp :=
    { pair := key, pseq := pktPseq pkt, addr := p.bus, atop := pktAt pkt 20 1, atype := pktAt pkt 21 1 % 16,
      opnd := BitVec.ofNat 64 (pktAt pkt 32 8), cmp := BitVec.ofNat 64 (pktAt pkt 48 8), resv := resv, win := win, started := false,
      noSnoop := p.noSnoop, under := some p.under, invs := [], time := time }
  modRem h (fun x => { x with atomics := tblSet x.nextResv a x.atomics, nextResv := x.nextResv + 1 }) s

/-- Step 8 of R219 for a packet that names a window. -/
def commitWin (h : HostPort) (key : Nat) (pkt : Packet) (time : Word) (idx : Nat) (w : Window) (q : WinAsk)
    (pieces : List Piece) (s : State) : State :=
  let resv : Resv := { pair := key, reqSeq := pktPseq pkt, win := idx, len := q.len, pd := w.pd, ranges := winRanges s h w q,
                       paged := w.access.testBit 3, tc := pktTc pkt, isGet := decide (pktOpcode pkt = 3), respSeq := none, data := [], reads := 0, failed := false,
                       ready := false, again := false }
  match pktOpcode pkt, pieces with
  | 3, ps =>
    let r := takeResv h resv s
    startReply h r.1 ps (noteLast h w pkt (consume h key pkt time r.2))
  | 4, p :: _ => startAtomics h (atomicIn h key pkt time p none idx (consumePending h key pkt s))
  | 5, p :: _ =>
    let r := takeResv h resv s
    startAtomics h (atomicIn h key pkt time p (some r.1) idx (consume h key pkt time r.2))
  | _, ps =>
    let s := writePieces h (isDurable pkt) (putData pkt) ps s
    if isDurable pkt then
      startFlush h (modRem h (fun x => { x with unflushed := x.unflushed ++ [⟨key, pktPseq pkt, time⟩] }) (consumePending h key pkt s))
    else
      let s := if vpNotify pkt then eqDecide h w.eq (mkEvent s 3 0 (notifyBody pkt)) s else s
      consume h key pkt time s

/-- Steps 4 to 8 of R219 for a packet that names a window and is New. -/
def judgeWin (h : HostPort) (key : Nat) (c : EpCtx) (p : PairRec) (pkt : Packet) (time : Word) (known : Option (Walk × WalkEnd))
    (s : State) : State × Verdict :=
  let q := winAsk s h pkt
  match q.index.filter (fun i => decide (i < winCount s h)) with
  | none => (s, .refuse 7 0)
  | some idx =>
    match needWin h idx s with
    | (s, some w) => (s, .park w)
    | (s, none) =>
      let w := winOf s h idx
      match winCheck w q c.pd (vpNotify pkt) with
      | some r => (noteRefused h w pkt r s, .refuse r 0)
      | none =>
        let op := pktOpcode pkt
        let lim := if op = 3 then maxRead s h else maxWrite s h
        let as := rangeAccesses lim w.pd (winRanges s h w q) (decide (op = 3 ∨ op = 4 ∨ op = 5)) (decide (op ≠ 3)) (w.access.testBit 3)
        if as.any (pageFailed s h) then (s, .refuse 0xC 1)
        else match translateAll h none known as s with
        | (.stop a (.fault f l), s) =>
          (noteRefused h w pkt 0xC (xltFault h a.pd a.va true (accessNeed a) f l s), .refuse 0xC f)
        | (.stop a .absent, s) =>
          let r := pageRequest h a s
          (r.2, .refuse 0xD r.1)
        | (.stop a .wait, s) => (s, .park (.walk a.pd (a.va / 4096)))
        | (.stop _ _, s) => (s, .park .room)
        | (.all ps, s) =>
          match commitRefusal h p w pkt s with
          | (s, some (r, d)) => (s, .refuse r d)
          | (s, none) => (commitWin h key pkt time idx w q ps s, .commit)

/-! ## Responses at the requester (R219, R221, R243) -/

/-- Where a response's data goes: domain, segments, offset and length; nothing where its operation no longer exists. -/
def respDest (s : State) (h : HostPort) (g : PendingGet) : Option (Nat × List Segment × Nat × Nat) :=
  match g.owner with
  | .op wq idx =>
    (tblGet wq (s.host h).wqs).bind (fun q => (tblGet idx q.ops).map (fun op =>
      if dOp (opFirst op) = 5 then (q.pd, [⟨dResult (opFirst op), g.len⟩], 0, g.len) else (q.pd, opSegs op.descs, g.off, g.len)))
  | .autoGet id =>
    (tblGet id (s.host h).mte.deliveries).map (fun d =>
      (d.recv.pd, d.recv.segs, g.off, if getTotal d = 0 then 0 else min g.len (getTotal d - g.off)))
  | _ => none

/-- The delivery of an automatic get whose data, ending at `stop`, reaches segments that have not been read (R231). -/
def respShort (s : State) (h : HostPort) (g : PendingGet) (stop : Nat) : Option (Nat × Delivery) :=
  match g.owner with
  | .autoGet id => ((tblGet id (s.host h).mte.deliveries).filter (fun d => segsShort d stop)).map (fun d => (id, d))
  | _ => none

/-- A response has been written, or its write has ended in a fault: the request is settled. -/
def respEnd (h : HostPort) (key : Nat) (pkt : Packet) (g : PendingGet) (n status detail : Nat) (s : State) : State :=
  let s := dropGet h key (pktAt pkt 22 3) g s
  match g.owner with
  | .op wq idx =>
    let s := if status ≠ 0 then opError h wq idx status detail s
      else if pktOpcode pkt = 0x0B then modOp h wq idx (fun o => { o with value := BitVec.ofNat 64 (pktAt pkt 32 n) }) s
      else modOp h wq idx (fun o => { o with moved := o.moved + n }) s
    opSettled h wq idx s
  | .autoGet id =>
    let s := if status = 0 then modDelivery h id (fun d => { d with moved := d.moved + n }) s else s
    getSettled h id status detail s
  | _ => s

/-- A response that is New (R219): it is written to its operation's local buffer, consumed and acknowledged
(DESIGN CHOICE, log entry 61). -/
def judgeResp (h : HostPort) (key : Nat) (p : PairRec) (pkt : Packet) (time : Word) (known : Option (Walk × WalkEnd)) (s : State) :
    State × Verdict :=
  match (tblGet (pktAt pkt 22 3) p.gets).bind (fun g => (respDest s h g).map (fun d => (g, d))) with
  | none =>
    let s := match tblGet (pktAt pkt 22 3) p.gets with
      | some g => dropGet h key (pktAt pkt 22 3) g s
      | none => s
    (consume h key pkt time s, .commit)
  | some (g, pd, segs, off, len) =>
    let fetch := decide (pktOpcode pkt = 0x0B)
    let n := if fetch then len else min len (pktPlen pkt)
    if fetch && decide (pktAt pkt 40 2 ≠ 0) then (consume h key pkt time (respEnd h key pkt g 0 5 0 s), .commit)
    else if fetch || (respShort s h g (off + n)).isNone then
    match translateAll h none known (segAccesses (maxWrite s h) pd segs off n false true) s with
    | (.stop a (.fault c l), s) =>
      (consume h key pkt time (respEnd h key pkt g 0 3 c (xltFault h a.pd a.va false 2 c l s)), .commit)
    | (.stop a .wait, s) => (s, .park (.walk a.pd (a.va / 4096)))
    | (.stop _ _, s) => (s, .park .room)
    | (.all ps, s) =>
      let s := writePieces h false (pktSlice pkt 32 n) ps s
      (consume h key pkt time (respEnd h key pkt g (if fetch then n else (ps.map (·.len)).sum) 0 0 s), .commit)
    else match respShort s h g (off + n) with
    | some (id, d) => (readSegs h id d s, .park (.record id))
    | none => (s, .drop)

/-! ## The check order (R219) -/

/-- A PSEQ is New (R107). -/
def seqNew (p : PairRec) (q : Nat) : Bool := decide (pseqDist q p.exp.toNat < 4096) && !p.consumed.contains q

/-- A PSEQ is Outside the window (R107); one that is neither New nor Outside is a Duplicate. -/
def seqOutside (p : PairRec) (q : Nat) : Bool :=
  decide (4096 ≤ pseqDist q p.exp.toNat) && decide (pseqDist q p.exp.toNat < 16773120)

/-- The key of an arriving packet's pair. -/
def arrivalKey (pkt : Packet) : Nat := pairKey (pktDstEp pkt) (pktSrcChip pkt) (pktSrcEp pkt)

/-- The endpoint of an arrival, or what comes of it (R110, R213, R226). Replies and acknowledgements are served while an endpoint
is being destroyed, and dropped at a halted function. -/
def judgeEp (h : HostPort) (pkt : Packet) (s : State) : State × Except Verdict EpCtx :=
  let reply := pktIsReply pkt
  if !s.hostPresent h.val then (s, .error (.early 2))
  else match tblGet (pktDstEp pkt) (s.host h).eps with
  | none => (s, .error (.early 2))
  | some c =>
    if !s.hostLive h then (s, .error (if reply then .drop else .early 4))
    else if c.gone then (s, .error (.early (if s.flag F.EPC_LOST_FLAG h.val then 3 else 2)))
    else if c.closing && !reply then (s, .error (.early 2))
    else if c.lost then (s, .error (.early 3))
    else match needBoth h (pktDstEp pkt) (arrivalKey pkt) s with
    | (s, some w) => (s, .error (.park w))
    | (s, none) => (s, .ok c)

/-- An ACK or NACK (R108, R110): its pair must exist; it is fetched where it is not on chip. -/
def judgeAck (h : HostPort) (pkt : Packet) (ej : Ejection) (s : State) : State × Verdict :=
  match judgeEp h pkt s with
  | (s, .error (.park w)) => (s, .park w)
  | (s, .error _) => (s, .drop)
  | (s, .ok _) =>
    let key := arrivalKey pkt
    match getPair s h key with
    | none => (s, .drop)
    | some _ =>
      match needPair h key s with
      | (s, .wait w) => (s, .park w)
      | (s, .full) => (s, .drop)
      | (s, .ready) =>
        let s := if pktOpcode pkt = 8 then ackIn h key pkt ej s else nackIn h key pkt s
        (pumpPort h s, .commit)

/-- A sequenced packet that is New: by its kind, its checks and its commit (R219). -/
def judgeNew (h : HostPort) (key : Nat) (c : EpCtx) (p : PairRec) (pkt : Packet) (time : Word) (known : Option (Walk × WalkEnd))
    (s : State) : State × Verdict :=
  let op := pktOpcode pkt
  if op = 0x0A then (consume h key pkt time s, .commit)
  else if op = 0x0B ∨ op = 0x23 then
    match judgeResp h key p pkt time known s with
    | (s, .commit) => (pumpPort h s, .commit)
    | r => r
  else if op = 6 ∨ op = 7 ∨ op = 0x24 then
    match msgNew h key p pkt s with
    | (s, .commit) => (consume h key pkt time s, .commit)
    | r => r
  else judgeWin h key c p pkt time known s

/-- A sequenced packet of a pair on chip, by where its PSEQ stands (R107, R219): a duplicate is counted and acknowledged again
(DESIGN CHOICE, log entries 58 and 60). Nothing of the pair is taken before the messages that its reorder store must release (R238). -/
def judgeOrder (h : HostPort) (key : Nat) (c : EpCtx) (p : PairRec) (pkt : Packet) (time : Word) (known : Option (Walk × WalkEnd))
    (s : State) : State × Verdict :=
  if seqOutside p (pktPseq pkt) then ({ s with discards := { s.discards with window := s.discards.window + 1 } }, .drop)
  else if !(readyHeld p).isEmpty then (s, .later)
  else if seqNew p (pktPseq pkt) then judgeNew h key c p pkt time known s
  else
    let s := pmcAdd 68 0x25 1 s
    (if p.durable.contains (pktPseq pkt) then s else ackOut h key 0 (pktPseq pkt) time s, .drop)

/-- A sequenced packet (R219). -/
def judgeSeq (h : HostPort) (pkt : Packet) (time : Word) (known : Option (Walk × WalkEnd)) (s : State) : State × Verdict :=
  match judgeEp h pkt s with
  | (s, .error v) => (s, v)
  | (s, .ok c) =>
    let key := arrivalKey pkt
    match needPair h key s with
    | (s, .wait w) => (s, .park w)
    | (s, .full) => (s, .early 6)
    | (s, .ready) =>
      match getPair s h key with
      | none => (s, .drop)
      | some p => judgeOrder h key c p pkt time known s

/-- A packet has an opcode that R104 does not list, or lists under another FMT (DESIGN CHOICE, log entry 59). -/
def pktUnlisted (k : Packet) : Bool :=
  match opcodeRow (pktOpcode k) with
  | none => true
  | some (fmt, _) => decide (pktFmt k ≠ fmt)

/-- A packet that is not sequenced is discarded; one whose opcode is not listed, or under another FMT, is counted (R104; DESIGN CHOICE,
log entry 58). -/
def countOpcode (pkt : Packet) (s : State) : State :=
  if pktUnlisted pkt then { s with discards := { s.discards with opcode := s.discards.opcode + 1 } } else s

/-- A packet that is not sequenced leaves the NIC without effect. -/
def discardPkt (pkt : Packet) (s : State) : State := nicSlot 2 (countOpcode pkt s)

/-- What becomes of a packet addressed to an endpoint (R105, R110, R219). -/
def judge (pkt : Packet) (ej : Ejection) (known : Option (Walk × WalkEnd)) (s : State) : State × Verdict :=
  let h := epPort (pktDstEp pkt)
  if !pcrcOk pkt then (pmcAdd 68 0x21 1 s, .drop)
  else if malformed s pkt then if pktSequenced pkt then (s, .early 1) else (countOpcode pkt s, .drop)
  else if pktOpcode pkt = 8 ∨ pktOpcode pkt = 9 then judgeAck h pkt ej s
  else judgeSeq h pkt ej.clock known s

/-- Carries out a refusal (R110, R399). -/
def refuse (pkt : Packet) (v : Verdict) (s : State) : State :=
  match v with
  | .early r => nackEarly pkt r s
  | .refuse r d =>
    let h := epPort (pktDstEp pkt)
    match getPair s h (arrivalKey pkt) with
    | some p => nackWith pkt r d (ackBase p) (ackSack p) s
    | none => nackEarly pkt r s
  | _ => s

/-- The pair record of a packet is on chip. -/
def pairHere (s : State) (pkt : Packet) : Bool :=
  (getPair s (epPort (pktDstEp pkt)) (arrivalKey pkt)).any (·.onChip)

/-- The slot of the check pipeline that a verdict ends, where no refusal counts its own (R356; DESIGN CHOICE, log entry 82). -/
def verdictSlot (v : Verdict) (s : State) : State :=
  match v with
  | .commit => nicSlot 1 s
  | .drop => nicSlot 2 s
  | .later => nicSlot 4 s
  | _ => s

/-- A packet that must wait enters the miss park, or is refused with MISS_PARK_FULL (R21); one that cannot be refused is dropped. -/
def parkPkt (pkt : Packet) (ej : Ejection) (w : ParkWait) (s : State) : State :=
  if parkRoom s pkt then
    pmcAdd 68 0x23 1 { s with park := s.park ++ [{ h := epPort (pktDstEp pkt), pkt := pkt, ejected := ej, wait := w }] }
  else
    let s := s.finc F.EPC_PARK_ERR_FULL 1
    if !pktSequenced pkt then nicSlot 2 s
    else refuse pkt (if pairHere s pkt then .refuse 5 0 else .early 5) s

/-! ## Release (R25, R213) -/

/-- Parked packets whose wait is over run the check order again, those of one endpoint in arrival order (R25, R218). -/
def releaseGo (known : Option (Walk × WalkEnd)) : List Parked → List Parked → State → State
  | [], kept, s => { s with park := kept }
  | k :: rest, kept, s =>
    if kept.any (fun x => pktDstEp x.pkt == pktDstEp k.pkt) || !waitOver s k then releaseGo known rest (kept ++ [k]) s
    else
      match judge k.pkt k.ejected known { s with park := kept ++ k :: rest } with
      | (t, .park w) => releaseGo known rest (kept ++ [{ k with wait := w }]) t
      | (t, .later) => releaseGo known rest (kept ++ [{ k with wait := .room }]) t
      | (t, v) => releaseGo known rest kept (verdictSlot v (refuse k.pkt v t))

/-- The miss park is served. -/
def releaseParked (known : Option (Walk × WalkEnd)) (s : State) : State :=
  if s.park.isEmpty then s else releaseGo known s.park [] s

/-- Packets that wait for room, or for more of a record, try again once something has ended (R25): a context may have become evictable. -/
def roomAgain (s : State) : State :=
  if s.park.any (fun k => match k.wait with | .room | .record _ => waitOver s k | _ => false) then releaseParked none s else s

/-- After the end of something, everything of a port that waits goes on, and what waits for room in the park. -/
def portGoesOn (h : HostPort) (s : State) : State := roomAgain (pumpPort h s)

/-- The window a parked packet names, where it needs one. -/
def parkedWin (s : State) (k : Parked) : Option Nat :=
  if [1, 2, 3, 4, 5, 0x21, 0x22, 0x40].contains (pktOpcode k.pkt) then (winAsk s k.h k.pkt).index else none

/-- The context of a packet is on chip. -/
def ctxHere (s : State) (pkt : Packet) : Bool := (tblGet (pktDstEp pkt) (s.host (epPort (pktDstEp pkt))).eps).any (·.onChip)

/-- A parked packet needs this record next: it waits for its fetch, or for room to fetch it (R24). -/
def needsRecord (s : State) (h : HostPort) (w : ParkWait) (k : Parked) : Bool :=
  k.h == h && (k.wait == w || (k.wait == .room && (match w with
    | .context ep => decide (pktDstEp k.pkt = ep)
    | .pair key => decide (arrivalKey k.pkt = key) && ctxHere s k.pkt
    | .window i => decide (parkedWin s k = some i) && ctxHere s k.pkt && pairHere s k.pkt
    | _ => false)))

/-- A fetch failed (R24, R213): every packet parked for its record is refused with FETCH_FAILED. -/
def refuseFetch (h : HostPort) (w : ParkWait) (s : State) : State :=
  let mine := s.park.filter (needsRecord s h w)
  let s := { s with park := s.park.filter (fun k => !needsRecord s h w k) }
  mine.foldl (fun t k =>
    if !pktSequenced k.pkt then nicSlot 2 t
    else refuse k.pkt (match w with
      | .window _ => .refuse 6 0
      | _ => .early 6) t) s

/-! ## Arrival (R15, R23) -/

/-- The packet leaves the ejection buffer into the NIC (R355, R359). -/
def takeEject (ip : IntPort) (e : InPacket) (s : State) : State :=
  let s := pmcClass (64 + ip.val) 1 (crossCycles e.pkt) e.tc (pmcClass 68 0x20 1 e.tc s)
  let s := capture [{ point := 3, port := 64 + ip.val, cause := 0, dwell := 0, pkt := pktSetAge e.pkt (inAge s e) }] s
  s.modInt ip (fun q => { q with eject := q.eject.drop 1 })

/-- The instant of a packet's ejection. -/
def ejection (e : InPacket) : Ejection := { clock := BitVec.ofNat 64 e.arrived, fabric := e.fabric, fixes := e.fixes }

/-- A packet at the head of an ejection buffer that is of the kind `mine` meets the check order; in DOZE it wakes the NIC and
stays (R294). -/
def arrive (mine : Packet → Bool) (ip : IntPort) (s : State) : State :=
  match s.ints[ip].eject with
  | [] => s
  | e :: _ =>
    if !mine e.pkt then s
    else if s.nicRuns && decide (s.pwr.state = .doze) then dozeWake 9 s
    else if !s.nicWorks then s
    else
      match judge e.pkt (ejection e) none s with
      | (t, .later) => nicSlot 4 t
      | (t, .park w) => roomAgain (parkPkt e.pkt (ejection e) w (takeEject ip e t))
      | (t, v) => roomAgain (verdictSlot v (refuse e.pkt v (takeEject ip e t)))

end Sys2Proof.Machine
end

