-- ==== Sys2Proof/Machine/PowerOps.lean ====
section
/-! DEFINITION. Power states, wake, the Whistle and the power-fail sequence (R289 to R300). -/

namespace Sys2Proof.Machine

/-! ## Entry (R290 to R292) -/

/-- The chip enters a power state; entry into DOZE, STANDBY or SLEEP applies PWR_BIAS (R293). -/
def enterState (t : PowerState) (s : State) : State :=
  s.modPwr (fun p => { p with state := t, bias := if t = .active then p.bias else (s.regWord .PWR_BIAS 0 0).setWidth 7 })

/-- Body bias of a domain in millivolts (R293): none in ACTIVE and in the router core in DOZE; reverse in the NIC in DOZE with DOZE_RBB, and
in STANDBY. In SLEEP the domains are off. -/
def bodyBias (s : State) (nic : Bool) : Int :=
  let rbb : Int := -50 * ((s.pwr.bias.toNat % 8 : Nat) : Int)
  match s.pwr.state with
  | .active | .sleep => 0
  | .doze => if nic && s.pwr.bias.getLsbD 3 then rbb else 0
  | .standby => rbb

/-- Memory-assist source bias in millivolts (R293): in STANDBY for every array, in SLEEP for the retained SRAM and the backup registers. -/
def memoryAssist (s : State) (retained : Bool) : Nat :=
  match s.pwr.state with
  | .active | .doze => 0
  | .standby => 50 * (s.pwr.bias.toNat / 16)
  | .sleep => if retained then 50 * (s.pwr.bias.toNat / 16) else 0

/-- A network port that has left the fabric, with its lanes off. -/
def portOff (q : Port) : Port := { portReset with lane := { laneReset with pll := q.lane.pll, fail := q.lane.fail, leave := q.lane.leave } }

/-- Entry to STANDBY or SLEEP starts (R291): every UP port goes down as RETRAIN does, and what the router holds is lost. -/
def startEntry (target : PowerState) (s : State) : State :=
  let s := (upPorts s).foldl (fun t p => resetL p 2 4 false t) s
  let s := { s with ports := s.ports.map portOff, ints := s.ints.map intHeld }
  s.modPwr (fun p => { p with transition := some (.entry target none), nicWaking := false,
                              state := if p.state = .doze then .active else p.state })

/-- Both host links are down (R291). -/
def hostsDown (s : State) : Bool := allHosts.all (fun h => hostStatus s h = 0)

/-- The SLEEP entry of the power-fail sequence (R300): each host port that is not LINK_DOWN is F-reset first. An entry to STANDBY under way
goes on to SLEEP, and an exit from STANDBY gives way to it (DESIGN CHOICE, log entry 48). -/
def startPfwSleep (s : State) : State :=
  if s.pwr.state = .sleep then s
  else match s.pwr.transition with
  | some (.entry _ wake) => s.modPwr (fun p => { p with transition := some (.entry .sleep wake) })
  | _ => startEntry .sleep (allHosts.foldl (fun t h => if hostStatus t h = 0 then t else linkOff h (funcStart h t)) s)

/-- The exit from STANDBY or SLEEP starts (R297): from STANDBY the PLLs start, from SLEEP the core domains are powered. -/
def startExit (source : PowerState) (thenDoze : Bool) (s : State) : State :=
  let s := s.modPwr (fun p => { p with transition := some (.exit source thenDoze) })
  if source = .standby && !s.flt.muzzle then
    startLanePlls (s.modPwr (fun p => { p with corePll := .starting, hostPll := Vector.replicate 2 .starting }))
  else s.modPwr (fun p => { p with coreOn := true })

/-! ## Wake (R296 to R298) -/

/-- PWR_WAKE_SRC receives a wake that left `from` (R298) (DESIGN CHOICE, log entry 49). -/
def recordWakeFrom (source : Nat) (noRef : Bool) (from_ : PowerState) (s : State) : State :=
  s.setWord .PWR_WAKE_SRC (packFields [(3, 0, source), (4, 4, b2n noRef), (6, 5, powerCode from_), (63, 16, s.tim.now.toNat)]) 0 0

/-- A wake source is enabled (R296): 0x0 to 0x6 by their bit of PWR_WAKE_EN, the others always. -/
def wakeEnabled (source : Nat) (s : State) : Bool := decide (7 ≤ source) || (s.fget F.PWR_WAKE_EN_EN).testBit source

/-- The sources that wake from STANDBY as well as from SLEEP (R296). -/
def wakesStandby (source : Nat) : Bool := [0, 2, 5, 6, 7].contains source

/-- A wake event (R291, R296 to R298): one that meets an entry is recorded and starts the exit when the entry completes. -/
def wakeEvent (source : Nat) (thenDoze : Bool) (s : State) : State :=
  if !wakeEnabled source s || s.rst.pHeld then s
  else
    let may := fun (st : PowerState) => decide (st = .sleep) || (decide (st = .standby) && wakesStandby source)
    match s.pwr.transition with
    | some (.exit _ _) => s
    | some (.entry t none) =>
      if may t then
        (recordWakeFrom source false t s).modPwr (fun p => { p with transition := some (.entry t (some source)) })
      else s
    | some (.entry _ (some _)) => s
    | none =>
      if may s.pwr.state then startExit s.pwr.state thenDoze (recordWakeFrom source false s.pwr.state s) else s

/-- POWER_ENTRY_DONE (R291): the entry completes once no write pulse is in progress; a recorded wake starts the exit. -/
def entryDone (s : State) : State :=
  match s.pwr.transition with
  | some (.entry target wake) =>
    if pulsing s.cfg then s
    else
      let s := { s with ports := s.ports.map (fun q => { portOff q with lane := { (portOff q).lane with pll := .off } }),
                        ints := s.ints.map intHeld }
      let s := watchSupply (watchRefclk ((enterState target s).modPwr (fun p =>
        { p with transition := none, corePll := .off, hostPll := Vector.replicate 2 .off,
                 coreOn := decide (target ≠ .sleep), pfwActive := p.pfwActive && decide (target ≠ .sleep) })))
      let s := if target = .sleep then withTimeSync (fun t => { t with tim := { t.tim with unsync := true } }) s else s
      if wake.isSome then startExit target false s else s
  | _ => s

/-- WAKE_EXIT_DONE (R297, R331): from STANDBY the ports may train again; the exit from SLEEP performs its C reset, which
escalation replaces while a Muzzle with ESC_RESET stands. Either way the lock array starts as after a P reset (R340). -/
def exitDone (s : State) : State :=
  match s.pwr.transition with
  | some (.exit .sleep _) =>
    if s.flt.muzzle && s.flag F.FLT_CTL_ESC_RESET then
      watchSupply (watchRefclk ({ s with locks := Vector.replicate 256 lockReset }.modPwr (fun p =>
        { p with state := .active, transition := none })))
    else watchSupply (holdC 9 0#8 false false s)
  | some (.exit _ thenDoze) =>
    let s := (enterState (if thenDoze then .doze else .active) s).modPwr (fun p => { p with transition := none })
    let s := watchRefclk s
    allPorts.foldl (fun t p => startTraining p t) s
  | _ => s

/-! ## Requests (R291, R292) -/

/-- Enters STANDBY or SLEEP on request if both host ports are LINK_DOWN, or under the power-fail sequence SLEEP with their
F resets. -/
def requestLow (target : PowerState) (s : State) : State :=
  if target = .sleep && s.pwr.pfwActive then startPfwSleep s
  else if !hostsDown s then s.fset F.PWR_STATUS_ENTRY_ERR 1
  else startEntry target s

/-- A request of a power state by a master (R291, R292). -/
def requestPower (mid : Mid) (target : PowerState) (s : State) : State :=
  if s.pwr.transition.isSome then s.fset F.PWR_STATUS_ENTRY_ERR 2
  else if s.pwr.pfwActive && decide (target ≠ .sleep) then s.fset F.PWR_STATUS_ENTRY_ERR 3
  else
    let s := s.fset F.PWR_STATUS_ENTRY_ERR 0
    let low := mid = 0#8 || mid = 1#8
    match s.pwr.state, target with
    | .active, .active | .doze, .doze | .standby, .standby | .sleep, .sleep => s
    | .active, .doze => (enterState .doze s).modPwr (fun p => { p with nicWaking := false })
    | .doze, .active => dozeWake 7 s
    | .active, .standby | .doze, .standby => requestLow .standby s
    | .active, .sleep | .doze, .sleep => requestLow .sleep s
    | .standby, .sleep => if low then startEntry .sleep s else s
    | .standby, .active => if low then wakeEvent 7 false s else s
    | .standby, .doze => if low then wakeEvent 7 true s else s
    | .sleep, _ => if low then wakeEvent 7 false s else s

/-- The state a REQ code names (R302). -/
def powerOf (code : Nat) : PowerState :=
  match code with
  | 0 => .active
  | 1 => .doze
  | 2 => .standby
  | _ => .sleep

/-- A write of PWR_CTL: its fields are set, and REQ requests a state. -/
def pwrCtlWrite (mid : Mid) (v : Word) (s : State) : State :=
  let s := (s.fset F.PWR_CTL_REQ (fieldOf v 1 0)).fset F.PWR_CTL_AUTO_DOZE (fieldOf v 2 2)
  let s := (s.fset F.PWR_CTL_DOZE_LANE_IDLE (fieldOf v 15 8)).fset F.PWR_CTL_DOZE_IDLE_US (fieldOf v 31 16)
  requestPower mid (powerOf (fieldOf v 1 0)) s

/-- AUTO_DOZE (R291). -/
def autoDozeGo (s : State) : State :=
  if s.flag F.PWR_CTL_AUTO_DOZE && s.nicRuns && decide (s.pwr.state = .active) && s.pwr.transition.isNone && !s.pwr.nicWaking then
    enterState .doze s
  else s

/-- NIC_READY (R294): what was held proceeds. -/
def nicReadyGo (s : State) : State :=
  if s.pwr.nicWaking then
    let s := s.modPwr (fun p => { p with nicWaking := false })
    allHosts.foldl (fun t h => portGoesOn h (releaseBells h t)) s
  else s

/-! ## The Whistle (R299) -/

/-- WHISTLE: a management-bus address match in SLEEP. -/
def whistleGo (s : State) : State :=
  if s.pwr.state ≠ .sleep || s.pwr.transition.isSome then s
  else if s.pwr.refclk then s.modPwr (fun p => { p with whistle := true })
  else recordWakeFrom 1 true .sleep s

/-- A management-bus transaction has ended: in SLEEP, source 0x1 wakes the chip if it is enabled. -/
def whistleEnd (s : State) : State :=
  if s.pwr.state = .sleep && s.pwr.whistle then wakeEvent 1 false s else s

/-- WHISTLE_IDLE: back to SLOW32. -/
def whistleOff (s : State) : State := s.modPwr (fun p => { p with whistle := false })

/-! ## Supplies and the power-fail sequence (R289, R300) -/

/-- Every durable put that awaits a flush has its own issued at once (R300). -/
def flushEach (h : HostPort) (s : State) : State :=
  let puts := (s.host h).rem.unflushed
  puts.foldl (fun t d =>
    if (t.host h).rem.flushes.length < 64 then startFlush h (modRem h (fun x => { x with unflushed := [d] }) t)
    else modRem h (fun x => { x with unflushed := x.unflushed ++ [d] }) t)
    (modRem h (fun x => { x with unflushed := [] }) s)

/-- POWER_FAIL (R300): DATA is the hold-up time less the microsecond of the debounce (DESIGN CHOICE, log entry 48). -/
def pfwOn (s : State) : State :=
  if s.pwr.pfw || s.rst.pHeld then s
  else
    let s := s.modPwr (fun p => { p with pfw := true })
    if s.pwr.state = .sleep then s
    else
      let s := s.modPwr (fun p => { p with pfwActive := true })
      let s := asyncChip 0x07 0 (BitVec.ofNat 64 (s.fget F.PWR_PFW_HOLDUP_US - 1)) s
      allHosts.foldl (fun t h => if t.hostLive h && t.nicRuns then flushEach h t else t) s

/-- PFW_DEASSERT (R300). -/
def pfwOff (s : State) : State :=
  if !s.pwr.pfw then s
  else wakeEvent 4 false (s.modPwr (fun p => { p with pfw := false, pfwActive := false }))

/-- SAVE_WINDOW_EXPIRY (R300). -/
def saveExpiry (s : State) : State :=
  if s.pwr.pfwActive && s.flag F.PWR_PFW_SLEEP_ON_PFW then startPfwSleep s else s

/-- PWRGD_FALL (R289, R300, R304): ignored in SLEEP; in the power-fail window it ends the window and causes SLEEP entry; else a C
reset with the core domains switched off. -/
def pwrgdOff (s : State) : State :=
  let s := s.modPwr (fun p => { p with pwrgd := false })
  if s.rst.pHeld || decide (s.pwr.state = .sleep) then s
  else if s.pwr.pfwActive then startPfwSleep s
  else askReset .C 0 3 0#8 s

/-- PWRGD_RISE (R296, R310): wakes from SLEEP, or starts the cold start of a chip held for it. The core supply counts as good with
it (DESIGN CHOICE, log entry 47). -/
def pwrgdOn (s : State) : State :=
  let s := s.modPwr (fun p => { p with pwrgd := true, coreOk := true })
  if s.rst.cHeld then (if s.rst.cold then releaseC s else s) else wakeEvent 3 false s

/-- REFCLK_LOSS (R282). -/
def refclkLost (s : State) : State :=
  let s := s.modPwr (fun p => { p with refclk := false })
  let s := withTimeSync (fun t => { t with tim := { t.tim with unsync := true } }) s
  if s.rst.pHeld then s else watchRefclk s

/-- AON_TIMER reaches 0 (R296). -/
def timerDone (s : State) : State :=
  if s.fget F.AON_TIMER_TICKS = 0 then s else wakeEvent 2 false (s.fset F.AON_TIMER_TICKS 0)

/-- PERST_RELEASE (R177, R296): the port may train its link again, and wake source 0x5 or 0x6 sees the release. -/
def perstOff (h : HostPort) (s : State) : State :=
  if (s.host h).hif.perst && s.hostPresent h.val then wakeEvent (5 + h.val) false (s.modHif h (fun x => { x with perst := false }))
  else s

/-! ## Retained SRAM (R302) -/

/-- An access to AON_RSRAM_DATA: the word at ADDR read or written; AUTO_INC advances ADDR by 8. -/
def rsramAccess (write : Option Word) (s : State) : State × Word :=
  let a := 8 * s.fget F.AON_RSRAM_ADDR_ADDR
  let old := BitVec.ofNat 64 (leNat (ramRead s.pwr.rsram a 8))
  let s := match write with
    | some v => s.modPwr (fun p => { p with rsram := ramWrite p.rsram a (leBytes 8 v.toNat) })
    | none => s
  (if s.flag F.AON_RSRAM_ADDR_AUTO_INC then s.fset F.AON_RSRAM_ADDR_ADDR (s.fget F.AON_RSRAM_ADDR_ADDR + 1) else s, old)

end Sys2Proof.Machine
end

