-- ==== Sys2Proof/Machine/FaultOps.lean ====
section
/-! DEFINITION. Error lines and the fault collector's commands (R289, R322 to R332). -/

namespace Sys2Proof.Machine

/-- The host port a source belongs to, where it is one of a pair for HIF (R322). -/
def hifSource (n : Nat) : Option Nat :=
  if n = 14 ∨ n = 15 then some (n - 14) else if 20 ≤ n ∧ n ≤ 23 then some (n % 2) else none

/-- The line of a source reaches the collector: lines of the core domains are held low while their block is clamped, held in
reset or unpowered (R323). REG_ACCESS is any block's. -/
def lineReaches (s : State) (n : Nat) : Bool :=
  !s.rst.pHeld && (aonSource n || decide (n = 10) ||
    (match hifSource n with
    | some h => s.hifRuns h
    | none =>
      if n = 31 then s.hifRuns 0 || s.hifRuns 1
      else if routerSource n then s.routerRuns
      else if nicSource n then s.nicRuns
      else if n = 25 then s.svcRuns
      else s.coreRuns))

/-- A routing entry that cannot be read acts as INVALID until it is written again (R322). -/
def loseEntry (b : Bool) (chip : Nat) (s : State) : State :=
  { s with rtr := putEntry (b2n b) chip 0#64 s.rtr }

/-- An endpoint is lost (R325): its operations complete GAVE_UP. -/
def loseEp (h : HostPort) (ep : Nat) (s : State) : State :=
  let s := s.modHost h (fun x => { x with eps := tblMod ep (fun c => { c with lost := true }) x.eps })
  let s := (s.host h).pairs.foldl (fun t p => if keyEp p.1 = ep then breakPair h p.1 t else t) s
  portGoesOn h s

/-- A window is closed (R325). -/
def loseWindow (h : HostPort) (w : Nat) (s : State) : State :=
  s.modHost h (fun x => { x with wins := tblMod w (fun e => { e with isOpen := false }) x.wins })

/-- The packet presented at a crossbar input is lost (R322); a network port's credits are returned. -/
def losePacket (x : XbarPort) (s : State) : State :=
  match presentedCand s x with
  | some c => dropPresented c s
  | none => s

/-- The damage an error does beyond its report: the record that TBL_UE, BUF_UE or NIC_UE names (R322, R325). -/
def damage (src : Nat) (t : FaultTarget) (s : State) : State :=
  match t with
  | .none => s
  | .table b chip => if src = 12 then loseEntry b chip s else s
  | .packet x => if src = 13 then losePacket x s else s
  | .replay p => if src = 13 then resetL p 4 4 false s else s
  | .endpoint h ep => if src = 18 + h.val then loseEp h ep s else s
  | .window h w => if src = 18 + h.val then loseWindow h w s else s
  | .queue h wq =>
    if src = 18 + h.val then
      haltHost h 7 wq false false ((tblGet wq (s.host h).wqs).elim 0 (·.next)) s
    else s
  | .events h eq =>
    if src = 18 + h.val then haltHost h 7 eq false true ((tblGet eq (s.host h).eqs).elim 0 (·.pi)) s else s
  | .admin h => if src = 18 + h.val then haltHost h 7 0 true false (s.host h).adm.next s else s

/-- FAULT_SOURCE_RISE (R323): the line rises and stays high; a line that is high already reports nothing further. -/
def lineRises (src : Fin 64) (mid : Mid) (access : Nat) (addr : Word) (t : FaultTarget) (s : State) : State :=
  if !lineReaches s src.val || s.flt.lines.testBit src.val then s
  else
    let s := { s with flt := { s.flt with lines := setBitTo s.flt.lines src.val true } }
    raiseFaultBy src.val mid access addr (damage src.val t s)

/-- ERROR_LINE_FALL (R323); the fall of SUPPLY_CORE or REFCLK_LOSS is the return of the supply or of REFCLK. -/
def lineFalls (src : Fin 64) (s : State) : State :=
  let s := if src.val = 0 then s.modPwr (fun p => { p with coreOk := true })
    else if src.val = 2 then s.modPwr (fun p => { p with refclk := true }) else s
  { s with flt := { s.flt with lines := setBitTo s.flt.lines src.val false } }

/-- SUPPLY_CORE_LOW (R289). -/
def supplyLow (s : State) : State :=
  let s := s.modPwr (fun p => { p with coreOk := false })
  if s.pwr.state = .sleep then s else lineRises 0 0xFF#8 0 0#64 .none s

/-- Every fatal line is low (R330). -/
def fatalLow (s : State) : Bool :=
  (List.range 64).all (fun n => !(s.flt.lines.testBit n && s.actingClass n == 2))

/-- ESCALATION (R330, R331): with ESC_RESET the delay ends after every fatal line is low, and a C reset is asserted. In STANDBY and
SLEEP it waits until the chip has been woken. -/
def escalate (s : State) : State :=
  if s.flt.muzzle && s.flag F.FLT_CTL_ESC_RESET && fatalLow s && !(decide (s.pwr.state = .standby) || decide (s.pwr.state = .sleep)) &&
      !s.rst.waiting.any (fun q => q.source == 8) then askReset .C 0 8 0#8 s
  else s

/-- A write of FLT_INJECT (R332). -/
def injectFault (mid : Mid) (v : Word) (s : State) : State :=
  if fieldOf v 23 16 ≠ 0xA5 then s.fset F.FLT_INJECT_ERR 1
  else
    let src := fieldOf v 5 0
    let s := s.fset F.FLT_INJECT_ERR 0
    if s.flt.lines.testBit src then s else raiseFaultBy src mid 0 0#64 s

/-- ALERT_RESPONSE (R328) (DESIGN CHOICE, log entry 52). -/
def alertAnswered (s : State) : State := { s with flt := { s.flt with alertAck := true } }

/-- A W1C write of FLT_STATUS clears the bits whose lines are low (R323). -/
def clearFaults (v : Word) (s : State) : State :=
  let old := s.fget F.FLT_STATUS_SRC
  s.fset F.FLT_STATUS_SRC ((List.range 64).foldl (fun w n =>
    if bitOf v n && !s.flt.lines.testBit n then setBitTo w n false else w) old)

/-- A comparison with 2 degrees of hysteresis (R289): a level is exceeded from `limit` up, until the temperature is 2 degrees below. -/
def tempOver (was : Bool) (t limit : Int) : Bool := if was then decide (limit - 8 ≤ t) else decide (limit ≤ t)

/-- A line follows a level. -/
def setLine (n : Nat) (high : Bool) (s : State) : State :=
  if high then lineRises (Fin.ofNat 64 n) 0xFF#8 0 0#64 .none s else lineFalls (Fin.ofNat 64 n) s

/-- TEMP_SAMPLE (R289): the hottest sensor against WARN and CRIT. -/
def tempSampled (t : Nat) (s : State) : State :=
  if s.rst.pHeld then s
  else
    let now := BitVec.ofNat 12 t
    let v := now.toInt
    let warn := tempOver s.pwr.tempWarn v (signedOf 12 (s.fget F.AON_TEMP_LIM_WARN))
    let crit := tempOver s.pwr.tempCrit v (signedOf 12 (s.fget F.AON_TEMP_LIM_CRIT))
    let rises := warn && !s.pwr.tempWarn
    let s := s.modPwr (fun p => { p with tempNow := now, tempWarn := warn, tempCrit := crit })
    let s := if signedOf 12 (s.fget F.AON_TEMP_MAX) < v then s.fset F.AON_TEMP_MAX now.toNat else s
    let s := if rises then asyncChip 0x08 0 (BitVec.ofInt 64 v &&& 0xFFFF#64) s else s
    setLine 1 crit (setLine 30 warn s)

end Sys2Proof.Machine
end

