-- ==== Sys2Proof/Machine/ColOps.lean ====
section
/-! DEFINITION. Sheepdog (R251 to R265): segments and combining, the tree edges, failure, the collective descriptor. -/

namespace Sys2Proof.Machine

/-! ## Segments (R256, R257, R259) -/

/-- SEG_BYTES of a group. -/
def segBytes (g : ColGroup) : Nat := 2 ^ g.logSeg

/-- Segments of an operation. -/
def colSegs (g : ColGroup) (o : ColOp) : Nat := if o.len ≤ 16 then 1 else ceilDiv o.len (segBytes g)

/-- Bytes of segment `k`. -/
def segLen (g : ColGroup) (o : ColOp) (k : Nat) : Nat := if o.len ≤ 16 then o.len else min (segBytes g) (o.len - k * segBytes g)

/-- Values travel toward the root: BARRIER, REDUCE, ALLREDUCE. -/
def upFlow (o : ColOp) : Bool := decide (o.cop = 1 ∨ o.cop = 3 ∨ o.cop = 4)

/-- Values or releases travel from the root: BARRIER, BROADCAST, ALLREDUCE. -/
def downFlow (o : ColOp) : Bool := decide (o.cop = 1 ∨ o.cop = 2 ∨ o.cop = 4)

/-- This member reads local data (R256). -/
def readsLocal (g : ColGroup) (o : ColOp) : Bool := colReads o.cop g

/-- This member writes the result (R256). -/
def writesResult (g : ColGroup) (o : ColOp) : Bool := colWrites o.cop g

/-- A DTYPE and RED_OP pair that R257 gives a meaning. -/
def reduceOk (dtype rop : Nat) : Bool := decide (dtype ≤ 5) && decide (rop ≤ 6) && (decide (dtype < 4) || [0, 4, 5, 6].contains rop)

/-- One element of a reduction (R257). -/
def reduceElem (dtype rop a b : Nat) : Nat :=
  let n := 8 * atypeBytes dtype
  if dtype < 4 then (if rop = 6 then a * b % 2 ^ n else intAtomic rop n (decide (2 ≤ dtype)) a b 0)
  else
    let f := if dtype = 4 then f32 else f64
    (match rop with
     | 0 => fAdd f a b
     | 4 => fMin f a b
     | 5 => fMax f a b
     | _ => fMul f a b).getD (fQuiet f)

/-- Two segments combined element by element. -/
def combineBytes (dtype rop : Nat) : Nat → Bytes → Bytes → Bytes
  | 0, _, _ => []
  | k + 1, a, b =>
    let n := atypeBytes dtype
    leBytes n (reduceElem dtype rop (leAt a 0 n) (leAt b 0 n)) ++ combineBytes dtype rop k (a.drop n) (b.drop n)

/-! ## Slots and edges (R258, R261) -/

/-- An edge on which nothing has passed. -/
def blankEdge : ColEdge :=
  { sent := 0, acked := [], freed := 0, got := [], released := 0, tries := 0, unarmed := false, abort := false }

/-- A slot's operation before anything is known of it but its OPSEQ. -/
def blankOp (g : ColGroup) (opseq : BitVec 16) : ColOp :=
  { opseq := opseq, started := false, owner := none, clash := false, cop := 0, dtype := 0, rop := 0, len := 0,
    lenOpen := false, src := 0, dst := 0, rdSeg := 0, rdGot := [], reading := false, acc := [], result := [], written := 0, work := [],
    edges := (groupEdges g).map (fun e => (e, blankEdge)), failed := false }

/-- An edge of an operation. -/
def getEdge (o : ColOp) (e : Nat) : ColEdge := (tblGet e o.edges).getD blankEdge

/-- Changes an edge of an operation. -/
def modEdge (grp slot e : Nat) (f : ColEdge → ColEdge) (s : State) : State :=
  modSlot grp slot (fun o => { o with edges := tblMod e f o.edges }) s

/-- The edges to the children. -/
def childEdges (g : ColGroup) : List Nat := (List.range g.children.length).map (· + 1)

/-- Segment `k` sent on an edge has been acknowledged. -/
def edgeAcked (e : ColEdge) (k : Nat) : Bool := decide (k < e.freed) || e.acked.contains k

/-- Every child has acknowledged segment `k`. -/
def childrenAcked (g : ColGroup) (o : ColOp) (k : Nat) : Bool := (childEdges g).all (fun e => edgeAcked (getEdge o e) k)

/-- The operation in a slot of a group. -/
def colOp (s : State) (grp slot : Nat) : Option (ColGroup × ColOp) :=
  (tblGet grp s.groups).bind (fun g => (tblGet slot g.slots).map (fun o => (g, o)))

/-- Bytes 16 to 31 of a COL_DATA packet (R261). -/
def colDataHead (o : ColOp) (kind plen idx grp seg tree : Nat) : Bytes :=
  leBytes 2 o.opseq.toNat ++ leBytes 1 kind ++ leBytes 2 plen ++ leBytes 1 idx ++ leBytes 2 grp ++ leBytes 2 seg ++
    leBytes 2 (o.cop + 16 * o.dtype + 256 * o.rop) ++ leBytes 4 tree

/-- The UP or DOWN packet of a segment on an edge (R259, R261). -/
def segPkt (s : State) (grp : Nat) (g : ColGroup) (o : ColOp) (edge kind seg : Nat) (data : Bytes) : Packet :=
  if o.len ≤ 16 then colPkt s grp g o edge kind data
  else
    mkPkt (newW0 2 (s.useClass (·.collective)) (edgeChip g edge) s.chip) (newW1 0 0 0x25 true true false)
      (longBody (colDataHead o kind data.length (if edge = 0 then g.parentIdx else 0) grp seg g.treeId.toNat) data)

/-- An operation as its packets name it: its LENGTH is a free value while it is not known (DESIGN CHOICE, log entry 86). -/
def namedOp (o : ColOp) (s : State) : ColOp × State :=
  if o.lenOpen then ({ o with len := s.freeValue.toNat % 2 ^ 32 }, s.tookFree) else (o, s)

/-- The current ACK on an edge (R261): BASE_SEG and FREED are the segments released. -/
def colAck (grp slot e : Nat) (s : State) : State :=
  match colOp s grp slot with
  | none => s
  | some (g, o) =>
    let x := getEdge o e
    let mask := (List.range 16).foldl (fun a i => a + (if (tblGet (x.released + i) x.got).isSome then 2 ^ i else 0)) 0
    let r := namedOp o s
    inject (colPkt r.2 grp g r.1 e (if e = 0 then 4 else 3) (leBytes 2 x.released ++ leBytes 2 mask ++ leBytes 2 x.released)) r.2

/-- A buffer of an edge is released, in segment order; the neighbour learns of it (R261). -/
def releaseSeg (grp slot e seg : Nat) (s : State) : State :=
  colAck grp slot e (modEdge grp slot e (fun x => { x with got := tblDel seg x.got, released := seg + 1 }) s)

/-! ## Failure (R263) -/

/-- The local operation of a slot completes; its LENGTH is reported however it ends, which is 0 for a BARRIER (R256, R398). -/
def colComplete (h : HostPort) (grp slot : Nat) (moved status detail : Nat) (s : State) : State :=
  match (colOp s grp slot).bind (fun x => x.2.owner) with
  | none => s
  | some (wq, idx) =>
    let s := modSlot grp slot (fun o => { o with owner := none }) s
    let s := if status ≠ 0 then opError h wq idx status detail s else s
    checkOp h wq idx (modOp h wq idx (fun o => { o with allSent := true, moved := moved }) s)

/-- The completion of an operation by its group's cause (R263). -/
def causeStatus (cause detail : Nat) : Nat × Nat :=
  if cause = 4 then (1, 1) else if cause = 5 then (3, detail) else if cause = 6 then (5, 0) else (2, 0)

/-- An operation fails at this node. -/
def colFail (grp slot cause detail : Nat) (from_ : Option Nat) (s : State) : State :=
  match colOp s grp slot with
  | none => s
  | some (g, o) =>
    if o.failed then s
    else
      let s := colAbort grp slot cause from_ s
      let s := modGroup grp (fun x => if x.cause = cause ∧ g.cause ≠ cause then { x with detail := detail } else x) s
      let st := causeStatus cause detail
      colComplete g.owner grp slot o.len st.1 st.2 s

/-! ## Progress of an operation (R259, R260) -/

/-- The local contribution is read, a request at a time, while the slot has an accumulator for it (R193, R254). -/
def colRead (h : HostPort) (grp slot pd : Nat) (g : ColGroup) (o : ColOp) (known : Option (Walk × WalkEnd)) (s : State) : State :=
  if !readsLocal g o || o.reading || decide (colSegs g o ≤ o.rdSeg) ||
      decide (g.win ≤ o.acc.length + (if g.root then o.result.length else 0)) then s
  else
    let n := segLen g o o.rdSeg
    match segAccesses (maxRead s h) pd [⟨o.src, o.len⟩] (o.rdSeg * segBytes g + o.rdGot.length) (n - o.rdGot.length) true false with
    | [] => s
    | a :: _ =>
      match translate h a (some (.col grp slot)) known s with
      | (.hit bus ns u, s) =>
        hostReqUnder h (.colRead grp slot o.rdSeg a.len) bus a.len ns (some u) (modSlot grp slot (fun o => { o with reading := true }) s)
      | (.fault c l, s) => colFail grp slot 5 c none (xltFault h a.pd a.va false 1 c l s)
      | (_, s) => s

/-- Children's values of one segment are combined in child-list order (R260). -/
def combineSeg (grp slot seg : Nat) : Nat → State → State
  | 0, s => s
  | n + 1, s =>
    match colOp s grp slot with
    | none => s
    | some (g, o) =>
      match tblGet seg o.acc with
      | none => s
      | some (k, v) =>
        let e := k + 1
        let x := getEdge o e
        match tblGet seg x.got with
        | none => s
        | some d =>
          if g.children.length ≤ k ∨ x.released ≠ seg then s
          else
            let v' := if o.cop = 1 then v else combineBytes o.dtype o.rop (ceilDiv (segLen g o seg) (atypeBytes o.dtype)) v d
            let cycles := max 1 (ceilDiv (segLen g o seg) 128) + (tblGet seg o.work).getD 0
            let s := modSlot grp slot (fun o => { o with acc := tblSet seg (k + 1, v') o.acc, work := tblSet seg cycles o.work }) s
            combineSeg grp slot seg n (releaseSeg grp slot e seg (pmcAdd 70 0x30 1 s))

/-- Every segment that can go on is combined; at the root a finished one is the result. -/
def colCombine (grp slot : Nat) (s : State) : State :=
  match colOp s grp slot with
  | none => s
  | some (g, o) =>
    let s := o.acc.foldl (fun t a => combineSeg grp slot a.1 (g.children.length + 1) t) s
    if g.root then
      modSlot grp slot (fun o =>
        let full := o.acc.filter (fun a => decide (a.2.1 = g.children.length) || decide (o.cop = 2))
        { o with acc := o.acc.filter (fun a => !(decide (a.2.1 = g.children.length) || decide (o.cop = 2))),
                 result := full.foldl (fun r a => tblSet a.1 a.2.2 r) o.result }) s
    else s

/-- The value of segment `k` that flows down at this node. -/
def downValue (g : ColGroup) (o : ColOp) (k : Nat) : Option Bytes := if g.root then tblGet k o.result else tblGet k (getEdge o 0).got

/-- The value of segment `k` that flows up at this node. -/
def upValue (g : ColGroup) (o : ColOp) (k : Nat) : Option Bytes :=
  (tblGet k o.acc).bind (fun a => if a.1 = g.children.length then some a.2 else none)

/-- The combine cycles of a segment that is sent or written have been well spent (R356). -/
def segSpent (grp slot seg : Nat) (s : State) : State :=
  match (colOp s grp slot).bind (fun x => tblGet seg x.2.work) with
  | some n => colSlots 1 n (modSlot grp slot (fun o => { o with work := tblDel seg o.work }) s)
  | none => s

/-- Sends the segments an edge may take (R259). -/
def sendSegs (grp slot e : Nat) : Nat → State → State
  | 0, s => s
  | n + 1, s =>
    match colOp s grp slot with
    | none => s
    | some (g, o) =>
      let x := getEdge o e
      if !(if e = 0 then upFlow o else downFlow o) || decide (x.freed + g.win ≤ x.sent) then s
      else match (if e = 0 then upValue g o x.sent else downValue g o x.sent) with
      | none => s
      | some v =>
        let pkt := segPkt s grp g o e (if e = 0 then 1 else 2) x.sent v
        sendSegs grp slot e n (segSpent grp slot x.sent (inject pkt (modEdge grp slot e (fun x => { x with sent := x.sent + 1 }) s)))

/-- The result's next segments are written. -/
def writeSegs (h : HostPort) (grp slot pd : Nat) (known : Option (Walk × WalkEnd)) : Nat → State → State
  | 0, s => s
  | n + 1, s =>
    match colOp s grp slot with
    | none => s
    | some (g, o) =>
      if !writesResult g o || decide (colSegs g o ≤ o.written) then s
      else match downValue g o o.written with
      | none => s
      | some v =>
        match translateAll h (some (.col grp slot)) known
            (segAccesses (maxWrite s h) pd [⟨o.dst, o.len⟩] (o.written * segBytes g) (segLen g o o.written) false true) s with
        | (.all ps, s) =>
          writeSegs h grp slot pd known n (segSpent grp slot o.written (modSlot grp slot (fun o => { o with written := o.written + 1 })
            (writePieces h false v ps s)))
        | (.stop a (.fault c l), s) => colFail grp slot 5 c none (xltFault h a.pd a.va false 2 c l s)
        | (_, s) => s

/-- Buffers whose segments are done with are released (R261). -/
def colRelease (grp slot : Nat) : Nat → State → State
  | 0, s => s
  | n + 1, s =>
    match colOp s grp slot with
    | none => s
    | some (g, o) =>
      let s := modSlot grp slot (fun o =>
        { o with acc := if g.root then o.acc else o.acc.filter (fun a => !edgeAcked (getEdge o 0) a.1),
                 result := o.result.filter (fun r => !((!writesResult g o || decide (r.1 < o.written)) &&
                   (!downFlow o || (childrenAcked g o r.1 && (childEdges g).all (fun e => decide (r.1 < (getEdge o e).sent)))))) }) s
      let x := getEdge o 0
      if !g.root && (tblGet x.released x.got).isSome && (!writesResult g o || decide (x.released < o.written)) &&
          childrenAcked g o x.released then
        colRelease grp slot n (releaseSeg grp slot 0 x.released s)
      else s

/-- The operation has completed at this member (R256). -/
def colEnded (g : ColGroup) (o : ColOp) : Bool :=
  let n := colSegs g o
  let all := (List.range n).all
  match o.cop with
  | 1 => if g.root then (tblGet 0 o.result).isSome else (tblGet 0 (getEdge o 0).got).isSome || decide (0 < (getEdge o 0).released)
  | 2 => if g.root then all (childrenAcked g o) else decide (o.written = n) && all (childrenAcked g o)
  | 3 => if g.root then decide (o.written = n) else all (edgeAcked (getEdge o 0))
  | _ => decide (o.written = n) && all (childrenAcked g o)

/-- The domain of the queue that owns an operation. -/
def colPd (s : State) (h : HostPort) (o : ColOp) : Nat := (o.owner.bind (fun w => tblGet w.1 (s.host h).wqs)).elim 0 (·.pd)

/-- One pass over a started operation. -/
def colPass (grp slot : Nat) (known : Option (Walk × WalkEnd)) (s : State) : State :=
  match colOp s grp slot with
  | none => s
  | some (g, o) =>
    if !o.started || o.failed || !s.hostLive g.owner || decide (g.status = .disarming) then s
    else
      let pd := colPd s g.owner o
      let s := colCombine grp slot (colRead g.owner grp slot pd g o known s)
      let s := (groupEdges g).foldl (fun t e => sendSegs grp slot e 17 t) s
      let s := writeSegs g.owner grp slot pd known 17 s
      match colOp s grp slot with
      | none => s
      | some (g', o') =>
        let s := if !o'.failed && o'.owner.isSome && colEnded g' o' then
            colComplete g.owner grp slot o'.len 0 0 s
          else s
        colRelease grp slot 17 s

/-- An operation goes on as far as it can. -/
def colStep (grp slot : Nat) (known : Option (Walk × WalkEnd)) (s : State) : State :=
  colPass grp slot known (colPass grp slot known (colPass grp slot known s))

/-! ## The descriptor (R251, R256, R258) -/

/-- The parameters do not fit the group (R256). -/
def colBadParams (g : ColGroup) (d : Bytes) : Bool :=
  let cop := dColOp d
  if cop = 1 then false
  else if cop = 2 then decide (65536 * segBytes g < dLen d)
  else if cop = 3 ∨ cop = 4 then
    !reduceOk (dDtype d) (dRedOp d) || decide (dLen d % atypeBytes (dDtype d) ≠ 0) || decide (65536 * segBytes g < dLen d)
  else true

/-- What a descriptor fixes of an operation; fields an operation ignores are 0. -/
def colParams (d : Bytes) : Nat × Nat × Nat × Nat :=
  let cop := dColOp d
  if cop = 1 then (1, 0, 0, 0) else if cop = 2 then (2, 0, 0, dLen d) else (cop, dDtype d, dRedOp d, dLen d)

/-- A COLLECTIVE ends at once, reporting its LENGTH (R256). -/
def colRefuse (h : HostPort) (wq idx status detail : Nat) (s : State) : State :=
  checkOp h wq idx (modOp h wq idx (fun o =>
    { o with begun := true, allSent := true, moved := if dColOp (opFirst o) = 1 then 0 else dLen (opFirst o) })
      (opError h wq idx status detail s))

/-- What a slot holds fits an operation with these parameters (R262): those the packets carried, and the number and length of every
segment. -/
def heldFits (g : ColGroup) (o : ColOp) (p : Nat × Nat × Nat × Nat) : Bool :=
  let want : ColOp := { o with len := p.2.2.2 }
  decide ((o.cop, o.dtype, o.rop) = (p.1, p.2.1, p.2.2.1)) &&
    (if o.lenOpen then decide (16 < p.2.2.2) else decide (o.len = p.2.2.2) && decide (p.2.2.2 ≤ 16)) &&
    o.edges.all (fun e => e.2.got.all (fun x => decide (x.1 < colSegs g want) && decide (x.2.length = segLen g want x.1)))

/-- A COLLECTIVE starts on its group's next slot (R258), with what arrived before it. -/
def colStart (h : HostPort) (wq idx grp : Nat) (g : ColGroup) (d : Bytes) (s : State) : State :=
  let slot := g.next.toNat % max 1 g.ops
  let pre := (tblGet slot g.slots).filter (fun o => !o.started && decide (o.opseq = g.next))
  let p := colParams d
  let agree := pre.all (fun o => !o.clash && (!(o.edges.any (fun e => !e.2.got.isEmpty)) || heldFits g o p))
  let o : ColOp := { pre.getD (blankOp g g.next) with
    started := true, owner := some (wq, idx), cop := p.1, dtype := p.2.1, rop := p.2.2.1, len := p.2.2.2, lenOpen := false,
    src := dLaddr d, dst := dResult d, acc := if p.1 = 1 then [(0, (0, []))] else [] }
  let s := offSide h wq idx (modOp h wq idx (fun o => { o with begun := true }) s)
  let s := modGroup grp (fun x => { x with next := x.next + 1, slots := tblSet slot o x.slots }) s
  if agree then colStep grp slot none s else colFail grp slot 4 0 none s

/-- A started COLLECTIVE begins (R251, R255, R256, R263) (DESIGN CHOICE, log entry 66). -/
def colBegin (h : HostPort) (wq idx : Nat) (s : State) : State :=
  match (tblGet wq (s.host h).wqs).bind (fun q => tblGet idx q.ops) with
  | none => s
  | some op =>
    let d := opFirst op
    if dOp d ≠ 9 || op.begun || !s.hostLive h then s
    else match tblGet (dGroup d) s.groups with
    | none => colRefuse h wq idx 1 0x11 s
    | some g =>
      if g.owner ≠ h then colRefuse h wq idx 1 0x11 s
      else match g.status with
      | .disarming => colRefuse h wq idx 2 0 s
      | .failed =>
        let st := causeStatus g.cause g.detail
        colRefuse h wq idx st.1 st.2 s
      | .armed =>
        if colBadParams g d then colRefuse h wq idx 1 1 s
        else if colBusy s (dGroup d) then toSide h wq idx s
        else colStart h wq idx (dGroup d) g d s

/-- Side-listed COLLECTIVEs of a port go on, oldest first (R172). -/
def colPump (h : HostPort) (s : State) : State :=
  (s.host h).wqs.foldl (fun t q => q.2.side.foldl (fun u i => colBegin h q.1 i u) t) s

/-- An operation goes on, and with it what waited for its slot. -/
def colGo (grp slot : Nat) (known : Option (Walk × WalkEnd)) (s : State) : State :=
  match tblGet grp s.groups with
  | none => s
  | some g => colPump g.owner (colStep grp slot known s)

/-- An operation fails, and what waited for its slot completes. -/
def colFailGo (grp slot cause detail : Nat) (from_ : Option Nat) (s : State) : State :=
  match tblGet grp s.groups with
  | none => s
  | some g => colPump g.owner (colFail grp slot cause detail from_ s)

/-- A local read of a collective completes (R263). -/
def colReadDone (h : HostPort) (grp slot seg len : Nat) (data : Option Bytes) (s : State) : State :=
  match colOp s grp slot with
  | none => if data.isNone then reqFail h s else s
  | some (g, o) =>
    match data with
    | none => colFailGo grp slot 6 0 none (reqFail h s)
    | some b =>
      if o.rdSeg ≠ seg ∨ !o.reading then s
      else
        let got := o.rdGot ++ padTo len b
        let full := decide (segLen g o seg ≤ got.length)
        colGo grp slot none (modSlot grp slot (fun o => { o with
          reading := false, rdGot := if full then [] else got, rdSeg := if full then seg + 1 else seg,
          acc := if full then tblSet seg (0, got) o.acc else o.acc }) s)

/-! ## Arrivals (R262) -/

/-- A collective packet as its bytes read (R261). -/
structure ColMsg where
  opseq : BitVec 16
  kind  : Nat
  cop   : Nat
  dtype : Nat
  rop   : Nat
  idx   : Nat
  grp   : Nat
  tree  : BitVec 32
  seg   : Nat
  /-- LENGTH of the operation; a COL_DATA packet carries none. -/
  len   : Option Nat
  plen  : Nat
  data  : Bytes
deriving DecidableEq, Repr

/-- Reads a COL or COL_DATA packet. -/
def colMsg (pkt : Packet) : ColMsg :=
  let base : ColMsg :=
    { opseq := BitVec.ofNat 16 (pktAt pkt 16 2), kind := pktAt pkt 18 1 % 8, cop := pktAt pkt 19 1 % 16, dtype := pktAt pkt 19 1 / 16,
      rop := pktAt pkt 20 1 % 16, idx := pktAt pkt 21 1 % 64, grp := pktAt pkt 22 2 % 4096, tree := BitVec.ofNat 32 (pktAt pkt 24 4),
      seg := 0, len := some (pktAt pkt 28 4), plen := min 16 (pktAt pkt 28 4), data := pktSlice pkt 32 16 }
  if pktOpcode pkt = 0x25 then
    { base with cop := pktAt pkt 26 2 % 16, dtype := pktAt pkt 26 2 / 16 % 16, rop := pktAt pkt 26 2 / 256 % 16,
                tree := BitVec.ofNat 32 (pktAt pkt 28 4), seg := pktAt pkt 24 2, len := none, plen := pktPlen pkt,
                data := pktSlice pkt 32 (pktPlen pkt) }
  else base

/-- The edge a packet came over, if its source and CHILD_IDX fit the tree (R262). -/
def colEdgeOf (g : ColGroup) (pkt : Packet) (m : ColMsg) : Option Nat :=
  let src := pktSrcChip pkt
  match m.kind with
  | 1 | 4 => if g.children[m.idx]? = some src then some (m.idx + 1) else none
  | 2 | 3 => if !g.root && decide (g.parent = src) then some 0 else none
  | _ => (groupEdges g).find? (fun e => decide (edgeChip g e = src))

/-- OPSEQ `a` is ahead of `b`, modulo 2^16 within 32,768. -/
def opAhead (a b : BitVec 16) : Bool := decide (0 < (a - b).toNat ∧ (a - b).toNat < 32768)

/-- The packet is a segment. -/
def ColMsg.isSeg (m : ColMsg) : Bool := decide (m.kind = 1 ∨ m.kind = 2)

/-- The packet's KIND is one that R261 gives its format. -/
def ColMsg.kindOk (m : ColMsg) : Bool := m.isSeg || (m.len.isSome && decide (3 ≤ m.kind ∧ m.kind ≤ 6))

/-- The packet disagrees with the operation (R262). The LENGTH of an ACK of a long operation is not compared: its sender may not know it
yet (DESIGN CHOICE, log entry 86). -/
def colMismatch (g : ColGroup) (o : ColOp) (m : ColMsg) : Bool :=
  decide (m.cop ≠ o.cop ∨ m.dtype ≠ o.dtype ∨ m.rop ≠ o.rop) ||
    m.len.any (fun l => if m.isSeg then decide (l ≠ o.len ∨ 16 < l) else decide (l ≠ o.len ∧ o.len ≤ 16)) ||
    (m.len.isNone && (decide (o.len ≤ 16 ∨ colSegs g o ≤ m.seg) || decide (m.plen ≠ segLen g o m.seg)))

/-- Refuses an UP or DOWN with GROUP_NOT_ARMED (R262). -/
def colNotArmed (pkt : Packet) (m : ColMsg) (s : State) : State :=
  let seq := m.opseq.toNat + 65536 * pktAt pkt 18 1
  pmcRefusal 0x11 (inject (answerPkt s pkt 0x09 (nackBody seq 0x11 ((seq + 16777216 - 4096) % 16777216) m.grp 0)) s)

/-- A segment that arrives before or after the local start is stored and acknowledged, or is a duplicate (R262). -/
def colStore (slot e : Nat) (m : ColMsg) (s : State) : State :=
  match colOp s m.grp slot with
  | none => s
  | some (_, o) =>
    let x := getEdge o e
    if (tblGet m.seg x.got).isSome ∨ m.seg < x.released then colAck m.grp slot e s
    else colGo m.grp slot none (colAck m.grp slot e (modEdge m.grp slot e (fun x =>
      { x with got := tblSet m.seg (m.data.take m.plen) x.got }) s))

/-- An ACK on an edge (R261, R263). -/
def colAcked (slot e : Nat) (pkt : Packet) (m : ColMsg) (s : State) : State :=
  let base := pktAt pkt 32 2
  let mask := pktAt pkt 34 2
  let segs := ((List.range 16).filter mask.testBit).map (base + ·)
  colGo m.grp slot none (modEdge m.grp slot e (fun x =>
    { x with tries := 0, unarmed := false, freed := max x.freed (min x.sent (pktAt pkt 36 2)),
             acked := x.acked ++ segs.filter (fun k => !x.acked.contains k) }) s)

/-- A slot's operation as an early packet names it. -/
def foundOp (o : ColOp) (m : ColMsg) : ColOp :=
  { o with cop := m.cop, dtype := m.dtype, rop := m.rop, len := m.len.getD 0, lenOpen := m.len.isNone }

/-- The slot's operation is the packet's: an early segment or ABORT founds it, with the parameters it carries; segments that disagree with
one another clash. -/
def colFound (slot : Nat) (g : ColGroup) (m : ColMsg) (s : State) : State :=
  match (tblGet slot g.slots).filter (fun o => decide (o.opseq = m.opseq)) with
  | some o =>
    if o.started || !m.isSeg then s
    else if !(o.edges.any (fun e => !e.2.got.isEmpty)) then modSlot m.grp slot (fun o => foundOp o m) s
    else if foundOp o m = o then s
    else modSlot m.grp slot (fun o => { o with clash := true }) s
  | none =>
    if m.isSeg || decide (m.kind = 5) then
      modGroup m.grp (fun g => { g with slots := tblSet slot (foundOp (blankOp g m.opseq) m) g.slots }) s
    else s

/-- An ABORT_ACK ends the ABORT it answers (R263). -/
def colAbortAcked (slot e : Nat) (m : ColMsg) (s : State) : State :=
  match colOp s m.grp slot with
  | some (_, o) => if o.opseq = m.opseq then modEdge m.grp slot e (fun x => { x with abort := false, tries := 0 }) s else s
  | none => s

/-- An UP, DOWN, ACK, ABORT or ABORT_ACK for the slot's own operation (R262, R263). -/
def colCurrent (slot e : Nat) (g : ColGroup) (pkt : Packet) (m : ColMsg) (s : State) : State :=
  if m.kind = 6 then colAbortAcked slot e m s
  else
    let s := colFound slot g m s
    match (colOp s m.grp slot).filter (fun x => decide (x.2.opseq = m.opseq)) with
    | none => s
    | some (g, o) =>
      if m.kind = 5 then
        let r := namedOp o s
        inject (colPkt r.2 m.grp g r.1 e 6 []) (colFailGo m.grp slot 3 0 (some e) r.2)
      else if o.started && colMismatch g o m then colFailGo m.grp slot 4 0 none s
      else if m.isSeg then colStore slot e m s
      else colAcked slot e pkt m s

/-- An answer to a packet of an operation that this node holds nothing of. -/
def colReply (grp : Nat) (g : ColGroup) (e kind : Nat) (m : ColMsg) (s : State) : State :=
  let r := namedOp (foundOp (blankOp g m.opseq) m) s
  inject (colPkt r.2 grp g r.1 e kind []) r.2

/-- An early packet (R262): dropped, and an UP or DOWN answered with an ACK whose MASK is 0. -/
def colEarly (e : Nat) (g : ColGroup) (m : ColMsg) (s : State) : State :=
  let s := s.finc F.COL_ERR_EARLY 1
  if m.isSeg then colReply m.grp g e (if e = 0 then 4 else 3) m s else s

/-- No packet of the group is taken (R262): it is NONE or DISARMING. -/
def colUnarmed (s : State) (m : ColMsg) : Bool := (tblGet m.grp s.groups).all (fun g => decide (g.status = .disarming))

/-- A collective packet that passes PCRC (R262). The answer to an ABORT is taken from a tree neighbour in any state of the group (R255,
R263); a KIND that R261 does not list is dropped (DESIGN CHOICE, log entry 86). -/
def colIn (pkt : Packet) (s : State) : State :=
  let m := colMsg pkt
  match tblGet m.grp s.groups with
  | none => if m.isSeg then colNotArmed pkt m s else s
  | some g =>
    let slot := m.opseq.toNat % max 1 g.ops
    let edge := if m.tree = g.treeId then colEdgeOf g pkt m else none
    if !m.kindOk then s
    else if g.status = .disarming then
      (if m.isSeg then colNotArmed pkt m s else if m.kind = 6 then edge.elim s (fun e => colAbortAcked slot e m s) else s)
    else match edge with
    | none => s.finc F.COL_ERR_TREE 1
    | some e =>
      if g.status = .failed then
        (if m.isSeg then colReply m.grp g e 5 m s else if m.kind = 6 then colAbortAcked slot e m s else s)
      else match tblGet slot g.slots with
      | none =>
        if opAhead g.next m.opseq then s
        else if g.ops ≤ (m.opseq - g.next).toNat then colEarly e g m s
        else colCurrent slot e g pkt m s
      | some o =>
        if o.opseq = m.opseq then colCurrent slot e g pkt m s
        else if opAhead o.opseq m.opseq then s
        else if colActive o || !o.started || g.ops ≤ (m.opseq - g.next).toNat then colEarly e g m s
        else colCurrent slot e g pkt m s

/-- A refusal of a collective packet (R262, R263): the neighbour is not armed. -/
def colRefused (pkt : Packet) (s : State) : State :=
  let grp := pktAt pkt 24 4 % 4096
  match tblGet grp s.groups with
  | none => s
  | some g =>
    let opseq := BitVec.ofNat 16 (pktAt pkt 16 2)
    let slot := opseq.toNat % max 1 g.ops
    match (groupEdges g).find? (fun e => decide (edgeChip g e = pktSrcChip pkt)), colOp s grp slot with
    | some e, some (_, o) =>
      if o.opseq = opseq then modEdge grp slot e (fun x => { x with tries := 0, unarmed := true }) s else s
    | _, _ => s

/-- A collective packet at the head of an ejection buffer. -/
def colArrive (code : Nat) (ip : IntPort) (s : State) : State :=
  match s.ints[ip].eject with
  | [] => s
  | e :: _ =>
    if pktOpcode e.pkt ≠ code then s
    else if s.nicRuns && decide (s.pwr.state = .doze) then dozeWake 9 s
    else if !s.nicWorks then s
    else
      let s := takeEject ip e s
      if !pcrcOk e.pkt then nicSlot 2 (pmcAdd 68 0x21 1 s)
      else if pktUnlisted e.pkt || decide (pktTc e.pkt ≠ s.useClass (·.collective)) then discardPkt e.pkt s
      else roomAgain (nicSlot (if colUnarmed s (colMsg e.pkt) then 2 else 1) (colIn e.pkt s))

/-- The NACK at the head of an ejection buffer refuses a collective packet (R262). -/
def colNackHead (ip : IntPort) (s : State) : Bool :=
  match s.ints[ip].eject with
  | [] => false
  | e :: _ => decide (pktOpcode e.pkt = 9) && decide (pktAt e.pkt 19 1 = 0x11)

/-- A NACK with reason GROUP_NOT_ARMED arrives. -/
def colNackIn (ip : IntPort) (s : State) : State :=
  match s.ints[ip].eject with
  | [] => s
  | e :: _ =>
    if s.nicRuns && decide (s.pwr.state = .doze) then dozeWake 9 s
    else if !s.nicWorks then s
    else
      let s := takeEject ip e s
      if !pcrcOk e.pkt then nicSlot 2 (pmcAdd 68 0x21 1 s)
      else if malformed s e.pkt then discardPkt e.pkt s
      else nicSlot 1 (colRefused e.pkt s)

/-! ## Timeouts (R263) -/

/-- What an edge of an operation would send again: an ABORT, the oldest segment no ACK covers, the oldest not freed while the operation is
in progress. -/
def colAgain (o : ColOp) (e : Nat) : Option (Option Nat) :=
  let x := getEdge o e
  if x.abort then some none
  else if o.failed then none
  else match (List.range x.sent).find? (fun k => !edgeAcked x k) with
  | some k => some (some k)
  | none => if x.freed < x.sent && o.owner.isSome then some (some x.freed) else none

/-- COL_RETRANSMIT (R263). The bytes of a segment whose buffer has been given back (R261) are free: its neighbour holds them. -/
def colRetry (grp slot e : Nat) (s : State) : State :=
  match colOp s grp slot with
  | none => s
  | some (g, o) =>
    match colAgain o e with
    | none => s
    | some what =>
      let x := getEdge o e
      if g.retries ≤ x.tries then
        (if what.isNone then modEdge grp slot e (fun x => { x with abort := false }) s else colFailGo grp slot 1 0 none s)
      else
        let s := pmcAdd 70 0x31 1 ((modEdge grp slot e (fun x => { x with tries := x.tries + 1 }) s).finc F.COL_ERR_RETX 1)
        match what with
        | none => inject (colPkt s grp g o e 5 []) s
        | some k =>
          let v := if e = 0 then upValue g o k else downValue g o k
          match v with
          | some d => inject (segPkt s grp g o e (if e = 0 then 1 else 2) k d) s
          | none =>
            let f := freeBytes (segLen g o k) s
            inject (segPkt s grp g o e (if e = 0 then 1 else 2) k f.1) f.2

/-- ARM_WAIT_EXPIRY (R263): every operation whose packets that neighbour keeps refusing fails. -/
def armWaitOver (grp e : Nat) (s : State) : State :=
  match tblGet grp s.groups with
  | none => s
  | some g => g.slots.foldl (fun t o => if (getEdge o.2 e).unarmed then colFailGo grp o.1 2 0 none t else t) s

end Sys2Proof.Machine
end

