-- ==== Sys2Proof/Machine/AdminOps.lean ====
section
/-! DEFINITION. The admin commands (R162 to R167, R180, R201, R206, R208, R216, R218, R253, R255, R273) and the Retriever's
completions (R213). -/

namespace Sys2Proof.Machine

/-! ## Completion codes (R164) -/

/-- The first code of a list of checks that fails; 0 where all pass. -/
def firstCode : List (Bool × Nat) → Nat
  | [] => 0
  | c :: rest => if c.1 then c.2 else firstCode rest

/-- Runs an admin command of opcode `op`: `check` gives its completion code, and `act` its effect on SUCCESS. -/
def admRun (h : HostPort) (op : Nat) (check : Bytes → Nat) (act : Nat → Bytes → State → State) (s : State) : State :=
  match admCur s h op with
  | none => s
  | some (i, c) => if check c = 0 then act i c s else admDone h i (check c) 0 s

/-! ## Work queues (R166, R167, R273) -/

/-- The work queue CREATE_WQ makes. -/
def newWq (c : Bytes) : WorkQueue :=
  { closing := false, logSize := aAt c 10 1, prefetch := 4 * 2 ^ aAt c 11 1, tc := aAt c 12 1, eq := aAt c 14 2, ep := aAt c 16 4,
    pd := aAt c 20 2, ring := aAt c 24 8, headAddr := aAt c 32 8, pi := 0, fetch := 0, next := 0, head := 0, store := [],
    reread := none, side := [], ops := [], completed := [], waitEvents := [], headDue := false, headAfter := 0, bells := [],
    leash := if aAt c 13 1 = 1 then
        some { rate := 0, burst := 0, overhead := 0, chargeGet := false, tokens := 0, waiting := none }
      else none }

/-- The checks of CREATE_WQ. -/
def createWqCode (s : State) (h : HostPort) (c : Bytes) : Nat :=
  let x := s.host h
  let ep := aAt c 16 4
  firstCode [
    (decide (s.fget F.WQ_POOL_WQ_COUNT h.val ≤ aAt c 8 2 ∨ aAt c 10 1 < 6 ∨ 16 < aAt c 10 1 ∨ 3 < aAt c 11 1 ∨ 7 < aAt c 12 1 ∨
        1 < aAt c 13 1 ∨ 4095 < aAt c 14 2 ∨ 16777215 < ep ∨ 4095 < aAt c 20 2 ∨ aAt c 24 8 % 4096 ≠ 0 ∨ aAt c 32 8 % 8 ≠ 0) ||
      !s.requestClass (aAt c 12 1) || !zeroBytes c [(22, 23), (40, 55)], 2),
    ((tblGet (aAt c 8 2) x.wqs).any (·.closing), 7),
    ((tblGet (aAt c 8 2) x.wqs).isSome, 4),
    ((tblGet (aAt c 14 2) x.eqs).isNone || (tblGet (aAt c 20 2) x.pds).isNone || decide (epPort ep ≠ h) ||
      (liveEp s h ep).isNone, 5),
    ((liveEp s h ep).any (·.closing), 7),
    ((liveEp s h ep).any (fun k => decide (k.pd ≠ aAt c 20 2)), 2)]

/-- CREATE_WQ (R166). -/
def admCreateWq (h : HostPort) (s : State) : State :=
  admRun h 1 (createWqCode s h) (fun i c t =>
    admDone h i 0 0 (t.modHost h (fun x => { x with wqs := tblSet (aAt c 8 2) (newWq c) x.wqs }))) s

/-- DESTROY_WQ (R167). -/
def admDestroyWq (h : HostPort) (s : State) : State :=
  admRun h 2 (fun c =>
      let q := tblGet (aAt c 8 2) (s.host h).wqs
      firstCode [(decide (s.fget F.WQ_POOL_WQ_COUNT h.val ≤ aAt c 8 2), 2), (q.isNone, 5), (q.any (·.closing), 7)])
    (fun i c t => admLate h i (.destroyWq (aAt c 8 2)) (modWq h (aAt c 8 2) (fun q => { q with closing := true }) t)) s

/-- DESTROY_WQ_DONE (R167): HEAD equals PI, and a write of HEAD that is due has been made (R173). -/
def admDestroyWqDone (h : HostPort) (wq : Nat) (s : State) : State :=
  match tblGet wq (s.host h).wqs, lateOf s h (fun k => decide (k = .destroyWq wq)) with
  | some q, some i =>
    if q.closing && decide (q.head = q.pi) && s.hostLive h && (!q.headDue || headReady s h q) then
      admDone h i 0 0 ((writeHead h wq s).modHost h (fun x => { x with wqs := tblDel wq x.wqs }))
    else s
  | _, _ => s

/-- SET_SHAPER (R273, R276). -/
def admSetShaper (h : HostPort) (s : State) : State :=
  admRun h 12 (fun c =>
      let q := tblGet (aAt c 8 2) (s.host h).wqs
      firstCode [
        (decide (s.fget F.WQ_POOL_WQ_COUNT h.val ≤ aAt c 8 2 ∨ 1048575 < aAt c 12 4 ∨ aAt c 16 4 < 256 ∨ 16777215 < aAt c 16 4 ∨
          3 < aAt c 21 1) || !zeroBytes c [(10, 11), (22, 55)], 2),
        (q.isNone, 5), (q.any (fun q => q.leash.isNone), 2)])
    (fun i c t => admDone h i 0 0 (modWq h (aAt c 8 2) (fun q => { q with leash := q.leash.map (fun l =>
      { l with waiting := some (aAt c 12 4, aAt c 16 4, aAt c 20 1, (aAt c 21 1).testBit 0, (aAt c 21 1).testBit 1) }) }) t)) s

/-! ## Event queues and domains (R180, R206) -/

/-- CREATE_EQ (R180). -/
def admCreateEq (h : HostPort) (s : State) : State :=
  admRun h 3 (fun c =>
      firstCode [
        (decide (s.fget F.EQ_POOL_EQ_COUNT h.val ≤ aAt c 8 2 ∨ aAt c 10 1 < 6 ∨ 16 < aAt c 10 1 ∨ 3 < aAt c 11 1 ∨
          2047 < aAt c 12 2 ∨ aAt c 16 8 % 4096 ≠ 0) || !zeroBytes c [(24, 55)], 2),
        ((tblGet (aAt c 8 2) (s.host h).eqs).isSome, 4)])
    (fun i c t =>
      let q : EventQueue := { logSize := aAt c 10 1, vecEn := (aAt c 11 1).testBit 0, tphEn := (aAt c 11 1).testBit 1,
                              vector := aAt c 12 2, st := aAt c 14 2, ring := aAt c 16 8, pi := 0, ci := 0, armed := false,
                              decided := [], stash := [], decidedNo := 0, writtenNo := 0, due := [] }
      admDone h i 0 0 (t.modHost h (fun x => { x with eqs := tblSet (aAt c 8 2) q x.eqs }))) s

/-- DESTROY_EQ (R180). -/
def admDestroyEq (h : HostPort) (s : State) : State :=
  admRun h 4 (fun c =>
      let eq := aAt c 8 2
      let x := s.host h
      firstCode [
        (decide (s.fget F.EQ_POOL_EQ_COUNT h.val ≤ eq), 2),
        ((tblGet eq x.eqs).isNone, 5),
        (x.wqs.any (fun q => decide (q.2.eq = eq)) ||
          x.wins.any (fun w => w.2.isOpen && w.2.access.testBit 4 && decide (w.2.eq = eq)) ||
          decide (s.fget F.EQ_ASYNC_EQ h.val = eq) || (tblGet eq x.eqs).any (fun q => !q.stash.isEmpty), 6)])
    (fun i c t => admDone h i 0 0 (t.modHost h (fun x => { x with eqs := tblDel (aAt c 8 2) x.eqs }))) s

/-- CREATE_PD (R206). -/
def admCreatePd (h : HostPort) (s : State) : State :=
  admRun h 5 (fun c =>
      firstCode [
        (decide (4095 < aAt c 8 2 ∨ aAt c 16 8 % 4096 ≠ 0) || !zeroBytes c [(10, 15), (24, 55)], 2),
        ((tblGet (aAt c 8 2) (s.host h).pds).isSome, 4),
        (decide (s.image.elim 0 (fun m => (imgPool m h.val).pds) ≤ (s.host h).pds.length), 3)])
    (fun i c t => admDone h i 0 0 (t.modHost h (fun x => { x with pds := tblSet (aAt c 8 2) (aAt c 16 8) x.pds }))) s

/-- DESTROY_PD (R206): the domain's ATC entries go first. -/
def admDestroyPd (h : HostPort) (s : State) : State :=
  admRun h 6 (fun c =>
      let pd := aAt c 8 2
      let x := s.host h
      firstCode [
        (decide (4095 < pd) || !zeroBytes c [(10, 15), (24, 55)], 2),
        ((tblGet pd x.pds).isNone, 5),
        (x.wqs.any (fun q => decide (q.2.pd = pd)) || x.eps.any (fun e => decide (e.2.pd = pd) && !e.2.gone) ||
          x.wins.any (fun w => w.2.isOpen && decide (w.2.pd = pd)), 6)])
    (fun i c t => admDone h i 0 0 ((invalidatePoint h ⟨1, aAt c 8 2, 0, 0⟩ t).2.modHost h (fun x =>
      { x with pds := tblDel (aAt c 8 2) x.pds }))) s

/-! ## Endpoints (R208) -/

/-- The context CREATE_EP makes. -/
def newEp (c : Bytes) (onChip : Bool) : EpCtx :=
  { pd := aAt c 12 2, rto := if aAt c 14 2 = 0 then 48 else aAt c 14 2, closing := false, lost := false, gone := false,
    onChip := onChip, posted := [], unexp := [], search := none }

/-- CREATE_EP (R208): the context is cached where a unit can be had, else written to its Kennel slot (DESIGN CHOICE, log entry 65). -/
def admCreateEp (h : HostPort) (s : State) : State :=
  admRun h 7 (fun c =>
      let ep := aAt c 8 3
      firstCode [
        (!zeroBytes c [(11, 11), (16, 55)] || decide (4095 < aAt c 12 2) || decide (epPort ep ≠ h), 2),
        (decide (ctxLog s h = 0), 3),
        (decide (2 ^ ctxLog s h ≤ ep % 8388608), 2),
        ((liveEp s h ep).any (·.closing), 7),
        ((liveEp s h ep).isSome, 4),
        ((tblGet (aAt c 12 2) (s.host h).pds).isNone, 5)])
    (fun i c t =>
      let ep := aAt c 8 3
      let put (on : Bool) (u : State) : State := u.modHost h (fun x => { x with eps := tblSet ep (newEp c on) x.eps })
      match makeRoom 1 1 t with
      | some u => admDone h i 0 0 (cacheUnit (.ctx h ep) (put true u))
      | none => admDone h i 0 0 (areaWrite h (ctxSlot t h ep) 256 (put false t))) s

/-- Parked requests for an endpoint that is being destroyed are refused with NO_ENDPOINT (R208). -/
def refuseEp (h : HostPort) (ep : Nat) (s : State) : State :=
  let gone := fun (k : Parked) => k.h == h && pktDstEp k.pkt == ep && pktSequenced k.pkt && !pktIsReply k.pkt
  let mine := s.park.filter gone
  mine.foldl (fun t k => nackEarly k.pkt 2 t) { s with park := s.park.filter (fun k => !gone k) }

/-- DESTROY_EP (R208, R248). -/
def admDestroyEp (h : HostPort) (s : State) : State :=
  admRun h 8 (fun c =>
      let ep := aAt c 8 3
      firstCode [
        (!zeroBytes c [(11, 11), (16, 55)] || decide (epPort ep ≠ h) || decide (2 ^ ctxLog s h ≤ ep % 8388608), 2),
        ((liveEp s h ep).isNone, 5),
        ((liveEp s h ep).any (·.closing), 7),
        ((s.host h).wqs.any (fun q => decide (q.2.ep = ep)), 6)])
    (fun i c t =>
      let ep := aAt c 8 3
      let t := mteDestroy h ep (refuseEp h ep (modEp h ep (fun e => { e with closing := true }) t))
      admLate h i (.destroyEp ep) t) s

/-- DESTROY_EP_DONE (R208, R248): every reply reservation of the endpoint is released and its automatic gets have ended. -/
def admDestroyEpDone (h : HostPort) (ep : Nat) (s : State) : State :=
  match liveEp s h ep, lateOf s h (fun k => decide (k = .destroyEp ep)) with
  | some c, some i =>
    let x := s.host h
    if c.closing && s.hostLive h && !x.rem.resvs.any (fun r => decide (keyEp r.2.pair = ep)) &&
        !x.mte.deliveries.any (fun d => d.2.isGet && decide (d.2.ep = ep)) then
      admDone h i 0 0 (s.modHost h (fun x => { x with
        eps := tblDel ep x.eps, pairs := x.pairs.filter (fun p => keyEp p.1 != ep),
        rem := { x.rem with late := x.rem.late.filter (fun l => keyEp l.1 != ep), owed := x.rem.owed.filter (fun o => keyEp o.pair != ep) } }))
    else s
  | _, _ => s

/-! ## Windows (R216, R218, R242) -/

/-- The index a window command names, within the port. -/
def winIndex (c : Bytes) : Nat := aAt c 8 3 % 2 ^ 19

/-- INDEX is out of range (R216). -/
def winIndexBad (s : State) (h : HostPort) (c : Bytes) : Bool :=
  decide (2 ^ 20 ≤ aAt c 8 3) || decide (aAt c 8 3 / 2 ^ 19 % 2 ≠ h.val) || decide (winCount s h ≤ winIndex c)

/-- A REVOKE_WINDOW of this window has not completed. -/
def winRevoking (s : State) (h : HostPort) (w : Nat) : Bool := (lateOf s h (fun k => decide (k = .revoke w))).isSome

/-- The checks of OPEN_WINDOW that need no table entry. -/
def openWinCode (s : State) (h : HostPort) (c : Bytes) : Nat :=
  let va := aAt c 24 8
  let len := aAt c 32 8
  firstCode [
    (winIndexBad s h c || decide (4095 < aAt c 12 2 ∨ 31 < aAt c 14 1 ∨ 4095 < aAt c 16 2 ∨ 2 ^ 48 ≤ va ∨ len = 0 ∨ 2 ^ 48 < va + len) ||
      !zeroBytes c [(11, 11), (15, 15), (18, 23), (40, 55)], 2),
    (rndvIndex s h (winIndex c), 6),
    (winRevoking s h (winIndex c), 7),
    ((tblGet (aAt c 12 2) (s.host h).pds).isNone ||
      ((aAt c 14 1).testBit 4 && (tblGet (aAt c 16 2) (s.host h).eqs).isNone), 5)]

/-- OPEN_WINDOW (R216). In host-table mode an entry that is not on chip is read first. -/
def admOpenWindow (h : HostPort) (s : State) : State :=
  admRun h 9 (openWinCode s h) (fun i c t =>
    let w := winIndex c
    match needWin h w t with
    | (t, some _) => t
    | (t, none) =>
      if (winOf t h w).isOpen then admDone h i 4 0 t
      else
        let x : Window := { closedWin true with pd := aAt c 12 2, access := aAt c 14 1, eq := aAt c 16 2, va := aAt c 24 8,
                                                len := aAt c 32 8 }
        let t := openWin h w x t
        admDone h i 0 (winKey t h w) t) s

/-- REVOKE_WINDOW (R218): its start is the revoke point. -/
def admRevokeWindow (h : HostPort) (s : State) : State :=
  admRun h 10 (fun c =>
      firstCode [
        (winIndexBad s h c || decide (4095 < aAt c 12 2) || !zeroBytes c [(11, 11), (15, 15), (18, 23), (40, 55)], 2),
        (rndvIndex s h (winIndex c), 6)])
    (fun i c t =>
      let w := winIndex c
      match needWin h w t with
      | (t, some _) => t
      | (t, none) =>
        if !(winOf t h w).isOpen ∨ (winOf t h w).gen ≠ aAt c 12 2 then admDone h i 5 0 t
        else admLate h i (.revoke w) (closeWin h w t)) s

/-- REVOKE_DONE (R218): what the window had accepted has ended. -/
def admRevokeDone (h : HostPort) (w : Nat) (s : State) : State :=
  match lateOf s h (fun k => decide (k = .revoke w)) with
  | some i =>
    if s.hostLive h && !winHeld s h w && !(s.host h).rem.atomics.any (fun a => decide (a.2.win = w)) then admDone h i 0 0 s else s
  | none => s

/-! ## INVALIDATE (R201, R202) -/

/-- INVALIDATE (R201): its start is the invalidation point. -/
def admInvalidate (h : HostPort) (s : State) : State :=
  admRun h 11 (fun c =>
      let scope := aAt c 10 1
      firstCode [
        (decide (2 < scope) || (decide (scope < 2) && decide (4095 < aAt c 8 2)) || !zeroBytes c [(11, 15), (32, 55)] ||
          (decide (scope = 0) && decide (aAt c 16 8 % 4096 ≠ 0 ∨ 2 ^ 48 ≤ aAt c 16 8 ∨ aAt c 24 8 = 0 ∨ 2 ^ 36 < aAt c 24 8 ∨
            2 ^ 48 < aAt c 16 8 + 4096 * aAt c 24 8)), 2),
        (decide (scope < 2) && (tblGet (aAt c 8 2) (s.host h).pds).isNone, 5)])
    (fun i c t =>
      let r := invalidatePoint h ⟨aAt c 10 1, aAt c 8 2, aAt c 16 8, aAt c 24 8⟩ t
      admLate h i (.invalidate r.1.1 r.1.2) r.2) s

/-- INVALIDATE_DONE on the admin path (R202): the oldest whose conditions are met completes. -/
def admInvalidateDone (h : HostPort) (s : State) : State :=
  match (s.host h).adm.late.findSome? (fun l => match l.2 with
      | .invalidate removed n => if invSettled s h n then some (l.1, removed) else none
      | _ => none) with
  | some (i, n) => admDone h i 0 n s
  | none => s

/-! ## Groups (R253 to R255) -/

/-- ARM_GROUP (R253): the tree descriptor is read, up to the 272 bytes it may have. -/
def admArmGroup (h : HostPort) (s : State) : State :=
  admRun h 13 (fun c =>
      let g := tblGet (aAt c 8 2) s.groups
      firstCode [
        (decide (4095 < aAt c 8 2 ∨ aAt c 10 1 = 0 ∨ 16 < aAt c 10 1 ∨ aAt c 11 1 = 0 ∨ 16 < aAt c 11 1 ∨ aAt c 12 1 < 8 ∨
          12 < aAt c 12 1 ∨ aAt c 16 8 % 64 ≠ 0) || !zeroBytes c [(26, 55)], 2),
        (g.any (fun g => decide (g.status = .disarming)), 7),
        (g.isSome, 4)])
    (fun _ c t =>
      if reqOut t h (fun k => decide (k = .tree)) then t
      else hostReq h .tree (aAt c 16 8) 272 false t) s

/-- The group that an ARM_GROUP command and a tree descriptor make (R252, R253). -/
def newGroup (h : HostPort) (c d : Bytes) : ColGroup :=
  let n := leAt d 8 1 % 128
  { status := .armed, owner := h, treeId := BitVec.ofNat 32 (leAt d 0 4), parent := leAt d 4 3 % 2 ^ 18, parentIdx := leAt d 4 3 / 2 ^ 18,
    root := (leAt d 7 1).testBit 0, children := (List.range n).map (fun k => leAt d (16 + 4 * k) 4 % 2 ^ 18), ops := aAt c 10 1,
    win := aAt c 11 1, logSeg := aAt c 12 1, retries := if aAt c 13 1 = 0 then 16 else aAt c 13 1,
    rto := if aAt c 14 2 = 0 then 16 else aAt c 14 2, armWait := if aAt c 24 2 = 0 then 100 else aAt c 24 2, next := 0#16, cause := 0,
    detail := 0, units := aAt c 10 1 * aAt c 11 1 * (n + 1) * 2 ^ aAt c 12 1 / 256, slots := [] }

/-- Two elements of a list are equal. -/
def hasRepeat : List Nat → Bool
  | [] => false
  | x :: rest => rest.contains x || hasRepeat rest

/-- The tree descriptor breaks a rule of R253. -/
def badTree (s : State) (g : ColGroup) (d : Bytes) : Bool :=
  let chips := s.image.elim 0 imgChips
  let n := g.children.length
  decide (64 < n) || decide (127 < leAt d 8 1) || decide (1 < leAt d 7 1) || !zeroBytes d [(9, 15)] ||
    (List.range n).any (fun k => decide (2 ^ 18 ≤ leAt d (16 + 4 * k) 4)) ||
    (g.root && decide (g.parent ≠ 0 ∨ g.parentIdx ≠ 0)) || (!g.root && decide (g.parent = s.chip)) ||
    g.children.any (fun k => decide (k = s.chip) || (!g.root && decide (k = g.parent)) || decide (chips ≤ k)) ||
    hasRepeat g.children || decide (chips ≤ g.parent)

/-- Units reserved by armed groups (R254). -/
def colUnits (s : State) : Nat := (s.groups.map (fun g => g.2.units)).sum

/-- TREE_DESCRIPTOR_READ_DONE (R253, R254). The other port may have armed the group since the read was issued. -/
def admTreeDone (h : HostPort) (data : Option Bytes) (s : State) : State :=
  match (s.host h).hif.reqs.find? (fun r => decide (r.2.kind = .tree)) with
  | none => s
  | some r =>
    let s := reqEnd h r.1 data.isSome s
    match admCur s h 13 with
    | none => s
    | some (i, c) =>
      match data with
      | none => admDone h i 8 0 (reqFail h s)
      | some b =>
        let d := padTo 272 b
        let g := newGroup h c d
        let old := tblGet (aAt c 8 2) s.groups
        if badTree s g d then admDone h i 2 0 s
        else if old.any (fun g => decide (g.status = .disarming)) then admDone h i 7 0 s
        else if old.isSome then admDone h i 4 0 s
        else if s.fget F.COL_PART_UNITS < colUnits s + g.units then admDone h i 3 0 s
        else admDone h i 0 g.units { s with groups := tblSet (aAt c 8 2) g s.groups }

/-- DISARM_GROUP (R255). -/
def admDisarmGroup (h : HostPort) (s : State) : State :=
  admRun h 14 (fun c =>
      let g := (tblGet (aAt c 8 2) s.groups).filter (fun g => decide (g.owner = h))
      firstCode [
        (decide (4095 < aAt c 8 2) || !zeroBytes c [(26, 55)], 2), (g.isNone, 5),
        (g.any (fun g => decide (g.status = .disarming)), 7)])
    (fun i c t =>
      let grp := aAt c 8 2
      let slots := (tblGet grp t.groups).elim [] (·.slots)
      let t := modGroup grp (fun g => { g with status := .disarming }) t
      let t := slots.foldl (fun u o =>
        if colActive o.2 then colFail grp o.1 8 0 none (modGroup grp (fun g => { g with cause := 8 }) u) else u) t
      admLate h i (.disarm grp) (colPump h t)) s

/-- DISARM_DONE (R255): every ABORT of the group has been answered or given up; its reservation is released. -/
def admDisarmDone (grp : Nat) (s : State) : State :=
  match tblGet grp s.groups with
  | none => s
  | some g =>
    match lateOf s g.owner (fun k => decide (k = .disarm grp)) with
    | some i =>
      if g.status = .disarming ∧ g.slots.all (fun o => o.2.edges.all (fun e => !e.2.abort)) ∧ s.hostLive g.owner then
        admDone g.owner i 0 0 { s with groups := tblDel grp s.groups }
      else s
    | none => s

/-- NOP (R163). -/
def admNopCmd (h : HostPort) (s : State) : State := admRun h 15 (fun _ => 0) (fun i _ t => admDone h i 0 0 t) s

/-! ## Retriever completions (R211, R213, R236) -/

/-- Operations that waited for a record whose fetch failed end in REFUSED with FETCH_FAILED, RECVs in HOST_ERROR. -/
def failWaiting (h : HostPort) (waits : WorkQueue → OpState → Bool) (s : State) : State :=
  (s.host h).wqs.foldl (fun t q => q.2.ops.foldl (fun u o =>
    let d := opFirst o.2
    if !o.2.begun || o.2.allSent || decide (o.2.status ≠ 0) || !waits q.2 o.2 then u
    else if opPaired (dOp d) then checkOp h q.1 o.1 (opError h q.1 o.1 1 6 u)
    else if dOp d = 7 then recvFail h (recvOf q.2 q.1 o.1 o.2) 5 0 u
    else u) t) s

/-- Automatic gets whose pair record could not be fetched end. -/
def failGets (h : HostPort) (key : Nat) (s : State) : State :=
  (s.host h).mte.deliveries.foldl (fun t d =>
    if d.2.isGet && d.2.started && !d.2.lastSent && decide (getKey d.2 = key) then
      checkGet h d.1 (modDelivery h d.1 (fun d =>
        { d with lastSent := true, status := if d.status = 0 then 1 else d.status, detail := if d.status = 0 then 6 else d.detail }) t)
    else t) s

/-- A record has arrived: it is installed where room can be had (R210, R212, R213). -/
def installRecord (h : HostPort) (k : ReqKind) (s : State) : State :=
  match k with
  | .context ep => ((makeRoom 1 1 s).map (fun t => cacheUnit (.ctx h ep) (modEp h ep (fun c => { c with onChip := true }) t))).getD s
  | .pair key => ((makeRoom 3 3 s).map (fun t => cacheUnit (.pair h key) (modPair h key (fun p => { p with onChip := true }) t))).getD s
  | .window w =>
    ((makeRoom (recordUnits s h k) 1 s).map (fun t =>
      let u := winUnit t h
      cacheUnit (.wins h u) (t.modHost h (fun x => { x with wins := tblSet w { winOf t h w with onChip := true, unit := u } x.wins })))).getD s
  | _ => s

/-- The window command that waited for an entry goes on, or fails with HOST_ERROR (R164, R216). -/
def windowCommand (h : HostPort) (w : Nat) (ok : Bool) (s : State) : State :=
  match (s.host h).adm.cur with
  | some (i, c) =>
    if (dOp c = 9 ∨ dOp c = 10) ∧ winIndex c = w then
      (if !ok then admDone h i 8 0 s else if dOp c = 9 then admOpenWindow h s else admRevokeWindow h s)
    else s
  | none => s

/-- What fell due for a pair whose record could not be fetched is dropped; the next timeout fetches it again (R213). -/
def dropLate (h : HostPort) (key : Nat) (s : State) : State :=
  modRem h (fun x => { x with late := x.late.filter (fun l => l.1 != key) }) s

/-- FETCH_DONE (R213): the record is installed and what waited for it goes on, or everything that waited is refused. -/
def fetchEnd (h : HostPort) (tag : Nat) (k : ReqKind) (ok : Bool) (s : State) : State :=
  let s := reqEnd h tag ok s
  if !s.hostLive h then s
  else if ok then
    let s := releaseParked none (installRecord h k s)
    let s := match k with
      | .window w => windowCommand h w true s
      | _ => s
    pumpPort h s
  else
    let s := (reqFail h s).finc F.EPC_ERR_FETCH_FAIL 1 h.val
    let s := match k with
      | .context ep => failWaiting h (fun q _ => decide (q.ep = ep)) (refuseFetch h (.context ep) s)
      | .pair key =>
        dropLate h key (failGets h key (failWaiting h (fun q o => opPaired (dOp (opFirst o)) && decide (opKey q o = key))
          (refuseFetch h (.pair key) s)))
      | .window w => windowCommand h w false (refuseFetch h (.window w) s)
      | _ => s
    releaseParked none s

/-- What an outstanding request was made for. -/
def reqOf (s : State) (h : HostPort) (tag : Nat) : Option ReqKind := (tblGet tag (s.host h).hif.reqs).map (·.kind)

/-- FETCH_DONE by its request tag. -/
def fetchDoneIn (h : HostPort) (tag : Nat) (ok : Bool) (s : State) : State :=
  match reqOf s h tag with
  | some (.context ep) => fetchEnd h tag (.context ep) ok s
  | some (.pair key) => fetchEnd h tag (.pair key) ok s
  | some (.window w) => fetchEnd h tag (.window w) ok s
  | _ => s

/-! ## Walks (R194, R197, R202) -/

/-- One that waited for a walk goes on. -/
def wakeUser (h : HostPort) (known : Option (Walk × WalkEnd)) (u : XltUser) (s : State) : State :=
  match u with
  | .op wq idx => pumpOp h wq idx known pumpFuel s
  | .delivery id => deliverOn h id known deliverFuel s
  | .reply r => replyReread h known r s
  | .col grp slot => colGo grp slot known s

/-- Collective operations of a port's groups go on. -/
def pumpCols (h : HostPort) (s : State) : State :=
  s.groups.foldl (fun t g => if g.2.owner = h then g.2.slots.foldl (fun u o => colGo g.1 o.1 none u) t else t) s

/-- A walk has ended, and what waited for it goes on with what it found. -/
def walkOver (h : HostPort) (w : Walk) (e : WalkEnd) (s : State) : State :=
  let s := w.waiters.foldl (fun t u => wakeUser h (some (w, e)) u t) s
  pumpPort h (pumpCols h (releaseParked (some (w, e)) s))

/-- WALK_READ_DONE (R194): the walk goes on, or ends. -/
def walkDoneIn (h : HostPort) (tag : Nat) (data : Option Bytes) (s : State) : State :=
  match reqOf s h tag with
  | some (.walk id) =>
    let s := reqEnd h tag data.isSome s
    if !s.hostLive h then s
    else
      let r := walkRead h id data (if data.isNone then reqFail h s else s)
      match r.2 with
      | none => r.1
      | some (w, e) => walkOver h w e r.1
  | _ => s

/-! ## Requests that wait for a tag (R154) -/

/-- The first waiting request goes out; a walk's read is checked now (R195), and one that may not be made ends its walk. -/
def issueOne (h : HostPort) (r : HostReq) (s : State) : State :=
  match r.kind with
  | .walk id =>
    match tblGet id (s.host h).xlt.walks, walkCheck s h r.addr with
    | some w, some c => walkOver h w (walkEndOf w (.fault c w.level)) (endWalk h id none s)
    | _, _ => sendReq h r s
  | _ => sendReq h r s

/-- Waiting requests go out in order while tags are free. -/
def issueWaiting (h : HostPort) : Nat → State → State
  | 0, s => s
  | n + 1, s =>
    match (s.host h).hif.reqWait with
    | [] => s
    | r :: rest =>
      if !s.hostLive h || decide (1024 ≤ (s.host h).hif.reqs.length) then s
      else issueWaiting h n (issueOne h r (s.modHif h (fun x => { x with reqWait := rest })))

/-- After the end of a request: its tag goes to the next one that waits, and what waited for room tries again (R25, R154). At most 1,024
requests go out and 32 walks end. -/
def tagFreed (h : HostPort) (s : State) : State := roomAgain (issueWaiting h 1100 s)

/-! ## Local reads (R172) -/

/-- A read of local source data ends (R172, R157): the packet goes on, or the operation ends in HOST_ERROR. -/
def localDone (h : HostPort) (wq idx len : Nat) (data : Option Bytes) (s : State) : State :=
  match data with
  | some b => pumpOp h wq idx none pumpFuel (modOp h wq idx (fun o => { o with reading := false, got := o.got ++ padTo len b }) s)
  | none => checkOp h wq idx (opError h wq idx 5 0 (modOp h wq idx (fun o => { o with reading := false }) (reqFail h s)))

end Sys2Proof.Machine
end

