-- ==== Sys2Proof/Machine/CcOps.lean ====
section
/-! DEFINITION. Pair resets and queries, Leash refills and sampling (R214, R273 to R279). -/

namespace Sys2Proof.Machine

/-! ## Pair reset (R214, R228) -/

/-- The pair that EPC_PAIR_SEL and a peer endpoint select. -/
def selectedPair (s : State) (h : HostPort) (peer : Nat) : Nat :=
  pairKey (s.fget F.EPC_PAIR_SEL_LOCAL_EP h.val) (s.fget F.EPC_PAIR_SEL_PEER_CHIP h.val) peer

/-- A record that is not on chip is asked for. -/
def askPair (h : HostPort) (key : Nat) (s : State) : State := if (getPair s h key).isSome then (needPair h key s).1 else s

/-- EPC_PAIR_RESET.GO. -/
def pairResetGo (h : HostPort) (peer : Nat) (s : State) : State :=
  let side := s.fget F.EPC_PAIR_SEL_SIDE h.val
  if (s.host h).rem.pairReset.isSome then s.fset F.EPC_PAIR_RESET_ERR 1 h.val
  else if (liveEp s h (s.fget F.EPC_PAIR_SEL_LOCAL_EP h.val)).isNone ∨ side = 0 then s.fset F.EPC_PAIR_RESET_ERR 2 h.val
  else
    let key := selectedPair s h peer
    askPair h key ((modRem h (fun x => { x with pairReset := some (key, side) }) s).fset F.EPC_PAIR_RESET_ERR 0 h.val)

/-- The send state of a pair starts anew (R214, R269); what was outstanding ends as on a pair given up. -/
def resetSend (h : HostPort) (key : Nat) (s : State) : State :=
  modPair h key (fun p => { p with next := 0#24, out := [], gets := [], broken := false, quiet := true, cong := newCong s h })
    (breakPair h key s)

/-- The receive state of a pair starts anew (R214). -/
def resetRecv (h : HostPort) (key : Nat) (s : State) : State :=
  modPair h key (fun p => { p with exp := 0#24, consumed := [], durable := [], unacked := 0, trig := none }) s

/-- The pair reset completes, once the record is on chip. -/
def pairResetEnd (h : HostPort) (s : State) : State :=
  match (s.host h).rem.pairReset with
  | none => s
  | some (key, side) =>
    if fetching s h (.pair key) then s
    else
      let s := if side % 2 = 1 then resetSend h key s else s
      let s := if 2 ≤ side then resetRecv h key s else s
      modRem h (fun x => { x with pairReset := none }) s

/-- E2E_RTO after a send-side reset has passed: the pair may send again. -/
def quietOver (h : HostPort) (key : Nat) (s : State) : State :=
  if (getPair s h key).any (·.quiet) then portGoesOn h (modPair h key (fun p => { p with quiet := false }) s) else s

/-! ## Congestion queries (R279, R280) -/

/-- CC_PAIR_Q.GO. -/
def ccQueryGo (h : HostPort) (peer : Nat) (s : State) : State :=
  let key := selectedPair s h peer
  if (s.host h).rem.ccQuery.isSome then s.fset F.CC_PAIR_Q_ERR 1 h.val
  else if (getPair s h key).isNone then s.fset F.CC_PAIR_Q_ERR 2 h.val
  else askPair h key ((modRem h (fun x => { x with ccQuery := some key }) s).fset F.CC_PAIR_Q_ERR 0 h.val)

/-- CC_PAIR_STATE of a pair. -/
def pairStateWord (c : CongState) : Word :=
  packFields [(23, 0, c.w), (39, 24, min 65535 (c.base.getD 0 / 8)), (55, 40, min 65535 (c.lastRtt / 8)),
    (63, 56, min 255 (c.inflight / 1024))]

/-- The query completes; a record that could not be fetched is ERR 3. -/
def ccQueryEnd (h : HostPort) (s : State) : State :=
  match (s.host h).rem.ccQuery with
  | none => s
  | some key =>
    if fetching s h (.pair key) then s
    else
      let s := modRem h (fun x => { x with ccQuery := none }) s
      match getPair s h key with
      | some p => if p.onChip then s.setWord .CC_PAIR_STATE (pairStateWord p.cong) h.val 0 else s.fset F.CC_PAIR_Q_ERR 3 h.val
      | none => s.fset F.CC_PAIR_Q_ERR 2 h.val

/-! ## The refill tick (R274 to R276) -/

/-- Retransmissions that wait for tokens go, as far as the tokens reach (R275). -/
def resendDue (h : HostPort) (s : State) : State :=
  (s.host h).pairs.foldl (fun t p => p.2.out.foldl (fun u e => if e.2.due then resend h p.1 e.1 u else u) t) s

/-- LEASH_REFILL (R274, R276): tokens, waiting settings and the period, then what waited for tokens. -/
def leashTick (h : HostPort) (s : State) : State :=
  let next := max 1 (s.fget F.SHP_CTL_REFILL h.val)
  let s := s.modHost h (fun x => { x with
    wqs := x.wqs.map (fun q => (q.1, { q.2 with leash := q.2.leash.map (refillLeash x.refill) })), refill := next })
  if s.hostLive h then portGoesOn h (resendDue h s) else s

/-! ## Sampling (R278) -/

/-- SHP_SAMPLE[k] of a queue at a tick. -/
def sampleWord (s : State) (h : HostPort) (k wq seq : Nat) : Word :=
  match tblGet wq (s.host h).wqs with
  | some q =>
    if q.closing then packFields [(63, 56, seq)]
    else
      let delay := match q.bells with
        | b :: _ => if q.head = q.pi then 0 else min 65535 ((s.clock - b.2) / 64)
        | [] => 0
      packFields [(16, 0, ringCount q.logSize q.pi q.head), (21, 17, q.side.length), (22, 22, 1),
        (23, 23, b2n ((s.host h).leashHeld.contains k)), (24, 24, b2n ((s.host h).cwndHeld.contains k)), (47, 32, delay), (63, 56, seq)]
  | none => packFields [(63, 56, seq)]

/-- SAMPLE_TICK (R278): a record for each enabled slot, and a new period. -/
def sampleAll (h : HostPort) (s : State) : State :=
  if s.fget F.SHP_CTL_SAMPLE_US h.val = 0 then s
  else
    let s := (List.range 16).foldl (fun t k =>
      if t.flag F.SHP_SAMPLE_SEL_EN h.val k then
        t.setWord .SHP_SAMPLE (sampleWord t h k (t.fget F.SHP_SAMPLE_SEL_WQ h.val k) ((t.fget F.SHP_SAMPLE_SEQ h.val k + 1) % 256)) h.val k
      else t) s
    s.modHost h (fun x => { x with leashHeld := [], cwndHeld := [] })

end Sys2Proof.Machine
end

