-- ==== Sys2Proof/Machine/Flags.lean ====
section
/-! DEFINITION. What a register read shows: the Live fields, computed from the state (R7), over the stored fields. -/

namespace Sys2Proof.Machine

/-! ## Codes -/

/-- CFG_STATUS.STATE (R38). -/
def loadCode : LoadState → Nat
  | .notLoading => 0
  | .loading => 1
  | .loaded => 2
  | .noImage => 3

/-- RST_STATUS.PHASE (R321). -/
def phaseCode : Phase → Nat
  | .running => 0
  | .held => 1
  | .sramTest => 2
  | .sramClear => 3
  | .loading => 4

/-- LAN_STATUS.STATE (R68). -/
def laneCode : LanePhase → Nat
  | .off => 0
  | .noModule => 1
  | .waitClock => 2
  | .eq => 3
  | .align => 4
  | .exchange => 5
  | .up => 6
  | .compliance => 7
  | .retry => 8

/-- LNK_STATUS.STATE (R90). -/
def linkCode : LinkPhase → Nat
  | .down => 0
  | .init => 1
  | .check => 2
  | .refused => 3
  | .up => 4

/-- COL_GRP_STATE.STATE (R267). -/
def groupCode : GroupStatus → Nat
  | .armed => 1
  | .failed => 2
  | .disarming => 3

/-- A signed value in `n` bits of two's complement, saturating. -/
def satSigned (n : Nat) (v : Int) : Nat :=
  let m : Int := 2 ^ (n - 1)
  let c := if v < -m then -m else if m - 1 < v then m - 1 else v
  (if c < 0 then c + 2 ^ n else c).toNat

/-- The host port of a register instance. -/
def hostIx (i : Nat) : HostPort := if i = 0 then 0 else 1

/-- The network port of a register instance. -/
def portIx (i : Nat) : NetPort := Fin.ofNat 64 i

/-! ## Live fields, block by block: [hi], [lo] and value -/

/-- SYS (R369): VALID, the straps as latched, the die's fuses. -/
def liveSys (s : State) : RegId → List (Nat × Nat × Nat)
  | .SYS_CHIP => [(32, 32, b2n s.image.isSome)]
  | .SYS_STRAP => [(2, 0, s.impl.smbAddr.toNat), (3, 3, b2n s.impl.hp1En), (7, 4, s.impl.board.toNat)]
  | .SYS_DIE => [(63, 0, s.impl.dieId.toNat)]
  | _ => []

/-- CFG (R38). -/
def liveCfg (s : State) : RegId → List (Nat × Nat × Nat)
  | .CFG_STATUS => [(1, 0, loadCode s.cfg.state), (2, 2, b2n s.cfg.slot), (3, 3, b2n s.cfg.fallback),
      (4, 4, b2n s.cfg.trial), (5, 5, b2n s.cfg.calValid), (6, 6, b2n s.cfg.presetSkipped), (7, 7, b2n s.pwr.pfw),
      (11, 8, s.cfg.failA), (15, 12, s.cfg.failB)]
  | .CFG_PROG_CTL => [(32, 32, b2n s.cfg.prog.isSome)]
  | .CFG_ACTIVATE => [(16, 16, b2n (activating s.cfg))]
  | .CFG_SLOT_SERIAL_A => [(63, 0, s.cfg.serialA.toNat)]
  | .CFG_SLOT_SERIAL_B => [(63, 0, s.cfg.serialB.toNat)]
  | _ => []

/-- RST, PWR, AON, TIM and FLT (R302, R321, R335). Bits 7 to 0 of FLT_FAULTN_EN read as 1 and of FLT_PROMOTE as 0 (R325,
R327). -/
def liveAon (s : State) : RegId → List (Nat × Nat × Nat)
  | .RST_STATUS => [(2, 0, phaseCode s.rst.phase)]
  | .RST_WDOG => [(63, 48, wdogLeftMs s)]
  | .PWR_STATUS => [(1, 0, powerCode s.pwr.state), (2, 2, b2n s.pwr.transition.isSome)]
  | .PWR_PFW => [(34, 34, b2n s.pwr.pfwActive)]
  | .AON_TEMP => [(11, 0, s.pwr.tempNow.toNat)]
  | .AON_SUPPLY => [(0, 0, b2n s.pwr.coreOk), (1, 1, b2n s.pwr.pwrgd), (2, 2, b2n s.pwr.pfw), (3, 3, b2n s.pwr.refclk)]
  | .TIM_NOW => [(63, 0, s.tim.now.toNat)]
  | .TIM_STATUS => [(0, 0, b2n s.timeSync), (5, 1, s.tim.level), (11, 6, s.tim.parent.val),
      (31, 16, satSigned 16 (s.tim.offsets.headD 0))]
  | .FLT_MUZZLE => [(0, 0, b2n s.flt.muzzle)]
  | .FLT_FAULTN_EN => [(7, 0, 0xFF)]
  | .FLT_PROMOTE => [(7, 0, 0)]
  | _ => []

/-- Work-queue and event-queue registers of one port (R161, R179, R189). -/
def liveQueues (s : State) (h : HostPort) (k : Nat) : RegId → List (Nat × Nat × Nat)
  | .HIF_STATUS =>
    let x := (s.host h).hif
    [(1, 0, hostStatus s h), (3, 2, if x.rate = 0 then 0 else x.width), (6, 4, x.rate), (7, 7, b2n (x.flit && x.rate != 0)),
      (8, 8, b2n x.bme), (9, 9, b2n x.perst)]
  | .WQ_ADM_HEAD => [(16, 0, (s.host h).adm.head), (48, 32, (s.host h).adm.next)]
  | .WQ_STATE =>
    match tblGet (s.fget F.WQ_SEL_WQ h.val) (s.host h).wqs with
    | some q => [(16, 0, q.pi), (33, 17, q.fetch), (50, 34, q.head), (52, 51, if q.closing then 2 else 1),
        (57, 53, q.side.length)]
    | none => []
  | .EQ_STATE =>
    match tblGet (s.fget F.EQ_SEL_EQ h.val) (s.host h).eqs with
    | some q => [(16, 0, q.pi), (33, 17, q.ci), (40, 34, q.stash.length), (41, 41, b2n q.armed), (43, 42, 1)]
    | none => []
  | .EQ_ASYNC_PEND => [(15, 0, ((s.host h).async.map (fun e => 2 ^ e.1)).sum)]
  | .EQ_CI => match tblGet k (s.host h).eqs with
    | some q => [(16, 0, q.ci)]
    | none => []
  | _ => []

/-- XLT, EPC, MTE, CC and SHP registers (R205, R228, R250, R280). -/
def liveNic (s : State) (h : HostPort) : RegId → List (Nat × Nat × Nat)
  | .XLT_STATUS => [(12, 0, (s.host h).xlt.atc.length), (18, 13, (s.host h).xlt.walks.length), (19, 19, b2n (invBusy s h))]
  | .XLT_INV_CTL => [(17, 17, b2n (s.host h).xlt.inv.isSome)]
  | .EPC_STATUS => [(15, 0, ((s.host h).eps.filter (fun e => e.2.onChip)).length),
      (31, 16, ((s.host h).pairs.filter (fun e => e.2.onChip)).length), (44, 32, winUnits s h 0), (54, 48, fetchCount s h)]
  | .EPC_PAIR_RESET => [(25, 25, b2n (s.host h).rem.pairReset.isSome)]
  | .EPC_PARK => [(12, 0, s.park.length), (31, 16, parkBlocks s)]
  | .MTE_STATUS => [(19, 0, postedUsed s h), (39, 20, unexpUsed s h), (59, 40, heldUsed s h)]
  | .MTE_STATUS2 => [(22, 0, kennelUsed s h), (41, 23, (s.host h).mte.slots.length), (52, 42, autoGets s h)]
  | .MTE_CHIP => [(19, 0, bothPorts (postedUsed s)), (39, 20, bothPorts (unexpUsed s)), (50, 40, bothPorts (autoGets s))]
  | .CC_PAIR_Q => [(25, 25, b2n (s.host h).rem.ccQuery.isSome)]
  | .SHP_STATE =>
    match leashOf s h (s.fget F.SHP_SEL_WQ h.val) with
    | some l => [(19, 0, l.rate), (43, 20, l.burst), (51, 44, l.overhead), (52, 52, b2n l.chargeGet), (53, 53, 1),
        (54, 54, b2n l.waiting.isSome)]
    | none => []
  | .SHP_TOKENS =>
    match leashOf s h (s.fget F.SHP_SEL_WQ h.val) with
    | some l => [(31, 0, satSigned 32 (l.tokens.fdiv 256))]
    | none => []
  | _ => []

/-- COL registers (R267). -/
def liveCol (s : State) : RegId → List (Nat × Nat × Nat)
  | .COL_STATUS => [(15, 0, colUnits s), (28, 16, s.groups.length)]
  | .COL_GRP_STATE =>
    match tblGet (s.fget F.COL_GRP_SEL_GROUP) s.groups with
    | some g => [(1, 0, groupCode g.status), (2, 2, g.owner.val), (3, 3, b2n g.root), (10, 4, g.children.length),
        (15, 11, (g.slots.filter (fun o => colActive o.2)).length), (31, 16, g.next.toNat), (35, 32, g.cause),
        (51, 36, g.units)]
    | none => []
  | .COL_GRP_TREE =>
    match tblGet (s.fget F.COL_GRP_SEL_GROUP) s.groups with
    | some g => [(31, 0, g.treeId.toNat), (49, 32, g.parent), (55, 50, g.parentIdx)]
    | none => []
  | _ => []

/-- RTR, SEM and CAP registers (R138, R141, R342, R362). OLD_QUIET counts microseconds of the model's clock. -/
def liveChip (s : State) (k : Nat) : RegId → List (Nat × Nat × Nat)
  | .RTR_EPOCH => [(4, 4, b2n s.rtr.copying.isSome), (47, 32, min 0xFFFF ((s.clock - s.rtr.oldSeen) / 1000))]
  | .RTR_TBL_CTL => [(32, 32, b2n (tableBusy s))]
  | .SEM_PORT_RESTR => [(63, 0, portRestr s)]
  | .CAP_MEM =>
    [(63, 0, if 8 * k + 8 ≤ s.image.elim 0 (·.part.capture) then leNat (ramRead s.cap.mem (8 * k) 8) else 0)]
  | _ => []

/-- LNK and LAN registers of a network port (R68, R96). -/
def livePort (s : State) (p : NetPort) (k : Nat) : RegId → List (Nat × Nat × Nat)
  | .LNK_STATUS =>
    let l := (s.port p).link
    [(2, 0, linkCode l.phase), (5, 3, l.refuse), (6, 6, b2n l.advCapped), (31, 16, l.winCount)]
  | .LNK_PEER =>
    match (s.port p).link.peer with
    | some r => [(17, 0, leAt r 0 4 % 2 ^ 18), (23, 18, leAt r 0 4 / 2 ^ 18 % 64), (25, 24, leAt r 0 4 / 2 ^ 24 % 4),
        (63, 32, leAt r 4 4)]
    | none => []
  | .LNK_TX_SEQ =>
    let l := (s.port p).link
    [(11, 0, l.txNext.toNat), (27, 16, l.txAcked.toNat), (42, 32, outstanding l), (60, 48, replayUsed l)]
  | .LNK_RX_SEQ => [(11, 0, (s.port p).link.rxNext.toNat), (25, 16, (s.port p).link.held.length)]
  | .LNK_TXCRED =>
    let c := creditOf (s.port p).link k
    [(11, 0, hdrLeft c), (22, 12, dataLeft c), (43, 32, c.hdrAdv), (54, 44, c.dataAdv)]
  | .LAN_STATUS =>
    let l := (s.port p).lane
    [(3, 0, laneCode (if modulePresent s p then l.phase else .noModule)), (5, 4, l.rate), (7, 6, l.txWidth), (9, 8, l.txGroup), (11, 10, l.rxWidth), (13, 12, l.rxGroup),
      (14, 14, b2n l.txAsleep), (15, 15, b2n l.rxAsleep), (19, 16, l.fail), (20, 20, b2n l.widthRefused),
      (23, 21, l.leave), (47, 32, l.rxMask), (63, 48, l.partnerMask)]
  | .LAN_CMP_ERR => [(32, 32, b2n (s.port p).lane.cmpSync)]
  | _ => []

/-- The Live fields of a register (DESIGN CHOICE, log entry 74). -/
def liveFields (s : State) (r : RegId) (i k : Nat) : List (Nat × Nat × Nat) :=
  match (regPlace r).block with
  | .sys => liveSys s r
  | .cfg => liveCfg s r
  | .rst | .pwr | .aon | .tim | .flt => liveAon s r
  | .hif | .wq | .eq => liveQueues s (hostIx i) k r
  | .xlt | .win | .epc | .mte | .cc => liveNic s (hostIx i) r
  | .col => liveCol s r
  | .rtr | .sem | .cap => liveChip s k r
  | .lnk | .lan => livePort s (portIx i) k r
  | .pmc | .dbg => []

/-- The word a read shows: the stored fields with the Live fields over them. A select register, a queue or a group that does
not exist shows 0. -/
def readWord (s : State) (r : RegId) (i k : Nat) : Word :=
  (liveFields s r i k).foldl (fun w f => putField w f.1 f.2.1 f.2.2) (s.regWord r i k)

end Sys2Proof.Machine
end

