-- ==== Sys2Proof/Machine/Access.lean ====
section
/-! DEFINITION. Register access (R5 to R8, R366 to R377): what a write of a register does and what a read returns and
changes, for every register of BAR0, the MSI-X arrays and every access form of R373. -/

namespace Sys2Proof.Machine

/-! ## Where an access lands -/

/-- The register an offset reaches: one stands there and its block answers (R366). -/
def regHere (s : State) (off : Nat) : Option (RegId × Nat × Nat) :=
  match regAt off with
  | some (r, i, k) => if s.answers (regPlace r).block i then some (r, i, k) else none
  | none => none

/-- The register holds a field of change class S (R8, R46). -/
def holdsStatic (r : RegId) : Bool := (regFields r).any (fun row => row.change == .static)

/-- A write of a register with a static field in a running block (R8, R46). -/
def whileLive (mid : Mid) (off : Nat) (s : State) : State :=
  let s := if s.flag F.CFG_WHILE_LIVE_FLAG then s
    else ((s.fset F.CFG_WHILE_LIVE_FLAG 1).fset F.CFG_WHILE_LIVE_MID mid.toNat).fset F.CFG_WHILE_LIVE_OFFSET off
  s.finc F.CFG_WHILE_LIVE_COUNT 1

/-! ## The rule of the access codes (R6) -/

/-- One field of a written word: RW takes the value, W1C clears, W1S sets; every other code keeps it. -/
def writeField (v w : Word) (row : FieldRow) : Word :=
  let new := fieldOf v row.hi row.lo
  let old := fieldOf w row.hi row.lo
  match row.access with
  | .rw => putField w row.hi row.lo new
  | .w1c => putField w row.hi row.lo (old - (old &&& new))
  | .w1s => putField w row.hi row.lo (old ||| new)
  | .ro | .rc | .ra | .wo => w

/-- A write that only the access codes govern. -/
def writePlain (r : RegId) (i k : Nat) (v : Word) (s : State) : State :=
  s.setWord r ((regFields r).foldl (writeField v) (s.regWord r i k)) i k

/-- The stored word after a read: RC fields are cleared (R6, R377). -/
def clearRead (r : RegId) (w : Word) : Word :=
  (regFields r).foldl (fun w row => if row.access = .rc then putField w row.hi row.lo 0 else w) w

/-! ## Registers whose write does more -/

/-- FLT_FIRST_INFO: clearing VALID clears MORE and rearms the record (R326). -/
def firstInfoWrite (v : Word) (s : State) : State :=
  if bitOf v 0 && s.flag F.FLT_FIRST_INFO_VALID then (s.fset F.FLT_FIRST_INFO_VALID 0).fset F.FLT_FIRST_INFO_MORE 0 else s

/-- CFG_WHILE_LIVE, EQ_OVF and XLT_FREC_INFO: clearing FLAG clears the count beside it (R38, R189, R205). -/
def flagWrite (flag count : RegField) (i : Nat) (v : Word) (s : State) : State :=
  if bitOf v 0 && s.flag flag i then (s.fset flag 0 i).fset count 0 i else s

/-- TIM_CTL: a chip that becomes grandmaster has LEVEL 0 (R286). -/
def timCtlWrite (v : Word) (s : State) : State :=
  let s := writePlain .TIM_CTL 0 0 v s
  if s.flag F.TIM_CTL_GM then withTimeSync (fun t => { t with tim := { t.tim with level := 0 } }) s else s

/-- PMC_CTL: CLEAR zeroes the unit's counters (R364). -/
def pmcCtlWrite (u : Nat) (v : Word) (s : State) : State :=
  let s := writePlain .PMC_CTL u 0 v s
  if bitOf v 1 then
    (List.range 8).foldl (fun t i => t.setWord .PMC_CNT 0#64 u i) (s.setWord .PMC_CYC 0#64 u 0)
  else s

/-- The counters of one unit copied into its shadows (R358). -/
def snapUnit (s : State) (u : Nat) : State :=
  (List.range 8).foldl (fun t i => t.setWord .PMC_SHD_CNT (t.regWord .PMC_CNT u i) u i)
    (s.setWord .PMC_SHD_CYC (s.regWord .PMC_CYC u 0) u 0)

/-- PMC_SNAP: GO copies every unit, records the time and counts the snapshot (R358). -/
def pmcSnapWrite (v : Word) (s : State) : State :=
  if bitOf v 0 then
    let s := (List.range 72).foldl snapUnit s
    (s.setWord .PMC_SNAP_TIME s.tim.now 0 0).fset F.PMC_SNAP_SEQ (s.fget F.PMC_SNAP_SEQ + 1)
  else s

/-- CAP_CTL: EN changing from 0 to 1 reads LOG_SIZE, MODE and DEST and sets PI and CI to 0 (R365). LOG_SIZE below 6 names no
size, so the size is a free choice from 6 to 14 (DESIGN CHOICE, log entry 1) (DESIGN CHOICE, log entry 57). -/
def capCtlWrite (v : Word) (s : State) : State :=
  let was := s.flag F.CAP_CTL_EN
  let s := writePlain .CAP_CTL 0 0 v s
  if !was && s.flag F.CAP_CTL_EN then
    let log := s.fget F.CAP_CTL_LOG_SIZE
    let (log, s) := if log < 6 then (6 + s.freeValue.toNat % 9, s.tookFree) else (log, s)
    let s := { s with cap := { s.cap with logSize := log, overwrite := s.flag F.CAP_CTL_MODE, dest := s.flag F.CAP_CTL_DEST } }
    (s.fset F.CAP_PI_PI 0).fset F.CAP_CI_CI 0
  else s

/-- CAP_CI: checked under R9; discarded when the count would be out of range or the capture block consumes the ring itself
(R362, R363). -/
def capCiWrite (v : Word) (s : State) : State :=
  let n := 2 ^ capLog s
  let ci := fieldOf v 16 0 % (2 * n)
  if s.cap.dest || decide (n < (s.fget F.CAP_PI_PI + 2 * n - ci) % (2 * n)) then s else s.fset F.CAP_CI_CI ci

/-- WQ_ADM_CFG: ENABLE starts the queue once (R161). -/
def admCfgWrite (h : HostPort) (v : Word) (s : State) : State :=
  let was := s.flag F.WQ_ADM_CFG_ENABLE h.val
  let s := writePlain .WQ_ADM_CFG h.val 0 v s
  if !was && bitOf v 0 then admEnable h s else s

/-- XLT_INV_CTL: GO checks the fields and starts an invalidation; written while BUSY it is discarded (R205). -/
def invCtlWrite (h : HostPort) (v : Word) (s : State) : State :=
  if bitOf v 16 then
    (if (s.host h).xlt.inv.isSome then s.fset F.XLT_INV_CTL_ERR 1 h.val else invGo h (writePlain .XLT_INV_CTL h.val 0 v s))
  else writePlain .XLT_INV_CTL h.val 0 v s

/-- The port has a live endpoint (R206). -/
def anyLiveEp (s : State) (h : HostPort) : Bool := (s.host h).eps.any (fun e => !e.2.gone)

/-- The port has an open window (R215). -/
def anyOpenWin (s : State) (h : HostPort) : Bool := (s.host h).wins.any (fun w => w.2.isOpen)

/-- A register that may not change while the port is in use (R228, R250): discarded and recorded, or written. A window table is zero when
WIN_TABLE names it (R215), so the windows' generations start anew. -/
def areaRegWrite (mid : Mid) (off : Nat) (r : RegId) (h : HostPort) (v : Word) (s : State) : State :=
  let used := anyLiveEp s h || ((regPlace r).block == .win && anyOpenWin s h)
  if used then regAccessError mid 2 off s
  else
    let s := writePlain r h.val 0 v s
    if r = .WIN_TABLE && hostTable s h then s.modHost h (fun x => { x with wins := [] }) else s

/-- LNK_CTL: READMIT reruns the admission checks of a refused link (R92, R96). -/
def lnkCtlWrite (p : NetPort) (v : Word) (s : State) : State :=
  let s := writePlain .LNK_CTL p.val 0 v s
  if bitOf v 16 && decide ((s.port p).link.phase = .refused) then
    admitLink p s
  else s

/-- LNK_ERRWIN: a write restarts the window (R96). -/
def errWinWrite (p : NetPort) (v : Word) (s : State) : State :=
  (writePlain .LNK_ERRWIN p.val 0 v s).modLink p (fun l => { l with winCount := 0 })

/-- LAN_CTL (R60, R65, R68): a changed WIDTH or GROUP waits for a frame boundary of a running link; RETRAIN is an L reset with
LVE reason 0x2; leaving HOLD starts training. -/
def lanCtlWrite (p : NetPort) (v : Word) (s : State) : State :=
  let old := s.regWord .LAN_CTL p.val 0
  let s := writePlain .LAN_CTL p.val 0 v s
  let s := if fieldOf old 5 2 ≠ fieldOf v 5 2 ∧ (s.port p).lane.phase = .up then
    s.modLane p (fun l => { l with widthDue := true }) else s
  let s := if bitOf v 32 then resetL p 2 4 false s else s
  if fieldOf old 7 6 = 2 ∧ fieldOf v 7 6 ≠ 2 ∧ (s.port p).lane.phase = .off then startTraining p s else s

/-- A port register: a disabled port discards every write (R68, R96, R367) (DEDUCED, log entry 55). -/
def portWrite (p : NetPort) (f : State → State) (s : State) : State := if s.role p = .disabled then s else f s

/-! ## A 64-bit write (R6, R8) -/

/-- A write to a CFG register (R38, R45): every one but CFG_PROG_DATA and a CFG_PROG_CTL without a command consumes the writer's
unlock. -/
def cfgWrite (mid : Mid) (r : RegId) (k : Nat) (v : Word) (s : State) : State :=
  match r with
  | .CFG_PROG_DATA => writePlain r 0 k v s
  | .CFG_PROG_CTL => progCtlWrite mid v s
  | .CFG_CAL_UNLOCK => calUnlockWrite mid v s
  | .CFG_ACTIVATE => activateWrite v (calDisarm mid s)
  | .CFG_WHILE_LIVE => flagWrite F.CFG_WHILE_LIVE_FLAG F.CFG_WHILE_LIVE_COUNT 0 v (calDisarm mid s)
  | r => writePlain r 0 k v (calDisarm mid s)

/-- A write to a register of the AON region other than CFG. -/
def aonWrite (mid : Mid) (r : RegId) (k : Nat) (v : Word) (s : State) : State :=
  match r with
  | .RST_CMD => resetCommand mid v s
  | .RST_WDOG => wdogWrite v s
  | .PWR_CTL => pwrCtlWrite mid v s
  | .AON_TEMP => if bitOf v 28 then s.fset F.AON_TEMP_MAX s.pwr.tempNow.toNat else s
  | .AON_RSRAM_DATA => (rsramAccess (some v) s).1
  | .AON_BIND => bindWrite mid v s
  | .TIM_CTL => timCtlWrite v s
  | .TIM_SET => timSetGo v s
  | .FLT_STATUS => clearFaults v s
  | .FLT_FIRST_INFO => firstInfoWrite v s
  | .FLT_INJECT => injectFault mid v s
  | r => writePlain r 0 k v s

/-- A write to SHP_SAMPLE_SEL[k] starts a new period for that slot (R278). -/
def sampleSelWrite (h : HostPort) (k : Nat) (v : Word) (s : State) : State :=
  (writePlain .SHP_SAMPLE_SEL h.val k v s).modHost h (fun x =>
    { x with leashHeld := x.leashHeld.filter (· ≠ k), cwndHeld := x.cwndHeld.filter (· ≠ k) })

/-- A write to a register of one host port's NIC blocks. -/
def nicWrite (mid : Mid) (off : Nat) (r : RegId) (h : HostPort) (k : Nat) (v : Word) (s : State) : State :=
  match r with
  | .WQ_ADM_CFG => admCfgWrite h v s
  | .WQ_ADM_PI => admBell h v s
  | .EQ_CI => eqCiWrite h k v s
  | .EQ_OVF => flagWrite F.EQ_OVF_FLAG F.EQ_OVF_REFUSED h.val v s
  | .XLT_CTL => xltSeed h (writePlain r h.val 0 v s)
  | .XLT_INV_CTL => invCtlWrite h v s
  | .XLT_FREC_INFO => flagWrite F.XLT_FREC_INFO_FLAG F.XLT_FREC_INFO_COUNT h.val v s
  | .WIN_TABLE | .EPC_KENNEL_CTX | .EPC_KENNEL_PAIR | .MTE_RREC | .MTE_UXD | .MTE_KENNEL_UX | .MTE_RNDV =>
    areaRegWrite mid off r h v s
  | .EPC_PAIR_RESET => if bitOf v 24 then pairResetGo h (fieldOf v 23 0) s else s
  | .SHP_SAMPLE_SEL => sampleSelWrite h k v s
  | .CC_PAIR_Q => if bitOf v 24 then ccQueryGo h (fieldOf v 23 0) s else s
  | r => writePlain r h.val k v s

/-- A write to a register of the chip services or the router core. -/
def chipWrite (mid : Mid) (r : RegId) (i k : Nat) (v : Word) (s : State) : State :=
  match r with
  | .SEM_LOCK => lockWrite mid (Fin.ofNat 256 k) v s
  | .PMC_CTL => pmcCtlWrite i v s
  | .PMC_SNAP => pmcSnapWrite v s
  | .CAP_CTL => capCtlWrite v s
  | .CAP_CI => capCiWrite v s
  | .RTR_EPOCH => epochWrite v s
  | .RTR_TBL_CTL => tableCommand v s
  | .DBG_LEVEL => debugLevelSet v s
  | .DBG_MEM_DATA => dbgWrite mid v s
  | .DBG_HALT => dbgHaltWrite v s
  | r => writePlain r i k v s

/-- A write to a register of a network port. -/
def netWrite (r : RegId) (p : NetPort) (k : Nat) (v : Word) (s : State) : State :=
  match r with
  | .LNK_CTL => lnkCtlWrite p v s
  | .LNK_ERRWIN => errWinWrite p v s
  | .LAN_CTL => lanCtlWrite p v s
  | r => writePlain r p.val k v s

/-- What a write of register `r` does. -/
def writeAt (mid : Mid) (off : Nat) (r : RegId) (i k : Nat) (v : Word) (s : State) : State :=
  if holdsStatic r then
    (match (regPlace r).block with
    | .lan => portWrite (portIx i) (whileLive mid off) s
    | _ => whileLive mid off s)
  else match (regPlace r).block with
  | .cfg => cfgWrite mid r k v s
  | .sys | .rst | .pwr | .aon | .tim | .flt => aonWrite mid r k v s
  | .hif | .wq | .eq | .xlt | .win | .mte | .cc => nicWrite mid off r (hostIx i) k v s
  | .epc | .col | .sem | .pmc | .rtr | .cap | .dbg => chipWrite mid r i k v s
  | .lnk | .lan => portWrite (portIx i) (netWrite r (portIx i) k v) s

/-- An aligned 64-bit write at an offset: a register that answers takes it; an unmapped offset discards it (R5, R366)
(DESIGN CHOICE, log entry 37). -/
def writeReg (mid : Mid) (off : Nat) (v : Word) (s : State) : State :=
  match regHere s off with
  | some (r, i, k) => writeAt mid off r i k v s
  | none => s

/-! ## A 64-bit read (R377) -/

/-- What a read of register `r` returns, and the state after it. -/
def readAt (mid : Mid) (r : RegId) (i k : Nat) (s : State) : State × Word :=
  match r with
  | .SEM_LOCK =>
    let j := Fin.ofNat 256 k
    let x := lockRead mid s.locks[j]
    (modLock j (fun _ => x.2) s, x.1)
  | .AON_RSRAM_DATA => rsramAccess none s
  | .DBG_MEM_DATA => dbgRead mid s
  | r =>
    let w := readWord s r i k
    if (regFields r).any (fun row => row.access == .rc) then (s.setWord r (clearRead r (s.regWord r i k)) i k, w) else (s, w)

/-- An aligned 64-bit read at an offset; an unmapped offset reads as 0 (R5). -/
def readReg (mid : Mid) (off : Nat) (s : State) : State × Word :=
  match regHere s off with
  | some (r, i, k) => readAt mid r i k s
  | none => (s, 0#64)

/-- A read whose value goes back to its master. -/
def readOut (mid : Mid) (off : Nat) (s : State) : State :=
  let x := readReg mid off s
  x.1.emit (.regRead mid (BitVec.ofNat 24 off) x.2)

/-- The word a 32-bit read takes its half of: no side effect (R5, R377). A lock shows its fields as they stand, with ACQUIRED
0 (DESIGN CHOICE, log entry 33). One of DBG_MEM_DATA below OBSERVE is recorded as a 64-bit one is (R352; DESIGN CHOICE, log entry
33). -/
def peekReg (mid : Mid) (off : Nat) (s : State) : State × Word :=
  match regHere s off with
  | some (.SEM_LOCK, _, k) =>
    let l := s.locks[Fin.ofNat 256 k]
    (s, packFields [(1, 1, b2n l.held), (2, 2, b2n l.abandoned), (3, 3, b2n l.waiter), (15, 8, l.owner.toNat)])
  | some (.AON_RSRAM_DATA, _, _) => (s, (rsramAccess none s).2)
  | some (.DBG_MEM_DATA, _, _) =>
    let x := dbgRead mid s
    if s.fget F.DBG_LEVEL_LEVEL = 0 then x else ({ s with freeCount := x.1.freeCount }, x.2)
  | some (r, i, k) => (s, readWord s r i k)
  | none => (s, 0#64)

/-! ## The MSI-X arrays (R155, R371, R373) -/

/-- The MSI-X array an offset lies in: the host port, whether it is the table, and the byte within it. -/
def msixAt (off : Nat) : Option (HostPort × Bool × Nat) :=
  if off < 0x80000 ∨ 0xA0000 ≤ off then none
  else
    let h : HostPort := if off < 0x90000 then 0 else 1
    let d := off % 0x10000
    if 0x8000 ≤ d then some (h, true, d - 0x8000)
    else if 0x4000 ≤ d ∧ d < 0x4100 then some (h, false, d - 0x4000) else none

/-- The MSI-X array an offset reaches: its port's HIF answers; otherwise the offset is unmapped (R366). -/
def msixHere (s : State) (off : Nat) : Option (HostPort × Bool × Nat) :=
  (msixAt off).filter (fun x => s.hifRuns x.1.val)

/-- The table word `k` with a byte replaced; the vector control word holds its mask bit only. -/
def msixPutByte (x : HifState) (a : Nat) (b : Byte) : HifState :=
  let k := a / 8
  let w := putField (msixWord x k) (8 * (a % 8) + 7) (8 * (a % 8)) b.toNat
  let w := if k % 2 = 1 then w &&& 0x1FFFFFFFF#64 else w
  { x with msixTable := tblSet k w x.msixTable }

/-- A write to the MSI-X arrays, of any form; the pending-bit array is read-only. Vectors it unmasks are sent. -/
def msixWrite (h : HostPort) (table : Bool) (a : Nat) (bytes : Bytes) (s : State) : State :=
  if !table then s
  else
    let s := s.modHif h (fun x => (bytes.zipIdx).foldl (fun x b => if a + b.2 < 32768 then msixPutByte x (a + b.2) b.1 else x) x)
    msixRecheck h s

/-- A word of the MSI-X arrays. -/
def msixRead (s : State) (h : HostPort) (table : Bool) (a : Nat) : Word :=
  if table then msixWord (s.host h).hif (a / 8)
  else BitVec.ofNat 64 ((s.host h).hif.msixPend / 2 ^ (64 * (a / 8)))

/-! ## Access forms (R373) -/

/-- An 8-byte write with all bytes enabled. -/
def writeForm (mid : Mid) (off : Nat) (v : Word) (s : State) : State :=
  match msixHere s off with
  | some (h, table, a) => msixWrite h table a (leBytes 8 v.toNat) s
  | none => if off % 8 = 0 then writeReg mid off v s else regAccessError mid 2 off s

/-- A write of another form: of 4 bytes or fewer or with a byte enable clear, ACCESS 0x3; longer than 8 bytes, ACCESS 0x2;
discarded whole and recorded in both cases, except at the MSI-X arrays (DESIGN CHOICE, log entry 42). -/
def partialWrite (mid : Mid) (off : Nat) (bytes : Bytes) (s : State) : State :=
  match msixHere s off with
  | some (h, table, a) => msixWrite h table a bytes s
  | none => regAccessError mid (if bytes.length ≤ 8 then 3 else 2) off s

/-- A read of `len` bytes: 8 aligned is one 64-bit read; 4 aligned returns a half with no side effect; any other is answered
Completer Abort and recorded with ACCESS 0x1. The value goes back to the master. -/
def readForm (mid : Mid) (off len : Nat) (s : State) : State :=
  match msixHere s off with
  | some (h, table, a) =>
    let w := msixRead s h table a
    s.emit (.regRead mid (BitVec.ofNat 24 off) (BitVec.ofNat 64 (w.toNat / 2 ^ (8 * (a % 8)) % 2 ^ (8 * len))))
  | none =>
    if len = 8 ∧ off % 8 = 0 then readOut mid off s
    else if len = 4 ∧ off % 4 = 0 then
      let x := peekReg mid (off - off % 8) s
      x.1.emit (.regRead mid (BitVec.ofNat 24 off) (BitVec.ofNat 64 (x.2.toNat / 2 ^ (8 * (off % 8)) % 2 ^ 32)))
    else regAccessError mid 1 off s

end Sys2Proof.Machine
end

