-- ==== Sys2Proof/Machine/EventOps.lean ====
section
/-! DEFINITION. The short events of a port, of its link and of a host port's requests: what a timer's end, a set's arrival or a
completion does, in terms of the operations of the layer it belongs to. -/

namespace Sys2Proof.Machine

/-! ## Lanes (R54, R57, R61, R66) -/

/-- RETRY_IDLE_EXPIRY (R57): the port starts again from step 1 of its training; LC has kept its rate (DEDUCED, log entry 78). -/
def retryEnds (p : NetPort) (s : State) : State :=
  if (s.port p).lane.phase = .retry then startAttempt p (s.port p).lane.rate s else s

/-- TS_WHILE_UP (R54): partner loss, and training starts again. -/
def tsIn (p : NetPort) (s : State) : State := setsIn p 1 (laneRetrain p) s

/-- WIDTH_CHANGE (R60): a frame boundary of a transmit direction that is UP and awake. -/
def widthBoundary (p : NetPort) (s : State) : State :=
  let q := s.port p
  if s.routerRuns && decide (q.lane.phase = .up) && !q.lane.txAsleep && q.link.tx.isNone then applyWidth p s else s

/-- Symbols reach a lane of the receiver: an active one of a direction that is UP and awake, one that an exchange has trained, or any in
COMPLIANCE. -/
def laneHears (s : State) (p : NetPort) (lane : Nat) : Bool :=
  let l := (s.port p).lane
  s.routerRuns && match l.phase with
    | .up => !l.rxAsleep && (groupMask l.rxWidth l.rxGroup).testBit lane
    | .exchange => l.rxMask.testBit lane
    | .compliance => true
    | _ => false

/-- A K code that may not appear between frames (R54): EOF, ABT and WAK. TS sets have a command of their own. -/
def misplaced (c : Char10) : Bool := [charEof, charAbt, kChar 28 6].contains c

/-- CODE_ERROR_OUTSIDE_FRAME (R52, R54): a code group arrives between frames, `turned` where the sets since the last columns have turned
the lane's disparity. A violation, a disparity error or a K code outside its place counts, and any column of a deaf receiver (R63);
the disparity then follows the group. -/
def codeErrorIn (p : NetPort) (lane : Fin 16) (turned : Bool) (group : BitVec 10) (s : State) : State :=
  if !laneHears s p lane.val then s
  else
    let l := (s.port p).lane
    let g := if l.reversed.getLsbD lane.val then ~~~group else group
    let rd := l.rxRd.getLsbD lane.val != turned
    let h := decodeGroup rd g
    let bad := heardError h || (heardChar h).any misplaced || l.deaf
    let s := s.modLane p (fun l => { l with rxRd := BitVec.ofNat 16 (setBitTo l.rxRd.toNat lane.val (rdAfterGroup g rd)) })
    if bad then codeErrors p [(lane.val, 1)] s else s

/-- A packet presented at this chip names the port in rank 1 or rank 2 and lacks only its credits (R86). -/
def creditsAwaited (s : State) (p : NetPort) : Bool :=
  allX.any (fun x =>
    match (candidate x s).2 with
    | some c => (c.r1.contains p.val || c.r2.contains p.val) && !hasCredits s p c.item && hasReplay s p c.item
    | none => false)

/-- A transmit direction has nothing to send: no frame, no packet in the FIFO, no retransmission due (R61). -/
def txIdle (s : State) (p : NetPort) : Bool :=
  let l := (s.port p).link
  l.tx.isNone && l.fifo.isEmpty && !l.replay.any (·.rtxDue)

/-- The idle time, in units of 64 cycles, after which a port's transmit direction sleeps (R61); in DOZE the smaller of SLEEP_IDLE and
DOZE_LANE_IDLE (R294). Nothing where SLEEP_IDLE is 0. -/
def sleepThreshold (s : State) (p : NetPort) : Option Nat :=
  let idle := s.fget F.LAN_CTL_SLEEP_IDLE p.val
  if idle = 0 then none
  else some (if s.pwr.state = .doze then min idle (s.fget F.PWR_CTL_DOZE_LANE_IDLE) else idle)

/-- LANE_SLEEP (R61, R86, R294): the idle count of `sleepThreshold` is reached, unless something holds the direction awake (DESIGN CHOICE, log entry 54). -/
def sleepDue (p : NetPort) (s : State) : State :=
  let l := (s.port p).lane
  if s.routerRuns && decide (l.phase = .up) && !l.txAsleep && decide (l.waking = 0) && decide (l.adding = 0) &&
      (sleepThreshold s p).isSome && txIdle s p && !creditsAwaited s p then sleepTx p s
  else s

/-! ## The link (R77, R78, R86, R89, R91, R92) -/

/-- A retransmission that is due wakes a sleeping direction (R62). -/
def wakeToResend (p : NetPort) (s : State) : State := if (s.port p).link.replay.any (·.rtxDue) then wakeTx p s else s

/-- NAK_REPEAT (R77): a named number that is still missing is named again. -/
def nakAgain (p : NetPort) (fseq : BitVec 12) (s : State) : State :=
  let l := (s.port p).link
  let d := seqDist fseq l.rxNext
  if portUp s p && l.named.contains fseq.toNat && (tblGet fseq.toNat l.held).isNone && decide (d < 1024) then sendNaks p [d] s
  else s

/-- REPLAY_TIMEOUT (R78, R89): the frame at TX_ACKED is retransmitted alone, and the timeout counts. -/
def replayLate (p : NetPort) (s : State) : State :=
  let l := (s.port p).link
  if portUp s p && decide (0 < outstanding l) then
    let s := s.modLink p (fun l => { l with replay := l.replay.map (fun f =>
      if f.fseq = l.txAcked then { f with rtxDue := true } else f) })
    linkError p ((wakeToResend p s).finc F.LNK_ERR_TIMEOUTS 1 p.val)
  else s

/-- CREDIT_REFRESH (R86): none falls due while the receiving direction sleeps. -/
def refreshDue (p : NetPort) (s : State) : State :=
  if portUp s p && !(s.port p).lane.rxAsleep then
    if (s.port p).lane.txAsleep then wakeTx p s else sendRefresh p s
  else s

/-- ERROR_WINDOW_EXPIRY (R89). -/
def windowEnds (p : NetPort) (s : State) : State := s.modLink p (fun l => { l with winCount := 0 })

/-- INIT_FRAME_SEND (R91). -/
def initSend (p : NetPort) (s : State) : State :=
  let ph := (s.port p).link.phase
  if s.routerRuns && decide ((s.port p).lane.phase = .up) &&
      (decide (ph = .init) || decide (ph = .check) || decide (ph = .refused)) then
    let s := wakeTx p s
    sendFrame p (initFrame s p) false s
  else s

/-- INIT_TIMEOUT (R91): an L reset with LVE reason 0x4, recorded as DOWN_CAUSE 6. -/
def initLate (p : NetPort) (s : State) : State :=
  if (s.port p).link.phase = .init then resetL p 4 6 false s else s

/-- ADMISSION_CHECK (R92). -/
def admissionDue (p : NetPort) (s : State) : State := if (s.port p).link.phase = .check then admitLink p s else s

/-- A wake request on a port's transmit direction (R62). -/
def wakeAsked (p : NetPort) (s : State) : State :=
  if s.routerRuns && decide ((s.port p).lane.phase = .up) then wakeTx p s else s

/-! ## Completions of host requests (R157) -/

/-- A request ends and, at a live function, `f` follows it; what waited for a reply, a tag or a slot goes on. -/
def reqThen (h : HostPort) (tag : Nat) (ok : Bool) (f : State → State) (s : State) : State :=
  let s := reqEnd h tag ok s
  if s.hostLive h then tagFreed h (pumpPort h (f s)) else s

/-- HOST_REQ_FAIL, where a request failed. -/
def failIf (failed : Bool) (h : HostPort) (s : State) : State := if failed then reqFail h s else s

/-- LOCAL_READ_DONE (R172, R260): local data of an operation, or a collective's local contribution. -/
def localReadEnd (h : HostPort) (tag : Nat) (data : Option Bytes) (s : State) : State :=
  match reqOf s h tag with
  | some (.local wq idx len) => reqThen h tag data.isSome (localDone h wq idx len data) s
  | some (.colRead grp slot seg len) => reqThen h tag data.isSome (colReadDone h grp slot seg len data) s
  | _ => s

/-- GET_READ_DONE (R221). -/
def getReadEnd (h : HostPort) (tag : Nat) (data : Option Bytes) (s : State) : State :=
  match reqOf s h tag with
  | some (.getRead r off len) => reqThen h tag data.isSome (getReadDone h r off len data) s
  | _ => s

/-- ATOMIC_READ_DONE (R222). -/
def atomicReadEnd (h : HostPort) (tag : Nat) (data : Option Bytes) (s : State) : State :=
  match reqOf s h tag with
  | some (.atomicRead u) => reqThen h tag data.isSome (atomicDone h u data) s
  | _ => s

/-- FLUSH_DONE (R223). -/
def flushReadEnd (h : HostPort) (tag : Nat) (ok : Bool) (s : State) : State :=
  match reqOf s h tag with
  | some (.flush id) => reqThen h tag ok (flushEnd h id ok) s
  | _ => s

/-- MATCH_RECORD_READ_DONE (R231). -/
def recordReadEnd (h : HostPort) (tag : Nat) (ok : Bool) (s : State) : State :=
  match reqOf s h tag with
  | some (.record id) => reqThen h tag ok (fun t => recordDone h id ok (failIf (!ok) h t)) s
  | _ => s

/-- DATA_SLOT_READ_DONE (R241). -/
def slotReadEnd (h : HostPort) (tag : Nat) (data : Option Bytes) (s : State) : State :=
  match reqOf s h tag with
  | some (.dataSlot id) => reqThen h tag data.isSome (fun t => dataSlotDone h id data (failIf data.isNone h t)) s
  | _ => s

/-- KENNEL_BLOCK_READ_DONE (R235). -/
def blockReadEnd (h : HostPort) (tag : Nat) (ok : Bool) (s : State) : State :=
  match reqOf s h tag with
  | some (.kennelBlock ep) => reqThen h tag ok (fun t => kennelDone h ep ok (failIf (!ok) h t)) s
  | _ => s

/-- HOST_REQUEST_TIMEOUT (R157, R179): the request ends in error, with the consequence of its kind; CPL_TO_CNT counts it. -/
def reqTimeout (h : HostPort) (tag : Nat) (s : State) : State :=
  match reqOf s h tag with
  | none => s
  | some k =>
    let s := s.finc F.HIF_ERR_CPL_TO_CNT 1 h.val
    match k with
    | .admin _ _ => tagFreed h (admRead h none s)
    | .tree => tagFreed h (admTreeDone h none s)
    | .desc wq _ _ _ => tagFreed h (descsDone h wq none s)
    | .local _ _ _ | .colRead _ _ _ _ => localReadEnd h tag none s
    | .walk _ => tagFreed h (walkDoneIn h tag none s)
    | .context _ | .pair _ | .window _ => tagFreed h (fetchDoneIn h tag false s)
    | .getRead _ _ _ => getReadEnd h tag none s
    | .atomicRead _ => atomicReadEnd h tag none s
    | .flush _ => flushReadEnd h tag false s
    | .record _ => recordReadEnd h tag false s
    | .dataSlot _ => slotReadEnd h tag none s
    | .kennelBlock _ => blockReadEnd h tag false s

/-! ## Queues, pages and pairs -/

/-- A BAR2 write of another size or offset than a doorbell's (R158): discarded and counted, but not during a function reset
(R160). -/
def badBell (h : HostPort) (off size : Nat) (s : State) : State :=
  if decide (off % 64 = 0) && (decide (size = 8) || decide (size = 64)) || !hostReaches s h then s
  else s.finc F.HIF_ERR_DB_BAD 1 h.val

/-- An inline doorbell is one write of 64 bytes (R158). -/
def inlineWrite (h : HostPort) (wq : Nat) (desc : Bytes) (s : State) : State :=
  if desc.length = 64 then bell h wq desc s else badBell h (64 * wq) desc.length s

/-- RECV (R236): the descriptor begins its search. -/
def recvBegin (h : HostPort) (wq idx : Nat) (s : State) : State :=
  match (tblGet wq (s.host h).wqs).bind (fun q => tblGet idx q.ops) with
  | some op =>
    if dOp (opFirst op) = 7 && !op.begun && s.hostLive h && s.nicWorks then
      portGoesOn h (recvStep h wq idx (modOp h wq idx (fun o => { o with begun := true }) s))
    else s
  | none => s

/-- COLLECTIVE (R256). -/
def collectiveBegin (h : HostPort) (wq idx : Nat) (s : State) : State :=
  match (tblGet wq (s.host h).wqs).bind (fun q => tblGet idx q.ops) with
  | some op => if dOp (opFirst op) = 9 && !op.begun && s.hostLive h && s.nicWorks then colBegin h wq idx s else s
  | none => s

/-- An event queue's slots have changed: what waited for them goes on (R186, R245). -/
def slotsFreed (h : HostPort) (s : State) : State := portGoesOn h s

/-- PAGE_REQUEST_RESPONSE (R225, R226): success frees the tag; anything else holds the page as failed. A halted function discards it. -/
def pageAnswer (h : HostPort) (tag : Nat) (ok : Bool) (s : State) : State :=
  match tblGet tag (s.host h).rem.pages with
  | some p =>
    if p.failed || !s.hostLive h then s
    else if ok then modRem h (fun x => { x with pages := tblDel tag x.pages }) s
    else pageFail h tag s
  | none => s

/-- FAIL_HOLD_EXPIRY (R225): arrivals walk the page again. -/
def failHoldEnds (h : HostPort) (tag : Nat) (s : State) : State :=
  match tblGet tag (s.host h).rem.pages with
  | some p => if p.failed then modRem h (fun x => { x with pages := tblDel tag x.pages }) s else s
  | none => s

/-- The key of the pair of an endpoint and a peer named as chip × 2^24 + endpoint (DESIGN CHOICE, log entry 71). -/
def pairNamed (ep peer : Nat) : Nat := pairKey ep (peer / 2 ^ 24) (peer % 2 ^ 24)

/-- INVALIDATE_DONE on either path (R202). -/
def invalidationEnds (h : HostPort) (path : InvPath) (s : State) : State :=
  match path with
  | .admin => admInvalidateDone h s
  | .register => invRegDone h s

/-- A NACK arrives: for a collective packet at Sheepdog, else at the pair's sender (R110, R262). -/
def nackArrive (ip : IntPort) (s : State) : State :=
  if colNackHead ip s then colNackIn ip s else arrive (fun k => decide (pktOpcode k = 9)) ip s

/-! ## Idle slots of the engines (R356) -/

/-- A result of a collective is ready and held back by the window of an edge (R259). -/
def colHeld (s : State) : Bool :=
  s.groups.any (fun g => g.2.slots.any (fun o => o.2.started && !o.2.failed && (groupEdges g.2).any (fun e =>
    let x := getEdge o.2 e
    decide (x.freed + g.2.win ≤ x.sent) && (if e = 0 then upValue g.2 o.2 x.sent else downValue g.2 o.2 x.sent).isSome)))

/-- An endpoint's matching waits for a Kennel block (R235). -/
def blockAwaited (s : State) : Bool := allHosts.any (fun h => (s.host h).eps.any (fun e => e.2.search.isSome))

/-- Slots of a CORE_CLK cycle that no work takes (R356; DESIGN CHOICE, log entry 82): starved at the front, code 3, or at the back, 4. -/
def engineSlots (s : State) : State :=
  if !s.nicRuns then s
  else
    let s := if s.ints.all (·.eject.isEmpty) then nicSlot 3 s else s
    let s := pmcAdd 69 (if blockAwaited s then 4 else 3) 1 s
    let s := colSlots (if colHeld s then 4 else 3) 1 s
    allHosts.foldl (fun t h => pmcHost h.val (if (t.host h).hif.reqWait.isEmpty then 3 else 4) 1 t) s

end Sys2Proof.Machine
end

