-- ==== Sys2Proof/Machine/AdminRows.lean ====
section
/-! DEFINITION. The admin commands (R162 to R167, R180, R201, R206 to R218, R253 to R255, R273): the meaning of each command of the family. -/

namespace Sys2Proof.Machine

/-- CREATE_WQ (R166). -/
def execCreateWq (h : HostPort) (s : State) : Host.Outcome State Fault Refusal :=
  .next (admCreateWq h s)

/-- DESTROY_WQ (R167). -/
def execDestroyWq (h : HostPort) (s : State) : Host.Outcome State Fault Refusal :=
  .next (admDestroyWq h s)

/-- DESTROY_WQ_DONE (R167). -/
def execDestroyWqDone (h : HostPort) (wq : Nat) (s : State) : Host.Outcome State Fault Refusal :=
  .next (admDestroyWqDone h wq s)

/-- CREATE_EQ (R180). -/
def execCreateEq (h : HostPort) (s : State) : Host.Outcome State Fault Refusal :=
  .next (admCreateEq h s)

/-- DESTROY_EQ (R180). -/
def execDestroyEq (h : HostPort) (s : State) : Host.Outcome State Fault Refusal :=
  .next (admDestroyEq h s)

/-- CREATE_PD (R206). -/
def execCreatePd (h : HostPort) (s : State) : Host.Outcome State Fault Refusal :=
  .next (admCreatePd h s)

/-- DESTROY_PD (R206). -/
def execDestroyPd (h : HostPort) (s : State) : Host.Outcome State Fault Refusal :=
  .next (admDestroyPd h s)

/-- CREATE_EP (R208). -/
def execCreateEp (h : HostPort) (s : State) : Host.Outcome State Fault Refusal :=
  .next (admCreateEp h s)

/-- DESTROY_EP (R208). -/
def execDestroyEp (h : HostPort) (s : State) : Host.Outcome State Fault Refusal :=
  .next (admDestroyEp h s)

/-- DESTROY_EP_DONE (R208). -/
def execDestroyEpDone (h : HostPort) (ep : Nat) (s : State) : Host.Outcome State Fault Refusal :=
  .next (roomAgain (admDestroyEpDone h ep s))

/-- OPEN_WINDOW (R216). -/
def execOpenWindow (h : HostPort) (s : State) : Host.Outcome State Fault Refusal :=
  .next (admOpenWindow h s)

/-- REVOKE_WINDOW (R218). -/
def execRevokeWindow (h : HostPort) (s : State) : Host.Outcome State Fault Refusal :=
  .next (admRevokeWindow h s)

/-- REVOKE_DONE (R218). -/
def execRevokeDone (h : HostPort) (win : Nat) (s : State) : Host.Outcome State Fault Refusal :=
  .next (admRevokeDone h win s)

/-- INVALIDATE (R201). -/
def execInvalidate (h : HostPort) (s : State) : Host.Outcome State Fault Refusal :=
  .next (admInvalidate h s)

/-- XLT_INV_GO (R201). A write of XLT_INV_CTL. -/
def execXltInvGo (mid : Mid) (h : HostPort) (v : Word) (s : State) : Host.Outcome State Fault Refusal :=
  .next (writeReg mid (regAddr .XLT_INV_CTL h.val 0) v s)

/-- INVALIDATE_DONE (R202). -/
def execInvalidateDone (h : HostPort) (path : InvPath) (s : State) : Host.Outcome State Fault Refusal :=
  .next (invalidationEnds h path s)

/-- SET_SHAPER (R273). -/
def execSetShaper (h : HostPort) (s : State) : Host.Outcome State Fault Refusal :=
  .next (admSetShaper h s)

/-- ARM_GROUP (R253). -/
def execArmGroup (h : HostPort) (s : State) : Host.Outcome State Fault Refusal :=
  .next (admArmGroup h s)

/-- TREE_DESCRIPTOR_READ_DONE (R253). -/
def execTreeDescriptorReadDone (h : HostPort) (data : Option Bytes) (s : State) : Host.Outcome State Fault Refusal :=
  .next (tagFreed h (admTreeDone h data s))

/-- DISARM_GROUP (R255). -/
def execDisarmGroup (h : HostPort) (s : State) : Host.Outcome State Fault Refusal :=
  .next (admDisarmGroup h s)

/-- DISARM_DONE (R255). -/
def execDisarmDone (group : Nat) (s : State) : Host.Outcome State Fault Refusal :=
  .next (admDisarmDone group s)

/-- ADMIN_NOP (R163). -/
def execAdminNop (h : HostPort) (s : State) : Host.Outcome State Fault Refusal :=
  .next (admNopCmd h s)

end Sys2Proof.Machine
end

