-- ==== Sys2Proof/Machine/BellRows.lean ====
section
/-! DEFINITION. Doorbells and the admin queue (R158 to R165): the meaning of each command of the family. -/

namespace Sys2Proof.Machine

/-- INDEX_DOORBELL (R158). -/
def execIndexDoorbell (h : HostPort) (wq : Nat) (v : Word) (s : State) : Host.Outcome State Fault Refusal :=
  .next (bell h wq (leBytes 8 v.toNat) s)

/-- INLINE_DOORBELL (R158). -/
def execInlineDoorbell (h : HostPort) (wq : Nat) (desc : Bytes) (s : State) : Host.Outcome State Fault Refusal :=
  .next (inlineWrite h wq desc s)

/-- DB_BAD (R158). -/
def execDbBad (h : HostPort) (off : Nat) (size : Nat) (s : State) : Host.Outcome State Fault Refusal :=
  .next (badBell h off size s)

/-- ADMIN_ENABLE (R161). A write of WQ_ADM_CFG. -/
def execAdminEnable (mid : Mid) (h : HostPort) (v : Word) (s : State) : Host.Outcome State Fault Refusal :=
  .next (writeReg mid (regAddr .WQ_ADM_CFG h.val 0) v s)

/-- ADMIN_DOORBELL (R161). A write of WQ_ADM_PI. -/
def execAdminDoorbell (mid : Mid) (h : HostPort) (v : Word) (s : State) : Host.Outcome State Fault Refusal :=
  .next (writeReg mid (regAddr .WQ_ADM_PI h.val 0) v s)

/-- ADMIN_COMMAND_READ_DONE (R165). -/
def execAdminCommandReadDone (h : HostPort) (data : Option Bytes) (s : State) : Host.Outcome State Fault Refusal :=
  .next (tagFreed h (admRead h data s))

end Sys2Proof.Machine
end

