-- ==== Sys2Proof/Machine/CcRows.lean ====
section
/-! DEFINITION. Congestion and shaping (R274 to R279): the meaning of each command of the family. -/

namespace Sys2Proof.Machine

/-- LEASH_REFILL (R274). -/
def execLeashRefill (h : HostPort) (s : State) : Host.Outcome State Fault Refusal :=
  .next (leashTick h s)

/-- SAMPLE_TICK (R278). -/
def execSampleTick (h : HostPort) (s : State) : Host.Outcome State Fault Refusal :=
  .next (sampleAll h s)

/-- CC_PAIR_QUERY (R279). A write of CC_PAIR_Q. -/
def execCcPairQuery (mid : Mid) (h : HostPort) (v : Word) (s : State) : Host.Outcome State Fault Refusal :=
  .next (writeReg mid (regAddr .CC_PAIR_Q h.val 0) v s)

/-- CC_PAIR_QUERY_DONE (R279). -/
def execCcPairQueryDone (h : HostPort) (s : State) : Host.Outcome State Fault Refusal :=
  .next (ccQueryEnd h s)

end Sys2Proof.Machine
end

