-- ==== Sys2Proof/Machine/LoadOps.lean ====
section
/-! DEFINITION. The commit of an image (R31, R34, R35, R310, R311). -/

namespace Sys2Proof.Machine

/-- The entries the initial-table section lists, expanded from its runs (R31). -/
def tableRuns (runs : List (Nat × Nat × Word)) (t : Tbl Word) : Tbl Word :=
  runs.foldl (fun t r => (List.range r.2.1).foldl (fun t k => tblSet (r.1 + k) r.2.2 t) t) t

/-- The routing tables a commit leaves: table A all UNREACHABLE but for the section's entries, table B all INVALID (R31). -/
def imageTables (img : ImageDesc) : RtrState :=
  { rtrReset with tableA := { base := 4#64, entries := tableRuns img.tableA [] } }

/-- One register preset (R34): skipped whole where its offset is unmapped or its register holds a static field; one in an MSI-X
array (R371) writes there. It is written by no master (MID 0xFF) (DESIGN CHOICE, log entry 43). -/
def applyPreset (s : State) (e : Nat × Word) : State :=
  match msixHere s e.1 with
  | some (h, table, a) => msixWrite h table a (leBytes 8 e.2.toNat) s
  | none =>
  match regHere s e.1 with
  | some (r, i, k) =>
    if holdsStatic r then s.modCfg (fun c => { c with presetSkipped := true }) else writeAt 0xFF#8 e.1 r i k e.2 s
  | none => s.modCfg (fun c => { c with presetSkipped := true })

/-- The rate fuse of a part of speed grade 5 (R397): a port of rate code 0x0 loads with 0x1 in its place. -/
def fuseRates (grade5 : Bool) (img : ImageDesc) : ImageDesc :=
  if grade5 then { img with ports := img.ports.map (fun q => { q with rateMax := max 1 q.rateMax }) } else img

/-- The shadow is committed (R35): the structure, tables and static fields are the image's; the router core, the NIC and the chip
services are released; the presets apply in order; and every port that may train starts. An image on trial posts IMAGE_TRIAL
(R187). -/
def commitImage (s : State) : State :=
  match s.cfg.stage with
  | .passed slot img =>
    if s.rst.clearing || s.rst.cHeld || s.rst.pHeld || s.flt.muzzle then s
    else
      let img := fuseRates s.impl.grade5 img
      let s := s.modCfg (fun c =>
        { c with stage := .idle, state := .loaded, slot := slot, trial := c.trialLoad, trialLoad := false })
      let s := { s with image := some img, rtr := { imageTables img with oldSeen := s.clock } }
      let s := s.modRst (fun r => { r with coreRel := true, cold := false, phase := .running })
      let s := img.presets.foldl applyPreset s
      let s := if s.cfg.trial then asyncChip 0x09 0 (BitVec.ofNat 64 (b2n slot)) s else s
      allPorts.foldl (fun t p => startTraining p t) s
  | _ => s

end Sys2Proof.Machine
end

