-- ==== Sys2Proof/Machine/CfgRows.lean ====
section
/-! DEFINITION. The configuration store and the image load (R27 to R46): the meaning of each command of the family. -/

namespace Sys2Proof.Machine

/-- PROG_WRITE (R39). A write of CFG_PROG_CTL. -/
def execProgWrite (mid : Mid) (v : Word) (s : State) : Host.Outcome State Fault Refusal :=
  .next (writeReg mid (regAddr .CFG_PROG_CTL 0 0) v s)

/-- PROG_READ (R39). A write of CFG_PROG_CTL. -/
def execProgRead (mid : Mid) (v : Word) (s : State) : Host.Outcome State Fault Refusal :=
  .next (writeReg mid (regAddr .CFG_PROG_CTL 0 0) v s)

/-- PROG_PULSE_DONE (R39, R43): the pulse of a store command or of a record copy ends. -/
def execProgPulseDone (s : State) : Host.Outcome State Fault Refusal :=
  .next (pulseDone s)

/-- CAL_UNLOCK (R45). A write of CFG_CAL_UNLOCK. -/
def execCalUnlock (mid : Mid) (v : Word) (s : State) : Host.Outcome State Fault Refusal :=
  .next (writeReg mid (regAddr .CFG_CAL_UNLOCK 0 0) v s)

/-- GO (R41). A write of CFG_ACTIVATE. -/
def execGo (mid : Mid) (v : Word) (s : State) : Host.Outcome State Fault Refusal :=
  .next (writeReg mid (regAddr .CFG_ACTIVATE 0 0) v s)

/-- ACTIVATE_CHECK_DONE (R41). -/
def execActivateCheckDone (img : ImageDesc) (s : State) : Host.Outcome State Fault Refusal :=
  .next (activateDone img s)

/-- CONFIRM (R42). A write of CFG_ACTIVATE. -/
def execConfirm (mid : Mid) (v : Word) (s : State) : Host.Outcome State Fault Refusal :=
  .next (writeReg mid (regAddr .CFG_ACTIVATE 0 0) v s)

/-- IMAGE_LOAD_START (R35). -/
def execImageLoadStart (s : State) : Host.Outcome State Fault Refusal :=
  .next (loadStart s)

/-- IMAGE_HEADER_CHECK (R35). -/
def execImageHeaderCheck (s : State) : Host.Outcome State Fault Refusal :=
  .next (loadHeader s)

/-- IMAGE_STREAM_DONE (R35). -/
def execImageStreamDone (img : ImageDesc) (s : State) : Host.Outcome State Fault Refusal :=
  .next (loadStreamed img s)

/-- IMAGE_COMMIT (R35). -/
def execImageCommit (s : State) : Host.Outcome State Fault Refusal :=
  .next (commitImage s)

end Sys2Proof.Machine
end

