-- ==== Sys2Proof/Machine/ColRows.lean ====
section
/-! DEFINITION. Sheepdog (R262, R263): the meaning of each command of the family. -/

namespace Sys2Proof.Machine

/-- COL (R262). -/
def execCol (ip : IntPort) (s : State) : Host.Outcome State Fault Refusal :=
  .next (colArrive 0x0C ip s)

/-- COL_DATA (R262). -/
def execColData (ip : IntPort) (s : State) : Host.Outcome State Fault Refusal :=
  .next (colArrive 0x25 ip s)

/-- COL_RETRANSMIT (R263). -/
def execColRetransmit (group : Nat) (slot : Nat) (edge : Nat) (s : State) : Host.Outcome State Fault Refusal :=
  .next (roomAgain (colRetry group slot edge s))

/-- ARM_WAIT_EXPIRY (R263). -/
def execArmWaitExpiry (group : Nat) (edge : Nat) (s : State) : Host.Outcome State Fault Refusal :=
  .next (roomAgain (armWaitOver group edge s))

end Sys2Proof.Machine
end

