-- ==== Sys2Proof/Machine/EventRows.lean ====
section
/-! DEFINITION. Event queues (R180 to R188): the meaning of each command of the family. -/

namespace Sys2Proof.Machine

/-- EQ_CI_UPDATE (R185). A write of EQ_CI[n]. -/
def execEqCiUpdate (mid : Mid) (h : HostPort) (eq : Fin 4096) (v : Word) (s : State) : Host.Outcome State Fault Refusal :=
  .next (writeReg mid (regAddr .EQ_CI h.val eq.val) v s)

/-- EQ_ARM (R184). A write of EQ_CI[n]. -/
def execEqArm (mid : Mid) (h : HostPort) (eq : Fin 4096) (v : Word) (s : State) : Host.Outcome State Fault Refusal :=
  .next (writeReg mid (regAddr .EQ_CI h.val eq.val) v s)

/-- EVENT_WRITE (R184). -/
def execEventWrite (h : HostPort) (eq : Nat) (s : State) : Host.Outcome State Fault Refusal :=
  .next (slotsFreed h (eventWrite h eq s))

/-- STASH_DRAIN (R186). -/
def execStashDrain (h : HostPort) (eq : Nat) (s : State) : Host.Outcome State Fault Refusal :=
  .next (slotsFreed h (stashDrainN h eq 64 s))

/-- ASYNC_PENDING_WRITE (R188). -/
def execAsyncPendingWrite (h : HostPort) (s : State) : Host.Outcome State Fault Refusal :=
  .next (asyncWrite h s)

end Sys2Proof.Machine
end

