-- ==== Sys2Proof/Machine/FaultRows.lean ====
section
/-! DEFINITION. Faults (R322 to R335): the meaning of each command of the family. -/

namespace Sys2Proof.Machine

/-- FAULT_SOURCE_RISE (R323). -/
def execFaultSourceRise (src : Fin 64) (mid : Mid) (access : Fin 8) (addr : Word) (tgt : FaultTarget) (s : State) : Host.Outcome State Fault Refusal :=
  .next (lineRises src mid (access.val % 8) addr tgt s)

/-- ERROR_LINE_FALL (R323). -/
def execErrorLineFall (src : Fin 64) (s : State) : Host.Outcome State Fault Refusal :=
  .next (lineFalls src s)

/-- ESCALATION (R330). -/
def execEscalation (s : State) : Host.Outcome State Fault Refusal :=
  .next (escalate s)

/-- FLT_INJECT (R332). A write of FLT_INJECT. -/
def execFltInject (mid : Mid) (v : Word) (s : State) : Host.Outcome State Fault Refusal :=
  .next (writeReg mid (regAddr .FLT_INJECT 0 0) v s)

/-- ALERT_RESPONSE (R328). -/
def execAlertResponse (s : State) : Host.Outcome State Fault Refusal :=
  .next (alertAnswered s)

end Sys2Proof.Machine
end

