-- ==== Sys2Proof/Machine/HostRows.lean ====
section
/-! DEFINITION. Host ports: requests, resets and links (R154 to R157, R177, R304, R322): the meaning of each command of the family. -/

namespace Sys2Proof.Machine

/-- HOST_REQUEST_TIMEOUT (R157). -/
def execHostRequestTimeout (h : HostPort) (tag : Nat) (s : State) : Host.Outcome State Fault Refusal :=
  .next (reqTimeout h tag s)

/-- FUNCTION_LEVEL_RESET (R177). -/
def execFunctionLevelReset (h : HostPort) (s : State) : Host.Outcome State Fault Refusal :=
  .next (if hostReaches s h then funcStart h s else s)

/-- PERST_ASSERT (R304). -/
def execPerstAssert (h : HostPort) (s : State) : Host.Outcome State Fault Refusal :=
  .next (perstOn h s)

/-- PERST_RELEASE (R177). -/
def execPerstRelease (h : HostPort) (s : State) : Host.Outcome State Fault Refusal :=
  .next (perstOff h s)

/-- FUNCTION_RESET_DONE (R177). -/
def execFunctionResetDone (h : HostPort) (s : State) : Host.Outcome State Fault Refusal :=
  .next (roomAgain (funcDone h s))

/-- HOST_LINK_DOWN (R322). -/
def execHostLinkDown (h : HostPort) (s : State) : Host.Outcome State Fault Refusal :=
  .next (hostDown h s)

/-- HOST_LINK_TRAINED (R177). -/
def execHostLinkTrained (h : HostPort) (width : Nat) (rate : Nat) (flit : Bool) (s : State) : Host.Outcome State Fault Refusal :=
  .next (hostTrained h width rate flit s)

/-- CONFIGURATION_REQUEST (R154). -/
def execConfigurationRequest (h : HostPort) (req : ConfigReq) (s : State) : Host.Outcome State Fault Refusal :=
  .next (configWrite h req s)

end Sys2Proof.Machine
end

