-- ==== Sys2Proof/Machine/LaneRows.lean ====
section
/-! DEFINITION. The lanes of a port (R47 to R68): the meaning of each command of the family. -/

namespace Sys2Proof.Machine

/-- PARTNER_CLOCK_CHECK (R56). -/
def execPartnerClockCheck (p : NetPort) (khz : Nat) (s : State) : Host.Outcome State Fault Refusal :=
  .next (clockCheck p khz s)

/-- TRAINING_COMPLETE (R56). Each of the steps it tells of ends with one of these (DESIGN CHOICE, log entry 77). -/
def execTrainingComplete (p : NetPort) (res : TrainResult) (s : State) : Host.Outcome State Fault Refusal :=
  .next (trainStep p res s)

/-- TRAINING_FAIL (R57). -/
def execTrainingFail (p : NetPort) (cause : TrainCause) (s : State) : Host.Outcome State Fault Refusal :=
  .next (trainFail p cause s)

/-- RETRY_IDLE_EXPIRY (R57). -/
def execRetryIdleExpiry (p : NetPort) (s : State) : Host.Outcome State Fault Refusal :=
  .next (retryEnds p s)

/-- MODULE_PRESENCE_CHANGE (R55). -/
def execModulePresenceChange (g : Nat) (absent : Bool) (s : State) : Host.Outcome State Fault Refusal :=
  .next (presenceChange g absent s)

/-- WIDTH_CHANGE (R60). -/
def execWidthChange (p : NetPort) (s : State) : Host.Outcome State Fault Refusal :=
  .next (widthBoundary p s)

/-- WCH_RECEIVED (R60). -/
def execWchReceived (p : NetPort) (votes : List Nat) (s : State) : Host.Outcome State Fault Refusal :=
  .next (wchIn p votes s)

/-- LANE_SLEEP (R61). -/
def execLaneSleep (p : NetPort) (s : State) : Host.Outcome State Fault Refusal :=
  .next (sleepDue p s)

/-- SLP_RECEIVED (R61). -/
def execSlpReceived (p : NetPort) (s : State) : Host.Outcome State Fault Refusal :=
  .next (slpIn p s)

/-- WAKE_REQUEST (R62). -/
def execWakeRequest (p : NetPort) (s : State) : Host.Outcome State Fault Refusal :=
  .next (wakeAsked p s)

/-- WAK_RECEIVED (R62). -/
def execWakReceived (p : NetPort) (count : Nat) (s : State) : Host.Outcome State Fault Refusal :=
  .next (wakIn p count s)

/-- LC_LOSS (R64). -/
def execLcLoss (p : NetPort) (s : State) : Host.Outcome State Fault Refusal :=
  .next (lcLost p s)

/-- LVE_RECEIVED (R64). -/
def execLveReceived (p : NetPort) (reason : Nat) (s : State) : Host.Outcome State Fault Refusal :=
  .next (lveIn p reason s)

/-- TS_WHILE_UP (R54). -/
def execTsWhileUp (p : NetPort) (s : State) : Host.Outcome State Fault Refusal :=
  .next (tsIn p s)

/-- RETRAIN (R65). A write of LAN_CTL. -/
def execRetrain (mid : Mid) (p : NetPort) (v : Word) (s : State) : Host.Outcome State Fault Refusal :=
  .next (writeReg mid (regAddr .LAN_CTL p.val 0) v s)

/-- PRBS_SYNC (R66). -/
def execPrbsSync (x : PrbsLock) (s : State) : Host.Outcome State Fault Refusal :=
  .next (prbsSyncIn x.port x.history s)

/-- CODE_ERROR_OUTSIDE_FRAME (R52). -/
def execCodeErrorOutsideFrame (p : NetPort) (e : LoneGroup) (s : State) : Host.Outcome State Fault Refusal :=
  .next (codeErrorIn p e.lane e.turned e.group s)

/-- ERROR_FREE_IDL_SETS (R63). -/
def execErrorFreeIdlSets (p : NetPort) (n : Nat) (s : State) : Host.Outcome State Fault Refusal :=
  .next (idlSetsIn p n s)

/-- PRBS_BYTE_ERROR (R66). -/
def execPrbsByteError (p : NetPort) (bytes : Bytes) (s : State) : Host.Outcome State Fault Refusal :=
  .next (prbsColumn p bytes s)

/-- LEAVE_HOLD (R68). A write of LAN_CTL. -/
def execLeaveHold (mid : Mid) (p : NetPort) (v : Word) (s : State) : Host.Outcome State Fault Refusal :=
  .next (writeReg mid (regAddr .LAN_CTL p.val 0) v s)

end Sys2Proof.Machine
end

