-- ==== Sys2Proof/Machine/LinkRows.lean ====
section
/-! DEFINITION. The link of a port (R69 to R96): the meaning of each command of the family. -/

namespace Sys2Proof.Machine

/-- FRAME_RECEIVED (R75). The code groups of each active lane (DESIGN CHOICE, log entry 77). -/
def execFrameReceived (p : NetPort) (turned : BitVec 16) (groups : List (List (BitVec 10))) (tail : Bool) (s : State) :
    Host.Outcome State Fault Refusal :=
  .next (frameColsIn p turned groups tail s)

/-- NAK_REPEAT (R77). -/
def execNakRepeat (p : NetPort) (fseq : BitVec 12) (s : State) : Host.Outcome State Fault Refusal :=
  .next (nakAgain p fseq s)

/-- ABT_RECEIVED (R81). -/
def execAbtReceived (p : NetPort) (s : State) : Host.Outcome State Fault Refusal :=
  .next (abtIn p s)

/-- CUT_THROUGH_CLOSE (R81). -/
def execCutThroughClose (p : NetPort) (ok : Bool) (s : State) : Host.Outcome State Fault Refusal :=
  .next (closeArriving p ok s)

/-- ACK_SET_RECEIVED (R76). The set's copies in lane-group order. -/
def execAckSetReceived (p : NetPort) (set : Bytes) (s : State) : Host.Outcome State Fault Refusal :=
  .next (crReceived p set s)

/-- NAK_SET_RECEIVED (R78). The set's copies in lane-group order; what is due to be sent again wakes the direction. -/
def execNakSetReceived (p : NetPort) (set : Bytes) (s : State) : Host.Outcome State Fault Refusal :=
  .next (wakeToResend p (crReceived p set s))

/-- CREDIT_SET_RECEIVED (R84). The set's copies in lane-group order. -/
def execCreditSetReceived (p : NetPort) (set : Bytes) (s : State) : Host.Outcome State Fault Refusal :=
  .next (crReceived p set s)

/-- REPLAY_TIMEOUT (R78). -/
def execReplayTimeout (p : NetPort) (s : State) : Host.Outcome State Fault Refusal :=
  .next (replayLate p s)

/-- CREDIT_REFRESH (R86). -/
def execCreditRefresh (p : NetPort) (s : State) : Host.Outcome State Fault Refusal :=
  .next (refreshDue p s)

/-- ERROR_WINDOW_EXPIRY (R89). -/
def execErrorWindowExpiry (p : NetPort) (s : State) : Host.Outcome State Fault Refusal :=
  .next (windowEnds p s)

/-- ERROR_WINDOW_LIMIT (R89). -/
def execErrorWindowLimit (p : NetPort) (s : State) : Host.Outcome State Fault Refusal :=
  .next (windowLimit p s)

/-- INIT_FRAME_SEND (R91). -/
def execInitFrameSend (p : NetPort) (s : State) : Host.Outcome State Fault Refusal :=
  .next (initSend p s)

/-- INIT_FRAME_RECEIVED (R91). -/
def execInitFrameReceived (p : NetPort) (frame : CodedFrame) (s : State) : Host.Outcome State Fault Refusal :=
  .next (frameColsIn p frame.turned frame.groups true s)

/-- INIT_TIMEOUT (R91). -/
def execInitTimeout (p : NetPort) (s : State) : Host.Outcome State Fault Refusal :=
  .next (initLate p s)

/-- ADMISSION_CHECK (R92). -/
def execAdmissionCheck (p : NetPort) (s : State) : Host.Outcome State Fault Refusal :=
  .next (admissionDue p s)

/-- READMIT (R92). A write of LNK_CTL. -/
def execReadmit (mid : Mid) (p : NetPort) (v : Word) (s : State) : Host.Outcome State Fault Refusal :=
  .next (writeReg mid (regAddr .LNK_CTL p.val 0) v s)

end Sys2Proof.Machine
end

