-- ==== Sys2Proof/Machine/MatchRows.lean ====
section
/-! DEFINITION. Messages and matching (R231 to R243): the meaning of each command of the family. -/

namespace Sys2Proof.Machine

/-- MSG_SHORT (R237). -/
def execMsgShort (ip : IntPort) (s : State) : Host.Outcome State Fault Refusal :=
  .next (arrive (fun k => decide (pktOpcode k = 0x06)) ip s)

/-- MSG_EAGER (R237). -/
def execMsgEager (ip : IntPort) (s : State) : Host.Outcome State Fault Refusal :=
  .next (arrive (fun k => decide (pktOpcode k = 0x24)) ip s)

/-- RNDV_REQ (R237). -/
def execRndvReq (ip : IntPort) (s : State) : Host.Outcome State Fault Refusal :=
  .next (arrive (fun k => decide (pktOpcode k = 0x07)) ip s)

/-- MATCH_RECORD_READ_DONE (R231). -/
def execMatchRecordReadDone (h : HostPort) (tag : Nat) (ok : Bool) (s : State) : Host.Outcome State Fault Refusal :=
  .next (recordReadEnd h tag ok s)

/-- KENNEL_BLOCK_READ_DONE (R235). -/
def execKennelBlockReadDone (h : HostPort) (tag : Nat) (ok : Bool) (s : State) : Host.Outcome State Fault Refusal :=
  .next (blockReadEnd h tag ok s)

/-- DATA_SLOT_READ_DONE (R241). -/
def execDataSlotReadDone (h : HostPort) (tag : Nat) (data : Option Bytes) (s : State) : Host.Outcome State Fault Refusal :=
  .next (slotReadEnd h tag data s)

/-- AUTO_GET_START (R243). -/
def execAutoGetStart (h : HostPort) (s : State) : Host.Outcome State Fault Refusal :=
  .next (roomAgain (autoStart h s))

end Sys2Proof.Machine
end

