-- ==== Sys2Proof/Machine/MgmtOps.lean ====
section
/-! DEFINITION. The masters that are not host ports (R112, R344, R346, R374), and TELEMETRY packets (R363). -/

namespace Sys2Proof.Machine

/-! ## 64-bit accesses of the management bus, JTAG and the agent -/

/-- An offset something answers at: a register, or a word of an MSI-X array (R155, R366) (DESIGN CHOICE, log entry 38). -/
def offsetAnswers (s : State) (off : Nat) : Bool :=
  off % 8 == 0 && (match msixAt off with
  | some (h, _, _) => s.hifRuns h.val
  | none => (regHere s off).isSome)

/-- A 64-bit write; an unmapped offset discards it (R5). -/
def busWrite (mid : Mid) (off : Nat) (v : Word) (s : State) : State :=
  if offsetAnswers s off then writeForm mid off v s else s

/-- A 64-bit read; an unmapped offset reads as 0 (R5). -/
def busRead (mid : Mid) (off : Nat) (s : State) : State × Word :=
  if !offsetAnswers s off then (s, 0#64)
  else match msixAt off with
  | some (h, table, a) => (s, msixRead s h table a)
  | none => readReg mid off s

/-! ## The in-band management agent (R112, R344) -/

/-- The agent answers a request REFUSED under the binding rules (R344). -/
def agentRefuses (s : State) (write : Bool) (src : Nat) : Bool :=
  let mgr (k : Nat) := s.regWord .AON_MGR 0 k
  let valid := (List.range 4).filter (fun k => bitOf (mgr k) 18)
  match s.binding with
  | 0 => false
  | 1 => write && !valid.isEmpty && !valid.any (fun k => fieldOf (mgr k) 17 0 == src)
  | _ => true

/-- A response of the agent: the request's REQ_ID and offset, STATUS and the value (R112). -/
def agentAnswer (p : Packet) (op status : Nat) (v : Word) (s : State) : State :=
  let body := (pktSlice p 16 2) ++ leBytes 1 0 ++ leBytes 1 op ++ leBytes 1 status ++ leBytes 1 0 ++ pktSlice p 22 3 ++
    leBytes 7 0 ++ leBytes 8 v.toNat ++ leBytes 24 0
  inject (mkPkt (newW0 1 0 (pktSrcChip p) s.chip) (newW1 (pktSrcEp p) (pktDstEp p) 0x0D true true false) body) s

/-- The agent serves a request, as master 0x02. The value of an answer that carries none is free (DESIGN CHOICE, log entry 1)
(DESIGN CHOICE, log entry 40). -/
def agentServe (p : Packet) (s : State) : State :=
  let off := pktAt p 22 3
  let refused (op : Nat) (s : State) := agentAnswer p op 2 s.freeValue s.tookFree
  match pktAt p 19 1 with
  | 1 =>
    if agentRefuses s false (pktSrcChip p) then refused 3 s
    else
      let x := busRead 2#8 off s
      agentAnswer p 3 0 x.2 (x.1.emit (.regRead 2#8 (BitVec.ofNat 24 off) x.2))
  | 2 =>
    if agentRefuses s true (pktSrcChip p) then refused 4 s
    else
      let s := busWrite 2#8 off (BitVec.ofNat 64 (pktAt p 32 8)) s
      agentAnswer p 4 0 s.freeValue s.tookFree
  | _ => s

/-- The NIC may take a packet for the agent or the capture block: running and not halted by DBG_HALT, in DOZE as well. -/
def State.agentWorks (s : State) : Bool := s.svcRuns && s.routerRuns && !s.flag F.DBG_HALT_NIC

/-- A request reaches the agent (R112): it is served if none is at work, else it waits; beyond 16 it is answered BUSY and not acted on.
The value of that answer is free (DESIGN CHOICE, log entries 1 and 40). -/
def agentTake (p : Packet) (s : State) : State :=
  if s.agent.isEmpty then agentServe p { s with agent := [p] }
  else if s.agent.length < 16 then { s with agent := s.agent ++ [p] }
  else agentAnswer p (if pktAt p 19 1 = 2 then 4 else 3) 1 s.freeValue s.tookFree

/-- A CORE_CLK cycle ends the request at work, and the next one is served (DESIGN CHOICE, log entry 40). -/
def agentCycle (s : State) : State :=
  if !s.agentWorks then s
  else match s.agent.drop 1 with
  | [] => { s with agent := [] }
  | p :: rest => agentServe p { s with agent := p :: rest }

/-- A management packet in a class other than TC0 is discarded and counted (R112). -/
def countMgmt (s : State) : State := { s with discards := { s.discards with mgmt := s.discards.mgmt + 1 } }

/-- An MGMT packet at the head of an ejection buffer, a WRITE or any other (R112): one that fails its PCRC, or in another class
than TC0, or with an MGMT_OP that is no request, is discarded. -/
def mgmtArrive (write : Bool) (ip : IntPort) (s : State) : State :=
  match s.ints[ip].eject with
  | [] => s
  | e :: _ =>
    if pktOpcode e.pkt ≠ 0x0D || decide (pktAt e.pkt 19 1 = 2) ≠ write || !s.agentWorks then s
    else
      let s := takeEject ip e s
      if !pcrcOk e.pkt then nicSlot 2 (pmcAdd 68 0x21 1 s)
      else if pktUnlisted e.pkt || !pktLenOk e.pkt then discardPkt e.pkt s
      else if pktTc e.pkt ≠ 0 then nicSlot 2 (countMgmt s)
      else if pktAt e.pkt 19 1 ≠ 1 && pktAt e.pkt 19 1 ≠ 2 then nicSlot 2 s
      else agentTake e.pkt (nicSlot 1 s)

/-! ## TELEMETRY packets (R363) -/

/-- A TELEMETRY packet leaves: up to 64 entries from CI on, consumed from the ring. -/
def telemetrySend (s : State) : State :=
  let n := min 64 (capCount s)
  if !s.svcRuns || !s.cap.dest || n = 0 then s
  else
    let size := 2 ^ capLog s
    let ci := s.fget F.CAP_CI_CI
    let data := (List.range n).flatMap (fun k => ramRead s.cap.mem (64 * ((ci + k) % size)) 64)
    let head := leBytes 2 s.cap.tseq.toNat ++ leBytes 1 1 ++ leBytes 2 data.length
    let pkt := mkPkt (newW0 2 (s.useClass (·.telemetry)) (s.fget F.CAP_TEL_CHIP) s.chip) (newW1 0 0 0x26 true true false)
      (longBody head data)
    let s := s.fset F.CAP_CI_CI ((ci + n) % (2 * size))
    inject pkt { s with cap := { s.cap with tseq := s.cap.tseq + 1#16 } }

/-- A TELEMETRY packet at the head of an ejection buffer: a collector appends its entries to its own ring, any other chip counts
it in TEL_DISC. -/
def telemetryArrive (ip : IntPort) (s : State) : State :=
  match s.ints[ip].eject with
  | [] => s
  | e :: _ =>
    if pktOpcode e.pkt ≠ 0x26 || !s.agentWorks then s
    else
      let s := takeEject ip e s
      if !pcrcOk e.pkt then nicSlot 2 (pmcAdd 68 0x21 1 s)
      else if pktUnlisted e.pkt || !pktLenOk e.pkt then discardPkt e.pkt s
      else if s.flag F.CAP_CTL_COLLECT then
        (List.range (min 64 (pktPlen e.pkt / 64))).foldl (fun t k => capAppend (pktSlice e.pkt (32 + 64 * k) 64) t) (nicSlot 1 s)
      else (nicSlot 2 s).finc F.CAP_STATUS_TEL_DISC 1

/-! ## JTAG (R346) -/

/-- Update-DR of REG_ACCESS: the access by MID 0x01; the next Capture-DR shows its data and STATUS. A write leaves no data to
show, so DATA is free after it (DESIGN CHOICE, log entry 1) (DESIGN CHOICE, log entry 41). -/
def jtagAccess (dr : BitVec 92) (s : State) : State :=
  if !s.pwr.vddAon then s
  else
    let v := dr.setWidth 64
    let off := (dr.toNat / 2 ^ 64) % 2 ^ 24
    let ok := offsetAnswers s off
    let done (s : State) (w : Word) : State :=
      { s with jtag := { s.jtag with instr := .regAccess, data := w, status := if ok then 0#3 else 2#3 } }
    if dr.toNat.testBit 88 then
      let s := busWrite 1#8 off v s
      done s.tookFree s.freeValue
    else
      let x := busRead 1#8 off s
      done (x.1.emit (.regRead 1#8 (BitVec.ofNat 24 off) x.2)) x.2

/-! ## The management bus (R374) -/

/-- The target serves a transaction: the AON domain runs, in SLEEP after its clock has been woken (R299). -/
def smbServes (s : State) : Bool := !s.rst.pHeld && (decide (s.pwr.state ≠ .sleep) || s.pwr.whistle)

/-- The offset moves on after a completed access, with AUTO (DESIGN CHOICE, log entry 39). -/
def smbAdvance (s : State) : State :=
  if s.smb.auto then { s with smb := { s.smb with offset := s.smb.offset + 8#24 } } else s

/-- A transaction of the target; one it has served may wake the chip from SLEEP (R299). -/
def smbRun (f : State → State) (s : State) : State := if smbServes s then whistleEnd (f s) else s

/-- OFFSET, a block write of 3 bytes. -/
def smbOffset (bytes : Bytes) (s : State) : State :=
  if bytes.length = 3 then { s with smb := { s.smb with offset := BitVec.ofNat 24 (leNat bytes) } } else s

/-- STATUS of an access at the offset. -/
def smbStatus (s : State) : Nat :=
  if s.smb.offset.toNat % 8 ≠ 0 then 2 else if offsetAnswers s s.smb.offset.toNat then 0 else 1

/-- Sets STATUS. -/
def smbSet (st : Nat) (s : State) : State := { s with smb := { s.smb with status := BitVec.ofNat 8 st } }

/-- WRITE, a block write of 8 bytes. -/
def smbWriteGo (bytes : Bytes) (s : State) : State :=
  if bytes.length ≠ 8 then s
  else
    let st := smbStatus s
    if st = 2 then smbSet 2 s
    else smbAdvance (smbSet st (busWrite 0#8 s.smb.offset.toNat (BitVec.ofNat 64 (leNat bytes)) s))

/-- READ, a block read of 9 bytes: STATUS and the value. -/
def smbReadGo (s : State) : State :=
  let st := smbStatus s
  if st = 2 then (smbSet 2 s).emit (.smb (leBytes 1 2 ++ leBytes 8 0))
  else
    let x := busRead 0#8 s.smb.offset.toNat s
    smbAdvance (smbSet st ((x.1.emit (.regRead 0#8 s.smb.offset x.2)).emit (.smb (leBytes 1 st ++ leBytes 8 x.2.toNat))))

/-- AUTO. -/
def smbAuto (b : Byte) (s : State) : State := { s with smb := { s.smb with auto := b.toNat.testBit 0 } }

/-- LAST. -/
def smbLast (s : State) : State := s.emit (.smb [s.smb.status])

/-- A clock-low timeout abandons the transaction and frees the master's locks (R319). -/
def smbTimeout (s : State) : State := if s.rst.pHeld then s else resetMaster 0#8 s

end Sys2Proof.Machine
end

