-- ==== Sys2Proof/Machine/ObsRows.lean ====
section
/-! DEFINITION. Counters, capture and telemetry (R352 to R365): the meaning of each command of the family. -/

namespace Sys2Proof.Machine

/-- CLEAR (R354). A write of PMC_CTL. -/
def execClear (mid : Mid) (unit : Fin 72) (v : Word) (s : State) : Host.Outcome State Fault Refusal :=
  .next (writeReg mid (regAddr .PMC_CTL unit.val 0) v s)

/-- SNAPSHOT (R358). A write of PMC_SNAP. -/
def execSnapshot (mid : Mid) (v : Word) (s : State) : Host.Outcome State Fault Refusal :=
  .next (writeReg mid (regAddr .PMC_SNAP 0 0) v s)

/-- CAPTURE_ENABLE (R365). A write of CAP_CTL. -/
def execCaptureEnable (mid : Mid) (v : Word) (s : State) : Host.Outcome State Fault Refusal :=
  .next (writeReg mid (regAddr .CAP_CTL 0 0) v s)

/-- CAP_CI_WRITE (R362). A write of CAP_CI. -/
def execCapCiWrite (mid : Mid) (v : Word) (s : State) : Host.Outcome State Fault Refusal :=
  .next (writeReg mid (regAddr .CAP_CI 0 0) v s)

/-- TELEMETRY_FLUSH (R363). -/
def execTelemetryFlush (s : State) : Host.Outcome State Fault Refusal :=
  .next (telemetrySend s)

/-- TELEMETRY (R363). -/
def execTelemetry (ip : IntPort) (s : State) : Host.Outcome State Fault Refusal :=
  .next (telemetryArrive ip s)

end Sys2Proof.Machine
end

