-- ==== Sys2Proof/Machine/PowerRows.lean ====
section
/-! DEFINITION. Power (R289 to R302): the meaning of each command of the family. -/

namespace Sys2Proof.Machine

/-- VDD_AON_LOW (R289). -/
def execVddAonLow (s : State) : Host.Outcome State Fault Refusal :=
  .next (holdP s)

/-- VDD_AON_RISE (R304). -/
def execVddAonRise (s : State) : Host.Outcome State Fault Refusal :=
  .next (s.modPwr (fun p => { p with vddAon := true }))

/-- P_RESET_RELEASE (R304). -/
def execPResetRelease (s : State) : Host.Outcome State Fault Refusal :=
  .next (releaseP s)

/-- SUPPLY_CORE_LOW (R289). -/
def execSupplyCoreLow (s : State) : Host.Outcome State Fault Refusal :=
  .next (supplyLow s)

/-- PWRGD_FALL (R289). -/
def execPwrgdFall (s : State) : Host.Outcome State Fault Refusal :=
  .next (pwrgdOff s)

/-- PWRGD_RISE (R310). -/
def execPwrgdRise (s : State) : Host.Outcome State Fault Refusal :=
  .next (pwrgdOn s)

/-- REFCLK_LOSS (R282). -/
def execRefclkLoss (s : State) : Host.Outcome State Fault Refusal :=
  .next (refclkLost s)

/-- POWER_FAIL (R300). -/
def execPowerFail (s : State) : Host.Outcome State Fault Refusal :=
  .next (pfwOn s)

/-- PFW_DEASSERT (R300). -/
def execPfwDeassert (s : State) : Host.Outcome State Fault Refusal :=
  .next (pfwOff s)

/-- SAVE_WINDOW_EXPIRY (R300). -/
def execSaveWindowExpiry (s : State) : Host.Outcome State Fault Refusal :=
  .next (saveExpiry s)

/-- TEMP_SAMPLE (R289). -/
def execTempSample (t : Nat) (s : State) : Host.Outcome State Fault Refusal :=
  .next (tempSampled t s)

/-- REQUEST_ACTIVE (R292). A write of PWR_CTL. -/
def execRequestActive (mid : Mid) (v : Word) (s : State) : Host.Outcome State Fault Refusal :=
  .next (writeReg mid (regAddr .PWR_CTL 0 0) v s)

/-- REQUEST_DOZE (R292). A write of PWR_CTL. -/
def execRequestDoze (mid : Mid) (v : Word) (s : State) : Host.Outcome State Fault Refusal :=
  .next (writeReg mid (regAddr .PWR_CTL 0 0) v s)

/-- REQUEST_STANDBY (R291). A write of PWR_CTL. -/
def execRequestStandby (mid : Mid) (v : Word) (s : State) : Host.Outcome State Fault Refusal :=
  .next (writeReg mid (regAddr .PWR_CTL 0 0) v s)

/-- REQUEST_SLEEP (R291). A write of PWR_CTL. -/
def execRequestSleep (mid : Mid) (v : Word) (s : State) : Host.Outcome State Fault Refusal :=
  .next (writeReg mid (regAddr .PWR_CTL 0 0) v s)

/-- POWER_ENTRY_DONE (R291). -/
def execPowerEntryDone (s : State) : Host.Outcome State Fault Refusal :=
  .next (entryDone s)

/-- AUTO_DOZE (R291). -/
def execAutoDoze (s : State) : Host.Outcome State Fault Refusal :=
  .next (autoDozeGo s)

/-- NIC_READY (R294). -/
def execNicReady (s : State) : Host.Outcome State Fault Refusal :=
  .next (nicReadyGo s)

/-- WAKE_N (R296). -/
def execWakeN (s : State) : Host.Outcome State Fault Refusal :=
  .next (wakeEvent 0 false s)

/-- AON_TIMER (R296). -/
def execAonTimer (s : State) : Host.Outcome State Fault Refusal :=
  .next (timerDone s)

/-- WHISTLE (R299). -/
def execWhistle (s : State) : Host.Outcome State Fault Refusal :=
  .next (whistleGo s)

/-- WHISTLE_IDLE (R299). -/
def execWhistleIdle (s : State) : Host.Outcome State Fault Refusal :=
  .next (whistleOff s)

/-- WAKE_EXIT_DONE (R297). -/
def execWakeExitDone (s : State) : Host.Outcome State Fault Refusal :=
  .next (exitDone s)

/-- RSRAM_DATA_ACCESS (R302). A read or a write of AON_RSRAM_DATA. -/
def execRsramDataAccess (mid : Mid) (write : Option Word) (s : State) : Host.Outcome State Fault Refusal :=
  .next (match write with
    | some v => writeReg mid (regAddr .AON_RSRAM_DATA 0 0) v s
    | none => readOut mid (regAddr .AON_RSRAM_DATA 0 0) s)

end Sys2Proof.Machine
end

