-- ==== Sys2Proof/Machine/QueueRows.lean ====
section
/-! DEFINITION. Work queues: descriptors and operations (R168 to R174, R236, R256): the meaning of each command of the family. -/

namespace Sys2Proof.Machine

/-- DESCRIPTOR_FETCH (R174). -/
def execDescriptorFetch (h : HostPort) (wq : Nat) (s : State) : Host.Outcome State Fault Refusal :=
  .next (fetchDescs h wq s)

/-- DESCRIPTOR_FETCH_DONE (R174). -/
def execDescriptorFetchDone (h : HostPort) (wq : Nat) (data : Option Bytes) (s : State) : Host.Outcome State Fault Refusal :=
  .next (tagFreed h (descsDone h wq data s))

/-- PHASE_REREAD (R170). -/
def execPhaseReread (h : HostPort) (wq : Nat) (s : State) : Host.Outcome State Fault Refusal :=
  .next (rereadDesc h wq s)

/-- OPERATION_START (R172). -/
def execOperationStart (h : HostPort) (wq : Nat) (s : State) : Host.Outcome State Fault Refusal :=
  .next (startOp h wq s)

/-- PUT_DESCRIPTOR (R169). -/
def execPutDescriptor (h : HostPort) (wq : Nat) (idx : Nat) (s : State) : Host.Outcome State Fault Refusal :=
  .next (roomAgain (beginOf [1] h wq idx s))

/-- PUT_DURABLE_DESCRIPTOR (R169). -/
def execPutDurableDescriptor (h : HostPort) (wq : Nat) (idx : Nat) (s : State) : Host.Outcome State Fault Refusal :=
  .next (roomAgain (beginOf [2] h wq idx s))

/-- GET (R169). -/
def execGet (h : HostPort) (wq : Nat) (idx : Nat) (s : State) : Host.Outcome State Fault Refusal :=
  .next (roomAgain (beginOf [3] h wq idx s))

/-- ATOMIC_DESCRIPTOR (R169). -/
def execAtomicDescriptor (h : HostPort) (wq : Nat) (idx : Nat) (s : State) : Host.Outcome State Fault Refusal :=
  .next (roomAgain (beginOf [4] h wq idx s))

/-- ATOMIC_FETCH_DESCRIPTOR (R169). -/
def execAtomicFetchDescriptor (h : HostPort) (wq : Nat) (idx : Nat) (s : State) : Host.Outcome State Fault Refusal :=
  .next (roomAgain (beginOf [5] h wq idx s))

/-- SEND (R240). -/
def execSend (h : HostPort) (wq : Nat) (idx : Nat) (s : State) : Host.Outcome State Fault Refusal :=
  .next (roomAgain (beginOf [6] h wq idx s))

/-- RECV (R236). -/
def execRecv (h : HostPort) (wq : Nat) (idx : Nat) (s : State) : Host.Outcome State Fault Refusal :=
  .next (recvBegin h wq idx s)

/-- VP_WRITE (R169). -/
def execVpWrite (h : HostPort) (wq : Nat) (idx : Nat) (s : State) : Host.Outcome State Fault Refusal :=
  .next (roomAgain (beginOf [8] h wq idx s))

/-- COLLECTIVE (R256). -/
def execCollective (h : HostPort) (wq : Nat) (idx : Nat) (s : State) : Host.Outcome State Fault Refusal :=
  .next (roomAgain (collectiveBegin h wq idx s))

/-- NOP_DESCRIPTOR (R169). -/
def execNopDescriptor (h : HostPort) (wq : Nat) (idx : Nat) (s : State) : Host.Outcome State Fault Refusal :=
  .next (roomAgain (beginOf [10] h wq idx s))

/-- LOCAL_READ_DONE (R172). -/
def execLocalReadDone (h : HostPort) (tag : Nat) (data : Option Bytes) (s : State) : Host.Outcome State Fault Refusal :=
  .next (localReadEnd h tag data s)

/-- HEAD_INDEX_WRITE (R173). -/
def execHeadIndexWrite (h : HostPort) (wq : Nat) (s : State) : Host.Outcome State Fault Refusal :=
  .next (writeHead h wq s)

end Sys2Proof.Machine
end

