-- ==== Sys2Proof/Machine/RegRows.lean ====
section
/-! DEFINITION. Register accesses of no row of their own (R5, R377): the meaning of each command of the family. -/

namespace Sys2Proof.Machine

/-- REGISTER_WRITE (R5). The access of 8 bytes that R373 gives. -/
def execRegisterWrite (mid : Mid) (off : Offset) (v : Word) (s : State) : Host.Outcome State Fault Refusal :=
  .next (writeForm mid off.toNat v s)

/-- REGISTER_WRITE_32BIT (R5). An access of another form (R373). -/
def execRegisterWrite32bit (mid : Mid) (off : Offset) (bytes : Bytes) (s : State) : Host.Outcome State Fault Refusal :=
  .next (partialWrite mid off.toNat bytes s)

/-- REGISTER_READ_CLEAR (R377). A read of 8 or 4 bytes, or of another form (R373, R377). -/
def execRegisterReadClear (mid : Mid) (off : Offset) (len : Nat) (s : State) : Host.Outcome State Fault Refusal :=
  .next (readForm mid off.toNat len s)

end Sys2Proof.Machine
end

