-- ==== Sys2Proof/Machine/RemoteRows.lean ====
section
/-! DEFINITION. Arrivals at an endpoint and what follows them (R106 to R111, R219 to R223): the meaning of each command of the family. -/

namespace Sys2Proof.Machine

/-- PUT_SHORT (R220). -/
def execPutShort (ip : IntPort) (s : State) : Host.Outcome State Fault Refusal :=
  .next (arrive (fun k => decide (pktOpcode k = 0x01)) ip s)

/-- PUT (R220). -/
def execPut (ip : IntPort) (s : State) : Host.Outcome State Fault Refusal :=
  .next (arrive (fun k => decide (pktOpcode k = 0x21)) ip s)

/-- PUT_SHORT_DURABLE (R223). -/
def execPutShortDurable (ip : IntPort) (s : State) : Host.Outcome State Fault Refusal :=
  .next (arrive (fun k => decide (pktOpcode k = 0x02)) ip s)

/-- PUT_DURABLE (R223). -/
def execPutDurable (ip : IntPort) (s : State) : Host.Outcome State Fault Refusal :=
  .next (arrive (fun k => decide (pktOpcode k = 0x22)) ip s)

/-- GET_REQ (R221). -/
def execGetReq (ip : IntPort) (s : State) : Host.Outcome State Fault Refusal :=
  .next (arrive (fun k => decide (pktOpcode k = 0x03)) ip s)

/-- ATOMIC (R222). -/
def execAtomic (ip : IntPort) (s : State) : Host.Outcome State Fault Refusal :=
  .next (arrive (fun k => decide (pktOpcode k = 0x04)) ip s)

/-- ATOMIC_FETCH (R222). -/
def execAtomicFetch (ip : IntPort) (s : State) : Host.Outcome State Fault Refusal :=
  .next (arrive (fun k => decide (pktOpcode k = 0x05)) ip s)

/-- VP_DIRECT_WRITE (R103). -/
def execVpDirectWrite (ip : IntPort) (s : State) : Host.Outcome State Fault Refusal :=
  .next (arrive (fun k => decide (pktOpcode k = 0x40)) ip s)

/-- NOP (R107). -/
def execNop (ip : IntPort) (s : State) : Host.Outcome State Fault Refusal :=
  .next (arrive (fun k => decide (pktOpcode k = 0x0A)) ip s)

/-- ACK (R108). -/
def execAck (ip : IntPort) (s : State) : Host.Outcome State Fault Refusal :=
  .next (arrive (fun k => decide (pktOpcode k = 0x08)) ip s)

/-- NACK (R110). -/
def execNack (ip : IntPort) (s : State) : Host.Outcome State Fault Refusal :=
  .next (nackArrive ip s)

/-- GET_RESP (R219). -/
def execGetResp (ip : IntPort) (s : State) : Host.Outcome State Fault Refusal :=
  .next (arrive (fun k => decide (pktOpcode k = 0x23)) ip s)

/-- ATOMIC_RESP (R219). -/
def execAtomicResp (ip : IntPort) (s : State) : Host.Outcome State Fault Refusal :=
  .next (arrive (fun k => decide (pktOpcode k = 0x0B)) ip s)

/-- UNLISTED_OPCODE (R104). -/
def execUnlistedOpcode (ip : IntPort) (s : State) : Host.Outcome State Fault Refusal :=
  .next (arrive pktUnlisted ip s)

/-- ACK_COALESCE_TIMEOUT (R108). -/
def execAckCoalesceTimeout (h : HostPort) (ep : Nat) (peer : Nat) (s : State) : Host.Outcome State Fault Refusal :=
  .next (coalesced h (pairNamed ep peer) s)

/-- E2E_TIMEOUT (R106). -/
def execE2eTimeout (h : HostPort) (ep : Nat) (peer : Nat) (pseq : Nat) (s : State) : Host.Outcome State Fault Refusal :=
  .next (portGoesOn h (e2eTimeoutIn h (pairNamed ep peer) pseq s))

/-- REFUSAL_RETRY (R110). -/
def execRefusalRetry (h : HostPort) (ep : Nat) (peer : Nat) (pseq : Nat) (s : State) : Host.Outcome State Fault Refusal :=
  .next (portGoesOn h (refusalRetryIn h (pairNamed ep peer) pseq s))

/-- GET_READ_DONE (R221). -/
def execGetReadDone (h : HostPort) (tag : Nat) (data : Option Bytes) (s : State) : Host.Outcome State Fault Refusal :=
  .next (getReadEnd h tag data s)

/-- ATOMIC_READ_DONE (R222). -/
def execAtomicReadDone (h : HostPort) (tag : Nat) (data : Option Bytes) (s : State) : Host.Outcome State Fault Refusal :=
  .next (atomicReadEnd h tag data s)

/-- FLUSH_DONE (R223). -/
def execFlushDone (h : HostPort) (tag : Nat) (ok : Bool) (s : State) : Host.Outcome State Fault Refusal :=
  .next (flushReadEnd h tag ok s)

end Sys2Proof.Machine
end

