-- ==== Sys2Proof/Machine/ResetRows.lean ====
section
/-! DEFINITION. Resets (R303 to R321): the meaning of each command of the family. -/

namespace Sys2Proof.Machine

/-- PLL_RELEASE (R281). -/
def execPllRelease (pll : Pll) (locked : Bool) (s : State) : Host.Outcome State Fault Refusal :=
  .next (pllReleased pll locked s)

/-- RESET_N_ASSERT (R304). -/
def execResetNAssert (s : State) : Host.Outcome State Fault Refusal :=
  .next (resetPin s)

/-- RESET_N_RELEASE (R304). -/
def execResetNRelease (s : State) : Host.Outcome State Fault Refusal :=
  .next (s.modRst (fun r => { r with resetN := false }))

/-- RST_CMD_C (R306). A write of RST_CMD. -/
def execRstCmdC (mid : Mid) (v : Word) (s : State) : Host.Outcome State Fault Refusal :=
  .next (writeReg mid (regAddr .RST_CMD 0 0) v s)

/-- RST_CMD_T (R306). A write of RST_CMD. -/
def execRstCmdT (mid : Mid) (v : Word) (s : State) : Host.Outcome State Fault Refusal :=
  .next (writeReg mid (regAddr .RST_CMD 0 0) v s)

/-- RST_CMD_F (R306). A write of RST_CMD. -/
def execRstCmdF (mid : Mid) (v : Word) (s : State) : Host.Outcome State Fault Refusal :=
  .next (writeReg mid (regAddr .RST_CMD 0 0) v s)

/-- RST_CMD_L (R306). A write of RST_CMD. -/
def execRstCmdL (mid : Mid) (v : Word) (s : State) : Host.Outcome State Fault Refusal :=
  .next (writeReg mid (regAddr .RST_CMD 0 0) v s)

/-- RESET_TAKE_HOLD (R311). -/
def execResetTakeHold (s : State) : Host.Outcome State Fault Refusal :=
  .next (takeHold s)

/-- C_RESET_RELEASE (R311). -/
def execCResetRelease (s : State) : Host.Outcome State Fault Refusal :=
  .next (releaseC s)

/-- SRAM_CLEAR_DONE (R311). -/
def execSramClearDone (s : State) : Host.Outcome State Fault Refusal :=
  .next (sramCleared s)

/-- SRAM_TEST_DONE (R310). -/
def execSramTestDone (ok : Bool) (s : State) : Host.Outcome State Fault Refusal :=
  .next (sramTested ok s)

/-- T_RESET_RELEASE (R312). -/
def execTResetRelease (s : State) : Host.Outcome State Fault Refusal :=
  .next (releaseT s)

/-- L_RESET_RELEASE (R313). -/
def execLResetRelease (p : NetPort) (s : State) : Host.Outcome State Fault Refusal :=
  .next (laneRestart p s)

/-- WATCHDOG_EXPIRY (R317). -/
def execWatchdogExpiry (s : State) : Host.Outcome State Fault Refusal :=
  .next (wdogExpire s)

/-- KICK (R317). A write of RST_WDOG. -/
def execKick (mid : Mid) (v : Word) (s : State) : Host.Outcome State Fault Refusal :=
  .next (writeReg mid (regAddr .RST_WDOG 0 0) v s)

end Sys2Proof.Machine
end

