-- ==== Sys2Proof/Machine/RouterRows.lean ====
section
/-! DEFINITION. The router (R114 to R142): the meaning of each command of the family. -/

namespace Sys2Proof.Machine

/-- ALLOCATOR_CYCLE (R125): one CORE_CLK cycle of the chip, with the in-band agent's (R112) and the engines' idle slots (R356). -/
def execAllocatorCycle (s : State) : Host.Outcome State Fault Refusal :=
  .next (engineSlots (agentCycle (coreCycle s)))

/-- DWELL_DISCARD (R129). -/
def execDwellDiscard (x : XbarPort) (s : State) : Host.Outcome State Fault Refusal :=
  .next (dwellEvent x s)

/-- AGE_DISCARD (R130). -/
def execAgeDiscard (x : XbarPort) (s : State) : Host.Outcome State Fault Refusal :=
  .next (ageEvent x s)

/-- EJECT_WAIT_BOUNCE (R23). -/
def execEjectWaitBounce (ip : IntPort) (s : State) : Host.Outcome State Fault Refusal :=
  .next (bounce ip s)

/-- TABLE_WRITE (R119). A write of RTR_TBL_CTL. -/
def execTableWrite (mid : Mid) (v : Word) (s : State) : Host.Outcome State Fault Refusal :=
  .next (writeReg mid (regAddr .RTR_TBL_CTL 0 0) v s)

/-- TABLE_READ (R138). A write of RTR_TBL_CTL. -/
def execTableRead (mid : Mid) (v : Word) (s : State) : Host.Outcome State Fault Refusal :=
  .next (writeReg mid (regAddr .RTR_TBL_CTL 0 0) v s)

/-- TABLE_WRITE_DONE (R119). -/
def execTableWriteDone (s : State) : Host.Outcome State Fault Refusal :=
  .next (tableDone s)

/-- EPOCH_SET (R141). A write of RTR_EPOCH. -/
def execEpochSet (mid : Mid) (v : Word) (s : State) : Host.Outcome State Fault Refusal :=
  .next (writeReg mid (regAddr .RTR_EPOCH 0 0) v s)

/-- COPY (R142). A write of RTR_EPOCH. -/
def execCopy (mid : Mid) (v : Word) (s : State) : Host.Outcome State Fault Refusal :=
  .next (writeReg mid (regAddr .RTR_EPOCH 0 0) v s)

/-- COPY_DONE (R142). -/
def execCopyDone (s : State) : Host.Outcome State Fault Refusal :=
  .next (copyEnd s)

end Sys2Proof.Machine
end

