-- ==== Sys2Proof/Machine/SharedRows.lean ====
section
/-! DEFINITION. Locks, binding, the agent, JTAG, debug and the management bus (R336 to R349, R374): the meaning of each command of the family. -/

namespace Sys2Proof.Machine

/-- LOCK_ACQUIRE (R337). A read of SEM_LOCK[k]. -/
def execLockAcquire (mid : Mid) (k : Fin 256) (s : State) : Host.Outcome State Fault Refusal :=
  .next (readOut mid (regAddr .SEM_LOCK 0 k.val) s)

/-- RELEASE (R339). A write of SEM_LOCK[k]. -/
def execRelease (mid : Mid) (k : Fin 256) (v : Word) (s : State) : Host.Outcome State Fault Refusal :=
  .next (writeReg mid (regAddr .SEM_LOCK 0 k.val) v s)

/-- FORCE (R339). A write of SEM_LOCK[k]. -/
def execForce (mid : Mid) (k : Fin 256) (v : Word) (s : State) : Host.Outcome State Fault Refusal :=
  .next (writeReg mid (regAddr .SEM_LOCK 0 k.val) v s)

/-- BIND_STATE_WRITE (R343). A write of AON_BIND. -/
def execBindStateWrite (mid : Mid) (v : Word) (s : State) : Host.Outcome State Fault Refusal :=
  .next (writeReg mid (regAddr .AON_BIND 0 0) v s)

/-- BINDING_PORT_RESET (R343). -/
def execBindingPortReset (s : State) : Host.Outcome State Fault Refusal :=
  .next (bindPorts s)

/-- MGMT_READ (R344). -/
def execMgmtRead (ip : IntPort) (s : State) : Host.Outcome State Fault Refusal :=
  .next (mgmtArrive false ip s)

/-- MGMT_WRITE (R344). -/
def execMgmtWrite (ip : IntPort) (s : State) : Host.Outcome State Fault Refusal :=
  .next (mgmtArrive true ip s)

/-- EXTEST (R345). -/
def execExtest (s : State) : Host.Outcome State Fault Refusal :=
  .next (jtagLoad .extest s)

/-- IDCODE (R345). -/
def execIdcode (s : State) : Host.Outcome State Fault Refusal :=
  .next (jtagLoad .idcode s)

/-- SAMPLE_PRELOAD (R345). -/
def execSamplePreload (s : State) : Host.Outcome State Fault Refusal :=
  .next (jtagSample s)

/-- CLAMP (R345). -/
def execClamp (s : State) : Host.Outcome State Fault Refusal :=
  .next (jtagLoad .clamp s)

/-- HIGHZ (R345). -/
def execHighz (s : State) : Host.Outcome State Fault Refusal :=
  .next (jtagLoad .highz s)

/-- REG_ACCESS (R346). -/
def execRegAccess (dr : BitVec 92) (s : State) : Host.Outcome State Fault Refusal :=
  .next (jtagAccess dr s)

/-- SCAN (R345). -/
def execScan (s : State) : Host.Outcome State Fault Refusal :=
  .next (jtagScan s)

/-- BYPASS (R345). -/
def execBypass (s : State) : Host.Outcome State Fault Refusal :=
  .next (jtagLoad .bypass s)

/-- TEST_LOGIC_RESET (R319). -/
def execTestLogicReset (s : State) : Host.Outcome State Fault Refusal :=
  .next (jtagTlr s)

/-- DEBUG_LEVEL_WRITE (R347). A write of DBG_LEVEL. -/
def execDebugLevelWrite (mid : Mid) (v : Word) (s : State) : Host.Outcome State Fault Refusal :=
  .next (writeReg mid (regAddr .DBG_LEVEL 0 0) v s)

/-- DBG_MEM_READ (R347). A read of DBG_MEM_DATA. -/
def execDbgMemRead (mid : Mid) (s : State) : Host.Outcome State Fault Refusal :=
  .next (readOut mid (regAddr .DBG_MEM_DATA 0 0) s)

/-- DBG_MEM_WRITE (R347). A write of DBG_MEM_DATA. -/
def execDbgMemWrite (mid : Mid) (v : Word) (s : State) : Host.Outcome State Fault Refusal :=
  .next (writeReg mid (regAddr .DBG_MEM_DATA 0 0) v s)

/-- DBG_HALT (R348). A write of DBG_HALT. -/
def execDbgHalt (mid : Mid) (v : Word) (s : State) : Host.Outcome State Fault Refusal :=
  .next (writeReg mid (regAddr .DBG_HALT 0 0) v s)

/-- STEP (R348). A write of DBG_HALT. -/
def execStep (mid : Mid) (v : Word) (s : State) : Host.Outcome State Fault Refusal :=
  .next (writeReg mid (regAddr .DBG_HALT 0 0) v s)

/-- OFFSET (R374). -/
def execOffset (bytes : Bytes) (s : State) : Host.Outcome State Fault Refusal :=
  .next (smbRun (smbOffset bytes) s)

/-- SMB_WRITE (R374). -/
def execSmbWrite (bytes : Bytes) (s : State) : Host.Outcome State Fault Refusal :=
  .next (smbRun (smbWriteGo bytes) s)

/-- SMB_READ (R374). -/
def execSmbRead (s : State) : Host.Outcome State Fault Refusal :=
  .next (smbRun smbReadGo s)

/-- AUTO (R374). -/
def execAuto (b : Byte) (s : State) : Host.Outcome State Fault Refusal :=
  .next (smbRun (smbAuto b) s)

/-- LAST (R374). -/
def execLast (s : State) : Host.Outcome State Fault Refusal :=
  .next (smbRun smbLast s)

/-- SMBUS_TIMEOUT (R374). -/
def execSmbusTimeout (s : State) : Host.Outcome State Fault Refusal :=
  .next (smbTimeout s)

end Sys2Proof.Machine
end

