-- ==== Sys2Proof/Machine/TimeRows.lean ====
section
/-! DEFINITION. Fabric time (R281 to R288): the meaning of each command of the family. -/

namespace Sys2Proof.Machine

/-- TEX_SEND (R285). -/
def execTexSend (p : NetPort) (s : State) : Host.Outcome State Fault Refusal :=
  .next (texSendGo p s)

/-- TEX_RECEIVED (R285). -/
def execTexReceived (p : NetPort) (set : Bytes) (s : State) : Host.Outcome State Fault Refusal :=
  .next (texIn p set s)

/-- TIM_SET (R302). A write of TIM_SET. -/
def execTimSet (mid : Mid) (v : Word) (s : State) : Host.Outcome State Fault Refusal :=
  .next (writeReg mid (regAddr .TIM_SET 0 0) v s)

/-- SLOW32_TICK (R283). -/
def execSlow32Tick (s : State) : Host.Outcome State Fault Refusal :=
  .next (slowTick s)

end Sys2Proof.Machine
end

