-- ==== Sys2Proof/Machine/XltRows.lean ====
section
/-! DEFINITION. Translation, page requests, records and pairs (R194, R213, R214, R225): the meaning of each command of the family. -/

namespace Sys2Proof.Machine

/-- WALK_READ_DONE (R194). -/
def execWalkReadDone (h : HostPort) (tag : Nat) (data : Option Bytes) (s : State) : Host.Outcome State Fault Refusal :=
  .next (tagFreed h (walkDoneIn h tag data s))

/-- PAGE_REQUEST_RESPONSE (R225). -/
def execPageRequestResponse (h : HostPort) (tag : Nat) (ok : Bool) (s : State) : Host.Outcome State Fault Refusal :=
  .next (pageAnswer h tag ok s)

/-- PAGE_REQUEST_TIMEOUT (R225). -/
def execPageRequestTimeout (h : HostPort) (tag : Nat) (s : State) : Host.Outcome State Fault Refusal :=
  .next (pageFail h tag s)

/-- FAIL_HOLD_EXPIRY (R225). -/
def execFailHoldExpiry (h : HostPort) (tag : Nat) (s : State) : Host.Outcome State Fault Refusal :=
  .next (failHoldEnds h tag s)

/-- FETCH_DONE (R213). -/
def execFetchDone (h : HostPort) (tag : Nat) (ok : Bool) (s : State) : Host.Outcome State Fault Refusal :=
  .next (tagFreed h (fetchDoneIn h tag ok s))

/-- PAIR_RESET (R214). A write of EPC_PAIR_RESET. -/
def execPairReset (mid : Mid) (h : HostPort) (v : Word) (s : State) : Host.Outcome State Fault Refusal :=
  .next (writeReg mid (regAddr .EPC_PAIR_RESET h.val 0) v s)

/-- PAIR_RESET_DONE (R214). -/
def execPairResetDone (h : HostPort) (s : State) : Host.Outcome State Fault Refusal :=
  .next (portGoesOn h (pairResetEnd h s))

/-- PAIR_QUIET_EXPIRY (R214). -/
def execPairQuietExpiry (h : HostPort) (ep : Nat) (peer : Nat) (s : State) : Host.Outcome State Fault Refusal :=
  .next (quietOver h (pairNamed ep peer) s)

end Sys2Proof.Machine
end

