-- ==== Sys2Proof/Machine/Dispatch.lean ====
section
/-! DEFINITION. One arm per command: exec is the command's effect on everything but the queue. -/

namespace Sys2Proof.Machine

/-- The effect of a command. -/
def exec (i : Instr) (s : State) : Host.Outcome State Fault Refusal :=
  match i with
  | .registerWrite mid off v => Sys2Proof.Machine.execRegisterWrite mid off v s
  | .registerWrite32bit mid off bytes => Sys2Proof.Machine.execRegisterWrite32bit mid off bytes s
  | .registerReadClear mid off len => Sys2Proof.Machine.execRegisterReadClear mid off len s
  | .progWrite mid v => Sys2Proof.Machine.execProgWrite mid v s
  | .progRead mid v => Sys2Proof.Machine.execProgRead mid v s
  | .progPulseDone => Sys2Proof.Machine.execProgPulseDone s
  | .calUnlock mid v => Sys2Proof.Machine.execCalUnlock mid v s
  | .go mid v => Sys2Proof.Machine.execGo mid v s
  | .activateCheckDone img => Sys2Proof.Machine.execActivateCheckDone img s
  | .confirm mid v => Sys2Proof.Machine.execConfirm mid v s
  | .imageLoadStart => Sys2Proof.Machine.execImageLoadStart s
  | .imageHeaderCheck => Sys2Proof.Machine.execImageHeaderCheck s
  | .imageStreamDone img => Sys2Proof.Machine.execImageStreamDone img s
  | .imageCommit => Sys2Proof.Machine.execImageCommit s
  | .partnerClockCheck p khz => Sys2Proof.Machine.execPartnerClockCheck p khz s
  | .trainingComplete p res => Sys2Proof.Machine.execTrainingComplete p res s
  | .trainingFail p cause => Sys2Proof.Machine.execTrainingFail p cause s
  | .retryIdleExpiry p => Sys2Proof.Machine.execRetryIdleExpiry p s
  | .modulePresenceChange g absent => Sys2Proof.Machine.execModulePresenceChange g absent s
  | .widthChange p => Sys2Proof.Machine.execWidthChange p s
  | .wchReceived p votes => Sys2Proof.Machine.execWchReceived p votes s
  | .laneSleep p => Sys2Proof.Machine.execLaneSleep p s
  | .slpReceived p => Sys2Proof.Machine.execSlpReceived p s
  | .wakeRequest p => Sys2Proof.Machine.execWakeRequest p s
  | .wakReceived p count => Sys2Proof.Machine.execWakReceived p count s
  | .lcLoss p => Sys2Proof.Machine.execLcLoss p s
  | .lveReceived p reason => Sys2Proof.Machine.execLveReceived p reason s
  | .tsWhileUp p => Sys2Proof.Machine.execTsWhileUp p s
  | .retrain mid p v => Sys2Proof.Machine.execRetrain mid p v s
  | .prbsSync x => Sys2Proof.Machine.execPrbsSync x s
  | .frameReceived p turned groups tail => Sys2Proof.Machine.execFrameReceived p turned groups tail s
  | .nakRepeat p fseq => Sys2Proof.Machine.execNakRepeat p fseq s
  | .abtReceived p => Sys2Proof.Machine.execAbtReceived p s
  | .cutThroughClose p ok => Sys2Proof.Machine.execCutThroughClose p ok s
  | .ackSetReceived p set => Sys2Proof.Machine.execAckSetReceived p set s
  | .nakSetReceived p set => Sys2Proof.Machine.execNakSetReceived p set s
  | .creditSetReceived p set => Sys2Proof.Machine.execCreditSetReceived p set s
  | .replayTimeout p => Sys2Proof.Machine.execReplayTimeout p s
  | .creditRefresh p => Sys2Proof.Machine.execCreditRefresh p s
  | .errorWindowExpiry p => Sys2Proof.Machine.execErrorWindowExpiry p s
  | .errorWindowLimit p => Sys2Proof.Machine.execErrorWindowLimit p s
  | .initFrameSend p => Sys2Proof.Machine.execInitFrameSend p s
  | .initFrameReceived p frame => Sys2Proof.Machine.execInitFrameReceived p frame s
  | .initTimeout p => Sys2Proof.Machine.execInitTimeout p s
  | .admissionCheck p => Sys2Proof.Machine.execAdmissionCheck p s
  | .readmit mid p v => Sys2Proof.Machine.execReadmit mid p v s
  | .allocatorCycle => Sys2Proof.Machine.execAllocatorCycle s
  | .dwellDiscard x => Sys2Proof.Machine.execDwellDiscard x s
  | .ageDiscard x => Sys2Proof.Machine.execAgeDiscard x s
  | .ejectWaitBounce ip => Sys2Proof.Machine.execEjectWaitBounce ip s
  | .tableWrite mid v => Sys2Proof.Machine.execTableWrite mid v s
  | .tableRead mid v => Sys2Proof.Machine.execTableRead mid v s
  | .tableWriteDone => Sys2Proof.Machine.execTableWriteDone s
  | .epochSet mid v => Sys2Proof.Machine.execEpochSet mid v s
  | .copy mid v => Sys2Proof.Machine.execCopy mid v s
  | .copyDone => Sys2Proof.Machine.execCopyDone s
  | .indexDoorbell h wq v => Sys2Proof.Machine.execIndexDoorbell h wq v s
  | .inlineDoorbell h wq desc => Sys2Proof.Machine.execInlineDoorbell h wq desc s
  | .dbBad h off size => Sys2Proof.Machine.execDbBad h off size s
  | .adminEnable mid h v => Sys2Proof.Machine.execAdminEnable mid h v s
  | .adminDoorbell mid h v => Sys2Proof.Machine.execAdminDoorbell mid h v s
  | .adminCommandReadDone h data => Sys2Proof.Machine.execAdminCommandReadDone h data s
  | .createWq h => Sys2Proof.Machine.execCreateWq h s
  | .destroyWq h => Sys2Proof.Machine.execDestroyWq h s
  | .destroyWqDone h wq => Sys2Proof.Machine.execDestroyWqDone h wq s
  | .createEq h => Sys2Proof.Machine.execCreateEq h s
  | .destroyEq h => Sys2Proof.Machine.execDestroyEq h s
  | .createPd h => Sys2Proof.Machine.execCreatePd h s
  | .destroyPd h => Sys2Proof.Machine.execDestroyPd h s
  | .createEp h => Sys2Proof.Machine.execCreateEp h s
  | .destroyEp h => Sys2Proof.Machine.execDestroyEp h s
  | .destroyEpDone h ep => Sys2Proof.Machine.execDestroyEpDone h ep s
  | .openWindow h => Sys2Proof.Machine.execOpenWindow h s
  | .revokeWindow h => Sys2Proof.Machine.execRevokeWindow h s
  | .revokeDone h win => Sys2Proof.Machine.execRevokeDone h win s
  | .invalidate h => Sys2Proof.Machine.execInvalidate h s
  | .xltInvGo mid h v => Sys2Proof.Machine.execXltInvGo mid h v s
  | .invalidateDone h path => Sys2Proof.Machine.execInvalidateDone h path s
  | .setShaper h => Sys2Proof.Machine.execSetShaper h s
  | .armGroup h => Sys2Proof.Machine.execArmGroup h s
  | .treeDescriptorReadDone h data => Sys2Proof.Machine.execTreeDescriptorReadDone h data s
  | .disarmGroup h => Sys2Proof.Machine.execDisarmGroup h s
  | .disarmDone group => Sys2Proof.Machine.execDisarmDone group s
  | .adminNop h => Sys2Proof.Machine.execAdminNop h s
  | .descriptorFetch h wq => Sys2Proof.Machine.execDescriptorFetch h wq s
  | .descriptorFetchDone h wq data => Sys2Proof.Machine.execDescriptorFetchDone h wq data s
  | .phaseReread h wq => Sys2Proof.Machine.execPhaseReread h wq s
  | .operationStart h wq => Sys2Proof.Machine.execOperationStart h wq s
  | .putDescriptor h wq idx => Sys2Proof.Machine.execPutDescriptor h wq idx s
  | .putDurableDescriptor h wq idx => Sys2Proof.Machine.execPutDurableDescriptor h wq idx s
  | .get h wq idx => Sys2Proof.Machine.execGet h wq idx s
  | .atomicDescriptor h wq idx => Sys2Proof.Machine.execAtomicDescriptor h wq idx s
  | .atomicFetchDescriptor h wq idx => Sys2Proof.Machine.execAtomicFetchDescriptor h wq idx s
  | .send h wq idx => Sys2Proof.Machine.execSend h wq idx s
  | .recv h wq idx => Sys2Proof.Machine.execRecv h wq idx s
  | .vpWrite h wq idx => Sys2Proof.Machine.execVpWrite h wq idx s
  | .collective h wq idx => Sys2Proof.Machine.execCollective h wq idx s
  | .nopDescriptor h wq idx => Sys2Proof.Machine.execNopDescriptor h wq idx s
  | .localReadDone h tag data => Sys2Proof.Machine.execLocalReadDone h tag data s
  | .headIndexWrite h wq => Sys2Proof.Machine.execHeadIndexWrite h wq s
  | .hostRequestTimeout h tag => Sys2Proof.Machine.execHostRequestTimeout h tag s
  | .functionLevelReset h => Sys2Proof.Machine.execFunctionLevelReset h s
  | .perstAssert h => Sys2Proof.Machine.execPerstAssert h s
  | .perstRelease h => Sys2Proof.Machine.execPerstRelease h s
  | .functionResetDone h => Sys2Proof.Machine.execFunctionResetDone h s
  | .hostLinkDown h => Sys2Proof.Machine.execHostLinkDown h s
  | .eqCiUpdate mid h eq v => Sys2Proof.Machine.execEqCiUpdate mid h eq v s
  | .eqArm mid h eq v => Sys2Proof.Machine.execEqArm mid h eq v s
  | .eventWrite h eq => Sys2Proof.Machine.execEventWrite h eq s
  | .stashDrain h eq => Sys2Proof.Machine.execStashDrain h eq s
  | .asyncPendingWrite h => Sys2Proof.Machine.execAsyncPendingWrite h s
  | .walkReadDone h tag data => Sys2Proof.Machine.execWalkReadDone h tag data s
  | .pageRequestResponse h tag ok => Sys2Proof.Machine.execPageRequestResponse h tag ok s
  | .pageRequestTimeout h tag => Sys2Proof.Machine.execPageRequestTimeout h tag s
  | .failHoldExpiry h tag => Sys2Proof.Machine.execFailHoldExpiry h tag s
  | .fetchDone h tag ok => Sys2Proof.Machine.execFetchDone h tag ok s
  | .pairReset mid h v => Sys2Proof.Machine.execPairReset mid h v s
  | .pairResetDone h => Sys2Proof.Machine.execPairResetDone h s
  | .pairQuietExpiry h ep peer => Sys2Proof.Machine.execPairQuietExpiry h ep peer s
  | .putShort ip => Sys2Proof.Machine.execPutShort ip s
  | .put ip => Sys2Proof.Machine.execPut ip s
  | .putShortDurable ip => Sys2Proof.Machine.execPutShortDurable ip s
  | .putDurable ip => Sys2Proof.Machine.execPutDurable ip s
  | .getReq ip => Sys2Proof.Machine.execGetReq ip s
  | .atomic ip => Sys2Proof.Machine.execAtomic ip s
  | .atomicFetch ip => Sys2Proof.Machine.execAtomicFetch ip s
  | .vpDirectWrite ip => Sys2Proof.Machine.execVpDirectWrite ip s
  | .msgShort ip => Sys2Proof.Machine.execMsgShort ip s
  | .msgEager ip => Sys2Proof.Machine.execMsgEager ip s
  | .rndvReq ip => Sys2Proof.Machine.execRndvReq ip s
  | .nop ip => Sys2Proof.Machine.execNop ip s
  | .ack ip => Sys2Proof.Machine.execAck ip s
  | .nack ip => Sys2Proof.Machine.execNack ip s
  | .getResp ip => Sys2Proof.Machine.execGetResp ip s
  | .atomicResp ip => Sys2Proof.Machine.execAtomicResp ip s
  | .ackCoalesceTimeout h ep peer => Sys2Proof.Machine.execAckCoalesceTimeout h ep peer s
  | .e2eTimeout h ep peer pseq => Sys2Proof.Machine.execE2eTimeout h ep peer pseq s
  | .refusalRetry h ep peer pseq => Sys2Proof.Machine.execRefusalRetry h ep peer pseq s
  | .getReadDone h tag data => Sys2Proof.Machine.execGetReadDone h tag data s
  | .atomicReadDone h tag data => Sys2Proof.Machine.execAtomicReadDone h tag data s
  | .flushDone h tag ok => Sys2Proof.Machine.execFlushDone h tag ok s
  | .matchRecordReadDone h tag ok => Sys2Proof.Machine.execMatchRecordReadDone h tag ok s
  | .kennelBlockReadDone h tag ok => Sys2Proof.Machine.execKennelBlockReadDone h tag ok s
  | .dataSlotReadDone h tag data => Sys2Proof.Machine.execDataSlotReadDone h tag data s
  | .autoGetStart h => Sys2Proof.Machine.execAutoGetStart h s
  | .col ip => Sys2Proof.Machine.execCol ip s
  | .colData ip => Sys2Proof.Machine.execColData ip s
  | .colRetransmit group slot edge => Sys2Proof.Machine.execColRetransmit group slot edge s
  | .armWaitExpiry group edge => Sys2Proof.Machine.execArmWaitExpiry group edge s
  | .leashRefill h => Sys2Proof.Machine.execLeashRefill h s
  | .sampleTick h => Sys2Proof.Machine.execSampleTick h s
  | .ccPairQuery mid h v => Sys2Proof.Machine.execCcPairQuery mid h v s
  | .ccPairQueryDone h => Sys2Proof.Machine.execCcPairQueryDone h s
  | .pllRelease pll locked => Sys2Proof.Machine.execPllRelease pll locked s
  | .refclkLoss => Sys2Proof.Machine.execRefclkLoss s
  | .texSend p => Sys2Proof.Machine.execTexSend p s
  | .texReceived p set => Sys2Proof.Machine.execTexReceived p set s
  | .timSet mid v => Sys2Proof.Machine.execTimSet mid v s
  | .slow32Tick => Sys2Proof.Machine.execSlow32Tick s
  | .vddAonLow => Sys2Proof.Machine.execVddAonLow s
  | .vddAonRise => Sys2Proof.Machine.execVddAonRise s
  | .pResetRelease => Sys2Proof.Machine.execPResetRelease s
  | .supplyCoreLow => Sys2Proof.Machine.execSupplyCoreLow s
  | .pwrgdFall => Sys2Proof.Machine.execPwrgdFall s
  | .pwrgdRise => Sys2Proof.Machine.execPwrgdRise s
  | .powerFail => Sys2Proof.Machine.execPowerFail s
  | .pfwDeassert => Sys2Proof.Machine.execPfwDeassert s
  | .saveWindowExpiry => Sys2Proof.Machine.execSaveWindowExpiry s
  | .tempSample t => Sys2Proof.Machine.execTempSample t s
  | .requestActive mid v => Sys2Proof.Machine.execRequestActive mid v s
  | .requestDoze mid v => Sys2Proof.Machine.execRequestDoze mid v s
  | .requestStandby mid v => Sys2Proof.Machine.execRequestStandby mid v s
  | .requestSleep mid v => Sys2Proof.Machine.execRequestSleep mid v s
  | .powerEntryDone => Sys2Proof.Machine.execPowerEntryDone s
  | .autoDoze => Sys2Proof.Machine.execAutoDoze s
  | .nicReady => Sys2Proof.Machine.execNicReady s
  | .wakeN => Sys2Proof.Machine.execWakeN s
  | .aonTimer => Sys2Proof.Machine.execAonTimer s
  | .whistle => Sys2Proof.Machine.execWhistle s
  | .whistleIdle => Sys2Proof.Machine.execWhistleIdle s
  | .wakeExitDone => Sys2Proof.Machine.execWakeExitDone s
  | .rsramDataAccess mid write => Sys2Proof.Machine.execRsramDataAccess mid write s
  | .resetNAssert => Sys2Proof.Machine.execResetNAssert s
  | .resetNRelease => Sys2Proof.Machine.execResetNRelease s
  | .rstCmdC mid v => Sys2Proof.Machine.execRstCmdC mid v s
  | .rstCmdT mid v => Sys2Proof.Machine.execRstCmdT mid v s
  | .rstCmdF mid v => Sys2Proof.Machine.execRstCmdF mid v s
  | .rstCmdL mid v => Sys2Proof.Machine.execRstCmdL mid v s
  | .resetTakeHold => Sys2Proof.Machine.execResetTakeHold s
  | .cResetRelease => Sys2Proof.Machine.execCResetRelease s
  | .sramClearDone => Sys2Proof.Machine.execSramClearDone s
  | .sramTestDone ok => Sys2Proof.Machine.execSramTestDone ok s
  | .tResetRelease => Sys2Proof.Machine.execTResetRelease s
  | .lResetRelease p => Sys2Proof.Machine.execLResetRelease p s
  | .watchdogExpiry => Sys2Proof.Machine.execWatchdogExpiry s
  | .kick mid v => Sys2Proof.Machine.execKick mid v s
  | .faultSourceRise src mid access addr tgt => Sys2Proof.Machine.execFaultSourceRise src mid access addr tgt s
  | .escalation => Sys2Proof.Machine.execEscalation s
  | .fltInject mid v => Sys2Proof.Machine.execFltInject mid v s
  | .alertResponse => Sys2Proof.Machine.execAlertResponse s
  | .lockAcquire mid k => Sys2Proof.Machine.execLockAcquire mid k s
  | .release mid k v => Sys2Proof.Machine.execRelease mid k v s
  | .force mid k v => Sys2Proof.Machine.execForce mid k v s
  | .bindStateWrite mid v => Sys2Proof.Machine.execBindStateWrite mid v s
  | .bindingPortReset => Sys2Proof.Machine.execBindingPortReset s
  | .mgmtRead ip => Sys2Proof.Machine.execMgmtRead ip s
  | .mgmtWrite ip => Sys2Proof.Machine.execMgmtWrite ip s
  | .extest => Sys2Proof.Machine.execExtest s
  | .idcode => Sys2Proof.Machine.execIdcode s
  | .samplePreload => Sys2Proof.Machine.execSamplePreload s
  | .clamp => Sys2Proof.Machine.execClamp s
  | .highz => Sys2Proof.Machine.execHighz s
  | .regAccess dr => Sys2Proof.Machine.execRegAccess dr s
  | .scan => Sys2Proof.Machine.execScan s
  | .bypass => Sys2Proof.Machine.execBypass s
  | .testLogicReset => Sys2Proof.Machine.execTestLogicReset s
  | .debugLevelWrite mid v => Sys2Proof.Machine.execDebugLevelWrite mid v s
  | .dbgMemRead mid => Sys2Proof.Machine.execDbgMemRead mid s
  | .dbgMemWrite mid v => Sys2Proof.Machine.execDbgMemWrite mid v s
  | .dbgHalt mid v => Sys2Proof.Machine.execDbgHalt mid v s
  | .step mid v => Sys2Proof.Machine.execStep mid v s
  | .offset bytes => Sys2Proof.Machine.execOffset bytes s
  | .smbWrite bytes => Sys2Proof.Machine.execSmbWrite bytes s
  | .smbRead => Sys2Proof.Machine.execSmbRead s
  | .auto b => Sys2Proof.Machine.execAuto b s
  | .last => Sys2Proof.Machine.execLast s
  | .smbusTimeout => Sys2Proof.Machine.execSmbusTimeout s
  | .clear mid unit v => Sys2Proof.Machine.execClear mid unit v s
  | .snapshot mid v => Sys2Proof.Machine.execSnapshot mid v s
  | .captureEnable mid v => Sys2Proof.Machine.execCaptureEnable mid v s
  | .capCiWrite mid v => Sys2Proof.Machine.execCapCiWrite mid v s
  | .telemetryFlush => Sys2Proof.Machine.execTelemetryFlush s
  | .telemetry ip => Sys2Proof.Machine.execTelemetry ip s
  | .codeErrorOutsideFrame p e => Sys2Proof.Machine.execCodeErrorOutsideFrame p e s
  | .errorFreeIdlSets p n => Sys2Proof.Machine.execErrorFreeIdlSets p n s
  | .prbsByteError p bytes => Sys2Proof.Machine.execPrbsByteError p bytes s
  | .errorLineFall src => Sys2Proof.Machine.execErrorLineFall src s
  | .leaveHold mid p v => Sys2Proof.Machine.execLeaveHold mid p v s
  | .unlistedOpcode ip => Sys2Proof.Machine.execUnlistedOpcode ip s
  | .hostLinkTrained h width rate flit => Sys2Proof.Machine.execHostLinkTrained h width rate flit s
  | .configurationRequest h req => Sys2Proof.Machine.execConfigurationRequest h req s

end Sys2Proof.Machine
end

