-- ==== Sys2Proof/Safety.lean ====
section
/-! DEFINITION. What counts as a safe state and as a safe step of the DX64, in the terms the statements use. -/

namespace Sys2Proof.Machine

/-- A tuple of the parts that traffic leaves alone. -/
def stillOf (a : ImplParams) (b : Option ImageDesc) (c : CfgState) (d : TimState) (e : RstState) (f : Vector Lock 256)
    (g : JtagState) (h : SmbState) (i : Tbl Word) (j : BitVec 8) (k : Nat) (l : List Instr) (m : Memory) :
    ImplParams × Option ImageDesc × CfgState × TimState × RstState × Vector Lock 256 × JtagState × SmbState × Tbl Word × BitVec 8 ×
      Nat × List Instr × Memory :=
  (a, b, c, d, e, f, g, h, i, j, k, l, m)

/-- What packets, links, queues, events and faults never change: the part's fixed parameters, the committed image, the whole
configuration block (store and slot control records included), fabric time, the resets, the locks, the TAP, the management-bus
target, the words of the general SRAM, the module pins, the model's clock, the queue of waiting commands and the retention SRAM. -/
def State.still (s : State) : ImplParams × Option ImageDesc × CfgState × TimState × RstState × Vector Lock 256 × JtagState ×
    SmbState × Tbl Word × BitVec 8 × Nat × List Instr × Memory :=
  stillOf s.impl s.image s.cfg s.tim s.rst s.locks s.jtag s.smb s.sram s.modprs s.clock s.pending s.pwr.rsram

/-- A tuple of the parts that only a store command, a retention-SRAM access or the loss of VDD_AON changes. -/
def keptOf (a : ImplParams) (b : List Instr) (c : Memory) (d : Option ProgOp) (e : Memory) :
    ImplParams × List Instr × Memory × Option ProgOp × Memory := (a, b, c, d, e)

/-- The fixed parameters, the queue of waiting commands, the configuration store, its command in progress and the retention
SRAM. -/
def State.kept (s : State) : ImplParams × List Instr × Memory × Option ProgOp × Memory :=
  keptOf s.impl s.pending s.cfg.store s.cfg.prog s.pwr.rsram

/-- A store command in progress stays within the 4 MiB store and writes one block of 64 bytes (R27, R39). -/
def ProgOp.inStore : ProgOp → Bool
  | .write addr data _ => decide (addr + 64 ≤ 0x400000) && decide (data.length = 64)
  | .read addr _ => decide (addr + 64 ≤ 0x400000)

/-- The memories are in order: the configuration store of 4 MiB (R27) and the retention SRAM of 256 KiB (R289) are in their
canonical form, and a store command in progress stays within the store. -/
def State.memoriesOk (s : State) : Bool :=
  Memory.wf 0x400000 s.cfg.store && Memory.wf 0x40000 s.pwr.rsram && s.cfg.prog.all ProgOp.inStore

/-- A step is safe: it stops neither by a fault nor by a refusal, and leaves the memories in order. -/
def safeStep (s : State) : Prop := ∃ t, step s = .next t ∧ t.memoriesOk = true

/-- The command answers a next state, and `p` holds of it. -/
def completes (c : Instr) (s : State) (p : State → Prop) : Prop := ∃ t, exec c s = .next t ∧ p t

/-- Every register but those at the addresses listed holds what it held. -/
def regsBut (s t : State) (ks : List Nat) : Prop := ∀ a, a ∉ ks → tblGet a t.regs = tblGet a s.regs

/-- The data of the pending ASYNC entry of a code at a host port (R188). -/
def asyncData (s : State) (h : HostPort) (code : Nat) : Option Word := (tblGet code (s.host h).async).map (·.data)

/-- The commands that may change what stands while traffic runs: the store and the image, fabric time, resets and power, locks
and binding, the TAP and the management-bus target, the module pins, and every register access that may reach one of these. Every
other command acts on packets, links, queues, events, counters and errors alone. -/
def changesStanding : Instr → Bool
  | .registerWrite .. | .registerReadClear .. | .progWrite .. | .progRead .. | .progPulseDone | .calUnlock .. | .go ..
  | .activateCheckDone .. | .confirm .. | .imageLoadStart | .imageHeaderCheck | .imageStreamDone .. | .imageCommit
  | .modulePresenceChange .. | .functionLevelReset .. | .perstAssert .. | .pllRelease .. | .refclkLoss | .texSend ..
  | .texReceived .. | .timSet .. | .slow32Tick | .vddAonLow | .pResetRelease | .pwrgdFall | .pwrgdRise | .saveWindowExpiry
  | .requestActive .. | .requestDoze .. | .requestStandby .. | .requestSleep .. | .powerEntryDone | .wakeExitDone | .allocatorCycle
  | .rsramDataAccess .. | .resetNAssert | .resetNRelease | .rstCmdC .. | .rstCmdT .. | .rstCmdF .. | .rstCmdL ..
  | .resetTakeHold | .cResetRelease | .sramClearDone | .sramTestDone .. | .tResetRelease | .lResetRelease ..
  | .watchdogExpiry | .kick .. | .escalation | .lockAcquire .. | .release .. | .force .. | .bindStateWrite ..
  | .bindingPortReset | .mgmtRead .. | .mgmtWrite .. | .extest | .idcode | .samplePreload | .clamp | .highz | .regAccess ..
  | .scan | .bypass | .testLogicReset | .dbgMemWrite .. | .offset .. | .smbWrite .. | .smbRead | .auto .. | .smbusTimeout => true
  | _ => false

/-- No error source acts as fatal by promotion (R325). -/
def noPromotion (s : State) : Prop := s.fget F.FLT_PROMOTE_PROMOTE = 0

/-- The registers that the report of an event or of an error that is not fatal may change: the overflow records of the event
queues, the source bits and the first-error record (R186, R323, R326). -/
def reportRegs : List Nat :=
  [regAddr .EQ_OVF 0 0, regAddr .EQ_OVF 1 0, regAddr .FLT_STATUS 0 0, regAddr .FLT_FIRST_INFO 0 0, regAddr .FLT_FIRST_ADDR 0 0,
    regAddr .FLT_FIRST_TIME 0 0]

/-- Apart from what reports of events and errors write (pending ASYNC entries, the registers of `reportRegs` and the alert's
acknowledgement), `t` is `s`. -/
def reportOnly (s t : State) : Prop :=
  t = { s with regs := t.regs, flt := { s.flt with alertAck := t.flt.alertAck }, hosts := t.hosts } ∧
    (∀ h, t.host h = { s.host h with async := (t.host h).async }) ∧ regsBut s t reportRegs

end Sys2Proof.Machine
end

