-- ==== Sys2Proof/Terms.lean ====
section
/-! DEFINITION. Further words of the statements: which registers a write reaches by the access codes alone, and the state
around a command in the terms the statements use. -/

namespace Sys2Proof.Machine

/-- A register whose 64-bit write sets its fields by the access codes of R6 and does nothing else: it holds no field of change
class S and none of the registers whose write is a command or has a rule of its own. -/
def plainWritten (r : RegId) : Bool :=
  !holdsStatic r && !([RegId.CFG_PROG_CTL, .CFG_CAL_UNLOCK, .CFG_ACTIVATE, .CFG_WHILE_LIVE, .RST_CMD, .RST_WDOG, .PWR_CTL,
    .AON_TEMP, .AON_RSRAM_DATA, .AON_BIND, .TIM_CTL, .TIM_SET, .FLT_STATUS, .FLT_FIRST_INFO, .FLT_INJECT, .WQ_ADM_CFG, .WQ_ADM_PI,
    .EQ_CI, .EQ_OVF, .XLT_CTL, .XLT_INV_CTL, .XLT_FREC_INFO, .WIN_TABLE, .EPC_KENNEL_CTX, .EPC_KENNEL_PAIR, .EPC_PAIR_RESET,
    .MTE_RREC, .MTE_UXD, .MTE_KENNEL_UX, .MTE_RNDV, .SHP_SAMPLE_SEL, .CC_PAIR_Q, .SEM_LOCK, .PMC_CTL, .PMC_SNAP, .CAP_CTL, .CAP_CI,
    .RTR_EPOCH, .RTR_TBL_CTL, .DBG_LEVEL, .DBG_MEM_DATA, .DBG_HALT, .LNK_CTL, .LNK_ERRWIN, .LAN_CTL] : List RegId).contains r

/-- A register of a network port. -/
def ofPort (r : RegId) : Bool := (regPlace r).block == .lnk || (regPlace r).block == .lan

/-- What a 64-bit write of `new` leaves in a field that held `old` (R6). -/
def writtenField (a : Access) (old new : Nat) : Nat :=
  match a with
  | .rw => new
  | .w1c => old - (old &&& new)
  | .w1s => old ||| new
  | .ro | .rc | .ra | .wo => old

/-- A write that the CFG block takes consumes its writer's unlock, CFG_PROG_DATA excepted (R38, R45). -/
def unlockUsed (mid : Mid) (r : RegId) (s : State) : State :=
  if (regPlace r).block = .cfg ∧ r ≠ .CFG_PROG_DATA then calDisarm mid s else s

/-- The state of a port's lanes apart from the running disparity of what they send, which every set and frame sent turns (R51). -/
def laneFace (l : LaneState) : LaneState := { l with txRd := 0#16 }

/-- The lanes of every port, the running disparity of what they send apart, and the phase of every link. -/
def portFaces (s : State) (q : NetPort) : LaneState × LinkPhase := (laneFace (s.port q).lane, (s.port q).link.phase)

/-- DATA of LINK_UP: bits [23:0] of the first word of the partner's record, its chip and port (R92, R186). -/
def linkUpData (init : Bytes) : Word := BitVec.ofNat 64 (leAt init 0 4 % 2 ^ 24)

/-- DATA of LINK_REFUSED: the reason, and the second word of the partner's record in the upper half (R92, R186). -/
def linkRefusedData (why : Nat) (init : Bytes) : Word := BitVec.ofNat 64 (why + 2 ^ 32 * leAt init 4 4)

/-- The entries of a ring of a LOG_SIZE (R9). -/
def ringSize (log : Nat) : Nat := 2 ^ log

/-- The index a doorbell of a ring carries: bits [16:0], with the wrap bit above the ring's (R9, R158). -/
def bellIndex (log : Nat) (v : Word) : Nat := fieldOf v 16 0 % (2 * 2 ^ log)

/-- The index after one in a ring (R9). -/
def ringNext (log idx : Nat) : Nat := (idx + 1) % (2 * 2 ^ log)

/-- Packet `e` is at the head of an ejection buffer of a NIC that works, and passes its own checks (R98, R104, R110). -/
def headSound (s : State) (ip : IntPort) (e : InPacket) : Prop :=
  s.ints[ip].eject.head? = some e ∧ s.nicWorks = true ∧ pcrcOk e.pkt = true ∧ malformed s e.pkt = false

/-- Packet `e` meets an endpoint of host port `h` that is there, and whose context `c` and pair record `p` are on chip (R208, R211,
R219). -/
def headPaired (s : State) (ip : IntPort) (e : InPacket) (h : HostPort) (c : EpCtx) (p : PairRec) : Prop :=
  headSound s ip e ∧ epPort (pktDstEp e.pkt) = h ∧ s.hostPresent h.val = true ∧ s.hostLive h = true ∧
    tblGet (pktDstEp e.pkt) (s.host h).eps = some c ∧ c.gone = false ∧ c.closing = false ∧ c.lost = false ∧ c.onChip = true ∧
    getPair s h (arrivalKey e.pkt) = some p ∧ p.onChip = true

/-- The time of an arrival's ejection by the model's clock (R15). -/
def arrivedAt (e : InPacket) : Word := BitVec.ofNat 64 e.arrived

/-- The check of an arrival whose context and pair record are on chip marks both as used (R212). -/
def pairSeen (s : State) (h : HostPort) (pkt : Packet) : State :=
  touchUnit (.pair h (arrivalKey pkt)) (touchUnit (.ctx h (pktDstEp pkt)) s)

/-- The NIC has taken packet `e`, with what that did in `t`: its slot counts under `code` (R356), and what waited for room tries again
(R25). -/
def taken (ip : IntPort) (e : InPacket) (code : Nat) (t : State) : State := roomAgain (nicSlot code (takeEject ip e t))

end Sys2Proof.Machine
end

