-- ==== Sys2Proof/Certificates/Slice0/Obligations.lean ====
section
/-! DEFINITION. The statements about the DX64. Each says what commands of one family do, for every state that meets its
hypotheses; the words they use stand in Safety.lean and Terms.lean. -/

open Sys2Proof Sys2Proof.Machine

/-- A step with a command at the front of the queue is exec of that command on the state with the rest of the queue; nothing is
added around it, and the answer is a next state: no command stops the machine.
The model's choices it rests on: log entries 9 and 17. -/
def Obligations.StepRunsFrontCommand : Prop :=
  ∀ (c : Instr) (rest : List Instr) (s : State),
    step { s with pending := c :: rest } = exec c { s with pending := rest } ∧
      ∃ t, exec c { s with pending := rest } = .next t

/-- A step on an empty queue lets a nanosecond pass (the model's choice, log entry 9): only the model's clock, fabric time and the
watchdog move. The watchdog counts down while it is enabled in ACTIVE or DOZE, fabric time runs while REFCLK is present
outside SLEEP (R283, R317), and at a servo rate of 0 it advances by exactly 1. -/
def Obligations.EmptyQueueIdles : Prop :=
  ∀ s : State, s.pending = [] →
    ∃ tim rst, step s = .next { s with clock := s.clock + 1, tim := tim, rst := rst } ∧
      (s.fabricRuns = false → tim = s.tim) ∧
      (s.fabricRuns = true → s.tim.ratePpm = 0 → 0 ≤ s.tim.rateAcc → s.tim.rateAcc < 1000000 →
        tim = { s.tim with now := s.tim.now + 1#64 }) ∧
      (s.wdogRuns = false → rst = s.rst) ∧
      (s.wdogRuns = true → rst = { s.rst with wdogLeft := s.rst.wdogLeft - 1 })

/-- R307, R310, R28, R288, R340, R345: what the model's reset state holds where the spec says it. The blank store, the open straps
and the cleared retention SRAM are the model's choices (log entries 2 to 8) and are not stated. -/
def Obligations.ResetHolds : Prop :=
  let s := State.reset
  s.image = none ∧ s.cfg.state = .notLoading ∧ s.cfg.failA = 0xF ∧ s.cfg.failB = 0xF ∧ s.cfg.prog = none ∧ s.cfg.unlocked = [] ∧
    s.pwr.state = .active ∧ s.pwr.pwrgd = false ∧ s.pwr.coreOn = false ∧ s.rst.phase = .held ∧ s.rst.cHeld = true ∧
    s.rst.coreRel = false ∧ s.rst.hifRel = false ∧
    s.tim.now = 0#64 ∧ s.tim.level = 31 ∧ s.tim.unsync = true ∧ s.flt.lines = 0 ∧ s.flt.muzzle = false ∧
    s.jtag.instr = .idcode ∧ s.smb.offset = 0#24 ∧ s.smb.auto = false ∧
    (∀ k : Fin 256, s.locks[k].held = false ∧ s.locks[k].abandoned = false ∧ s.locks[k].waiter = false) ∧
    (∀ p : NetPort, (s.port p).lane.phase = .off ∧ (s.port p).link.phase = .down) ∧
    (∀ h : HostPort, (s.host h).hif.linkUp = false ∧ (s.host h).wqs = [] ∧ (s.host h).eqs = [] ∧ (s.host h).wins = [] ∧
      (s.host h).eps = [] ∧ (s.host h).pairs = []) ∧
    s.park = [] ∧ s.groups = [] ∧ s.pending = [] ∧ (∀ r i k, s.regWord r i k = resetWord none r i)

/-- The reset state's memories are in order. -/
def Obligations.ResetMemoriesOk : Prop := State.reset.memoriesOk = true

/-- Every step keeps the memories in order: the configuration store and the retention SRAM stay in their canonical form within
their sizes, and a store command in progress stays within the store (R27, R39, R289). -/
def Obligations.StepKeepsMemories : Prop :=
  ∀ s t : State, s.memoriesOk = true → step s = .next t → t.memoriesOk = true

/-- Packets, links, queues, events, counters and errors leave alone what stands while traffic runs: the fixed parameters, the
image, the store and its control records, fabric time, the resets, the locks, the TAP, the management-bus target, the debug words,
the module pins, the clock, the waiting commands and the retention SRAM. A cycle of the core does so too, unless the management agent
serves a request in it (R112). -/
def Obligations.TrafficLeavesStanding : Prop :=
  (∀ (c : Instr) (s : State), changesStanding c = false → completes c s (fun t => t.still = s.still)) ∧
    ∀ s : State, (coreCycle s).agent.length ≤ 1 → completes .allocatorCycle s (fun t => t.still = s.still)

/-- Only the end of a store pulse and the loss of VDD_AON change a byte of the configuration store (R3, R39): whatever else a command
does, every byte reads as before. -/
def Obligations.StoreChangesOnlyAtPulseEnd : Prop :=
  ∀ (c : Instr) (s : State), c ≠ .progPulseDone → c ≠ .vddAonLow →
    completes c s (fun t => ∀ a, ramByte t.cfg.store a = ramByte s.cfg.store a)

/-- R337: a 64-bit read of SEM_LOCK[k] is an acquire. A free lock becomes the reader's, the read returns ACQUIRED 1 and the ABANDONED
mark as it stood, which is then cleared; a lock the reader holds answers ACQUIRED 1 and nothing changes; a lock of another master
answers ACQUIRED 0 with its OWNER and sets WAITER. An aligned 32-bit read acquires nothing. A READ request that the in-band agent
takes up acquires as master 0x02 whatever chip it came from. Locks do not count nesting: one
release by the owner frees the lock. The word goes to the reader and nothing else changes. -/
def Obligations.LockAcquire : Prop :=
  ∀ (s : State) (k : Fin 256), s.svcRuns = true →
    let off := regAddr .SEM_LOCK 0 k.val
    let lock := s.locks[k]
    let acquires (mid : Mid) (locks : Vector Lock 256) (w : Word) : Prop :=
      (lock.held = false → locks = s.locks.set k { lock with held := true, owner := mid, abandoned := false } ∧
        fieldOf w 0 0 = 1 ∧ fieldOf w 2 2 = b2n lock.abandoned) ∧
      (lock.held = true → lock.owner = mid → locks = s.locks ∧ fieldOf w 0 0 = 1 ∧ fieldOf w 15 8 = mid.toNat) ∧
      (lock.held = true → lock.owner ≠ mid → locks = s.locks.set k { lock with waiter := true } ∧
        fieldOf w 0 0 = 0 ∧ fieldOf w 15 8 = lock.owner.toNat)
    (∀ mid : Mid, ∃ locks w, acquires mid locks w ∧
      exec (.lockAcquire mid k) s = .next (({ s with locks := locks } : State).emit (.regRead mid (BitVec.ofNat 24 off) w))) ∧
    (∀ (mid : Mid) (up : Fin 2), ∃ w, exec (.registerReadClear mid (BitVec.ofNat 24 (off + 4 * up.val)) 4) s =
      .next (s.emit (.regRead mid (BitVec.ofNat 24 (off + 4 * up.val)) w))) ∧
    (∀ (ip : IntPort) (e : InPacket) (rest : List InPacket), s.ints[ip].eject = e :: rest → s.agentWorks = true →
      pktOpcode e.pkt = 0x0D → pcrcOk e.pkt = true → pktTc e.pkt = 0 → pktFmt e.pkt = 1 → pktLenOk e.pkt = true →
      pktAt e.pkt 19 1 = 1 → pktAt e.pkt 22 3 = off → s.agent = [] → s.binding = 0 ∨ s.binding = 1 →
      ∃ (u : State) (w : Word), acquires 2#8 u.locks w ∧
        exec (.mgmtRead ip) s = .next (agentAnswer e.pkt 3 0 w (u.emit (.regRead 2#8 (BitVec.ofNat 24 off) w)))) ∧
    (∀ (mid : Mid) (v : Word), lock.held = true → lock.owner = mid → bitOf v 32 = true → bitOf v 33 = false →
      completes (.release mid k v) s (fun t => t.locks[k].held = false))

/-- R339: RELEASE from the owner frees the lock, from any other master it is a register-access error; FORCE with CONFIRM 0xA5 frees
it and marks it abandoned from any master, as a reset of its owner would, with LOCK_ABANDONED; with another CONFIRM it is a
register-access error. A waiter of a freed lock is told: LOCK_RELEASED (0x0A) stands pending at both host ports, with the lock's
number and the mark in DATA, and WAITER is cleared. The read that acquires a free lock shows HELD and OWNER as it leaves them, which
is the model's choice (log entry 33). -/
def Obligations.LockWrites : Prop :=
  ∀ (s : State) (mid : Mid) (k : Fin 256) (v : Word), s.svcRuns = true → noPromotion s →
    let l := s.locks[k]
    let freed (mark : Bool) : State :=
      { s with locks := s.locks.set k { held := false, abandoned := mark, waiter := false, owner := 0#8 } }
    (l.held = false → ∃ locks w, exec (.lockAcquire mid k) s = .next (({ s with locks := locks } : State).emit
      (.regRead mid (BitVec.ofNat 24 (regAddr .SEM_LOCK 0 k.val)) w)) ∧ fieldOf w 1 1 = 1 ∧ fieldOf w 15 8 = mid.toNat) ∧
    (bitOf v 32 = true → bitOf v 33 = false → l.held = true → l.owner = mid →
      completes (.release mid k v) s (fun t => reportOnly (freed l.abandoned) t ∧ (l.waiter = false → t = freed l.abandoned) ∧
        (l.waiter = true → ∀ h, asyncData t h 0x0A = some (BitVec.ofNat 64 (k.val + 256 * b2n l.abandoned))))) ∧
    (bitOf v 32 = true → bitOf v 33 = false → ¬ (l.held = true ∧ l.owner = mid) →
      completes (.release mid k v) s (fun t => reportOnly s t ∧ (t.fget F.FLT_STATUS_SRC).testBit 10 = true)) ∧
    (bitOf v 32 = false → bitOf v 33 = true → fieldOf v 47 40 = 0xA5 →
      completes (.force mid k v) s (fun t => reportOnly (freed true) t ∧ (t.fget F.FLT_STATUS_SRC).testBit 25 = true ∧
        (l.waiter = true → ∀ h, asyncData t h 0x0A = some (BitVec.ofNat 64 (k.val + 256))))) ∧
    (bitOf v 32 = false → bitOf v 33 = true → fieldOf v 47 40 ≠ 0xA5 →
      completes (.force mid k v) s (fun t => reportOnly s t ∧ (t.fget F.FLT_STATUS_SRC).testBit 10 = true))

/-- R343: a write that changes AON_BIND.STATE takes effect at once, with LAST_MID the writer, and makes the L resets of the ports that
are UP due; those take hold as BINDING_PORT_RESET, which takes every UP port down and touches no other port's link state. Writes out
of QUARANTINE by any master but 0x00 and 0x01 (ERR 1), to BOUND at INTRUSIVE (ERR 2) and of the reserved code (ERR 3) are discarded.
Where several of these apply the first is recorded (the model's choice, log entry 16): the clauses here exclude each other. -/
def Obligations.BindingState : Prop :=
  ∀ (s : State) (mid : Mid) (v : Word), s.rst.pHeld = false →
    let code := fieldOf v 1 0
    let cur := s.fget F.AON_BIND_STATE
    let quarantined := cur = 2 ∧ code ≠ 2 ∧ mid ≠ 0#8 ∧ mid ≠ 1#8
    let debugged := code = 1 ∧ s.fget F.DBG_LEVEL_LEVEL = 2
    let bound : State := ((s.fset F.AON_BIND_ERR 0).fset F.AON_BIND_STATE code).fset F.AON_BIND_LAST_MID mid.toNat
    (quarantined → exec (.bindStateWrite mid v) s = .next (s.fset F.AON_BIND_ERR 1)) ∧
    (¬ quarantined → debugged → exec (.bindStateWrite mid v) s = .next (s.fset F.AON_BIND_ERR 2)) ∧
    (¬ quarantined → code = 3 → exec (.bindStateWrite mid v) s = .next (s.fset F.AON_BIND_ERR 3)) ∧
    (¬ quarantined → ¬ debugged → code ≠ 3 → code = cur →
      exec (.bindStateWrite mid v) s = .next (s.fset F.AON_BIND_ERR 0)) ∧
    (¬ quarantined → ¬ debugged → code ≠ 3 → code ≠ cur → (∀ p, (s.port p).link.phase ≠ .up) →
      exec (.bindStateWrite mid v) s = .next bound) ∧
    (¬ quarantined → ¬ debugged → code ≠ 3 → code ≠ cur → (∃ p, (s.port p).link.phase = .up) →
      exec (.bindStateWrite mid v) s = .next { bound with rst := { bound.rst with bindDue := true } })

/-- R345, R318, R347: loading EXTEST, IDCODE, CLAMP, HIGHZ or BYPASS sets the instruction register and nothing else; SAMPLE/PRELOAD
also puts the pin levels into the boundary register; a reset of the TAP returns it to IDCODE. While the chip is BOUND or in SLEEP
the pins keep their function under every instruction; otherwise EXTEST and CLAMP drive them from the boundary register and HIGHZ
releases them. SCAN outside INTRUSIVE acts as BYPASS; at INTRUSIVE it leaves the always-on domain, CFG and fabric time as they are
(what it leaves of the scanned blocks is undefined: log entry 35). -/
def Obligations.TapInstructions : Prop :=
  ∀ s : State, s.pwr.vddAon = true →
    let loads (i : JtagInstr) : State := { s with jtag := { s.jtag with instr := i } }
    exec .extest s = .next (loads .extest) ∧ exec .idcode s = .next (loads .idcode) ∧ exec .clamp s = .next (loads .clamp) ∧
    exec .highz s = .next (loads .highz) ∧ exec .bypass s = .next (loads .bypass) ∧
    exec .samplePreload s = .next { s with
      jtag := { s.jtag with instr := .samplePreload, boundary := some s.pins }, freeCount := s.freeCount + 1 } ∧
    ((∀ k : Fin 256, s.locks[k].held = true → s.locks[k].owner ≠ 1#8) → ¬ (1#8 ∈ s.cfg.unlocked) →
      exec .testLogicReset s = .next (loads .idcode)) ∧
    (s.fget F.AON_BIND_STATE = 1 ∨ s.pwr.state = .sleep → s.pads = s.pins) ∧
    (s.fget F.AON_BIND_STATE ≠ 1 → s.pwr.state ≠ .sleep →
      (∀ b, s.jtag.boundary = some b → s.jtag.instr = .extest ∨ s.jtag.instr = .clamp →
        s.pads = { s.pins with txdis := b.txdis, faultN := b.faultN, alertN := b.alertN, gpio := b.gpio }) ∧
      (s.jtag.instr = .highz → s.pads = { s.pins with txdis := 0xFF#8, faultN := true, alertN := true })) ∧
    (s.svcRuns = false ∨ s.fget F.DBG_LEVEL_LEVEL ≠ 2 → exec .scan s = .next (loads .bypass)) ∧
    (s.svcRuns = true → s.fget F.DBG_LEVEL_LEVEL = 2 →
      completes .scan s (fun t => t.jtag = { s.jtag with instr := .scan } ∧ t.impl = s.impl ∧ t.image = s.image ∧ t.cfg = s.cfg ∧
        t.pwr = s.pwr ∧ t.tim = s.tim ∧ t.rst = s.rst ∧ t.flt = s.flt ∧ t.smb = s.smb ∧ t.modprs = s.modprs ∧ t.out = s.out ∧
        t.pending = s.pending ∧ ∀ a, a < 0x50000 → tblGet a t.regs = tblGet a s.regs))

/-- R347, R348: a write of DBG_LEVEL to INTRUSIVE is taken only outside BOUND and with CONFIRM 0xA5, else ERR says why; lowering the
level is always taken and releases both halts. DBG_MEM is read from OBSERVE up and written at INTRUSIVE only: below, the access is a
register-access error. At INTRUSIVE DBG_HALT sets the halts; STEP with RTR 1 runs the allocator for one cycle.
The model's choices it rests on: log entries 18 and 34. -/
def Obligations.DebugAccess : Prop :=
  ∀ (s : State) (mid : Mid) (v : Word), s.svcRuns = true → noPromotion s →
    let level := fieldOf v 1 0
    let addr := 8 * s.fget F.DBG_MEM_ADDR_ADDR
    let onward (t : State) : State :=
      if s.flag F.DBG_MEM_ADDR_AUTO_INC then t.fset F.DBG_MEM_ADDR_ADDR (s.fget F.DBG_MEM_ADDR_ADDR + 1) else t
    let halted : State := (s.fset F.DBG_HALT_RTR (fieldOf v 0 0)).fset F.DBG_HALT_NIC (fieldOf v 1 1)
    (level = 2 → s.fget F.AON_BIND_STATE = 1 → exec (.debugLevelWrite mid v) s = .next (s.fset F.DBG_LEVEL_ERR 1)) ∧
    (level = 2 → s.fget F.AON_BIND_STATE ≠ 1 → fieldOf v 15 8 ≠ 0xA5 →
      exec (.debugLevelWrite mid v) s = .next (s.fset F.DBG_LEVEL_ERR 2)) ∧
    (level = 2 → s.fget F.AON_BIND_STATE ≠ 1 → fieldOf v 15 8 = 0xA5 →
      exec (.debugLevelWrite mid v) s = .next ((s.fset F.DBG_LEVEL_ERR 0).fset F.DBG_LEVEL_LEVEL 2)) ∧
    (level < 2 → exec (.debugLevelWrite mid v) s =
      .next ((((s.fset F.DBG_LEVEL_ERR 0).fset F.DBG_LEVEL_LEVEL level).fset F.DBG_HALT_RTR 0).fset F.DBG_HALT_NIC 0)) ∧
    (s.fget F.DBG_LEVEL_LEVEL = 0 → completes (.dbgMemRead mid) s (fun t =>
      reportOnly (s.emit (.regRead mid (BitVec.ofNat 24 (regAddr .DBG_MEM_DATA 0 0)) 0#64)) t ∧
        (t.fget F.FLT_STATUS_SRC).testBit 10 = true)) ∧
    (s.fget F.DBG_LEVEL_LEVEL ≠ 0 → ∀ w, tblGet addr s.sram = some w → exec (.dbgMemRead mid) s =
      .next ((onward s).emit (.regRead mid (BitVec.ofNat 24 (regAddr .DBG_MEM_DATA 0 0)) w))) ∧
    (s.fget F.DBG_LEVEL_LEVEL ≠ 2 → completes (.dbgMemWrite mid v) s (fun t =>
      reportOnly s t ∧ (t.fget F.FLT_STATUS_SRC).testBit 10 = true)) ∧
    (s.fget F.DBG_LEVEL_LEVEL = 2 → exec (.dbgMemWrite mid v) s = .next (onward { s with sram := tblSet addr v s.sram })) ∧
    (s.fget F.DBG_LEVEL_LEVEL ≠ 2 → exec (.dbgHalt mid v) s = .next s ∧ exec (.step mid v) s = .next s) ∧
    (s.fget F.DBG_LEVEL_LEVEL = 2 → bitOf v 8 = false → exec (.dbgHalt mid v) s = .next halted) ∧
    (s.fget F.DBG_LEVEL_LEVEL = 2 → bitOf v 8 = true → bitOf v 0 = true → s.routerRuns = true →
      completes (.step mid v) s (fun t => t.still = s.still ∧
        t = allocatorStep false (finishLeaving (tickPorts halted))))

/-- R5, R6, R8, R46, R366, R367, R373: a 64-bit write of a register in a running block that no rule of its own governs changes that
register alone, each field by its access code: RW takes the value, W1C clears, W1S sets, every other field keeps. A register of
change class S keeps its value and the write is recorded in CFG_WHILE_LIVE. A disabled port's register and an offset where nothing
answers discard the write; an offset that is not a multiple of 8 is a register-access error (outside the mapped MSI-X arrays).
The model's choices it rests on: log entry 55. -/
def Obligations.RegisterWrite : Prop :=
  ∀ (s : State) (mid : Mid) (off : Offset) (v : Word), msixHere s off.toNat = none →
    (∀ r i k, regAt off.toNat = some (r, i, k) → s.answers (regPlace r).block i = true → off.toNat % 8 = 0 →
      (plainWritten r = true → (ofPort r = true → s.role (portIx i) ≠ .disabled) →
        ∃ w, exec (.registerWrite mid off v) s = .next ((unlockUsed mid r s).setWord r w i k) ∧
          ∀ row ∈ regFields r, fieldOf w row.hi row.lo =
            writtenField row.access (s.fget ⟨r, row.hi, row.lo⟩ i k) (fieldOf v row.hi row.lo)) ∧
      (holdsStatic r = true → (ofPort r = true → s.role (portIx i) ≠ .disabled) →
        completes (.registerWrite mid off v) s (fun t => t = { s with regs := t.regs } ∧
          regsBut s t [regAddr .CFG_WHILE_LIVE 0 0] ∧ t.flag F.CFG_WHILE_LIVE_FLAG = true ∧
          (s.flag F.CFG_WHILE_LIVE_FLAG = false → t.fget F.CFG_WHILE_LIVE_MID = mid.toNat ∧
            t.fget F.CFG_WHILE_LIVE_OFFSET = off.toNat) ∧
          t.fget F.CFG_WHILE_LIVE_COUNT = min 65535 (s.fget F.CFG_WHILE_LIVE_COUNT + 1))) ∧
      (ofPort r = true → s.role (portIx i) = .disabled → exec (.registerWrite mid off v) s = .next s)) ∧
    (regHere s off.toNat = none → off.toNat % 8 = 0 → exec (.registerWrite mid off v) s = .next s) ∧
    (off.toNat % 8 ≠ 0 → noPromotion s → completes (.registerWrite mid off v) s (fun t =>
      reportOnly s t ∧ (t.fget F.FLT_STATUS_SRC).testBit 10 = true))

/-- R5, R6, R373, R377: an aligned 64-bit read returns the register as it stands to its master and clears its RC fields alone; where
nothing answers it returns 0. An aligned 32-bit read returns its half of the word and changes nothing. Any other read, and a write
of fewer or of more than 8 bytes, is a register-access error (outside the mapped MSI-X arrays).
The model's choices it rests on: log entries 42 and 74. -/
def Obligations.RegisterRead : Prop :=
  ∀ (s : State) (mid : Mid) (off : Offset), msixHere s off.toNat = none →
    (∀ r i k, regAt off.toNat = some (r, i, k) → s.answers (regPlace r).block i = true → off.toNat % 8 = 0 →
      ([RegId.SEM_LOCK, .AON_RSRAM_DATA, .DBG_MEM_DATA].contains r = false →
        ∃ u : State, exec (.registerReadClear mid off 8) s = .next (u.emit (.regRead mid off (readWord s r i k))) ∧
          (u = s ∨ ∃ w, u = s.setWord r w i k) ∧
          ∀ row ∈ regFields r, u.fget ⟨r, row.hi, row.lo⟩ i k =
            if row.access = .rc then 0 else s.fget ⟨r, row.hi, row.lo⟩ i k) ∧
      ([RegId.SEM_LOCK, .AON_RSRAM_DATA, .DBG_MEM_DATA].contains r = false →
        exec (.registerReadClear mid off 4) s =
          .next (s.emit (.regRead mid off (BitVec.ofNat 64 ((readWord s r i k).toNat % 2 ^ 32)))))) ∧
    (regHere s off.toNat = none → off.toNat % 8 = 0 →
      exec (.registerReadClear mid off 8) s = .next (s.emit (.regRead mid off 0#64))) ∧
    (∀ len, ¬ (len = 8 ∧ off.toNat % 8 = 0) → ¬ (len = 4 ∧ off.toNat % 4 = 0) → noPromotion s →
      completes (.registerReadClear mid off len) s (fun t =>
        reportOnly s t ∧ (t.fget F.FLT_STATUS_SRC).testBit 10 = true)) ∧
    (∀ bytes, noPromotion s → completes (.registerWrite32bit mid off bytes) s (fun t =>
      reportOnly s t ∧ (t.fget F.FLT_STATUS_SRC).testBit 10 = true ∧
      (s.flag F.FLT_FIRST_INFO_VALID = false → t.fget F.FLT_FIRST_INFO_ACCESS = (if bytes.length ≤ 8 then 3 else 2))))

/-- R346: REG_ACCESS shifts in DATA [63:0], OFFSET [87:64] and WRITE [88]. Update-DR is a 64-bit access of master 0x01: where something
answers it does what REGISTER_WRITE or REGISTER_READ_CLEAR does and the result is STATUS 0, with the value read in DATA; at an unmapped
offset or a block that does not answer it does nothing and the result is STATUS 2 (and a read gives 0). The access of the model ends
with the command, so STATUS is never 1; DATA after a write is free (log entry 1).
The model's choices it rests on: log entry 41. -/
def Obligations.TapRegisterAccess : Prop :=
  ∀ (s : State) (dr : BitVec 92), s.pwr.vddAon = true →
    let off : Offset := dr.extractLsb' 64 24
    let v : Word := dr.setWidth 64
    let shows (u : State) (w : Word) (st : BitVec 3) : State :=
      { u with jtag := { u.jtag with instr := .regAccess, data := w, status := st } }
    (dr.toNat.testBit 88 = true → offsetAnswers s off.toNat = true →
      ∃ u : State, exec (.registerWrite 1#8 off v) s = .next u ∧
        exec (.regAccess dr) s = .next (shows { u with freeCount := u.freeCount + 1 } u.freeValue 0#3)) ∧
    (dr.toNat.testBit 88 = true → offsetAnswers s off.toNat = false →
      exec (.regAccess dr) s = .next (shows { s with freeCount := s.freeCount + 1 } s.freeValue 2#3)) ∧
    (dr.toNat.testBit 88 = false → offsetAnswers s off.toNat = true →
      ∃ (u : State) (w : Word), exec (.registerReadClear 1#8 off 8) s = .next (u.emit (.regRead 1#8 off w)) ∧
        exec (.regAccess dr) s = .next (shows (u.emit (.regRead 1#8 off w)) w 0#3)) ∧
    (dr.toNat.testBit 88 = false → offsetAnswers s off.toNat = false →
      exec (.regAccess dr) s = .next (shows (s.emit (.regRead 1#8 off 0#64)) 0#64 2#3))

/-- R319, R374: a WRITE or READ of the management bus is a 64-bit register access of MID 0x00: where something answers the access does
what REGISTER_WRITE or REGISTER_READ_CLEAR does, elsewhere it does nothing and reads 0, and STATUS says which. OFFSET, AUTO and LAST
set and return the target's own registers; with AUTO the offset moves on by 8. A clock-low timeout of a master that holds no lock and
no unlock changes nothing else.
The model's choices it rests on: log entries 38 and 39. -/
def Obligations.BusAccesses : Prop :=
  ∀ s : State,
    (smbServes s = true →
      let setsStatus (n : Nat) (u : State) : State := { u with smb := { u.smb with status := BitVec.ofNat 8 n } }
      let movesOn (u : State) : State := if u.smb.auto then { u with smb := { u.smb with offset := u.smb.offset + 8#24 } } else u
      let off := s.smb.offset
      (∀ bytes : Bytes, bytes.length = 3 → exec (.offset bytes) s =
        .next (whistleEnd { s with smb := { s.smb with offset := BitVec.ofNat 24 (leNat bytes) } })) ∧
      (∀ b, exec (.auto b) s = .next (whistleEnd { s with smb := { s.smb with auto := b.toNat.testBit 0 } })) ∧
      exec .last s = .next (whistleEnd (s.emit (.smb [s.smb.status]))) ∧
      (∀ bytes : Bytes, bytes.length = 8 →
        (off.toNat % 8 ≠ 0 → exec (.smbWrite bytes) s = .next (whistleEnd (setsStatus 2 s))) ∧
        (off.toNat % 8 = 0 → offsetAnswers s off.toNat = false →
          exec (.smbWrite bytes) s = .next (whistleEnd (movesOn (setsStatus 1 s)))) ∧
        (offsetAnswers s off.toNat = true → ∃ u : State, exec (.registerWrite 0#8 off (BitVec.ofNat 64 (leNat bytes))) s = .next u ∧
          exec (.smbWrite bytes) s = .next (whistleEnd (movesOn (setsStatus 0 u))))) ∧
      (off.toNat % 8 ≠ 0 → exec .smbRead s = .next (whistleEnd ((setsStatus 2 s).emit (.smb (leBytes 1 2 ++ leBytes 8 0))))) ∧
      (off.toNat % 8 = 0 → offsetAnswers s off.toNat = false → exec .smbRead s = .next (whistleEnd (movesOn (setsStatus 1
        ((s.emit (.regRead 0#8 off 0#64)).emit (.smb (leBytes 1 1 ++ leBytes 8 0))))))) ∧
      (offsetAnswers s off.toNat = true → ∃ (u : State) (w : Word), exec (.registerReadClear 0#8 off 8) s = .next (u.emit (.regRead 0#8 off w)) ∧
        exec .smbRead s = .next (whistleEnd (movesOn (setsStatus 0
          ((u.emit (.regRead 0#8 off w)).emit (.smb (leBytes 1 0 ++ leBytes 8 w.toNat)))))))) ∧
    ((s.rst.pHeld = true ∨ ((∀ k : Fin 256, s.locks[k].held = true → s.locks[k].owner ≠ 0#8) ∧ ¬ (0#8 ∈ s.cfg.unlocked))) →
      exec .smbusTimeout s = .next s)

/-- R112, R344: the management agent takes an MGMT request that passes its PCRC from the head of an ejection buffer and serves it as
MID 0x02. A READ is answered READ_RESP with STATUS 0 and what a 64-bit read returns, a WRITE is answered WRITE_RESP with STATUS 0
after the 64-bit write; under BOUND a WRITE from a chip that AON_MGR does not list, where it lists any, and in every other state of
the binding but UNBOUND each request, is answered STATUS 2 with no effect (the value of such an answer is free: log entry 1). One that
comes while others are held waits behind them, and with 16 held it is answered STATUS 1 (BUSY).
The model's choices it rests on: log entry 40. -/
def Obligations.ManagementAgent : Prop :=
  ∀ (s : State) (ip : IntPort) (e : InPacket) (rest : List InPacket), s.ints[ip].eject = e :: rest → s.agentWorks = true →
    pktOpcode e.pkt = 0x0D → pcrcOk e.pkt = true → pktTc e.pkt = 0 → pktFmt e.pkt = 1 → pktLenOk e.pkt = true →
    let u := nicSlot 1 (takeEject ip e s)
    let up : State := { u with agent := [e.pkt] }
    let off := pktAt e.pkt 22 3
    let writeAllowed := s.binding = 0 ∨ (s.binding = 1 ∧
      ((∀ k, k < 4 → bitOf (s.regWord .AON_MGR 0 k) 18 = false) ∨
        ∃ k, k < 4 ∧ bitOf (s.regWord .AON_MGR 0 k) 18 = true ∧ fieldOf (s.regWord .AON_MGR 0 k) 17 0 = pktSrcChip e.pkt))
    (s.agent = [] →
      (pktAt e.pkt 19 1 = 1 → s.binding = 0 ∨ s.binding = 1 →
        let x := busRead 2#8 off up
        exec (.mgmtRead ip) s = .next (agentAnswer e.pkt 3 0 x.2 (x.1.emit (.regRead 2#8 (BitVec.ofNat 24 off) x.2)))) ∧
      (pktAt e.pkt 19 1 = 1 → ¬ (s.binding = 0 ∨ s.binding = 1) →
        exec (.mgmtRead ip) s = .next (agentAnswer e.pkt 3 2 up.freeValue up.tookFree)) ∧
      (pktAt e.pkt 19 1 = 2 → writeAllowed →
        let w := busWrite 2#8 off (BitVec.ofNat 64 (pktAt e.pkt 32 8)) up
        exec (.mgmtWrite ip) s = .next (agentAnswer e.pkt 4 0 w.freeValue w.tookFree)) ∧
      (pktAt e.pkt 19 1 = 2 → ¬ writeAllowed →
        exec (.mgmtWrite ip) s = .next (agentAnswer e.pkt 4 2 up.freeValue up.tookFree))) ∧
    (∀ row ∈ [(1, 3, Instr.mgmtRead ip), (2, 4, .mgmtWrite ip)], pktAt e.pkt 19 1 = row.1 →
      (s.agent ≠ [] → s.agent.length < 16 → exec row.2.2 s = .next { u with agent := s.agent ++ [e.pkt] }) ∧
      (16 ≤ s.agent.length → exec row.2.2 s = .next (agentAnswer e.pkt row.2.1 1 u.freeValue u.tookFree)))

/-- R358, R364: CLEAR zeroes the counters of one unit and its cycle count and no other register; GO of PMC_SNAP copies every unit's
counters into their shadows at one instant, records the fabric time and counts the snapshot. -/
def Obligations.CounterCommands : Prop :=
  ∀ (s : State) (mid : Mid) (v : Word), s.svcRuns = true →
    (∀ u : Fin 72, bitOf v 1 = true → completes (.clear mid u v) s (fun t => t = { s with regs := t.regs } ∧
      t.regWord .PMC_CYC u.val 0 = 0#64 ∧ (∀ i, i < 8 → t.regWord .PMC_CNT u.val i = 0#64) ∧
      t.fget F.PMC_CTL_EN u.val = fieldOf v 0 0 ∧
      regsBut s t (regAddr .PMC_CTL u.val 0 :: regAddr .PMC_CYC u.val 0 :: (List.range 8).map (regAddr .PMC_CNT u.val)))) ∧
    (bitOf v 0 = true → completes (.snapshot mid v) s (fun t => t = { s with regs := t.regs } ∧
      (∀ u, u < 72 → t.regWord .PMC_SHD_CYC u 0 = s.regWord .PMC_CYC u 0 ∧
        ∀ i, i < 8 → t.regWord .PMC_SHD_CNT u i = s.regWord .PMC_CNT u i) ∧
      t.regWord .PMC_SNAP_TIME 0 0 = s.tim.now ∧
      t.fget F.PMC_SNAP_SEQ = (s.fget F.PMC_SNAP_SEQ + 1) % 65536 ∧
      (∀ u i, u < 72 → i < 8 → t.regWord .PMC_CNT u i = s.regWord .PMC_CNT u i ∧ t.regWord .PMC_EVSEL u i = s.regWord .PMC_EVSEL u i ∧
        t.regWord .PMC_CYC u 0 = s.regWord .PMC_CYC u 0 ∧ t.regWord .PMC_CTL u 0 = s.regWord .PMC_CTL u 0) ∧
      ∀ a, a < 0x60000 ∨ 0x68010 ≤ a → tblGet a t.regs = tblGet a s.regs)) ∧
    (bitOf v 0 = false → exec (.snapshot mid v) s = .next s)

/-- R362, R363, R365: EN of CAP_CTL rising reads LOG_SIZE, MODE and DEST for the ring and empties it; a write of CAP_CI frees entries,
and is discarded where it would count more entries than the ring has or where the capture block consumes the ring itself. A
telemetry flush sends one TELEMETRY packet of up to 64 entries from CI on and consumes them; a collector appends the entries of one
that arrives to its own ring, every other chip counts the packet in TEL_DISC.
The model's choices it rests on: log entry 57. -/
def Obligations.CaptureRing : Prop :=
  ∀ (s : State) (mid : Mid) (v : Word), s.svcRuns = true →
    let size := 2 ^ capLog s
    (bitOf v 0 = true → s.flag F.CAP_CTL_EN = false → 6 ≤ fieldOf v 5 2 →
      completes (.captureEnable mid v) s (fun t => t = { s with regs := t.regs, cap := { s.cap with
          logSize := fieldOf v 5 2, overwrite := bitOf v 1, dest := bitOf v 6 } } ∧
        t.flag F.CAP_CTL_EN = true ∧ t.fget F.CAP_PI_PI = 0 ∧ t.fget F.CAP_CI_CI = 0 ∧
        regsBut s t [regAddr .CAP_CTL 0 0, regAddr .CAP_PI 0 0, regAddr .CAP_CI 0 0])) ∧
    (s.cap.dest = false → (s.fget F.CAP_PI_PI + 2 * size - fieldOf v 16 0 % (2 * size)) % (2 * size) ≤ size →
      exec (.capCiWrite mid v) s = .next (s.fset F.CAP_CI_CI (fieldOf v 16 0 % (2 * size)))) ∧
    (s.cap.dest = true ∨ size < (s.fget F.CAP_PI_PI + 2 * size - fieldOf v 16 0 % (2 * size)) % (2 * size) →
      exec (.capCiWrite mid v) s = .next s) ∧
    (s.cap.dest = true → 0 < capCount s →
      let n := min 64 (capCount s)
      let ci := s.fget F.CAP_CI_CI
      let data := (List.range n).flatMap (fun k => ramRead s.cap.mem (64 * ((ci + k) % size)) 64)
      exec .telemetryFlush s = .next (inject
        (mkPkt (newW0 2 (s.useClass (·.telemetry)) (s.fget F.CAP_TEL_CHIP) s.chip) (newW1 0 0 0x26 true true false)
          (longBody (leBytes 2 s.cap.tseq.toNat ++ leBytes 1 1 ++ leBytes 2 data.length) data))
        { (s.fset F.CAP_CI_CI ((ci + n) % (2 * size))) with cap := { s.cap with tseq := s.cap.tseq + 1#16 } })) ∧
    (s.cap.dest = false ∨ capCount s = 0 → exec .telemetryFlush s = .next s) ∧
    (∀ (ip : IntPort) (e : InPacket) (rest : List InPacket), s.ints[ip].eject = e :: rest → s.agentWorks = true →
      pktOpcode e.pkt = 0x26 → pcrcOk e.pkt = true → pktFmt e.pkt = 2 → pktLenOk e.pkt = true →
      let u := takeEject ip e s
      (u.flag F.CAP_CTL_COLLECT = true → exec (.telemetry ip) s = .next
        ((List.range (min 64 (pktPlen e.pkt / 64))).foldl (fun t k => capAppend (pktSlice e.pkt (32 + 64 * k) 64) t) (nicSlot 1 u))) ∧
      (u.flag F.CAP_CTL_COLLECT = false → exec (.telemetry ip) s = .next ((nicSlot 2 u).finc F.CAP_STATUS_TEL_DISC 1)))

/-- R322 to R331: a line that rises and reaches the collector sets its source's bit; apart from the lines, a source that is not fatal
changes nothing but reports; a fatal one starts Muzzle. A line that is high already, and one held low with its block, changes nothing. A routing entry that cannot be read acts as
INVALID. A line that falls stays recorded. Escalation asks for a C reset of source 0x8 when Muzzle stands with every fatal line low
and ESC_RESET is set.
The model's choices it rests on: log entries 47 and 51. -/
def Obligations.ErrorLines : Prop :=
  ∀ (s : State) (src : Fin 64) (mid : Mid) (access : Fin 8) (addr : Word), noPromotion s →
    let rise := Instr.faultSourceRise src mid access addr .none
    let raised : State := { s with flt := { s.flt with lines := setBitTo s.flt.lines src.val true } }
    (lineReaches s src.val = true → s.flt.lines.testBit src.val = false → faultClass src.val ≠ 2 →
      completes rise s (fun t => t.flt.lines = raised.flt.lines ∧ reportOnly raised t ∧
        (t.fget F.FLT_STATUS_SRC).testBit src.val = true)) ∧
    (lineReaches s src.val = true → s.flt.lines.testBit src.val = false → faultClass src.val = 2 →
      completes rise s (fun t => t.flt.lines = raised.flt.lines ∧ t.flt.muzzle = true ∧ t.still = s.still ∧
        (t.fget F.FLT_STATUS_SRC).testBit src.val = true ∧
        (s.flt.muzzle = false → t.fget F.FLT_MUZZLE_SOURCE = src.val))) ∧
    (lineReaches s src.val = false ∨ s.flt.lines.testBit src.val = true →
      ∀ tgt, exec (.faultSourceRise src mid access addr tgt) s = .next s) ∧
    (∀ (b : Bool) (chip : Nat), lineReaches s 12 = true → s.flt.lines.testBit 12 = false →
      completes (.faultSourceRise 12 mid access addr (.table b chip)) s (fun t => t.rtr = putEntry (b2n b) chip 0#64 s.rtr)) ∧
    exec (.errorLineFall src) s = .next { s with
      flt := { s.flt with lines := setBitTo s.flt.lines src.val false },
      pwr := { s.pwr with coreOk := s.pwr.coreOk || decide (src.val = 0), refclk := s.pwr.refclk || decide (src.val = 2) } } ∧
    (s.flt.muzzle = true → s.flag F.FLT_CTL_ESC_RESET = true → fatalLow s = true → s.pwr.state ≠ .standby → s.pwr.state ≠ .sleep →
      (∀ q ∈ s.rst.waiting, q.source ≠ 8) →
      exec .escalation s = .next { s with rst := { s.rst with waiting := s.rst.waiting ++ [⟨.C, 0, 8, 0#8, false⟩] } }) ∧
    (s.flt.muzzle = false ∨ s.flag F.FLT_CTL_ESC_RESET = false ∨ fatalLow s = false → exec .escalation s = .next s)

/-- R332: a write of FLT_INJECT without its CONFIRM sets ERR and injects nothing; with it, an injected contained or corrected source
is reported like a rise of its line, an injected fatal source starts Muzzle, and a source whose line is high reports nothing
further. R323: the line itself does not rise. -/
def Obligations.FaultInjection : Prop :=
  ∀ (s : State) (mid : Mid) (v : Word), s.rst.pHeld = false → noPromotion s →
    let src := fieldOf v 5 0
    let cleared := s.fset F.FLT_INJECT_ERR 0
    (fieldOf v 23 16 ≠ 0xA5 → exec (.fltInject mid v) s = .next (s.fset F.FLT_INJECT_ERR 1)) ∧
    (fieldOf v 23 16 = 0xA5 → s.flt.lines.testBit src = true → exec (.fltInject mid v) s = .next cleared) ∧
    (fieldOf v 23 16 = 0xA5 → s.flt.lines.testBit src = false → faultClass src ≠ 2 →
      completes (.fltInject mid v) s (fun t => reportOnly cleared t ∧ (t.fget F.FLT_STATUS_SRC).testBit src = true)) ∧
    (fieldOf v 23 16 = 0xA5 → s.flt.lines.testBit src = false → faultClass src = 2 →
      completes (.fltInject mid v) s (fun t => t.flt.muzzle = true ∧ t.flt.lines = s.flt.lines ∧ t.still = s.still ∧
        (t.fget F.FLT_STATUS_SRC).testBit src = true))

/-- R328: unless the Alert Response Address protocol has released it, ALERT_N is asserted exactly while some bit of FLT_STATUS is set
whose bit in FLT_ALERT_EN is set. The Alert Response Address protocol releases it and changes nothing else, and so does a write of
FLT_STATUS that clears every such bit (a bit whose line is low). ALERT_N is the same in every power state. -/
def Obligations.AlertLine : Prop :=
  ∀ s : State,
    let alerts (k : Nat) : Bool := (s.fget F.FLT_STATUS_SRC).testBit k && (s.fget F.FLT_ALERT_EN_EN).testBit k
    (s.flt.alertAck = false → (s.alertN = true ↔ ∃ k, k < 64 ∧ alerts k = true)) ∧
    exec .alertResponse s = .next { s with flt := { s.flt with alertAck := true } } ∧
    completes .alertResponse s (fun t => t.alertN = false) ∧
    (∀ (mid : Mid) (v : Word), s.rst.pHeld = false →
      (∀ k, k < 64 → alerts k = true → bitOf v k = true ∧ s.flt.lines.testBit k = false) →
      completes (.registerWrite mid (BitVec.ofNat 24 (regAddr .FLT_STATUS 0 0)) v) s (fun t => t.alertN = false)) ∧
    (∀ power, ({ s with pwr := { s.pwr with state := power } } : State).alertN = s.alertN)

/-- R304, R306, R317, R321: RESET_N low asks for a C reset of source 0x2, but in a P reset; a write of RST_CMD asks for the reset of
its KIND and TARGET in its master's name, or leaves the reason of its refusal in ERR (0x2 without CONFIRM, 0x1 for a kind or a
target that does not exist, 0x3 for the port of a disabled role); a KICK restarts the watchdog, and an enabled watchdog that
expires in a state with CORE_CLK counts and asks for a C reset of source 0x4.
The model's choices it rests on: log entry 44. -/
def Obligations.ResetRequests : Prop :=
  ∀ (s : State) (mid : Mid) (v : Word),
    let asks (kind : ResetKind) (target source : Nat) (m : Mid) (u : State) : State :=
      { u with rst := { u.rst with waiting := u.rst.waiting ++ [⟨kind, target, source, m, false⟩] } }
    let source := if mid = 0#8 then 5 else if mid = 2#8 then 6 else 7
    (s.rst.resetN = false → exec .resetNAssert s =
      .next (let u : State := { s with rst := { s.rst with resetN := true } }; if s.rst.pHeld then u else asks .C 0 2 0#8 u)) ∧
    exec .resetNRelease s = .next { s with rst := { s.rst with resetN := false } } ∧
    (s.rst.pHeld = false →
      (fieldOf v 23 16 = 0xA5 →
        (fieldOf v 2 0 = 1 → exec (.rstCmdC mid v) s = .next (asks .C (fieldOf v 9 4) source mid (s.fset F.RST_CMD_ERR 0))) ∧
        (fieldOf v 2 0 = 2 → exec (.rstCmdT mid v) s = .next (asks .T (fieldOf v 9 4) source mid (s.fset F.RST_CMD_ERR 0))) ∧
        (fieldOf v 2 0 = 3 → fieldOf v 9 4 ≤ 1 → s.hostPresent (fieldOf v 9 4) = true →
          exec (.rstCmdF mid v) s = .next (asks .F (fieldOf v 9 4) source mid (s.fset F.RST_CMD_ERR 0))) ∧
        (fieldOf v 2 0 = 4 → s.role (BitVec.ofNat 6 (fieldOf v 9 4)).toFin ≠ .disabled →
          exec (.rstCmdL mid v) s = .next (asks .L (fieldOf v 9 4) source mid (s.fset F.RST_CMD_ERR 0))) ∧
        (fieldOf v 2 0 = 0 ∨ 4 < fieldOf v 2 0 ∨ (fieldOf v 2 0 = 3 ∧ (1 < fieldOf v 9 4 ∨ s.hostPresent (fieldOf v 9 4) = false)) →
          exec (.rstCmdF mid v) s = .next (s.fset F.RST_CMD_ERR 1)) ∧
        (fieldOf v 2 0 = 4 → s.role (BitVec.ofNat 6 (fieldOf v 9 4)).toFin = .disabled →
          exec (.rstCmdL mid v) s = .next (s.fset F.RST_CMD_ERR 3))) ∧
      (fieldOf v 23 16 ≠ 0xA5 → exec (.rstCmdC mid v) s = .next (s.fset F.RST_CMD_ERR 2)) ∧
      (bitOf v 32 = true → exec (.kick mid v) s = .next
        (let u := (s.fset F.RST_WDOG_EN (fieldOf v 0 0)).fset F.RST_WDOG_TIMEOUT_MS (fieldOf v 31 16)
         { u with rst := { u.rst with wdogLeft := 1000000 * max 1 (fieldOf v 31 16) } })) ∧
      (s.flag F.RST_WDOG_EN = true → s.pwr.state = .active ∨ s.pwr.state = .doze → exec .watchdogExpiry s = .next
        (let u := s.finc F.RST_COUNT_WDOG_COUNT 1
         asks .C 0 4 0#8 { u with rst := { u.rst with wdogLeft := 0 } }))) ∧
    (s.flag F.RST_WDOG_EN = false ∨ s.rst.pHeld = true ∨ s.pwr.state = .standby ∨ s.pwr.state = .sleep →
      exec .watchdogExpiry s = .next s)

/-- R303, R305 to R307, R311, R315, R319: the oldest waiting reset takes hold. A C reset clears the core domains (ports, router, host
ports but for the PERST pins, SRAM, capture, groups, what the management agent holds) and the image, frees every lock and, but in
SLEEP, marks those that were held, ends Muzzle and records its source; fabric time, the retained SRAM and the store with its records stay. One that meets the pulse
of a WRITE or of a control record is put off until that ends. A T reset stops the router; an F reset stops its function, and an L reset its port alone.
The model's choices it rests on: log entries 44 and 45. -/
def Obligations.ResetTakesHold : Prop :=
  ∀ (s : State) (q : ResetReq) (rest : List ResetReq), s.rst.waiting = q :: rest → s.rst.pHeld = false → noPromotion s →
    let taken : State := { s with rst := { s.rst with waiting := rest } }
    (q.kind = .C → pulsing s.cfg = false → completes .resetTakeHold s (fun t =>
      t.rst.cHeld = true ∧ t.rst.coreRel = false ∧ t.rst.hifRel = false ∧ t.image = none ∧ t.sram = [] ∧ t.cap = capReset ∧
      t.ports = Vector.replicate 64 portReset ∧ t.ints = Vector.replicate 4 intReset ∧ t.rtr = rtrReset ∧ t.park = [] ∧ t.groups = [] ∧
      t.agent = [] ∧ t.cfg = cfgCleared s.cfg ∧ t.tim = s.tim ∧ t.pwr.rsram = s.pwr.rsram ∧ t.pwr.state = .active ∧
      (s.pwr.state ≠ .sleep → ∀ k : Fin 256, t.locks[k].held = false ∧ (s.locks[k].held = true → t.locks[k].abandoned = true)) ∧
      (s.pwr.state = .sleep → t.locks = Vector.replicate 256 lockReset) ∧
      (s.pwr.refclk = true → t.flt.muzzle = false ∧
        (∀ h, t.host h = { hostReset with hif := { hifReset with perst := (s.host h).hif.perst } }) ∧
        t.fget F.RST_LAST_SOURCE = q.source % 32 ∧ ∀ a, 0x50000 ≤ a → tblGet a t.regs = none))) ∧
    (q.kind = .C → pulsing s.cfg = true → exec .resetTakeHold s = .next
      (({ s with rst := { s.rst with waiting := { q with deferred := true } :: rest } } : State).fset F.RST_STATUS_DEFERRED 1)) ∧
    (q.kind = .T → s.coreRuns = true → completes .resetTakeHold s (fun t => t.rst.tHeld = true ∧ t.routerRuns = false ∧
      t.cfg.store = s.cfg.store)) ∧
    (∀ h : HostPort, q.kind = .F → q.target = h.val → exec .resetTakeHold s = .next (funcStart h taken)) ∧
    (∀ p : NetPort, q.kind = .L → q.target = p.val → s.routerRuns = true → s.role p ≠ .disabled →
      completes .resetTakeHold s (fun t => ∀ x, portFaces t x =
        if x = p then (laneFace (laneStop (retryPll (s.port p).lane)), .down) else portFaces s x))

/-- R281, R310 to R314: a C reset's hold ends, with RESET_N and PWRGD high and outside Muzzle, by restoring every field whose Reset
column names C and starting the PLLs. A PLL that locks runs, the core PLL releasing HIF on the way; one that does not leaves its
block clamped and LOCK_FAIL set. The self-test of a cold start and the clear of a warm one lead to the loading of the image; an SRAM
beyond repair is fatal. The release of a T reset and of an L reset start training again. -/
def Obligations.StartUp : Prop :=
  ∀ s : State,
    (s.rst.cHeld = true → s.rst.pHeld = false → s.rst.resetN = false → s.pwr.pwrgd = true → s.flt.muzzle = false →
      completes .cResetRelease s (fun t => t.rst.cHeld = false ∧ t.pwr.corePll = .starting ∧ t.pwr.coreOn = true ∧
        (s.rst.cold = false → ∀ p, (t.port p).lane.pll = .starting) ∧ (s.rst.cold = true → t.ports = s.ports) ∧
        ∀ r i k, regAt (regAddr r i k) = some (r, i, k) → ∀ row ∈ regFields r, (resetKinds row).contains .C = true →
          t.fget ⟨r, row.hi, row.lo⟩ i k = resetField s.image r i row % 2 ^ (row.hi + 1 - row.lo))) ∧
    (s.rst.cHeld = false ∨ s.rst.pHeld = true ∨ s.rst.resetN = true ∨ s.pwr.pwrgd = false ∨ s.flt.muzzle = true →
      exec .cResetRelease s = .next s) ∧
    (s.pwr.corePll = .starting → exec (.pllRelease .core true) s = .next
      (let u : State := { s with pwr := { s.pwr with corePll := .running } }
       if s.rst.coreRel then u
       else { u with rst := { s.rst with hifRel := true, phase := if s.rst.cold then .sramTest else .sramClear } })) ∧
    (∀ h : HostPort, s.pwr.hostPll[h] = .starting → exec (.pllRelease (.host h) true) s =
      .next { s with pwr := { s.pwr with hostPll := s.pwr.hostPll.set h .running } }) ∧
    (∀ h : HostPort, s.pwr.hostPll[h] = .starting → noPromotion s → completes (.pllRelease (.host h) false) s (fun t =>
      t.rst.clamped.testBit (2 + h.val) = true ∧ t.fget F.PWR_STATUS_LOCK_FAIL = 1 ∧
      (t.fget F.FLT_STATUS_SRC).testBit 9 = true)) ∧
    (∀ p : NetPort, (s.port p).lane.pll = .starting → exec (.pllRelease (.lane p) true) s =
      .next (startTraining p (s.modLane p (fun l => { l with pll := .running })))) ∧
    (s.flt.muzzle = false → s.rst.cold = true → s.rst.phase = .sramTest →
      exec (.sramTestDone true) s = .next { s with
        rst := { s.rst with clearing := false, phase := .loading },
        ports := s.ports.map (fun x => { x with lane := { x.lane with pll := .starting } }) } ∧
      (noPromotion s → completes (.sramTestDone false) s (fun t => t.flt.muzzle = true ∧
        (t.fget F.FLT_STATUS_SRC).testBit 3 = true ∧ t.still = s.still))) ∧
    (s.flt.muzzle = false → s.rst.phase = .sramClear →
      exec .sramClearDone s = .next { s with rst := { s.rst with clearing := false, phase := .loading } }) ∧
    (s.rst.tHeld = true → s.flt.muzzle = false → exec .tResetRelease s = .next
      (allPorts.foldl (fun t p => startTraining p t) { s with rst := { s.rst with tHeld := false } })) ∧
    (∀ p : NetPort, ((s.port p).lane.stopped = true → exec (.lResetRelease p) s =
        .next (startTraining p (s.modLane p (fun l => { l with stopped := false })))) ∧
      ((s.port p).lane.stopped = false → exec (.lResetRelease p) s = .next s))

/-- R44, R50, R56, R57, R59, R65, R68: the frequency measurement of WAIT_CLOCK, against the clock of the rate in LAN_CTL, passes within 0.1 % of it (twice
it is 31.25, 26.5625 or 12.890625 GHz) and starts an attempt: every lane at RD−, the equalizers from a valid calibration set, IDL and TS1 sets on all 16
lanes. The steps end one by one: EQ to ALIGN to EXCHANGE with the receive good mask in 16 TS2 sets, then to UP with the group the port is told to use, or else
the widest usable, announced in two WCH sets, and the start of link initialisation; without a usable group the attempt fails with cause 2. A failed attempt is
counted with its cause and tried again from RETRY. A port leaves HOLD into WAIT_CLOCK.
The model's choices it rests on: log entry 77. -/
def Obligations.Training : Prop :=
  ∀ (s : State) (p : NetPort),
    let l := (s.port p).lane
    let attempt := l.phase = .eq ∨ l.phase = .align ∨ l.phase = .exchange
    let rate := trainRate s p
    let nominal := if rate = 0 then 31250000 else if rate = 1 then 26562500 else 12890625
    let failed (code : Nat) (u : State) : State :=
      (u.finc F.LAN_ERR_TRAIN_FAIL 1 p.val).modLane p (fun l => { l with phase := .retry, fail := code })
    let started (r : Nat) (t : State) : Prop :=
      laneFace (t.port p).lane = laneFace { l with
        phase := .eq, rate := r, rxMask := 0, partnerMask := 0, amplitude := (laneSetupOf s p).1, emphasis := (laneSetupOf s p).2, calUsed := s.cfg.calValid } ∧
      (∃ sent, t.out = (s.emit (.ordered p (.ts1 r) sent)).out) ∧ (t.port p).link = (s.port p).link ∧
      (∀ q, q ≠ p → t.port q = s.port q) ∧ t.still = s.still ∧ t.regs = s.regs
    (∀ khz, l.phase = .waitClock → (max (2 * khz) nominal - min (2 * khz) nominal) * 1000 ≤ nominal →
      completes (.partnerClockCheck p khz) s (started rate)) ∧
    (∀ khz, l.phase = .waitClock → nominal < (max (2 * khz) nominal - min (2 * khz) nominal) * 1000 →
      exec (.partnerClockCheck p khz) s = .next (s.modLane p (fun l => { l with fail := 1, rate := rate }))) ∧
    (attempt → exec (.trainingFail p .noGroup) s = .next (failed 2 s) ∧ exec (.trainingFail p .exchange) s = .next (failed 3 s) ∧
      exec (.trainingFail p .partnerIdle) s = .next (failed 4 s)) ∧
    (¬ attempt → (∀ c, exec (.trainingFail p c) s = .next s) ∧ ∀ r, exec (.trainingComplete p r) s = .next s) ∧
    (l.phase = .retry → completes (.retryIdleExpiry p) s (started l.rate)) ∧
    (l.phase = .eq → exec (.trainingComplete p .equalized) s = .next (s.modLane p (fun l => { l with phase := .align }))) ∧
    (∀ checks : List LaneCheck, l.phase = .align → completes (.trainingComplete p (.deskewed checks)) s (fun t =>
      (t.port p).lane.phase = .exchange ∧
      (∀ k c, k < 16 → checks[k]? = some c → (t.port p).lane.rxMask.testBit k = laneGood k c ∧
        (t.port p).lane.reversed.getLsbD k = c.reversed) ∧
      (∃ sent, t.out = (s.emit (.ordered p (.ts2 (t.port p).lane.rxMask 16) sent)).out) ∧
      (∀ q, q ≠ p → t.port q = s.port q) ∧ t.still = s.still ∧ t.regs = s.regs)) ∧
    (∀ (mask : BitVec 16) (rw : Fin 3) (rg : Fin 4), l.phase = .exchange →
      let told := s.modLane p (fun l => { l with partnerMask := mask.toNat })
      (∀ w g, chooseGroup mask.toNat (s.fget F.LAN_CTL_WIDTH p.val) (s.fget F.LAN_CTL_GROUP p.val) = some (w, g) →
        exec (.trainingComplete p (.exchanged mask rw rg)) s = .next (linkInit p ((sendSetOn p (groupMask w g) (.wch w g 2) told).modLane p
          (fun l => { l with phase := .up, fail := 0, txWidth := w, txGroup := g, rxWidth := rw.val, rxGroup := rg.val,
                             txAsleep := false, rxAsleep := false, widthDue := false, wakeFails := 0, deaf := false, waking := 0,
                             adding := 0, addWait := 0 })))) ∧
      (chooseGroup mask.toNat (s.fget F.LAN_CTL_WIDTH p.val) (s.fget F.LAN_CTL_GROUP p.val) = none →
        exec (.trainingComplete p (.exchanged mask rw rg)) s = .next (failed 2 told))) ∧
    (∀ (mid : Mid) (v : Word), s.routerRuns = true → s.role p ≠ .disabled → s.fget F.LAN_CTL_MODE p.val = 2 → fieldOf v 7 6 = 0 →
      bitOf v 32 = false → l.phase = .off → l.stopped = false → l.pll = .running → s.modprs.toNat.testBit (p.val / 8) = false →
      completes (.leaveHold mid p v) s (fun t => (t.port p).lane.phase = .waitClock ∧ (∀ q, q ≠ p → t.port q = s.port q) ∧
        t.still = s.still ∧ t.fget F.LAN_CTL_MODE p.val = 0 ∧ regsBut s t [regAddr .LAN_CTL p.val 0]))

/-- R61 to R63, R86: a direction with nothing to send, its idle count set and no packet waiting for its credits goes to sleep with two
SLP sets, and SLP sets put the receiver to sleep. A wake request sends the WAK sets of the rate, with a change of width that waited for it, and on an UP link
a refresh of every class, before the first frame. Four error-free WAK sets end a sleep at the receiver; fewer count a failed wake, after which the
columns of the lanes count as errors until four error-free IDL or WAK sets, and the third failure in a row resets the port. WAK sets on lanes that are awake
are errors.
The model's choices it rests on: log entries 54 and 78. -/
def Obligations.LaneSleepAndWake : Prop :=
  ∀ (s : State) (p : NetPort), s.routerRuns = true → (s.port p).lane.phase = .up →
    let l := (s.port p).lane
    let set (u : State) (f : LaneState → LaneState) : State := u.modLane p f
    let wak := OrderedSet.wak (wakSets l.rate)
    let woken (u : State) : State :=
      let v := set u (fun l => { l with txAsleep := false, waking := wakeCycles l.rate })
      if (s.port p).link.phase = .up then sendRefresh p v else v
    let asked := usableGroup l.partnerMask (s.fget F.LAN_CTL_WIDTH p.val) (s.fget F.LAN_CTL_GROUP p.val)
    (l.txAsleep = false → l.waking = 0 → l.adding = 0 → s.fget F.LAN_CTL_SLEEP_IDLE p.val ≠ 0 → txIdle s p = true →
      creditsAwaited s p = false →
      exec (.laneSleep p) s = .next (set (sendSet p (.slp 2) s) (fun l => { l with txAsleep := true, waking := 0 }))) ∧
    (l.txAsleep = true ∨ l.adding ≠ 0 ∨ s.fget F.LAN_CTL_SLEEP_IDLE p.val = 0 ∨ txIdle s p = false ∨ creditsAwaited s p = true →
      exec (.laneSleep p) s = .next s) ∧
    (l.rxAsleep = false → l.deaf = false → exec (.slpReceived p) s = .next (set s (fun l => { l with rxAsleep := true }))) ∧
    (l.rxAsleep = false → l.deaf = true → exec (.slpReceived p) s = .next (columnErrors p 8 s)) ∧
    (l.txAsleep = true →
      (l.widthDue = false → exec (.wakeRequest p) s = .next (woken (sendSet p wak s))) ∧
      (l.widthDue = true → asked = none → exec (.wakeRequest p) s = .next (woken (set (sendSet p wak s)
        (fun l => { l with widthDue := false, widthRefused := true, adding := 0, addWait := 0 })))) ∧
      (∀ w g, l.widthDue = true → asked = some (w, g) → exec (.wakeRequest p) s =
        .next (woken (switchGroup p (txLanes l ||| groupMask w g) w g (sendSetOn p (txLanes l ||| groupMask w g) wak s))))) ∧
    (l.txAsleep = false → exec (.wakeRequest p) s = .next s) ∧
    (∀ n, 4 ≤ n → l.rxAsleep = true → exec (.wakReceived p n) s = .next (set s (fun l =>
      { l with rxAsleep := false, deaf := false, wakeFails := 0 }))) ∧
    (∀ n, 4 ≤ n → l.rxAsleep = false → l.deaf = true → exec (.wakReceived p n) s = .next (set s (fun l => { l with deaf := false }))) ∧
    (∀ n, l.rxAsleep = false → l.deaf = false → exec (.wakReceived p n) s = .next (columnErrors p n s)) ∧
    (∀ n, n < 4 → l.rxAsleep = true → l.wakeFails < 2 → exec (.wakReceived p n) s = .next (set (s.finc F.LAN_ERR_WAKE_FAIL 1 p.val)
      (fun l => { l with rxAsleep := false, deaf := true, wakeFails := l.wakeFails + 1 }))) ∧
    (∀ n, n < 4 → l.rxAsleep = true → 2 ≤ l.wakeFails → s.role p ≠ .disabled → noPromotion s → completes (.wakReceived p n) s (fun t =>
      laneFace (t.port p).lane = laneFace { laneStop (retryPll l) with wakeFails := 0 } ∧ (t.port p).link.phase = .down)) ∧
    (∀ n, l.rxAsleep = false → l.deaf = true →
      (4 ≤ n → exec (.errorFreeIdlSets p n) s = .next (set s (fun l => { l with deaf := false }))) ∧
      (n < 4 → exec (.errorFreeIdlSets p n) s = .next (columnErrors p (4 * n) s))) ∧
    (∀ n, l.deaf = false → exec (.errorFreeIdlSets p n) s = .next s)

/-- R51, R52, R54, R63, R66: a code group outside a frame is decoded at the running disparity of its lane, which it turns; one that is no character at that
disparity, or a K code outside its place, counts on its lane and in CODE_ERR and reports the port's group. In COMPLIANCE with
PRBS-31 the receiver that has found the pattern foretells each lane's byte from the 31 bits before it, counts its byte errors and marks their lanes.
The model's choices it rests on: log entry 77. -/
def Obligations.LaneErrors : Prop :=
  ∀ (s : State) (p : NetPort),
    let l := (s.port p).lane
    (∀ e : LoneGroup, laneHears s p e.lane.val = true → noPromotion s →
      let k := e.lane.val
      let g := if l.reversed.getLsbD k then ~~~e.group else e.group
      let rd := l.rxRd.getLsbD k != e.turned
      let heard := decodeGroup rd g
      let wrong := heardError heard = true ∨ (heardChar heard).any misplaced = true ∨ l.deaf = true
      let r : RegId := if k < 8 then .LAN_LANE_ERR_LO else .LAN_LANE_ERR_HI
      let taken := s.modLane p (fun l => { l with rxRd := BitVec.ofNat 16 (setBitTo l.rxRd.toNat k (rdAfterGroup g rd)) })
      (wrong → completes (.codeErrorOutsideFrame p e) s (fun t =>
        reportOnly ((taken.finc ⟨r, 8 * (k % 8) + 7, 8 * (k % 8)⟩ 1 p.val).finc F.LAN_ERR_CODE_ERR 1 p.val) t ∧
        (t.fget F.FLT_STATUS_SRC).testBit (56 + p.val / 8) = true)) ∧
      (¬ wrong → exec (.codeErrorOutsideFrame p e) s = .next taken)) ∧
    (∀ e : LoneGroup, laneHears s p e.lane.val = false → exec (.codeErrorOutsideFrame p e) s = .next s) ∧
    (∀ history, l.phase = .compliance → s.fget F.LAN_CTL_PATTERN p.val = 0 →
      exec (.prbsSync ⟨p, history⟩) s = .next (s.modLane p (fun l => { l with cmpSync := true, prbs := history }))) ∧
    (∀ history, ¬ (l.phase = .compliance ∧ s.fget F.LAN_CTL_PATTERN p.val = 0) → exec (.prbsSync ⟨p, history⟩) s = .next s) ∧
    (∀ bytes : Bytes, l.phase = .compliance → l.cmpSync = true →
      let checked := (l.prbs.zip bytes).map (fun e => prbsCheck 8 e.2.toNat e.1)
      let lanes := (checked.zipIdx.map (fun r => 2 ^ r.2 * b2n (!r.1.2))).sum
      exec (.prbsByteError p bytes) s = .next (((s.modLane p (fun l => { l with prbs := checked.map (·.1) })).finc F.LAN_CMP_ERR_ERRORS
        (popCount 16 lanes) p.val).fset F.LAN_CMP_ERR_ERR_MASK (s.fget F.LAN_CMP_ERR_ERR_MASK p.val ||| lanes) p.val)) ∧
    (∀ bytes : Bytes, ¬ (l.phase = .compliance ∧ l.cmpSync = true) → exec (.prbsByteError p bytes) s = .next s)

/-- R44, R54, R63 to R65, R93, R95, R314, R343: each of these takes the link of its port DOWN and leaves the lanes and link of every other port as
they were. After a loss of the forwarded clock or an LVE set, whose reason is kept, the port waits for its partner's clock at the rate now in LAN_CTL;
after training sets in UP it trains again; RETRAIN, a timeout of initialisation, the error window's limit and a change of the binding stop
its lanes as an L reset does and retry a PLL that did not lock, the last on every UP port at once. A link that was UP leaves the event LINK_DOWN with its
cause pending on both host ports. While a failed wake makes errors of the columns, sets of either kind only count.
The model's choices it rests on: log entry 78. -/
def Obligations.PortsLeave : Prop :=
  ∀ (s : State) (p : NetPort), s.routerRuns = true → s.role p ≠ .disabled → noPromotion s →
    let l := (s.port p).lane
    let left (ph : LanePhase) (leave : Nat) : LaneState :=
      { l with phase := ph, leave := leave, rate := trainRate s p, txAsleep := false, rxAsleep := false, widthDue := false, deaf := false,
               waking := 0, rxMask := 0, partnerMask := 0, cmpSync := false, adding := 0, addWait := 0 }
    let goesOn (t : State) (lane : LaneState) (cause : Nat) : Prop :=
      laneFace (t.port p).lane = laneFace lane ∧ (t.port p).link.phase = .down ∧ (∀ q, q ≠ p → portFaces t q = portFaces s q) ∧
        ((s.port p).link.phase = .up → ∀ h, ∃ d, asyncData t h 2 = some d ∧ d.toNat % 65536 = cause)
    let stops (t : State) (cause : Nat) : Prop :=
      (∀ q, portFaces t q = if q = p then (laneFace (laneStop (retryPll l)), .down) else portFaces s q) ∧
        ((s.port p).link.phase = .up → ∀ h, ∃ d, asyncData t h 2 = some d ∧ d.toNat % 65536 = cause)
    (l.phase = .up → l.rxAsleep = false → completes (.lcLoss p) s (fun t => goesOn t (left .waitClock l.leave) 2)) ∧
    (l.phase = .up → l.rxAsleep = false → l.deaf = false →
      (∀ reason, completes (.lveReceived p reason) s (fun t => goesOn t (left .waitClock (reason % 8)) 1)) ∧
      completes (.tsWhileUp p) s (fun t => goesOn t { left .eq l.leave with
        amplitude := (laneSetupOf s p).1, emphasis := (laneSetupOf s p).2, calUsed := s.cfg.calValid } 2)) ∧
    (l.phase = .up → l.rxAsleep = false → l.deaf = true →
      (∀ reason, exec (.lveReceived p reason) s = .next (columnErrors p 32 s)) ∧ exec (.tsWhileUp p) s = .next (columnErrors p 4 s)) ∧
    (∀ mid v, bitOf v 32 = true → completes (.retrain mid p v) s (fun t => stops t 4)) ∧
    ((s.port p).link.phase = .init → completes (.initTimeout p) s (fun t => stops t 6)) ∧
    (s.fget F.LNK_ERRWIN_LIMIT p.val ≠ 0 → s.fget F.LNK_ERRWIN_LIMIT p.val ≤ (s.port p).link.winCount →
      completes (.errorWindowLimit p) s (fun t => stops t 3 ∧ (t.port p).link.winCount = 0)) ∧
    (s.rst.bindDue = true → (∀ q, (s.port q).link.phase = .up → s.role q ≠ .disabled) →
      completes .bindingPortReset s (fun t => t.rst.bindDue = false ∧ ∀ q, portFaces t q =
        if (s.port q).link.phase = .up then (laneFace (laneStop (retryPll (s.port q).lane)), .down) else portFaces s q))

/-- R55, R58 to R60: the presence input of a module with no module takes every port of its group to NO_MODULE, with its link down if it was
UP; a module that appears lets the ports that may train wait for their partner's clock; ports of other groups stay. A pending request
of width meets a frame boundary of a direction that is awake: where its group is not usable it is refused; where it adds no lanes the group changes at once with
two WCH sets on the current lanes; else the added lanes send WAK sets first, and once they are awake the WCH sets go out on the lanes of both groups. The
majority of the WCH sets that arrive names the receiver's group; without one, or with width code 3, the direction is lost and training starts again.
The model's choices it rests on: log entries 54 and 78. -/
def Obligations.PresenceAndWidth : Prop :=
  ∀ (s : State),
    (∀ g, g < 8 → noPromotion s → completes (.modulePresenceChange g true) s (fun t =>
      t.modprs.toNat.testBit g = true ∧ ∀ q : NetPort,
        (q.val / 8 = g → (t.port q).lane.phase = .noModule ∧
          (t.port q).link.phase = if (s.port q).lane.phase = .up then .down else (s.port q).link.phase) ∧
        (q.val / 8 ≠ g → portFaces t q = portFaces s q))) ∧
    (∀ g, g < 8 → s.routerRuns = true → completes (.modulePresenceChange g false) s (fun t =>
      t.modprs.toNat.testBit g = false ∧ ∀ q : NetPort,
        (q.val / 8 = g → (s.port q).lane.phase = .noModule → s.role q ≠ .disabled → (s.port q).lane.stopped = false →
          (s.port q).lane.pll = .running → s.fget F.LAN_CTL_MODE q.val = 0 → (t.port q).lane.phase = .waitClock) ∧
        (q.val / 8 ≠ g ∨ (s.port q).lane.phase ≠ .noModule → t.port q = s.port q))) ∧
    (∀ g absent, 8 ≤ g → exec (.modulePresenceChange g absent) s = .next s) ∧
    (∀ p : NetPort, s.routerRuns = true → (s.port p).lane.phase = .up →
      let l := (s.port p).lane
      let asked := usableGroup l.partnerMask (s.fget F.LAN_CTL_WIDTH p.val) (s.fget F.LAN_CTL_GROUP p.val)
      let told (mask w g : Nat) : State :=
        if w = l.txWidth ∧ g = l.txGroup then s else sendSetOn p mask (.wch w g 2) s
      let inUse (w g : Nat) (u : State) : State := u.modLane p (fun l =>
        { l with widthDue := false, widthRefused := false, txWidth := w, txGroup := g, adding := 0, addWait := 0 })
      (l.txAsleep = true ∨ (s.port p).link.tx.isSome ∨ l.widthDue = false → exec (.widthChange p) s = .next s) ∧
      (l.txAsleep = false → (s.port p).link.tx = none → l.widthDue = true →
        (asked = none → exec (.widthChange p) s = .next (s.modLane p (fun l =>
          { l with widthDue := false, widthRefused := true, adding := 0, addWait := 0 }))) ∧
        (∀ w g, asked = some (w, g) →
          let added := (groupMask w g ||| txLanes l) - txLanes l
          (added = 0 → exec (.widthChange p) s = .next (inUse w g (told (txLanes l) w g))) ∧
          (added ≠ 0 → l.adding &&& added ≠ added → exec (.widthChange p) s = .next ((sendSetOn p added (.wak (wakSets l.rate)) s).modLane p
            (fun l => { l with adding := added, addWait := wakeTime l.rate }))) ∧
          (added ≠ 0 → l.adding &&& added = added →
            (l.addWait ≠ 0 → exec (.widthChange p) s = .next s) ∧
            (l.addWait = 0 → exec (.widthChange p) s = .next (inUse w g (told (txLanes l ||| groupMask w g) w g))))))) ∧
    (∀ (p : NetPort) (votes : List Nat),
      (hears s p = true →
        (∀ v, majority (votes.map (· % 16)) = some v → v % 4 ≠ 3 → exec (.wchReceived p votes) s =
          .next (s.modLane p (fun l => { l with rxWidth := v % 4, rxGroup := v / 4 }))) ∧
        ((∀ v, majority (votes.map (· % 16)) = some v → v % 4 = 3) → noPromotion s →
          completes (.wchReceived p votes) s (fun t => (t.port p).lane.phase = .eq ∧ (t.port p).link.phase = .down ∧
            ∀ q, q ≠ p → portFaces t q = portFaces s q))) ∧
      (receives s p = true → (s.port p).lane.deaf = true → exec (.wchReceived p votes) s = .next (columnErrors p 8 s)) ∧
      (receives s p = false → exec (.wchReceived p votes) s = .next s))

/-- R43, R282, R289, R296, R304, R310: the supplies and the clock. VDD_AON below its level holds the chip in a P reset, which keeps the
store, the queue and what the pins hold (while the core supply or PWRGD stands a write pulse still completes; without both the block
under it is open, R43) and resets ports, router, locks, capture and time; the release needs VDD_AON and REFCLK.
The core supply low is a fatal error but in SLEEP. PWRGD low asks for a C reset of source 0x3, means SLEEP under the power-fail
sequence and is only noted in SLEEP; PWRGD high wakes or lets a cold start go on. The loss of REFCLK marks the time unsynchronised
and, in ACTIVE and DOZE, is a fatal error.
The model's choices it rests on: log entries 2 and 47. -/
def Obligations.Supplies : Prop :=
  ∀ s : State,
    let pwrgd (b : Bool) : State := { s with pwr := { s.pwr with pwrgd := b } }
    let good : State := { s with pwr := { s.pwr with pwrgd := true, coreOk := true } }
    completes .vddAonLow s (fun t => t.rst.pHeld = true ∧ t.rst.resetN = s.rst.resetN ∧ t.pwr.vddAon = false ∧
      t.pwr.pwrgd = s.pwr.pwrgd ∧ (s.pwr.coreOk = true ∨ s.pwr.pwrgd = true → t.cfg.store = (progDone s).cfg.store) ∧
      (s.pwr.coreOk = false → s.pwr.pwrgd = false → ∀ a, (∀ b data n, s.cfg.prog = some (.write b data n) → a < b ∨ b + 64 ≤ a) →
        ramByte t.cfg.store a = ramByte s.cfg.store a) ∧
      t.pending = s.pending ∧ t.image = none ∧
      t.ports = Vector.replicate 64 portReset ∧ t.rtr = rtrReset ∧ t.locks = Vector.replicate 256 lockReset ∧ t.cap = capReset ∧
      t.tim = timReset ∧ t.sram = [] ∧ (∀ h, t.host h = { hostReset with hif := { hifReset with perst := (s.host h).hif.perst } }) ∧
      t.modprs = s.modprs) ∧
    exec .vddAonRise s = .next { s with pwr := { s.pwr with vddAon := true } } ∧
    (s.rst.pHeld = true → s.pwr.vddAon = true → s.pwr.refclk = true → s.pwr.pwrgd = false →
      exec .pResetRelease s = .next { s with rst := { s.rst with pHeld := false } }) ∧
    (s.rst.pHeld = true → s.pwr.vddAon = true → s.pwr.refclk = true → s.pwr.pwrgd = true →
      exec .pResetRelease s = .next (releaseC { s with rst := { s.rst with pHeld := false } })) ∧
    (s.rst.pHeld = false ∨ s.pwr.vddAon = false ∨ s.pwr.refclk = false → exec .pResetRelease s = .next s) ∧
    (s.pwr.state = .sleep → exec .supplyCoreLow s = .next { s with pwr := { s.pwr with coreOk := false } }) ∧
    (s.pwr.state ≠ .sleep → s.rst.pHeld = false → s.flt.lines.testBit 0 = false → noPromotion s →
      completes .supplyCoreLow s (fun t => t.flt.muzzle = true ∧ (t.fget F.FLT_STATUS_SRC).testBit 0 = true ∧ t.flt.lines.testBit 0 = true)) ∧
    (s.rst.pHeld = true ∨ s.pwr.state = .sleep → exec .pwrgdFall s = .next (pwrgd false)) ∧
    (s.rst.pHeld = false → s.pwr.state ≠ .sleep → s.pwr.pfwActive = true → exec .pwrgdFall s = .next (startPfwSleep (pwrgd false))) ∧
    (s.rst.pHeld = false → s.pwr.state ≠ .sleep → s.pwr.pfwActive = false → exec .pwrgdFall s =
      .next { pwrgd false with rst := { s.rst with waiting := s.rst.waiting ++ [⟨.C, 0, 3, 0#8, false⟩] } }) ∧
    (s.rst.cHeld = true → exec .pwrgdRise s = .next (if s.rst.cold then releaseC good else good)) ∧
    (s.rst.cHeld = false → exec .pwrgdRise s = .next (wakeEvent 3 false good)) ∧
    (s.rst.pHeld = false → s.pwr.state = .active ∨ s.pwr.state = .doze → s.flt.lines.testBit 2 = false → noPromotion s →
      completes .refclkLoss s (fun t => t.flt.muzzle = true ∧ (t.fget F.FLT_STATUS_SRC).testBit 2 = true ∧ t.tim.unsync = true ∧
        t.pwr.refclk = false)) ∧
    (s.timeSync = false →
      let lost : State := { s with pwr := { s.pwr with refclk := false }, tim := { s.tim with unsync := true } }
      (s.rst.pHeld = true → exec .refclkLoss s = .next lost) ∧
      (s.rst.pHeld = false → s.pwr.state = .active ∨ s.pwr.state = .doze → s.flt.lines.testBit 2 = true →
        exec .refclkLoss s = .next lost) ∧
      (s.rst.pHeld = false → s.pwr.state = .standby ∨ s.pwr.state = .sleep → exec .refclkLoss s =
        .next { lost with flt := { s.flt with lines := setBitTo s.flt.lines 2 false } }))

/-- R289, R300: a temperature sample is recorded with its maximum; below CRIT and with the warning as it was, nothing else changes but
the lines of the two levels. The power-fail warning is only noted in a P reset's absence and SLEEP; elsewhere it starts its sequence:
the event PFW with the hold-up time less a microsecond at both host ports, and every durable put that waits has its flush issued. The
end of the save window means SLEEP where SLEEP_ON_PFW says so, into which an entry under way is turned; the end of the warning clears the sequence and is wake source 0x4.
The model's choices it rests on: log entry 48. -/
def Obligations.PowerFailSequence : Prop :=
  ∀ s : State,
    let noted (b c : Bool) : State := { s with pwr := { s.pwr with pfw := b, pfwActive := c } }
    (∀ t, s.rst.pHeld = false →
      let v := (BitVec.ofNat 12 t).toInt
      let warn := tempOver s.pwr.tempWarn v (signedOf 12 (s.fget F.AON_TEMP_LIM_WARN))
      tempOver s.pwr.tempCrit v (signedOf 12 (s.fget F.AON_TEMP_LIM_CRIT)) = false → warn = false →
      completes (.tempSample t) s (fun u => u.pwr = { s.pwr with tempNow := BitVec.ofNat 12 t, tempWarn := false, tempCrit := false } ∧
        signedOf 12 (u.fget F.AON_TEMP_MAX) = max (signedOf 12 (s.fget F.AON_TEMP_MAX)) v ∧
        u = { s with pwr := u.pwr, regs := u.regs, flt := { s.flt with lines := u.flt.lines } } ∧
        u.flt.lines = setBitTo (setBitTo s.flt.lines 30 false) 1 false)) ∧
    (s.pwr.pfw = true ∨ s.rst.pHeld = true → exec .powerFail s = .next s) ∧
    (s.pwr.pfw = false → s.rst.pHeld = false → s.pwr.state = .sleep → exec .powerFail s = .next (noted true s.pwr.pfwActive)) ∧
    (s.pwr.pfw = false → s.rst.pHeld = false → s.pwr.state ≠ .sleep → noPromotion s →
      exec .powerFail s = .next (allHosts.foldl (fun t h => if t.hostLive h && t.nicRuns then flushEach h t else t)
        (asyncChip 7 0 (BitVec.ofNat 64 (s.fget F.PWR_PFW_HOLDUP_US - 1)) (noted true true))) ∧
      ((∀ h, (s.host h).rem.unflushed = []) → completes .powerFail s (fun t => t.pwr = (noted true true).pwr ∧ ∀ h,
        asyncData t h 7 = some (BitVec.ofNat 64 (s.fget F.PWR_PFW_HOLDUP_US - 1))))) ∧
    (s.pwr.pfw = true → exec .pfwDeassert s = .next (wakeEvent 4 false (noted false false))) ∧
    (s.pwr.pfwActive = true → s.flag F.PWR_PFW_SLEEP_ON_PFW = true → (∀ t w, s.pwr.transition ≠ some (.entry t w)) → s.pwr.state ≠ .sleep →
      exec .saveWindowExpiry s = .next (startEntry .sleep
        (allHosts.foldl (fun t h => if hostStatus t h = 0 then t else linkOff h (funcStart h t)) s))) ∧
    (∀ t w, s.pwr.pfwActive = true → s.flag F.PWR_PFW_SLEEP_ON_PFW = true → s.pwr.transition = some (.entry t w) → s.pwr.state ≠ .sleep →
      exec .saveWindowExpiry s = .next { s with pwr := { s.pwr with transition := some (.entry .sleep w) } }) ∧
    (s.pwr.pfwActive = false ∨ s.flag F.PWR_PFW_SLEEP_ON_PFW = false ∨ s.pwr.state = .sleep → exec .saveWindowExpiry s = .next s)

/-- R291, R292, R294: a write of PWR_CTL sets its fields and requests the state its REQ names. During a transition, and under the
power-fail sequence but for SLEEP, the request is refused with ENTRY_ERR 0x2 or 0x3. A request of the state reached changes nothing
more; ACTIVE and DOZE change into each other at once; STANDBY and SLEEP are entered with both host links down, else ENTRY_ERR is 0x1;
from STANDBY and SLEEP a request wakes or goes deeper. The requests of STANDBY count from the management bus and JTAG alone
(R295). Entry into DOZE applies PWR_BIAS (R293). AUTO_DOZE enters DOZE where the bit is set, and NIC_READY ends a wake of the NIC.
The model's choices it rests on: log entry 49. -/
def Obligations.PowerRequests : Prop :=
  ∀ (s : State) (mid : Mid) (v : Word), s.rst.pHeld = false →
    let u := (((s.fset F.PWR_CTL_REQ (fieldOf v 1 0)).fset F.PWR_CTL_AUTO_DOZE (fieldOf v 2 2)).fset F.PWR_CTL_DOZE_LANE_IDLE
      (fieldOf v 15 8)).fset F.PWR_CTL_DOZE_IDLE_US (fieldOf v 31 16)
    let e := u.fset F.PWR_STATUS_ENTRY_ERR 0
    let low := mid = 0#8 ∨ mid = 1#8
    (s.pwr.transition.isSome → exec (.requestActive mid v) s = .next (u.fset F.PWR_STATUS_ENTRY_ERR 2)) ∧
    (s.pwr.transition = none → s.pwr.pfwActive = true → fieldOf v 1 0 ≠ 3 →
      exec (.requestDoze mid v) s = .next (u.fset F.PWR_STATUS_ENTRY_ERR 3)) ∧
    (s.pwr.transition = none → s.pwr.pfwActive = false →
      (fieldOf v 1 0 = 0 →
        (s.pwr.state = .active → exec (.requestActive mid v) s = .next e) ∧
        (s.pwr.state = .doze → exec (.requestActive mid v) s = .next (dozeWake 7 e)) ∧
        (s.pwr.state = .standby ∨ s.pwr.state = .sleep → low → exec (.requestActive mid v) s = .next (wakeEvent 7 false e)) ∧
        (s.pwr.state = .standby ∨ s.pwr.state = .sleep → ¬ low → exec (.requestActive mid v) s = .next e)) ∧
      (fieldOf v 1 0 = 1 →
        (s.pwr.state = .active → exec (.requestDoze mid v) s =
          .next { e with pwr := { s.pwr with
            state := .doze, bias := (s.regWord .PWR_BIAS 0 0).setWidth 7, nicWaking := false } }) ∧
        (s.pwr.state = .doze → exec (.requestDoze mid v) s = .next e) ∧
        (s.pwr.state = .standby → low → exec (.requestDoze mid v) s = .next (wakeEvent 7 true e))) ∧
      (fieldOf v 1 0 = 2 →
        (s.pwr.state = .active ∨ s.pwr.state = .doze →
          (hostsDown s = true → exec (.requestStandby mid v) s = .next (startEntry .standby e) ∧
            completes (.requestStandby mid v) s (fun t => t.pwr.transition = some (.entry .standby none) ∧
              ∀ p, (t.port p).link.phase = .down ∧ (t.port p).lane.phase = .off)) ∧
          (hostsDown s = false → exec (.requestStandby mid v) s = .next (e.fset F.PWR_STATUS_ENTRY_ERR 1))) ∧
        (s.pwr.state = .standby → exec (.requestStandby mid v) s = .next e)) ∧
      (fieldOf v 1 0 = 3 →
        (s.pwr.state = .active ∨ s.pwr.state = .doze →
          (hostsDown s = true → exec (.requestSleep mid v) s = .next (startEntry .sleep e)) ∧
          (hostsDown s = false → exec (.requestSleep mid v) s = .next (e.fset F.PWR_STATUS_ENTRY_ERR 1))) ∧
        (s.pwr.state = .standby → low → exec (.requestSleep mid v) s = .next (startEntry .sleep e)) ∧
        (s.pwr.state = .sleep → exec (.requestSleep mid v) s = .next e))) ∧
    (s.flag F.PWR_CTL_AUTO_DOZE = true → s.nicRuns = true → s.pwr.state = .active → s.pwr.transition = none →
      s.pwr.nicWaking = false → exec .autoDoze s = .next { s with pwr := { s.pwr with
        state := .doze, bias := (s.regWord .PWR_BIAS 0 0).setWidth 7 } }) ∧
    (s.flag F.PWR_CTL_AUTO_DOZE = false ∨ s.pwr.state ≠ .active → exec .autoDoze s = .next s) ∧
    (s.pwr.nicWaking = true → exec .nicReady s = .next
      (allHosts.foldl (fun t h => portGoesOn h (releaseBells h t)) { s with pwr := { s.pwr with nicWaking := false } })) ∧
    (s.pwr.nicWaking = false → exec .nicReady s = .next s)

/-- R282, R289, R291, R293, R296 to R299, R331, R340: the ends of a transition, and the wakes. An entry waits for the pulse of a WRITE or of a control
record; it ends with PWR_BIAS applied, the PLLs off and every lane in its reset
state; SLEEP switches the core domains off and loses the time, and a wake recorded meanwhile starts the exit at once. An exit from
STANDBY lets the ports train again; one from SLEEP is a C reset of source 0x9, or, where a Muzzle with ESC_RESET stands, leaves that to escalation; both start
the lock array anew. WAKE_N (source 0x0) wakes from STANDBY and SLEEP, the timer that runs out (0x2) too, each where its bit of PWR_WAKE_EN is set; a wake
records itself with the state left and the time and starts the exit. The whistle listens in SLEEP; an access to the retained SRAM's
data register writes or reads the addressed word and steps the address where AUTO_INC says so.
The model's choices it rests on: log entry 49. -/
def Obligations.WakeAndWhistle : Prop :=
  ∀ s : State,
    let source (k from_ : Nat) : Word := packFields [(3, 0, k), (4, 4, 0), (6, 5, from_), (63, 16, s.tim.now.toNat)]
    let laid (k : Nat) (u : State) : State := u.setWord .PWR_WAKE_SRC (source k 3) 0 0
    let woken (u : State) : State := { u with pwr := { u.pwr with transition := some (.exit .sleep false), coreOn := true } }
    let quiet (u : State) : State := { u with flt := { u.flt with lines := setBitTo (setBitTo u.flt.lines 2 false) 0 false } }
    let ended (target : PowerState) : State := quiet { s with
      ports := s.ports.map (fun q => { portOff q with lane := { (portOff q).lane with pll := .off } }), ints := s.ints.map intHeld,
      pwr := { s.pwr with state := target, transition := none, corePll := .off, hostPll := Vector.replicate 2 .off,
                          bias := (s.regWord .PWR_BIAS 0 0).setWidth 7,
                          coreOn := decide (target ≠ .sleep), pfwActive := s.pwr.pfwActive && decide (target ≠ .sleep) } }
    (pulsing s.cfg = false →
      (s.pwr.coreOk = true →
        (s.pwr.transition = some (.entry .standby none) → exec .powerEntryDone s = .next (ended .standby)) ∧
        (∀ k, s.pwr.transition = some (.entry .standby (some k)) →
          exec .powerEntryDone s = .next (startExit .standby false (ended .standby)))) ∧
      (s.timeSync = false →
        let asleep : State := { ended .sleep with tim := { s.tim with unsync := true } }
        (s.pwr.transition = some (.entry .sleep none) → exec .powerEntryDone s = .next asleep) ∧
        (∀ k, s.pwr.transition = some (.entry .sleep (some k)) → exec .powerEntryDone s = .next (woken asleep)))) ∧
    (pulsing s.cfg = true ∨ s.pwr.transition = none → exec .powerEntryDone s = .next s) ∧
    (s.pwr.transition = none → exec .wakeExitDone s = .next s) ∧
    (∀ doze, s.pwr.transition = some (.exit .standby doze) → s.pwr.refclk = true → exec .wakeExitDone s = .next
      (allPorts.foldl (fun t p => startTraining p t)
        { s with pwr := { s.pwr with state := if doze then .doze else .active, transition := none,
                                     bias := if doze then (s.regWord .PWR_BIAS 0 0).setWidth 7 else s.pwr.bias },
                 flt := { s.flt with lines := setBitTo s.flt.lines 2 false } })) ∧
    (∀ doze, s.pwr.transition = some (.exit .standby doze) → s.pwr.refclk = false → s.flt.lines.testBit 2 = false →
      completes .wakeExitDone s (fun t => t.flt.muzzle = true ∧ t.pwr.transition = none)) ∧
    (∀ doze, s.pwr.transition = some (.exit .sleep doze) → s.flt.muzzle = false ∨ s.flag F.FLT_CTL_ESC_RESET = false →
      exec .wakeExitDone s = .next (watchSupply (holdC 9 0#8 false false s)) ∧
      completes .wakeExitDone s (fun t => t.rst.cHeld = true ∧ t.image = none ∧ t.pwr.state = .active ∧ t.pwr.transition = none ∧
        t.locks = Vector.replicate 256 lockReset)) ∧
    (∀ doze, s.pwr.transition = some (.exit .sleep doze) → s.flt.muzzle = true → s.flag F.FLT_CTL_ESC_RESET = true →
      s.pwr.refclk = true → s.pwr.coreOk = true → exec .wakeExitDone s = .next (quiet { s with
        locks := Vector.replicate 256 lockReset, pwr := { s.pwr with state := .active, transition := none } })) ∧
    (s.rst.pHeld = false → s.pwr.transition = none →
      (s.pwr.state = .sleep →
        ((s.fget F.PWR_WAKE_EN_EN).testBit 0 = true → exec .wakeN s = .next (woken (laid 0 s))) ∧
        ((s.fget F.PWR_WAKE_EN_EN).testBit 2 = true → s.fget F.AON_TIMER_TICKS ≠ 0 → exec .aonTimer s =
          .next (woken (laid 2 (s.fset F.AON_TIMER_TICKS 0))))) ∧
      (s.pwr.state = .standby → (s.fget F.PWR_WAKE_EN_EN).testBit 0 = true → completes .wakeN s (fun t =>
        t.pwr.transition = some (.exit .standby false) ∧ t.regWord .PWR_WAKE_SRC 0 0 = source 0 2 ∧
        (s.flt.muzzle = false → t.pwr.corePll = .starting ∧ ∀ p, (t.port p).lane.pll = .starting))) ∧
      (s.pwr.state = .active ∨ s.pwr.state = .doze → exec .wakeN s = .next s)) ∧
    (s.rst.pHeld = true ∨ (s.fget F.PWR_WAKE_EN_EN).testBit 0 = false → exec .wakeN s = .next s) ∧
    (s.fget F.AON_TIMER_TICKS = 0 → exec .aonTimer s = .next s) ∧
    (s.fget F.AON_TIMER_TICKS ≠ 0 → s.rst.pHeld = true ∨ (s.fget F.PWR_WAKE_EN_EN).testBit 2 = false →
      exec .aonTimer s = .next (s.fset F.AON_TIMER_TICKS 0)) ∧
    (s.pwr.state = .sleep → s.pwr.transition = none →
      (s.pwr.refclk = true → exec .whistle s = .next { s with pwr := { s.pwr with whistle := true } }) ∧
      (s.pwr.refclk = false → exec .whistle s = .next (s.setWord .PWR_WAKE_SRC
        (packFields [(3, 0, 1), (4, 4, 1), (6, 5, 3), (63, 16, s.tim.now.toNat)]) 0 0))) ∧
    (s.pwr.state ≠ .sleep → exec .whistle s = .next s) ∧
    exec .whistleIdle s = .next { s with pwr := { s.pwr with whistle := false } } ∧
    (s.rst.pHeld = false → ∀ mid,
      let a := 8 * s.fget F.AON_RSRAM_ADDR_ADDR
      let stepped (u : State) : State :=
        if s.flag F.AON_RSRAM_ADDR_AUTO_INC then u.fset F.AON_RSRAM_ADDR_ADDR (s.fget F.AON_RSRAM_ADDR_ADDR + 1) else u
      (∀ v, exec (.rsramDataAccess mid (some v)) s = .next
        (stepped { s with pwr := { s.pwr with rsram := ramWrite s.pwr.rsram a (leBytes 8 v.toNat) } })) ∧
      exec (.rsramDataAccess mid none) s = .next ((stepped s).emit
        (.regRead mid (BitVec.ofNat 24 (regAddr .AON_RSRAM_DATA 0 0)) (BitVec.ofNat 64 (leNat (ramRead s.pwr.rsram a 8))))))

/-- R52, R54, R63, R70, R71, R74, R75, R77, R79, R81: a PACKET frame on a link in UP, read from the code groups of its lanes, the errors among them counted and its
acknowledgement acted on. A sequence number 1,024 to
3,072 ahead of RX_NEXT counts SEQ_ERR and an error; a number behind or already held counts DUP and is acknowledged again; a frame with code errors or
whose FCRC fails counts, is named missing and is an error; a good one without room in its staging is a protocol error; the frame at RX_NEXT
takes staging, is released to the router with the held frames that follow it and is acknowledged; a later one is held, and the
numbers missing before it are named. The head of one at RX_NEXT that is still arriving goes to the router ahead of its tail. A header that fails its CRC
counts and is an error. A named number still missing is named
again. ABT drops the arriving frame with its outgoing copy; an arriving frame that ends well is accepted in order, and its copy gets its EOF; one that
ends badly is dropped with its copy and named missing.
The model's choices it rests on: log entry 77. -/
def Obligations.FramesArrive : Prop :=
  ∀ (s : State) (p : NetPort),
    (∀ (turned : BitVec 16) (groups : List (List (BitVec 10))) (tail : Bool), receives s p = true → (s.port p).lane.deaf = false →
      let r := readFrame (s.port p).lane turned groups tail
      let bytes := r.bytes
      let counted := codeErrors p r.errs (s.modLane p (fun l => { l with rxRd := r.rd }))
      let coded := r.errs.any (fun e => e.2 ≠ 0)
      (crc16 (bytes.take 6) ≠ leAt bytes 6 2 → exec (.frameReceived p turned groups tail) s =
        .next (linkError p (counted.finc F.LNK_ERR_HCRC_ERR 1 p.val))) ∧
      (crc16 (bytes.take 6) = leAt bytes 6 2 → leAt bytes 0 2 / 4096 = 1 → (counted.port p).link.phase = .up →
        let u := if (leAt bytes 4 2).testBit 12 then processAck p (BitVec.ofNat 12 (leAt bytes 4 2)) counted else counted
        let fseq := BitVec.ofNat 12 (leAt bytes 0 2)
        let len := leAt bytes 2 2 % 8192
        let tc := leAt bytes 2 2 / 8192
        let pkt := pktOfBytes ((bytes.drop 8).take len)
        let d := seqDist fseq (u.port p).link.rxNext
        let fresh := d < 1024 ∧ tblGet fseq.toNat (u.port p).link.held = none
        let staged := u.modLink p (stageIn pkt tc)
        let bad := coded = true ∨ crc32 (bytes.take (8 + len)) ≠ leAt bytes (8 + len) 4
        let answers (t : State) : Prop := exec (.frameReceived p turned groups tail) s = .next t
        (u.port p).link.phase = .up →
        (1024 ≤ d → d ≤ 3072 → answers (linkError p (u.finc F.LNK_ERR_SEQ_ERR 1 p.val))) ∧
        (3073 ≤ d ∨ (d < 1024 ∧ (tblGet fseq.toNat (u.port p).link.held).isSome) →
          answers (sendAck p (u.finc F.LNK_ERR_DUP 1 p.val))) ∧
        (fresh → tail = true →
          (bad → answers (badFrame p fseq u)) ∧
          (¬ bad → stageRoom pkt tc (u.port p).link = false → answers (resetL p 4 5 false u)) ∧
          (¬ bad → stageRoom pkt tc (u.port p).link = true →
            (d = 0 → answers
              (let v := releaseIn p tc pkt (firstByte u p pkt) true true (staged.modLink p (fun l =>
                { l with rxNext := (staged.port p).link.rxNext + 1,
                         named := l.named.filter (fun k => decide (k ≠ (staged.port p).link.rxNext.toNat)) }))
               sendAck p (releaseHeld p (v.port p).link.held.length v))) ∧
            (d ≠ 0 → answers
              (let v := staged.modLink p (fun l => { l with held := tblSet fseq.toNat (tc, pkt, firstByte u p pkt) l.held,
                                                            named := l.named.filter (fun k => decide (k ≠ fseq.toNat)) })
               sendNaks p ((List.range d).filter (fun e =>
                 let n := ((v.port p).link.rxNext + BitVec.ofNat 12 e).toNat
                 (tblGet n (v.port p).link.held).isNone && !(v.port p).link.named.contains n)) v)))) ∧
        (fresh → tail = false →
          (d = 0 → coded = false → (u.port p).link.arriving = none → stageRoom pkt tc (u.port p).link = true →
            answers (releaseIn p tc pkt u.clock false true (u.modLink p (fun l =>
              { stageIn pkt tc l with arriving := some { tc := tc, pkt := pkt, dropped := false } })))) ∧
          (d ≠ 0 ∨ coded = true ∨ (u.port p).link.arriving.isSome ∨ stageRoom pkt tc (u.port p).link = false → answers u)))) ∧
    (∀ turned groups tail, receives s p = false → exec (.frameReceived p turned groups tail) s = .next s) ∧
    (∀ fseq : BitVec 12, let l := (s.port p).link
      (portUp s p = true → l.named.contains fseq.toNat = true → tblGet fseq.toNat l.held = none → seqDist fseq l.rxNext < 1024 →
        exec (.nakRepeat p fseq) s = .next (sendNaks p [seqDist fseq l.rxNext] s)) ∧
      (l.named.contains fseq.toNat = false → exec (.nakRepeat p fseq) s = .next s)) ∧
    (∀ a : Arriving, (s.port p).link.arriving = some a →
      let dropped := (dropArriving p s).modLink p (stageDrop a.pkt a.tc)
      let ended := s.modLink p (fun l => { l with arriving := none })
      (hears s p = true → exec (.abtReceived p) s = .next (dropped.finc F.LNK_ERR_ABT_RX 1 p.val)) ∧
      exec (.cutThroughClose p false) s = .next (badFrame p (s.port p).link.rxNext dropped) ∧
      ((s.port p).inp.cutTo = none → a.dropped = false → exec (.cutThroughClose p true) s = .next (acceptNext p (ended.modPort p (fun q =>
        { q with inp := { q.inp with presented := q.inp.presented.map (fun j => { j with whole := true }),
                                     queue := q.inp.queue.map (fun j => { j with whole := true }) } })))) ∧
      ((s.port p).inp.cutTo = none → a.dropped = true → exec (.cutThroughClose p true) s = .next (acceptNext p (returnCredits p
        { pkt := a.pkt, tc := a.tc, arrived := s.clock, fabric := 0#64, fixes := 0, whole := true, dwell := 0, bounced := false,
          owed := true } ended))) ∧
      (∀ out, (s.port p).inp.cutTo = some out → exec (.cutThroughClose p true) s = .next (acceptNext p
        ((releaseOutput out (p.castLE (by decide)) ended).modPort p (fun q => { q with inp :=
          { q.inp with presented := none, cutTo := none, streaming := max 1 (ended.port out).busy,
                       leaving := q.inp.presented.map (fun j => { j with whole := true }) } }))))) ∧
    ((s.port p).link.arriving = none → (∀ ok, exec (.cutThroughClose p ok) s = .next s) ∧
      (hears s p = true → exec (.abtReceived p) s = .next (s.finc F.LNK_ERR_ABT_RX 1 p.val))) ∧
    (receives s p = true → (s.port p).lane.deaf = true → exec (.abtReceived p) s = .next (columnErrors p 1 s)) ∧
    (receives s p = false → exec (.abtReceived p) s = .next s)

/-- R63, R72, R73, R76, R78, R84, R86, R89: control sets and the timers of a link in UP. An ACK set whose number lies among the frames
outstanding frees them; one far outside counts SEQ_ERR and an error; a NAK set marks what it names for retransmission after
its acknowledgement; a CREDIT set advances the returned counts, and one past the credits outstanding is a protocol error; a set no
copy of which passes its CRC counts and is an error. The replay timeout retransmits the oldest frame and counts; the refresh sends
the counts of every class, waking the lanes where they sleep; the error window's end clears its count. While a
failed wake makes errors of the columns, a set only counts (R63). -/
def Obligations.ControlSets : Prop :=
  ∀ (s : State) (p : NetPort) (set c : Bytes),
    let l := (s.port p).link
    let ack := BitVec.ofNat 12 (leAt c 1 2)
    let freed (a : BitVec 12) (u : State) : State := u.modLink p (fun l =>
      { l with txAcked := a, replay := l.replay.filter (fun f => seqDist a (u.port p).link.txAcked ≤ seqDist f.fseq l.txAcked) })
    (hears s p = true → l.phase = .up →
      (crGood set = none → exec (.creditSetReceived p set) s = .next (linkError p (s.finc F.LNK_ERR_CR_ERR 1 p.val))) ∧
      (crGood set = some c →
        (leAt c 0 1 % 16 = 2 →
          (seqDist ack l.txAcked ≤ outstanding l → exec (.ackSetReceived p set) s = .next (freed ack s)) ∧
          (outstanding l < seqDist ack l.txAcked → 1024 < seqDist l.txAcked ack →
            exec (.ackSetReceived p set) s = .next (linkError p (s.finc F.LNK_ERR_SEQ_ERR 1 p.val))) ∧
          (outstanding l < seqDist ack l.txAcked → seqDist l.txAcked ack ≤ 1024 → exec (.ackSetReceived p set) s = .next s)) ∧
        (leAt c 0 1 % 16 = 3 → seqDist (BitVec.ofNat 12 (leAt c 5 2)) l.txAcked ≤ outstanding l →
          exec (.nakSetReceived p set) s = .next (wakeToResend p ((freed (BitVec.ofNat 12 (leAt c 5 2)) s).modLink p (fun l =>
            { l with replay := l.replay.map (fun f =>
              let d := seqDist f.fseq ack
              if d < 16 && (leAt c 3 2).testBit d then { f with rtxDue := true } else f) })))) ∧
        (leAt c 0 1 % 16 = 1 → ∀ l1 l2, creditEntry (leAt c 1 1) (leAt c 2 2) l = some l1 →
          creditEntry (leAt c 4 1) (leAt c 5 2) l1 = some l2 → exec (.creditSetReceived p set) s = .next (s.modLink p (fun _ => l2))) ∧
        (leAt c 0 1 % 16 = 1 → creditEntry (leAt c 1 1) (leAt c 2 2) l = none →
          exec (.creditSetReceived p set) s = .next (resetL p 4 5 false s)))) ∧
    (portUp s p = true → 0 < outstanding l → exec (.replayTimeout p) s = .next (linkError p ((wakeToResend p
      (s.modLink p (fun l => { l with replay := l.replay.map (fun f => if f.fseq = l.txAcked then { f with rtxDue := true } else f) }))).finc
        F.LNK_ERR_TIMEOUTS 1 p.val))) ∧
    (outstanding l = 0 → exec (.replayTimeout p) s = .next s) ∧
    (portUp s p = true → (s.port p).lane.rxAsleep = false →
      ((s.port p).lane.txAsleep = true → exec (.creditRefresh p) s = .next (wakeTx p s)) ∧
      ((s.port p).lane.txAsleep = false → exec (.creditRefresh p) s = .next
        ((List.range 8).foldl (fun t tc => sendSet p (.cr (creditSet (t.port p).link tc)) t) s))) ∧
    (receives s p = true → (s.port p).lane.deaf = true → exec (.creditSetReceived p set) s = .next (columnErrors p 4 s) ∧
      exec (.ackSetReceived p set) s = .next (columnErrors p 4 s)) ∧
    exec (.errorWindowExpiry p) s = .next (s.modLink p (fun l => { l with winCount := 0 }))

/-- R89 to R92: initialisation and admission. A port whose lanes are up and whose link is not sends its INIT record; a good INIT
frame's record is kept, and one that reports this side seen ends the phase INIT; one with code errors or a wrong FCRC counts as a
corrupted frame. The admission checks take the link UP with the
partner's credits, or refuse it with the reason; each leaves its event, LINK_UP or LINK_REFUSED, at both host ports. READMIT of a
refused link runs the checks again. -/
def Obligations.LinkAdmission : Prop :=
  ∀ (s : State) (p : NetPort),
    let l := (s.port p).link
    let record := l.peer.getD []
    (s.routerRuns = true → (s.port p).lane.phase = .up → (s.port p).lane.txAsleep = false →
      l.phase = .init ∨ l.phase = .check ∨ l.phase = .refused →
      exec (.initFrameSend p) s = .next (sendFrame p (initFrame s p) false s)) ∧
    (l.phase = .up ∨ l.phase = .down → exec (.initFrameSend p) s = .next s) ∧
    (∀ frame : CodedFrame, receives s p = true → (s.port p).lane.deaf = false →
      let r := readFrame (s.port p).lane frame.turned frame.groups true
      let bytes := r.bytes
      let taken := s.modLane p (fun l => { l with rxRd := r.rd })
      let coded := r.errs.any (fun e => e.2 ≠ 0)
      let init := padTo 64 ((bytes.drop 8).take 64)
      let seen := (leAt init 0 4).testBit 26
      crc16 (bytes.take 6) = leAt bytes 6 2 → leAt bytes 0 2 / 4096 = 2 →
      (coded = false → leAt bytes 2 2 % 8192 = 64 → crc32 (bytes.take 72) = leAt bytes 72 4 →
        (l.phase = .init → exec (.initFrameReceived p frame) s = .next (taken.modLink p (fun l =>
          { l with peer := some init, peerSeen := true, phase := if seen then .check else .init }))) ∧
        (l.phase = .check ∨ l.phase = .refused → exec (.initFrameReceived p frame) s = .next (taken.modLink p (fun l =>
          { l with peer := some init, peerSeen := true }))) ∧
        (l.phase = .up → seen = true → exec (.initFrameReceived p frame) s = .next taken) ∧
        (l.phase = .up → seen = false → exec (.initFrameReceived p frame) s = .next (resetL p 4 2 false taken))) ∧
      (coded = true ∨ crc32 (bytes.take 72) ≠ leAt bytes 72 4 → exec (.initFrameReceived p frame) s =
        .next (linkError p ((codeErrors p r.errs taken).finc F.LNK_ERR_FCRC_ERR 1 p.val)))) ∧
    (noPromotion s → l.phase = .check →
      (∀ r, admission s p record = (0, r) → completes (.admissionCheck p) s (fun t => (t.port p).link.phase = .up ∧
        (t.port p).link.restricted = r ∧ (t.port p).link.txNext = 0 ∧ (t.port p).link.rxNext = 0 ∧ (t.port p).link.replay = [] ∧
        ∀ h, asyncData t h 1 = some (linkUpData record))) ∧
      (∀ why r, why ≠ 0 → admission s p record = (why, r) → completes (.admissionCheck p) s (fun t => (t.port p).link.phase = .refused ∧
        (t.port p).link.refuse = why ∧ ∀ h, asyncData t h 3 = some (linkRefusedData why record)))) ∧
    (l.phase ≠ .check → exec (.admissionCheck p) s = .next s) ∧
    (∀ mid v, s.routerRuns = true → s.role p ≠ .disabled → bitOf v 16 = true → l.phase = .refused →
      exec (.readmit mid p v) s = .next (admitLink p (writePlain .LNK_CTL p.val 0 v s)))

/-- R23, R85, R112, R121, R123, R129, R130, R132, R356: a core cycle counts in every enabled unit and steps the random number of each host port; with
the router core running every port's timers advance by a cycle, the allocator grants once over all ports but those DBG_HALT stops, and every
output sends what its columns allow, port 0 first; packets that have streamed out return their credits, the management agent goes on to its next request,
and the engines classify their slots. A whole transit packet at DWELL_MAX with no free output, and one older than
AGE_LIMIT, leave their input as discards of cause 2 and 1, counted in their registers. The head of an ejection buffer bounces: it
goes behind the packets already bounced with its BOUNCED bit set, counted and captured. -/
def Obligations.RouterCycles : Prop :=
  ∀ s : State,
    (s.nicRuns = false → s.routerRuns = false → (countCycles s).nicRuns = false → (countCycles s).routerRuns = false →
      exec .allocatorCycle s = .next (countCycles s)) ∧
    (let u := countCycles s
     let v : State := { u with hosts := u.hosts.map (fun h => { h with xlt := { h.xlt with lfsr := lfsrStep h.xlt.lfsr } }) }
     u.nicRuns = true → v.routerRuns = true → exec .allocatorCycle s = .next (engineSlots (agentCycle
      (allPorts.foldl (fun t p => transmit p t) (allocatorStep (rtrHalted v) (finishLeaving (tickPorts v))))))) ∧
    (s.agentWorks = true → (∀ a b rest, s.agent = a :: b :: rest → agentCycle s = agentServe b { s with agent := b :: rest }) ∧
      (∀ a, s.agent = [a] → agentCycle s = { s with agent := [] })) ∧
    (∀ (x : XbarPort) (c : Cand), presentedCand s x = some c → c.fresh = false →
      (c.item.whole = true → dwellMax s ≤ c.item.dwell →
        freeOf s (rtrHalted s) [] c ((List.range 64).filter (roleIn s)) = [] →
        exec (.dwellDiscard x) s = .next (dropPresented c (recordDiscard c.x.val 2 c.item.dwell c.item.pkt (s.finc F.RTR_DISC_DWELL 1)))) ∧
      (c.item.dwell < dwellMax s → exec (.dwellDiscard x) s = .next s) ∧
      (ageLimit s < inAge s c.item → exec (.ageDiscard x) s =
        .next (dropPresented c (recordDiscard c.x.val 1 c.item.dwell c.item.pkt (s.finc F.RTR_DISC_AGE 1)))) ∧
      (inAge s c.item ≤ ageLimit s → exec (.ageDiscard x) s = .next s)) ∧
    (∀ x : XbarPort, presentedCand s x = none → exec (.dwellDiscard x) s = .next s ∧ exec (.ageDiscard x) s = .next s) ∧
    (∀ ip : IntPort, s.ints[ip].eject = [] → exec (.ejectWaitBounce ip) s = .next s) ∧
    (∀ (ip : IntPort) (e : InPacket) (es : List InPacket), s.ints[ip].eject = e :: es →
      let pkt := pktSetBounced (pktSetAge e.pkt (inAge s e))
      completes (.ejectWaitBounce ip) s (fun t => t.ints[ip].eject = es ∧
        t.ints[ip].bounced = s.ints[ip].bounced ++ [{ e with pkt := pkt, arrived := s.clock, bounced := true, dwell := 0 }] ∧
        (∀ q : IntPort, q ≠ ip → t.ints[q] = s.ints[q]) ∧ t.ports = s.ports ∧ t.rtr = s.rtr ∧ t.hosts = s.hosts))

/-- R119, R138, R139, R141, R142: the router's tables and epochs. A command while one is in progress is refused with ERR 0x3, a table
that does not exist or may not be written with 0x2, an INDEX outside its table with 0x1. WRITE takes the data register and completes
later, in the table it names; READ alone answers at once. A write of RTR_EPOCH that closes the version it makes current is refused
with ERR 0x1, and a copy that is in progress or meets an open version with 0x2; else the epoch and the versions' open bits are set (the
target of a running copy stays closed), and COPY starts, after the table write that still runs; its end leaves the other version with the whole of the current one.
The model's choices it rests on: log entries 56 and 79. -/
def Obligations.TablesAndEpochs : Prop :=
  ∀ (s : State) (mid : Mid) (v : Word), s.routerRuns = true →
    let index := fieldOf v 17 0
    let table := fieldOf v 21 20
    let named := ((s.fset F.RTR_TBL_CTL_INDEX index).fset F.RTR_TBL_CTL_TABLE table).fset F.RTR_TBL_CTL_AUTO_INC (fieldOf v 26 26)
    let advanced (u : State) : State :=
      if u.flag F.RTR_TBL_CTL_AUTO_INC then u.fset F.RTR_TBL_CTL_INDEX ((u.fget F.RTR_TBL_CTL_INDEX + 1) % 2 ^ 18) else u
    (bitOf v 24 = true → tableBusy s = true → exec (.tableWrite mid v) s = .next (s.fset F.RTR_TBL_CTL_ERR 3)) ∧
    (bitOf v 24 = true → tableBusy s = false → 2 ≤ table → exec (.tableWrite mid v) s = .next (s.fset F.RTR_TBL_CTL_ERR 2)) ∧
    (bitOf v 24 = true → tableBusy s = false → table < 2 → indexIn s table index = false →
      exec (.tableWrite mid v) s = .next (s.fset F.RTR_TBL_CTL_ERR 1)) ∧
    (bitOf v 24 = true → tableBusy s = false → table < 2 → indexIn s table index = true →
      exec (.tableWrite mid v) s = .next { named.fset F.RTR_TBL_CTL_ERR 0 with
        rtr := { s.rtr with command := some (table, index, some (named.regWord .RTR_TBL_DATA 0 0), bitOf v 25) } }) ∧
    (bitOf v 24 = false → bitOf v 25 = true →
      (tableBusy s = true → exec (.tableRead mid v) s = .next (s.fset F.RTR_TBL_CTL_ERR 3)) ∧
      (tableBusy s = false → table = 3 → exec (.tableRead mid v) s = .next (s.fset F.RTR_TBL_CTL_ERR 2)) ∧
      (tableBusy s = false → table < 3 → indexIn s table index = true → exec (.tableRead mid v) s =
        .next (advanced ((named.fset F.RTR_TBL_CTL_ERR 0).setWord .RTR_TBL_DATA (readEntry named table index) 0 0)))) ∧
    (∀ t i e, s.rtr.command = some (t, i, some e, false) → exec .tableWriteDone s =
      .next (advanced { s with rtr := { putEntry t i e s.rtr with command := none } })) ∧
    (∀ t i e, s.rtr.command = some (t, i, some e, true) → exec .tableWriteDone s =
      .next (let u : State := { s with rtr := { putEntry t i e s.rtr with command := none } }
             advanced (u.setWord .RTR_TBL_DATA (readEntry u t i) 0 0))) ∧
    (s.rtr.command = none → exec .tableWriteDone s = .next s) ∧
    (let cur := fieldOf v 0 0
     let stays (ver : Nat) : Bool := bitOf v (1 + ver) && decide (s.rtr.copying ≠ some (1 - ver))
     let set (u : State) : State := (((u.fset F.RTR_EPOCH_CURRENT cur).fset F.RTR_EPOCH_OPEN_A (b2n (stays 0))).fset F.RTR_EPOCH_OPEN_B
       (b2n (stays 1))).fset F.RTR_EPOCH_ERR 0
     let seen := if decide (cur ≠ epochCurrent s) then s.clock else s.rtr.oldSeen
     (stays cur = false → exec (.epochSet mid v) s = .next (s.fset F.RTR_EPOCH_ERR 1)) ∧
     (stays cur = true → bitOf v 3 = false → exec (.epochSet mid v) s = .next { set s with rtr := { s.rtr with oldSeen := seen } }) ∧
     (stays cur = true → bitOf v 3 = true → s.rtr.copying.isSome ∨ stays (1 - cur) = true →
       exec (.copy mid v) s = .next (s.fset F.RTR_EPOCH_ERR 2)) ∧
     (stays cur = true → bitOf v 3 = true → s.rtr.copying = none → stays (1 - cur) = false → exec (.copy mid v) s =
       .next { set (tableDone s) with rtr := { (tableDone s).rtr with copying := some cur, oldSeen := seen } })) ∧
    (s.rtr.copying = some 0 → exec .copyDone s = .next { s with rtr := { s.rtr with copying := none, tableB := s.rtr.tableA } }) ∧
    (s.rtr.copying = some 1 → exec .copyDone s = .next { s with rtr := { s.rtr with copying := none, tableA := s.rtr.tableB } }) ∧
    (s.rtr.copying = none → exec .copyDone s = .next s)

/-- R9, R158, R159, R170, R294: doorbells. One that reaches a function whose NIC sleeps in DOZE wakes it and is held. A queue that
does not exist, and one being destroyed, count DB_NOQ and DB_CLOSED. An index doorbell within the ring moves PI, an index already held
changes nothing more, and one more than the ring's size ahead of HEAD halts the function with cause 0x6; an inline doorbell of 64 bytes puts its descriptor at
PI and moves PI by one, halting for a full ring (0x6) or a wrong PHASE (0x5). A write of another size or place counts DB_BAD.
The model's choices it rests on: log entries 42 and 69. -/
def Obligations.Doorbells : Prop :=
  ∀ (s : State) (h : HostPort) (wq : Nat) (v : Word) (desc : Bytes), s.hifRuns h.val = true → (s.host h).hif.linkUp = true →
    s.coreRuns = true →
    let counted := pmcHost h.val 0x38 1 s
    (s.pwr.nicWaking = true → s.pwr.state ≠ .doze → exec (.indexDoorbell h wq v) s =
      .next (s.modHif h (fun x => { x with heldBells := x.heldBells ++ [(wq, leBytes 8 v.toNat)] }))) ∧
    (s.pwr.state = .doze → s.pwr.transition = none → exec (.indexDoorbell h wq v) s =
      .next ((dozeWake 8 s).modHif h (fun x => { x with heldBells := x.heldBells ++ [(wq, leBytes 8 v.toNat)] }))) ∧
    (s.pwr.nicWaking = false → s.pwr.state = .active → s.hostLive h = true →
      (tblGet wq (s.host h).wqs = none → exec (.indexDoorbell h wq v) s = .next (s.finc F.HIF_ERR_DB_NOQ 1 h.val)) ∧
      (∀ q, tblGet wq (s.host h).wqs = some q →
        (q.closing = true → exec (.indexDoorbell h wq v) s = .next (s.finc F.HIF_ERR_DB_CLOSED 1 h.val)) ∧
        (q.closing = false →
          (ringSize q.logSize < ringCount q.logSize (bellIndex q.logSize v) q.head →
            exec (.indexDoorbell h wq v) s = .next (haltHost h 6 wq false false (fieldOf v 16 0) counted)) ∧
          (ringCount q.logSize (bellIndex q.logSize v) q.head ≤ ringSize q.logSize →
            (bellIndex q.logSize v = q.pi → exec (.indexDoorbell h wq v) s = .next counted) ∧
            (bellIndex q.logSize v ≠ q.pi → exec (.indexDoorbell h wq v) s = .next (modWq h wq (fun r => skipInline (ringSize r.logSize)
              { r with pi := bellIndex q.logSize v, bells := r.bells ++ [(bellIndex q.logSize v, counted.clock)] }) counted))) ∧
          (desc.length = 64 →
            (ringSize q.logSize ≤ ringCount q.logSize q.pi q.head →
              exec (.inlineDoorbell h wq desc) s = .next (haltHost h 6 wq false false q.pi counted)) ∧
            (ringCount q.logSize q.pi q.head < ringSize q.logSize → b2n (dFlag desc 0) ≠ wrapBit q.logSize q.pi →
              exec (.inlineDoorbell h wq desc) s = .next (haltHost h 5 wq false false q.pi counted)) ∧
            (ringCount q.logSize q.pi q.head < ringSize q.logSize → b2n (dFlag desc 0) = wrapBit q.logSize q.pi →
              exec (.inlineDoorbell h wq desc) s = .next
                (let u := storeDesc h wq q.pi (padTo 64 desc) counted
                 checkStore h wq (modWq h wq (fun r => skipInline (ringSize q.logSize)
                  { r with pi := ringNext q.logSize q.pi, bells := r.bells ++ [(ringNext q.logSize q.pi, u.clock)] }) u))))))) ∧
    (desc.length ≠ 64 → exec (.inlineDoorbell h wq desc) s = exec (.dbBad h (64 * wq) desc.length) s) ∧
    (∀ off size, (s.host h).hif.inReset = false → off % 64 ≠ 0 ∨ (size ≠ 8 ∧ size ≠ 64) →
      exec (.dbBad h off size) s = .next (s.finc F.HIF_ERR_DB_BAD 1 h.val)) ∧
    (∀ off size, off % 64 = 0 → size = 8 ∨ size = 64 → exec (.dbBad h off size) s = .next s)

/-- R161, R162, R164, R165, R170: the admin queue. The rise of ENABLE starts it at its base with both indices 0; a doorbell within
the ring moves PI and reads the next command, one beyond it halts the function. A command read whose PHASE does not match is read
again, three times; a failed read halts; what the read that ended leaves a tag for goes on; a command of no opcode completes with code 0x1, one with a reserved bit in its header with
0x2, and every other stays in progress. A NOP completes: its result and code are written to its slot, HEAD moves over it, and the
vector goes out where VEC_EN is set.
The model's choices it rests on: log entry 65. -/
def Obligations.AdminQueue : Prop :=
  ∀ (s : State) (h : HostPort) (mid : Mid) (v : Word),
    (s.nicRuns = true → s.hostPresent h.val = true →
      (s.flag F.WQ_ADM_CFG_ENABLE h.val = false → bitOf v 0 = true → exec (.adminEnable mid h v) s =
        .next (admEnable h (writePlain .WQ_ADM_CFG h.val 0 v s)) ∧
        completes (.adminEnable mid h v) s (fun t => (t.host h).adm.base = 4096 * s.fget F.WQ_ADM_BASE_BASE h.val ∧
          (t.host h).adm.next = 0 ∧ (t.host h).adm.head = 0 ∧ (t.host h).adm.cur = none ∧ t.fget F.WQ_ADM_PI_PI h.val = 0 ∧
          ∀ g, g ≠ h → t.host g = s.host g)) ∧
      (s.flag F.WQ_ADM_CFG_ENABLE h.val = true ∨ bitOf v 0 = false → exec (.adminEnable mid h v) s = .next (writePlain .WQ_ADM_CFG h.val 0 v s)) ∧
      (s.flag F.WQ_ADM_CFG_ENABLE h.val = false → exec (.adminDoorbell mid h v) s = .next s) ∧
      (s.flag F.WQ_ADM_CFG_ENABLE h.val = true → s.hostLive h = true → s.pwr.state = .active →
        let a := (s.host h).adm
        (ringSize a.logSize < ringCount a.logSize (bellIndex a.logSize v) a.head →
          exec (.adminDoorbell mid h v) s = .next (haltHost h 6 0 true false (fieldOf v 16 0) s)) ∧
        (ringCount a.logSize (bellIndex a.logSize v) a.head ≤ ringSize a.logSize →
          exec (.adminDoorbell mid h v) s = .next (admNext h (s.fset F.WQ_ADM_PI_PI (bellIndex a.logSize v) h.val))))) ∧
    (∀ tag i n (data : Bytes), admReq s h = some (tag, i, n) →
      let u := reqEnd h tag true s
      let lost := reqEnd h tag false s
      let c := padTo 64 data
      let a := (u.host h).adm
      (lost.hostLive h = true →
        exec (.adminCommandReadDone h none) s = .next (tagFreed h (haltHost h 7 0 true false i (reqFail h lost)))) ∧
      (u.hostLive h = true →
      (b2n (dFlag c 0) ≠ wrapBit a.logSize i →
        (3 ≤ n → exec (.adminCommandReadDone h (some data)) s = .next (tagFreed h (haltHost h 5 0 true false i u))) ∧
        (n < 3 → exec (.adminCommandReadDone h (some data)) s =
          .next (tagFreed h (hostReq h (.admin i (n + 1)) (a.base + 64 * (i % ringSize a.logSize)) 64 false u)))) ∧
      (b2n (dFlag c 0) = wrapBit a.logSize i →
        let taken := modAdm h (fun a => { a with cur := some (i, c), next := ringNext a.logSize i }) u
        (dOp c = 0 ∨ 15 < dOp c → exec (.adminCommandReadDone h (some data)) s = .next (tagFreed h (admDone h i 1 0 taken))) ∧
        (1 ≤ dOp c → dOp c ≤ 15 → adminHeadOk c = false → exec (.adminCommandReadDone h (some data)) s = .next (tagFreed h (admDone h i 2 0 taken))) ∧
        (1 ≤ dOp c → dOp c ≤ 15 → adminHeadOk c = true → exec (.adminCommandReadDone h (some data)) s = .next (tagFreed h taken))))) ∧
    (∀ i c, admCur s h 15 = some (i, c) → exec (.adminNop h) s = .next (admDone h i 0 0 s) ∧
      let a := (s.host h).adm
      let written := modAdm h (fun a => admHead (a.done.length + 1) { a with
        cur := if a.cur.any (fun c => c.1 == i) then none else a.cur, done := a.done ++ [i],
        late := a.late.filter (fun l => l.1 != i) })
        (hostWrite h (a.base + 64 * (i % ringSize a.logSize) + 56) (leBytes 4 0 ++ leBytes 2 0 ++ leBytes 2 0) plainAttr s)
      admDone h i 0 0 s = admNext h (if written.flag F.WQ_ADM_CFG_VEC_EN h.val
        then msixSend h (written.fget F.WQ_ADM_CFG_VECTOR h.val) written else written)) ∧
    (admCur s h 15 = none → exec (.adminNop h) s = .next s)

/-- R164, R166, R180, R206, R208: CREATE_WQ, CREATE_EQ, CREATE_PD and CREATE_EP. A parameter out of its range, or a reserved byte, is
code 0x2; an object that exists already is 0x4, one that is being destroyed 0x7, and a domain, queue or endpoint it needs and that does
not exist 0x5; a pool that is full is 0x3. On SUCCESS the object stands in the port's table with the command's parameters, an endpoint
cached where a context unit can be had and written to its Kennel slot where none can.
The model's choices it rests on: log entry 65. -/
def Obligations.CreateCommands : Prop :=
  ∀ (s : State) (h : HostPort) (i : Nat) (c : Bytes),
    let x := s.host h
    let n := aAt c 8 2
    let ends (code : Nat) : Host.Outcome State Fault Refusal := .next (admDone h i code 0 s)
    (admCur s h 1 = some (i, c) →
      let ep := aAt c 16 4
      (createWqCode s h c = 0 → exec (.createWq h) s =
        .next (admDone h i 0 0 (s.modHost h (fun y => { y with wqs := tblSet n (newWq c) y.wqs })))) ∧
      (createWqCode s h c ≠ 0 → exec (.createWq h) s = ends (createWqCode s h c)) ∧
      (n < s.fget F.WQ_POOL_WQ_COUNT h.val → 6 ≤ aAt c 10 1 → aAt c 10 1 ≤ 16 → aAt c 11 1 ≤ 3 → aAt c 12 1 ≤ 7 → aAt c 13 1 ≤ 1 →
        aAt c 14 2 ≤ 4095 → ep ≤ 16777215 → aAt c 20 2 ≤ 4095 → aAt c 24 8 % 4096 = 0 → aAt c 32 8 % 8 = 0 →
        s.requestClass (aAt c 12 1) = true → zeroBytes c [(22, 23), (40, 55)] = true →
        (∀ q, tblGet n x.wqs = some q → createWqCode s h c = if q.closing then 7 else 4) ∧
        (tblGet n x.wqs = none →
          (tblGet (aAt c 14 2) x.eqs = none → createWqCode s h c = 5) ∧
          (∀ k, (tblGet (aAt c 14 2) x.eqs).isSome → (tblGet (aAt c 20 2) x.pds).isSome → epPort ep = h →
            liveEp s h ep = some k → createWqCode s h c = if k.closing then 7 else if k.pd = aAt c 20 2 then 0 else 2)))) ∧
    (admCur s h 3 = some (i, c) →
      let ok := n < s.fget F.EQ_POOL_EQ_COUNT h.val ∧ 6 ≤ aAt c 10 1 ∧ aAt c 10 1 ≤ 16 ∧ aAt c 11 1 ≤ 3 ∧ aAt c 12 2 ≤ 2047 ∧
        aAt c 16 8 % 4096 = 0 ∧ zeroBytes c [(24, 55)] = true
      let q : EventQueue :=
        { logSize := aAt c 10 1, vecEn := (aAt c 11 1).testBit 0, tphEn := (aAt c 11 1).testBit 1, vector := aAt c 12 2,
          st := aAt c 14 2, ring := aAt c 16 8, pi := 0, ci := 0, armed := false, decided := [], stash := [],
          decidedNo := 0, writtenNo := 0, due := [] }
      (¬ ok → exec (.createEq h) s = ends 2) ∧
      (ok → (tblGet n x.eqs).isSome → exec (.createEq h) s = ends 4) ∧
      (ok → tblGet n x.eqs = none → exec (.createEq h) s =
        .next (admDone h i 0 0 (s.modHost h (fun y => { y with eqs := tblSet n q y.eqs }))))) ∧
    (admCur s h 5 = some (i, c) →
      let ok := n ≤ 4095 ∧ aAt c 16 8 % 4096 = 0 ∧ zeroBytes c [(10, 15), (24, 55)] = true
      (¬ ok → exec (.createPd h) s = ends 2) ∧
      (ok → (tblGet n x.pds).isSome → exec (.createPd h) s = ends 4) ∧
      (ok → tblGet n x.pds = none →
        (s.image.elim 0 (fun m => (imgPool m h.val).pds) ≤ x.pds.length → exec (.createPd h) s = ends 3) ∧
        (x.pds.length < s.image.elim 0 (fun m => (imgPool m h.val).pds) → exec (.createPd h) s =
          .next (admDone h i 0 0 (s.modHost h (fun y => { y with pds := tblSet n (aAt c 16 8) y.pds })))))) ∧
    (admCur s h 7 = some (i, c) →
      let ep := aAt c 8 3
      let ok := zeroBytes c [(11, 11), (16, 55)] = true ∧ aAt c 12 2 ≤ 4095 ∧ epPort ep = h
      let put (on : Bool) (u : State) : State := u.modHost h (fun y => { y with eps := tblSet ep (newEp c on) y.eps })
      (¬ ok → exec (.createEp h) s = ends 2) ∧
      (ok → ctxLog s h = 0 → exec (.createEp h) s = ends 3) ∧
      (ok → ctxLog s h ≠ 0 → ep % 8388608 < ringSize (ctxLog s h) →
        (∀ k, liveEp s h ep = some k → exec (.createEp h) s = ends (if k.closing then 7 else 4)) ∧
        (liveEp s h ep = none → tblGet (aAt c 12 2) x.pds = none → exec (.createEp h) s = ends 5) ∧
        (liveEp s h ep = none → (tblGet (aAt c 12 2) x.pds).isSome →
          (∀ u, makeRoom 1 1 s = some u → exec (.createEp h) s = .next (admDone h i 0 0 (cacheUnit (.ctx h ep) (put true u)))) ∧
          (makeRoom 1 1 s = none → exec (.createEp h) s = .next
            (admDone h i 0 0 (areaWrite h (ctxSlot s h ep) 256 (put false s))))))) ∧
    (admCur s h 1 = none → exec (.createWq h) s = .next s) ∧ (admCur s h 3 = none → exec (.createEq h) s = .next s) ∧
    (admCur s h 5 = none → exec (.createPd h) s = .next s) ∧ (admCur s h 7 = none → exec (.createEp h) s = .next s)

/-- R164, R167, R180, R206, R208: DESTROY_WQ, DESTROY_EQ, DESTROY_PD and DESTROY_EP. An object that does not exist is code 0x5, one
still referenced 0x6, one already being destroyed 0x7. A parameter out of its range, or a reserved byte, is 0x2. A work queue closes and completes late, when HEAD equals PI and HEAD's last write,
which follows the events written before it, has been made; an event queue and a
domain, whose ATC entries go first, go at once; an endpoint closes, its parked requests are refused and its searches end, and it completes late, when no reply
reservation and no automatic get is left, with its pairs, and
what waited for room tries again.
The model's choices it rests on: log entry 65. -/
def Obligations.DestroyCommands : Prop :=
  ∀ (s : State) (h : HostPort) (i : Nat) (c : Bytes),
    let x := s.host h
    let n := aAt c 8 2
    let ends (code : Nat) : Host.Outcome State Fault Refusal := .next (admDone h i code 0 s)
    (admCur s h 2 = some (i, c) → n < s.fget F.WQ_POOL_WQ_COUNT h.val →
      (tblGet n x.wqs = none → exec (.destroyWq h) s = ends 5) ∧
      (∀ q, tblGet n x.wqs = some q →
        (q.closing = true → exec (.destroyWq h) s = ends 7) ∧
        (q.closing = false → exec (.destroyWq h) s =
          .next (admLate h i (.destroyWq n) (modWq h n (fun q => { q with closing := true }) s))))) ∧
    (∀ wq q, tblGet wq x.wqs = some q → lateOf s h (fun k => decide (k = .destroyWq wq)) = some i →
      (q.closing = true → q.head = q.pi → s.hostLive h = true →
        (q.headDue = false → exec (.destroyWqDone h wq) s =
          .next (admDone h i 0 0 (s.modHost h (fun y => { y with wqs := tblDel wq y.wqs })))) ∧
        (q.headDue = true → headReady s h q = true → exec (.destroyWqDone h wq) s =
          .next (admDone h i 0 0 ((modWq h wq (fun q => { q with headDue := false })
            (hostWrite h q.headAddr (leBytes 8 q.head) plainAttr s)).modHost h (fun y => { y with wqs := tblDel wq y.wqs }))))) ∧
      (q.head ≠ q.pi ∨ (q.headDue = true ∧ headReady s h q = false) → exec (.destroyWqDone h wq) s = .next s)) ∧
    (admCur s h 4 = some (i, c) → n < s.fget F.EQ_POOL_EQ_COUNT h.val →
      let used := x.wqs.any (fun q => decide (q.2.eq = n)) ||
        x.wins.any (fun w => w.2.isOpen && w.2.access.testBit 4 && decide (w.2.eq = n)) || decide (s.fget F.EQ_ASYNC_EQ h.val = n)
      (tblGet n x.eqs = none → exec (.destroyEq h) s = ends 5) ∧
      (∀ q, tblGet n x.eqs = some q →
        ((used || !q.stash.isEmpty) = true → exec (.destroyEq h) s = ends 6) ∧
        ((used || !q.stash.isEmpty) = false → exec (.destroyEq h) s =
          .next (admDone h i 0 0 (s.modHost h (fun y => { y with eqs := tblDel n y.eqs })))))) ∧
    (admCur s h 6 = some (i, c) → n ≤ 4095 → zeroBytes c [(10, 15), (24, 55)] = true →
      let used := x.wqs.any (fun q => decide (q.2.pd = n)) || x.eps.any (fun e => decide (e.2.pd = n) && !e.2.gone) ||
        x.wins.any (fun w => w.2.isOpen && decide (w.2.pd = n))
      (tblGet n x.pds = none → exec (.destroyPd h) s = ends 5) ∧
      ((tblGet n x.pds).isSome → used = true → exec (.destroyPd h) s = ends 6) ∧
      ((tblGet n x.pds).isSome → used = false → exec (.destroyPd h) s = .next (admDone h i 0 0
        ((invalidatePoint h ⟨1, n, 0, 0⟩ s).2.modHost h (fun y => { y with pds := tblDel n y.pds }))))) ∧
    (admCur s h 6 = some (i, c) → 4095 < n ∨ zeroBytes c [(10, 15), (24, 55)] = false → exec (.destroyPd h) s = ends 2) ∧
    (admCur s h 8 = some (i, c) → ringSize (ctxLog s h) ≤ aAt c 8 3 % 8388608 → exec (.destroyEp h) s = ends 2) ∧
    (admCur s h 8 = some (i, c) → zeroBytes c [(11, 11), (16, 55)] = true → epPort (aAt c 8 3) = h →
      aAt c 8 3 % 8388608 < ringSize (ctxLog s h) →
      (liveEp s h (aAt c 8 3) = none → exec (.destroyEp h) s = ends 5) ∧
      (∀ k, liveEp s h (aAt c 8 3) = some k →
        (k.closing = true → exec (.destroyEp h) s = ends 7) ∧
        (k.closing = false → x.wqs.any (fun q => decide (q.2.ep = aAt c 8 3)) = true → exec (.destroyEp h) s = ends 6) ∧
        (k.closing = false → x.wqs.any (fun q => decide (q.2.ep = aAt c 8 3)) = false → exec (.destroyEp h) s =
          .next (admLate h i (.destroyEp (aAt c 8 3)) (mteDestroy h (aAt c 8 3) (refuseEp h (aAt c 8 3)
            (modEp h (aAt c 8 3) (fun e => { e with closing := true }) s))))))) ∧
    (∀ ep k, liveEp s h ep = some k → lateOf s h (fun l => decide (l = .destroyEp ep)) = some i →
      let held := x.rem.resvs.any (fun r => decide (keyEp r.2.pair = ep)) || x.mte.deliveries.any (fun d => d.2.isGet && decide (d.2.ep = ep))
      (k.closing = true → s.hostLive h = true → held = false → exec (.destroyEpDone h ep) s = .next (roomAgain (admDone h i 0 0
        (s.modHost h (fun y => { y with
          eps := tblDel ep y.eps, pairs := y.pairs.filter (fun p => keyEp p.1 != ep),
          rem := { y.rem with late := y.rem.late.filter (fun l => keyEp l.1 != ep),
                              owed := y.rem.owed.filter (fun o => keyEp o.pair != ep) } }))))) ∧
      (held = true → exec (.destroyEpDone h ep) s = .next (roomAgain s)))

/-- R164, R201, R202, R205, R216, R218: windows and invalidations. OPEN_WINDOW with a parameter out of range is code 0x2, of an index in the
rendezvous range 0x6, of a window whose REVOKE has not completed 0x7, without its domain or event queue 0x5, of an open window 0x4; else it opens with its next
generation, and RESULT is its key; in host-table mode its entry is read first where it is not on chip. REVOKE_WINDOW of a window that is not open or of another generation is 0x5; else it closes and
completes when what it had accepted has ended. INVALIDATE drops the cached translations its scope covers and completes, with their
number, when the walks and reads in progress have ended; the register path does the same and reports through BUSY and ERR.
The model's choices it rests on: log entries 56, 63 and 64. -/
def Obligations.WindowsAndInvalidations : Prop :=
  ∀ (s : State) (h : HostPort) (i : Nat) (c : Bytes),
    let w := winIndex c
    let ends (code : Nat) : Host.Outcome State Fault Refusal := .next (admDone h i code 0 s)
    (admCur s h 9 = some (i, c) →
      let ok := winIndexBad s h c = false ∧ aAt c 12 2 ≤ 4095 ∧ aAt c 14 1 ≤ 31 ∧ aAt c 16 2 ≤ 4095 ∧ aAt c 24 8 < 281474976710656 ∧
        aAt c 32 8 ≠ 0 ∧ aAt c 24 8 + aAt c 32 8 ≤ 281474976710656 ∧
        zeroBytes c [(11, 11), (15, 15), (18, 23), (40, 55)] = true
      let made : Window := { closedWin true with
        pd := aAt c 12 2, access := aAt c 14 1, eq := aAt c 16 2, va := aAt c 24 8, len := aAt c 32 8 }
      (¬ ok → exec (.openWindow h) s = ends 2) ∧
      (ok → rndvIndex s h w = true → exec (.openWindow h) s = ends 6) ∧
      (ok → rndvIndex s h w = false → winRevoking s h w = true → exec (.openWindow h) s = ends 7) ∧
      (ok → rndvIndex s h w = false → winRevoking s h w = false →
        (tblGet (aAt c 12 2) (s.host h).pds = none → exec (.openWindow h) s = ends 5) ∧
        ((tblGet (aAt c 12 2) (s.host h).pds).isSome →
          (aAt c 14 1).testBit 4 = false ∨ (tblGet (aAt c 16 2) (s.host h).eqs).isSome →
          (∀ u, needWin h w s = (u, none) →
            ((winOf u h w).isOpen = true → exec (.openWindow h) s = .next (admDone h i 4 0 u)) ∧
            ((winOf u h w).isOpen = false → exec (.openWindow h) s =
              .next (admDone h i 0 (winKey (openWin h w made u) h w) (openWin h w made u)))) ∧
          (∀ u k, needWin h w s = (u, some k) → exec (.openWindow h) s = .next u)))) ∧
    (admCur s h 10 = some (i, c) → winIndexBad s h c = false → aAt c 12 2 ≤ 4095 →
      zeroBytes c [(11, 11), (15, 15), (18, 23), (40, 55)] = true →
      (rndvIndex s h w = true → exec (.revokeWindow h) s = ends 6) ∧
      (rndvIndex s h w = false →
        (∀ u, needWin h w s = (u, none) →
          ((winOf u h w).isOpen = false ∨ (winOf u h w).gen ≠ aAt c 12 2 → exec (.revokeWindow h) s = .next (admDone h i 5 0 u)) ∧
          ((winOf u h w).isOpen = true → (winOf u h w).gen = aAt c 12 2 → exec (.revokeWindow h) s =
            .next (admLate h i (.revoke w) (closeWin h w u)))) ∧
        (∀ u k, needWin h w s = (u, some k) → exec (.revokeWindow h) s = .next u))) ∧
    (∀ win, lateOf s h (fun k => decide (k = .revoke win)) = some i → s.hostLive h = true →
      let held := winHeld s h win || (s.host h).rem.atomics.any (fun a => decide (a.2.win = win))
      (held = false → exec (.revokeDone h win) s = .next (admDone h i 0 0 s)) ∧
      (held = true → exec (.revokeDone h win) s = .next s)) ∧
    (admCur s h 11 = some (i, c) → zeroBytes c [(11, 15), (32, 55)] = true →
      let scope := aAt c 10 1
      let r := invalidatePoint h ⟨scope, aAt c 8 2, aAt c 16 8, aAt c 24 8⟩ s
      (2 < scope → exec (.invalidate h) s = ends 2) ∧
      (scope < 2 → 4095 < aAt c 8 2 → exec (.invalidate h) s = ends 2) ∧
      (scope = 1 → aAt c 8 2 ≤ 4095 → tblGet (aAt c 8 2) (s.host h).pds = none → exec (.invalidate h) s = ends 5) ∧
      (scope = 2 ∨ (scope = 1 ∧ aAt c 8 2 ≤ 4095 ∧ (tblGet (aAt c 8 2) (s.host h).pds).isSome) →
        exec (.invalidate h) s = .next (admLate h i (.invalidate r.1.1 r.1.2) r.2)) ∧
      (scope = 0 → aAt c 8 2 ≤ 4095 → aAt c 16 8 % 4096 = 0 → aAt c 16 8 < 281474976710656 → aAt c 24 8 ≠ 0 →
        aAt c 24 8 ≤ 68719476736 → aAt c 16 8 + 4096 * aAt c 24 8 ≤ 281474976710656 → (tblGet (aAt c 8 2) (s.host h).pds).isSome →
        exec (.invalidate h) s = .next (admLate h i (.invalidate r.1.1 r.1.2) r.2))) ∧
    (∀ v : InvScope, let r := invalidatePoint h v s
      (r.2.host h).xlt.atc = (s.host h).xlt.atc.filter (fun e => !invCovers v e.2.pd e.2.page e.2.size) ∧
      r.1.1 + (r.2.host h).xlt.atc.length = (s.host h).xlt.atc.length) ∧
    (∀ mid v, s.nicRuns = true → s.hostPresent h.val = true → bitOf v 16 = true →
      let u := writePlain .XLT_INV_CTL h.val 0 v s
      ((s.host h).xlt.inv.isSome → exec (.xltInvGo mid h v) s = .next (s.fset F.XLT_INV_CTL_ERR 1 h.val)) ∧
      ((s.host h).xlt.inv = none → u.fget F.XLT_INV_CTL_SCOPE h.val = 3 →
        exec (.xltInvGo mid h v) s = .next (u.fset F.XLT_INV_CTL_ERR 2 h.val)) ∧
      ((s.host h).xlt.inv = none → u.fget F.XLT_INV_CTL_SCOPE h.val = 2 →
        let r := invalidatePoint h ⟨2, u.fget F.XLT_INV_CTL_PD h.val, 4096 * u.fget F.XLT_INV_VA_VA h.val,
          max 1 (u.fget F.XLT_INV_PAGES_PAGES h.val)⟩ u
        exec (.xltInvGo mid h v) s = .next ((modXlt h (fun x => { x with inv := some r.1.2 }) r.2).fset
          F.XLT_INV_CTL_ERR 0 h.val))) ∧
    (∀ n, (s.host h).xlt.inv = some n →
      (invSettled s h n = true → exec (.invalidateDone h .register) s = .next (modXlt h (fun x => { x with inv := none }) s)) ∧
      (invSettled s h n = false → exec (.invalidateDone h .register) s = .next s)) ∧
    (∀ removed n, (s.host h).adm.late = [(i, .invalidate removed n)] →
      (invSettled s h n = true → exec (.invalidateDone h .admin) s = .next (admDone h i 0 removed s)) ∧
      (invSettled s h n = false → exec (.invalidateDone h .admin) s = .next s))

/-- R253 to R255, R273: SET_SHAPER leaves its parameters waiting for the queue's leash, and needs a queue that has one. ARM_GROUP of a
group being disarmed is code 0x7 and of an armed one 0x4; else its tree descriptor is read, and when it has arrived the group is armed, its
units are RESULT: a read that fails is 0x8, a descriptor that breaks a rule 0x2, a group that the other port
armed meanwhile 0x4 or 0x7, and units that the pool does not have 0x3. DISARM_GROUP
of a group the port does not own is 0x5; else every operation in progress fails with cause 8, and it completes when no ABORT is
unanswered, releasing the group.
The model's choices it rests on: log entry 65. -/
def Obligations.GroupCommands : Prop :=
  ∀ (s : State) (h : HostPort) (i : Nat) (c : Bytes),
    let g := aAt c 8 2
    let ends (code : Nat) : Host.Outcome State Fault Refusal := .next (admDone h i code 0 s)
    (admCur s h 12 = some (i, c) →
      let ok := g < s.fget F.WQ_POOL_WQ_COUNT h.val ∧ aAt c 12 4 ≤ 1048575 ∧ 256 ≤ aAt c 16 4 ∧ aAt c 16 4 ≤ 16777215 ∧ aAt c 21 1 ≤ 3 ∧
        zeroBytes c [(10, 11), (22, 55)] = true
      (¬ ok → exec (.setShaper h) s = ends 2) ∧
      (ok → tblGet g (s.host h).wqs = none → exec (.setShaper h) s = ends 5) ∧
      (ok → ∀ q, tblGet g (s.host h).wqs = some q →
        (q.leash = none → exec (.setShaper h) s = ends 2) ∧
        (q.leash.isSome → exec (.setShaper h) s = .next (admDone h i 0 0 (modWq h g (fun q => { q with leash := q.leash.map (fun l =>
          { l with waiting := some (aAt c 12 4, aAt c 16 4, aAt c 20 1, (aAt c 21 1).testBit 0, (aAt c 21 1).testBit 1) }) }) s))))) ∧
    (admCur s h 13 = some (i, c) →
      let ok := g ≤ 4095 ∧ 1 ≤ aAt c 10 1 ∧ aAt c 10 1 ≤ 16 ∧ 1 ≤ aAt c 11 1 ∧ aAt c 11 1 ≤ 16 ∧ 8 ≤ aAt c 12 1 ∧ aAt c 12 1 ≤ 12 ∧
        aAt c 16 8 % 64 = 0 ∧ zeroBytes c [(26, 55)] = true
      (¬ ok → exec (.armGroup h) s = ends 2) ∧
      (ok → ∀ x, tblGet g s.groups = some x → exec (.armGroup h) s = ends (if x.status = .disarming then 7 else 4)) ∧
      (ok → tblGet g s.groups = none →
        (s.host h).hif.reqs.any (fun r => decide (r.2.kind = .tree)) = false →
        (s.host h).hif.reqWait.any (fun r => decide (r.kind = .tree)) = false →
        exec (.armGroup h) s = .next (hostReq h .tree (aAt c 16 8) 272 false s))) ∧
    (∀ r, (s.host h).hif.reqs.find? (fun r => decide (r.2.kind = .tree)) = some r →
      let lost := reqEnd h r.1 false s
      let u := reqEnd h r.1 true s
      (admCur lost h 13 = some (i, c) →
        exec (.treeDescriptorReadDone h none) s = .next (tagFreed h (admDone h i 8 0 (reqFail h lost)))) ∧
      (admCur u h 13 = some (i, c) → ∀ data, let d := padTo 272 data
        let x := newGroup h c d
        (badTree u x d = true → exec (.treeDescriptorReadDone h (some data)) s = .next (tagFreed h (admDone h i 2 0 u))) ∧
        (badTree u x d = false → ∀ y, tblGet g u.groups = some y →
          exec (.treeDescriptorReadDone h (some data)) s = .next (tagFreed h (admDone h i (if y.status = .disarming then 7 else 4) 0 u))) ∧
        (badTree u x d = false → tblGet g u.groups = none → u.fget F.COL_PART_UNITS < colUnits u + x.units →
          exec (.treeDescriptorReadDone h (some data)) s = .next (tagFreed h (admDone h i 3 0 u))) ∧
        (badTree u x d = false → tblGet g u.groups = none → colUnits u + x.units ≤ u.fget F.COL_PART_UNITS →
          exec (.treeDescriptorReadDone h (some data)) s =
            .next (tagFreed h (admDone h i 0 x.units { u with groups := tblSet g x u.groups }))))) ∧
    (admCur s h 14 = some (i, c) → g ≤ 4095 → zeroBytes c [(26, 55)] = true →
      (tblGet g s.groups = none → exec (.disarmGroup h) s = ends 5) ∧
      (∀ x, tblGet g s.groups = some x →
        (x.owner ≠ h → exec (.disarmGroup h) s = ends 5) ∧
        (x.owner = h → x.status = .disarming → exec (.disarmGroup h) s = ends 7) ∧
        (x.owner = h → x.status ≠ .disarming → exec (.disarmGroup h) s = .next (admLate h i (.disarm g) (colPump h
          (x.slots.foldl (fun u o =>
            if colActive o.2 then colFail g o.1 8 0 none (modGroup g (fun y => { y with cause := 8 }) u) else u)
            (modGroup g (fun y => { y with status := .disarming }) s))))))) ∧
    (∀ grp x, tblGet grp s.groups = some x → lateOf s x.owner (fun k => decide (k = .disarm grp)) = some i → s.hostLive x.owner = true →
      let answered := x.slots.all (fun o => o.2.edges.all (fun e => !e.2.abort))
      (x.status = .disarming → answered = true →
        exec (.disarmDone grp) s = .next (admDone x.owner i 0 0 { s with groups := tblDel grp s.groups })) ∧
      (answered = false → exec (.disarmDone grp) s = .next s))

/-- R36, R154, R155, R158, R179, R322: what a host writes to its configuration space and what its link does. A base keeps the bits above its
size, 16 MiB and 1 MiB, and reads back as a 64-bit base, the second prefetchable and there only with an image; the payload and read
sizes are taken where the port has them, the capabilities and BAR2, which reads 0, answer; the enables are kept as written, and a change of an MSI-X mask sends the vectors that waited; a link that
trains is up at its width and rate, and one that goes down while the function is RUNNING is an uncorrectable error. A host that does
not reach its function writes nothing.
The model's choices it rests on: log entries 42, 46 and 81. -/
def Obligations.HostLinks : Prop :=
  ∀ (s : State) (h : HostPort),
    (hostReaches s h = true → ∀ (b : Word) (on : Bool) (n : Nat),
      exec (.configurationRequest h (.bar0 b)) s =
        .next (s.modHif h (fun x => { x with bar0 := b &&& 0xFFFFFFFFFF000000#64 })) ∧
      exec (.configurationRequest h (.bar2 b)) s =
        .next (if s.image.isSome then s.modHif h (fun x => { x with bar2 := b &&& 0xFFFFFFFFFFF00000#64 }) else s) ∧
      exec (.configurationRequest h (.memoryEnable on)) s = .next (s.modHif h (fun x => { x with memEnable := on })) ∧
      exec (.configurationRequest h (.busMaster on)) s = .next (s.modHif h (fun x => { x with bme := on })) ∧
      exec (.configurationRequest h (.msixEnable on)) s = .next (msixRecheck h (s.modHif h (fun x => { x with msixOn := on }))) ∧
      exec (.configurationRequest h (.msixFunctionMask on)) s =
        .next (msixRecheck h (s.modHif h (fun x => { x with msixMask := on }))) ∧
      exec (.configurationRequest h (.maxPayload n)) s =
        .next (if n ≤ 2 then s.modHif h (fun x => { x with mps := 128 * 2 ^ n }) else s) ∧
      exec (.configurationRequest h (.maxReadRequest n)) s =
        .next (if n ≤ 5 then s.modHif h (fun x => { x with mrrs := 128 * 2 ^ n }) else s) ∧
      exec (.configurationRequest h .readBar0) s = .next (s.emit (.configRead h ((s.host h).hif.bar0 ||| 0x4#64))) ∧
      exec (.configurationRequest h .readBar2) s =
        .next (s.emit (.configRead h (if s.image.isSome then (s.host h).hif.bar2 ||| 0xC#64 else 0#64))) ∧
      exec (.configurationRequest h .readCapabilities) s = .next (s.emit (.capabilities h hostFeatures)) ∧
      exec (.configurationRequest h (.readDoorbell n)) s = .next (s.emit (.bar2Read h n 0#64))) ∧
    (hostReaches s h = false → ∀ req, exec (.configurationRequest h req) s = .next s) ∧
    (s.hifRuns h.val = true → (s.host h).hif.perst = false → ∀ (width rate : Nat) (flit : Bool), width ≤ 2 → 1 ≤ rate → rate ≤ 6 →
      exec (.hostLinkTrained h width rate flit) s =
        .next (s.modHif h (fun x => { x with linkUp := true, width := width, rate := rate, flit := flit }))) ∧
    ((s.host h).hif.perst = true → ∀ (width rate : Nat) (flit : Bool), exec (.hostLinkTrained h width rate flit) s = .next s) ∧
    ((s.host h).hif.linkUp = true →
      let down := s.modHif h (fun x => { x with linkUp := false, width := 0, rate := 0, flit := false })
      exec (.hostLinkDown h) s = .next (if hostStatus s h = 2 then raiseFault (20 + h.val) down else down)) ∧
    ((s.host h).hif.linkUp = false → exec (.hostLinkDown h) s = .next s)

/-- R177, R178, R226, R265, R296: an F reset by the host's function-level reset or by PERST#, and its end. The function stops, the
doorbells held for it go, its parked packets are refused and its master's locks are released; a reset in progress absorbs another.
PERST# takes the link down first, and its release is a wake source. When the reset ends the port's state is at reset but for its link and the generations
of its windows, its groups are gone and EPC_LOST is set; the other port is untouched, and what waited for room in
the endpoint cache tries again.
The model's choices it rests on: log entry 46. -/
def Obligations.FunctionResets : Prop :=
  ∀ (s : State) (h : HostPort),
    let starts (u : State) : State := resetMaster (BitVec.ofNat 8 (0x10 + h.val)) (refuseParked h
      (u.modHif h (fun x => { x with inReset := true, heldBells := [] })))
    let off (u : State) : State :=
      (u.modHif h (fun x => { x with perst := true })).modHif h (fun x => { x with linkUp := false, width := 0, rate := 0, flit := false })
    (funcReady s h = true → s.rst.clamped.testBit (2 + h.val) = false →
      (hostReaches s h = true → exec (.functionLevelReset h) s = .next (starts s)) ∧
      ((s.host h).hif.perst = false → s.hostPresent h.val = true → (s.host h).hif.inReset = false →
        exec (.perstAssert h) s = .next (starts (off s))) ∧
      ((s.host h).hif.perst = false → s.hostPresent h.val = true → (s.host h).hif.inReset = true →
        exec (.perstAssert h) s = .next (off s))) ∧
    ((s.host h).hif.inReset = true → exec (.functionLevelReset h) s = .next s) ∧
    ((s.host h).hif.perst = true → exec (.perstAssert h) s = .next s) ∧
    ((s.host h).hif.perst = true → s.hostPresent h.val = true → exec (.perstRelease h) s =
      .next (wakeEvent (5 + h.val) false (s.modHif h (fun x => { x with perst := false })))) ∧
    ((s.host h).hif.perst = false → exec (.perstRelease h) s = .next s) ∧
    ((s.host h).hif.inReset = true → s.rst.coreRel = true ∨ s.cfg.state = .noImage → ∃ t,
      exec (.functionResetDone h) s = .next (roomAgain t) ∧
        t.host h = funcClear (hostTable s h) (s.flag F.EPC_LOST_FLAG h.val) (s.host h) ∧ (∀ k, k ≠ h → t.host k = s.host k) ∧
        t.groups = s.groups.filter (fun g => g.2.owner != h) ∧ t.fget F.EPC_LOST_FLAG h.val = 1 ∧
        t.ports = s.ports ∧ t.rst = s.rst ∧ t.locks = s.locks ∧ t.park = s.park) ∧
    ((s.host h).hif.inReset = false ∨ (s.rst.coreRel = false ∧ s.cfg.state ≠ .noImage) →
      exec (.functionResetDone h) s = .next (roomAgain s))

/-- R157, R172, R174, R179, R194, R221, R222, R223, R231, R235, R241, R260: the ends of host requests. A completion releases its tag, for a request that
waits for one, which then goes out, and what the request was made for follows at a live function, with what waited for it; a failed completion of a record, a
data slot or a Kennel block raises HOST_REQ_FAIL first. A request that is not answered in time is counted in CPL_TO_CNT and ends as a failed
completion of its kind; a tag that is not in use stays unused.
The model's choices it rests on: log entry 19. -/
def Obligations.RequestEnds : Prop :=
  ∀ (s : State) (h : HostPort) (tag : Nat),
    let late := s.finc F.HIF_ERR_CPL_TO_CNT 1 h.val
    let then_ (ok : Bool) (f : State → State) (t : State) : State :=
      if (reqEnd h tag ok t).hostLive h then tagFreed h (pumpPort h (f (reqEnd h tag ok t))) else reqEnd h tag ok t
    let fails (on : Bool) (t : State) : State := if on then reqFail h t else t
    (reqOf s h tag = none → exec (.hostRequestTimeout h tag) s = .next s ∧ ∀ data ok, exec (.localReadDone h tag data) s = .next s ∧
      exec (.getReadDone h tag data) s = .next s ∧ exec (.atomicReadDone h tag data) s = .next s ∧ exec (.flushDone h tag ok) s = .next s ∧
      exec (.matchRecordReadDone h tag ok) s = .next s ∧ exec (.kennelBlockReadDone h tag ok) s = .next s ∧
      exec (.dataSlotReadDone h tag data) s = .next s) ∧
    (∀ wq idx len, reqOf s h tag = some (.local wq idx len) →
      exec (.hostRequestTimeout h tag) s = .next (then_ false (localDone h wq idx len none) late) ∧
      ∀ data, exec (.localReadDone h tag data) s = .next (then_ data.isSome (localDone h wq idx len data) s)) ∧
    (∀ g k seg len, reqOf s h tag = some (.colRead g k seg len) →
      exec (.hostRequestTimeout h tag) s = .next (then_ false (colReadDone h g k seg len none) late) ∧
      ∀ data, exec (.localReadDone h tag data) s = .next (then_ data.isSome (colReadDone h g k seg len data) s)) ∧
    (∀ r off len, reqOf s h tag = some (.getRead r off len) →
      exec (.hostRequestTimeout h tag) s = .next (then_ false (getReadDone h r off len none) late) ∧
      ∀ data, exec (.getReadDone h tag data) s = .next (then_ data.isSome (getReadDone h r off len data) s)) ∧
    (∀ a, reqOf s h tag = some (.atomicRead a) →
      exec (.hostRequestTimeout h tag) s = .next (then_ false (atomicDone h a none) late) ∧
      ∀ data, exec (.atomicReadDone h tag data) s = .next (then_ data.isSome (atomicDone h a data) s)) ∧
    (∀ id, reqOf s h tag = some (.flush id) →
      exec (.hostRequestTimeout h tag) s = .next (then_ false (flushEnd h id false) late) ∧
      ∀ ok, exec (.flushDone h tag ok) s = .next (then_ ok (flushEnd h id ok) s)) ∧
    (∀ id, reqOf s h tag = some (.record id) →
      exec (.hostRequestTimeout h tag) s = .next (then_ false (fun t => recordDone h id false (fails true t)) late) ∧
      ∀ ok, exec (.matchRecordReadDone h tag ok) s = .next (then_ ok (fun t => recordDone h id ok (fails (!ok) t)) s)) ∧
    (∀ id, reqOf s h tag = some (.dataSlot id) →
      exec (.hostRequestTimeout h tag) s = .next (then_ false (fun t => dataSlotDone h id none (fails true t)) late) ∧
      ∀ data, exec (.dataSlotReadDone h tag data) s = .next (then_ data.isSome (fun t => dataSlotDone h id data (fails data.isNone t)) s)) ∧
    (∀ ep, reqOf s h tag = some (.kennelBlock ep) →
      exec (.hostRequestTimeout h tag) s = .next (then_ false (fun t => kennelDone h ep false (fails true t)) late) ∧
      ∀ ok, exec (.kennelBlockReadDone h tag ok) s = .next (then_ ok (fun t => kennelDone h ep ok (fails (!ok) t)) s)) ∧
    (∀ w, reqOf s h tag = some (.walk w) → exec (.hostRequestTimeout h tag) s = exec (.walkReadDone h tag none) late) ∧
    (∀ k, reqOf s h tag = some (.context k) ∨ reqOf s h tag = some (.pair k) ∨ reqOf s h tag = some (.window k) →
      exec (.hostRequestTimeout h tag) s = exec (.fetchDone h tag false) late) ∧
    (∀ wq lo n again, reqOf s h tag = some (.desc wq lo n again) →
      exec (.hostRequestTimeout h tag) s = exec (.descriptorFetchDone h wq none) late) ∧
    (∀ i n, reqOf s h tag = some (.admin i n) → exec (.hostRequestTimeout h tag) s = exec (.adminCommandReadDone h none) late) ∧
    (reqOf s h tag = some .tree → exec (.hostRequestTimeout h tag) s = exec (.treeDescriptorReadDone h none) late)

/-- R9, R181, R184, R185, R186, R188: event queues. A consumer index within the ring is taken, one beyond the producer halts the
function with cause 0x6; with ARM set a queue with a vector is armed, or, where entries are unconsumed or decided, owes its message, which goes out
once every event decided so far is written. The oldest decided event goes to the ring at PI with the PHASE of that index, or to the stash when the
ring is full or the stash is not empty; a drained stash entry carries STASHED. A pending async entry goes to the async queue the same way when that
is enabled, has written all it decided and does not suppress the code. A function that is not live writes nothing and keeps what it
has. Writing the index and writing ARM are one register write.
The model's choices it rests on: log entries 53 and 69. -/
def Obligations.EventQueues : Prop :=
  ∀ (s : State) (h : HostPort) (eq : Fin 4096) (q : EventQueue) (mid : Mid) (v : Word),
    tblGet eq.val (s.host h).eqs = some q →
    let ci := bellIndex q.logSize v
    let taken := modEq h eq.val (fun r => { r with ci := ci }) s
    let owing := modEq h eq.val (fun r => { r with armed := false, due := r.due ++ [r.decidedNo] }) taken
    let settled (t : State) : State := modEq h eq.val (fun r => { r with due := r.due.filter (fun n => !decide (n ≤ r.writtenNo)) }) t
    let room := ringCount q.logSize q.pi q.ci < ringSize q.logSize
    let put (e : Bytes) (stashed : Bool) (u : State) : State := eqDue h eq.val (eqFire h eq.val (modEq h eq.val
      (fun r => { r with pi := ringNext q.logSize r.pi, writtenNo := r.writtenNo + 1 })
      (hostWrite h (q.ring + 64 * (q.pi % ringSize q.logSize))
        (patchBytes e 1 (leBytes 1 ((byteAt e 1).toNat + wrapBit q.logSize q.pi + 4 * b2n stashed)))
        { plainAttr with st := if q.tphEn then some q.st else none } u)))
    let stashed (e : Bytes) (u : State) : State := modEq h eq.val (fun r => { r with stash := r.stash ++ [e] }) u
    exec (.eqArm mid h eq v) s = exec (.eqCiUpdate mid h eq v) s ∧
    (s.nicRuns = true → s.hostPresent h.val = true →
      (ringSize q.logSize < ringCount q.logSize q.pi ci → exec (.eqCiUpdate mid h eq v) s =
        .next (haltHost h 6 eq.val false true (fieldOf v 16 0) s)) ∧
      (ringCount q.logSize q.pi ci ≤ ringSize q.logSize →
        (bitOf v 31 = false ∨ q.vecEn = false → exec (.eqCiUpdate mid h eq v) s = .next taken) ∧
        (bitOf v 31 = true → q.vecEn = true → q.pi = ci → q.decided = [] → q.stash = [] → exec (.eqArm mid h eq v) s =
          .next (modEq h eq.val (fun r => { r with armed := true }) taken)) ∧
        (bitOf v 31 = true → q.vecEn = true → q.pi ≠ ci ∨ q.decided ≠ [] ∨ q.stash ≠ [] →
          exec (.eqArm mid h eq v) s = .next (eqDue h eq.val owing) ∧
          (q.due = [] → q.decidedNo ≤ q.writtenNo → eqDue h eq.val owing = msixSend h q.vector (settled owing)) ∧
          (q.due = [] → q.writtenNo < q.decidedNo → eqDue h eq.val owing = settled owing)))) ∧
    (s.hostLive h = true → ∀ e rest, q.decided = e :: rest →
      let after := modEq h eq.val (fun r => { r with decided := rest }) s
      (q.stash = [] → room → exec (.eventWrite h eq.val) s = .next (slotsFreed h (put e false after))) ∧
      ((q.stash ≠ [] ∨ ¬ room) → q.stash.length < 64 → exec (.eventWrite h eq.val) s = .next (slotsFreed h (stashed e after))) ∧
      (64 ≤ q.stash.length → exec (.eventWrite h eq.val) s = .next (slotsFreed h s))) ∧
    (q.decided = [] ∨ s.hostLive h = false → exec (.eventWrite h eq.val) s = .next (slotsFreed h s)) ∧
    (∀ e rest, q.stash = e :: rest →
      (room → s.hostLive h = true → exec (.stashDrain h eq.val) s =
        .next (slotsFreed h (stashDrainN h eq.val 63 (put e true (modEq h eq.val (fun r => { r with stash := rest }) s))))) ∧
      (¬ room ∨ s.hostLive h = false → exec (.stashDrain h eq.val) s = .next (slotsFreed h s))) ∧
    (q.stash = [] → exec (.stashDrain h eq.val) s = .next (slotsFreed h s)) ∧
    (s.fget F.EQ_ASYNC_EQ h.val = eq.val → ∀ code a, (s.host h).async = [(code, a)] →
      let entry := patchBytes (mkEvent s 8 0 (asyncBody code a)) 56 (leBytes 8 a.time.toNat)
      let taken := (modEq h eq.val (fun r => { r with decidedNo := r.decidedNo + 1 }) s).modHost h
        (fun x => { x with async := tblDel code x.async })
      (s.flag F.EQ_ASYNC_ENABLE h.val = true → s.hostLive h = true → (s.fget F.EQ_ASYNC_MASK h.val).testBit code = false → q.decided = [] →
        (q.stash = [] → room → exec (.asyncPendingWrite h) s = .next (put entry false taken)) ∧
        ((q.stash ≠ [] ∨ ¬ room) → q.stash.length < 64 → exec (.asyncPendingWrite h) s = .next (stashed entry taken))) ∧
      (s.flag F.EQ_ASYNC_ENABLE h.val = false ∨ s.hostLive h = false ∨ (s.fget F.EQ_ASYNC_MASK h.val).testBit code = true ∨
        q.decided ≠ [] ∨ 64 ≤ q.stash.length → exec (.asyncPendingWrite h) s = .next s))

/-- R157, R190, R194, R195, R202, R213, R224, R225, R226: what follows a table read, a record's fetch and a page request. The entry read sends the
walk to the table below, after the check of the address there, which waits where the read itself waits for a tag, or ends it: with the translation installed, with an absent page or
with a fault, both stale where an invalidation covered the page; what waited for it goes on with what it found. A fetched record is on chip, and the parked packets run again; where the
fetch failed they are refused. A page request that succeeds gives its tag back, one that does not, or is not answered in time, leaves its page held as
failed until the hold ends; a halted function discards an answer.
The model's choices it rests on: log entries 19, 28 and 63. -/
def Obligations.WalksAndPages : Prop :=
  ∀ (s : State) (h : HostPort) (tag : Nat),
    let u := reqEnd h tag true s
    let f := reqEnd h tag false s
    let goes (w : Walk) (e : WalkEnd) (t : State) : State := tagFreed h (pumpPort h (pumpCols h (releaseParked (some (w, e))
      (w.waiters.foldl (fun x k => wakeUser h (some (w, e)) k x) t))))
    (∀ id w d, reqOf s h tag = some (.walk id) → u.hostLive h = true → tblGet id (u.host h).xlt.walks = some w →
      let pte := BitVec.ofNat 64 (leAt d 0 8)
      let ea (table : Nat) : Nat := walkEntry table w.va (w.level - 1)
      (∀ table, walkPte u h w pte = .ok table → walkCheck u h (ea table) = none ∨ tagFree u h = false →
        exec (.walkReadDone h tag (some d)) s = .next (tagFreed h (hostReq h (.walk id) (ea table) 8 false
          (modXlt h (fun x => { x with walks := tblMod id (fun k => { k with level := w.level - 1, table := table }) x.walks }) u)))) ∧
      (∀ table c, walkPte u h w pte = .ok table → walkCheck u h (ea table) = some c → tagFree u h = true →
        exec (.walkReadDone h tag (some d)) s =
          .next (goes w (walkEndOf w (.fault c (w.level - 1))) (endWalk h id none u))) ∧
      (∀ r e, walkPte u h w pte = .error (r, e) →
        exec (.walkReadDone h tag (some d)) s = .next (goes w (walkEndOf w r) (endWalk h id e u))) ∧
      (bitOf pte 0 = false → walkPte u h w pte = .error (.absent w.level, none)) ∧
      (bitOf pte 0 = true → bitOf pte 63 = true → walkPte u h w pte = .error (.fault 3 w.level, none))) ∧
    (∀ id w, reqOf s h tag = some (.walk id) → f.hostLive h = true → tblGet id ((reqFail h f).host h).xlt.walks = some w →
      exec (.walkReadDone h tag none) s =
        .next (goes w (walkEndOf w (.fault 7 w.level)) (endWalk h id none (reqFail h f)))) ∧
    (∀ ep, reqOf s h tag = some (.context ep) → u.hostLive h = true →
      (∀ t, makeRoom 1 1 u = some t → exec (.fetchDone h tag true) s = .next (tagFreed h (pumpPort h (releaseParked none
        (cacheUnit (.ctx h ep) (modEp h ep (fun c => { c with onChip := true }) t)))))) ∧
      (makeRoom 1 1 u = none → exec (.fetchDone h tag true) s = .next (tagFreed h (pumpPort h (releaseParked none u))))) ∧
    (∀ key, reqOf s h tag = some (.pair key) → u.hostLive h = true →
      (∀ t, makeRoom 3 3 u = some t → exec (.fetchDone h tag true) s = .next (tagFreed h (pumpPort h (releaseParked none
        (cacheUnit (.pair h key) (modPair h key (fun p => { p with onChip := true }) t)))))) ∧
      (makeRoom 3 3 u = none → exec (.fetchDone h tag true) s = .next (tagFreed h (pumpPort h (releaseParked none u))))) ∧
    (∀ ep, reqOf s h tag = some (.context ep) → f.hostLive h = true →
      exec (.fetchDone h tag false) s = .next (tagFreed h (releaseParked none (failWaiting h (fun q _ => decide (q.ep = ep))
        (refuseFetch h (.context ep) ((reqFail h f).finc F.EPC_ERR_FETCH_FAIL 1 h.val)))))) ∧
    (∀ p, tblGet tag (s.host h).rem.pages = some p →
      let gone := modRem h (fun x => { x with pages := tblDel tag x.pages }) s
      let held := modRem h (fun x => { x with pages := tblSet (firstGap 512 x.pages) { p with failed := true } (tblDel tag x.pages) }) s
      (p.failed = false →
        (s.hostLive h = true → exec (.pageRequestResponse h tag true) s = .next gone ∧
          exec (.pageRequestResponse h tag false) s = .next held) ∧
        (s.hostLive h = false → ∀ ok, exec (.pageRequestResponse h tag ok) s = .next s) ∧
        exec (.pageRequestTimeout h tag) s = .next held ∧ exec (.failHoldExpiry h tag) s = .next s) ∧
      (p.failed = true → exec (.failHoldExpiry h tag) s = .next gone ∧ exec (.pageRequestTimeout h tag) s = .next s ∧
        ∀ ok, exec (.pageRequestResponse h tag ok) s = .next s)) ∧
    (tblGet tag (s.host h).rem.pages = none → exec (.pageRequestTimeout h tag) s = .next s ∧ exec (.failHoldExpiry h tag) s = .next s)

/-- R211, R214, R269, R273 to R276, R278, R279: pair resets, congestion queries, the refill of Leash and the sampling. A pair reset is accepted for a live
endpoint and a side, one at a time, and takes effect once the record is on chip: the send side starts at PSEQ 0 and stays quiet until
its time has passed, the receive side expects 0. A query shows the record's congestion state. A refill tick gives every queue its
tokens, and a sampling tick one record to each enabled slot.
The model's choices it rests on: log entries 62 and 67. -/
def Obligations.PairsAndCongestion : Prop :=
  ∀ (s : State) (h : HostPort) (mid : Mid) (v : Word),
    let key := selectedPair s h (fieldOf v 23 0)
    let side := s.fget F.EPC_PAIR_SEL_SIDE h.val
    (s.nicRuns = true → s.hostPresent h.val = true →
      (bitOf v 24 = false → exec (.pairReset mid h v) s = .next s ∧ exec (.ccPairQuery mid h v) s = .next s) ∧
      (bitOf v 24 = true →
        (∀ r, (s.host h).rem.pairReset = some r → exec (.pairReset mid h v) s = .next (s.fset F.EPC_PAIR_RESET_ERR 1 h.val)) ∧
        ((s.host h).rem.pairReset = none →
          (liveEp s h (s.fget F.EPC_PAIR_SEL_LOCAL_EP h.val) = none ∨ side = 0 →
            exec (.pairReset mid h v) s = .next (s.fset F.EPC_PAIR_RESET_ERR 2 h.val)) ∧
          (∀ k, liveEp s h (s.fget F.EPC_PAIR_SEL_LOCAL_EP h.val) = some k → side ≠ 0 → exec (.pairReset mid h v) s = .next
            (askPair h key ((modRem h (fun x => { x with pairReset := some (key, side) }) s).fset F.EPC_PAIR_RESET_ERR 0 h.val)))) ∧
        (∀ k, (s.host h).rem.ccQuery = some k → exec (.ccPairQuery mid h v) s = .next (s.fset F.CC_PAIR_Q_ERR 1 h.val)) ∧
        ((s.host h).rem.ccQuery = none →
          (getPair s h key = none → exec (.ccPairQuery mid h v) s = .next (s.fset F.CC_PAIR_Q_ERR 2 h.val)) ∧
          (∀ p, getPair s h key = some p → exec (.ccPairQuery mid h v) s = .next
            (askPair h key ((modRem h (fun x => { x with ccQuery := some key }) s).fset F.CC_PAIR_Q_ERR 0 h.val)))))) ∧
    (∀ k, fetching s h (.pair k) = false →
      let done (t : State) : State := modRem h (fun x => { x with pairReset := none }) t
      ((s.host h).rem.pairReset = some (k, 1) → exec (.pairResetDone h) s = .next (portGoesOn h (done (resetSend h k s)))) ∧
      ((s.host h).rem.pairReset = some (k, 2) → exec (.pairResetDone h) s =
        .next (portGoesOn h (done (modPair h k (fun p => { p with exp := 0#24, consumed := [], durable := [], unacked := 0, trig := none }) s)))) ∧
      ((s.host h).rem.pairReset = some (k, 3) → exec (.pairResetDone h) s = .next (portGoesOn h (done (resetRecv h k (resetSend h k s))))) ∧
      (∀ p, (s.host h).rem.ccQuery = some k → getPair s h k = some p → p.onChip = true → exec (.ccPairQueryDone h) s = .next
        ((modRem h (fun x => { x with ccQuery := none }) s).setWord .CC_PAIR_STATE (packFields [(23, 0, p.cong.w),
          (39, 24, min 65535 (p.cong.base.getD 0 / 8)), (55, 40, min 65535 (p.cong.lastRtt / 8)),
          (63, 56, min 255 (p.cong.inflight / 1024))]) h.val 0))) ∧
    ((s.host h).rem.pairReset = none → exec (.pairResetDone h) s = .next (portGoesOn h s)) ∧
    ((s.host h).rem.ccQuery = none → exec (.ccPairQueryDone h) s = .next s) ∧
    (∀ ep peer p, getPair s h (pairNamed ep peer) = some p →
      (p.quiet = true → exec (.pairQuietExpiry h ep peer) s =
        .next (portGoesOn h (modPair h (pairNamed ep peer) (fun p => { p with quiet := false }) s))) ∧
      (p.quiet = false → exec (.pairQuietExpiry h ep peer) s = .next s)) ∧
    (let filled := s.modHost h (fun x => { x with
        wqs := x.wqs.map (fun q => (q.1, { q.2 with leash := q.2.leash.map (refillLeash x.refill) })),
        refill := max 1 (s.fget F.SHP_CTL_REFILL h.val) })
     (filled.hostLive h = true → exec (.leashRefill h) s = .next (portGoesOn h (resendDue h filled))) ∧
     (filled.hostLive h = false → exec (.leashRefill h) s = .next filled)) ∧
    (s.fget F.SHP_CTL_SAMPLE_US h.val = 0 → exec (.sampleTick h) s = .next s) ∧
    (s.fget F.SHP_CTL_SAMPLE_US h.val ≠ 0 → (∀ k, s.flag F.SHP_SAMPLE_SEL_EN h.val k = false) → exec (.sampleTick h) s =
      .next (s.modHost h (fun x => { x with leashHeld := [], cwndHeld := [] }))) ∧
    (s.fget F.SHP_CTL_SAMPLE_US h.val ≠ 0 → exec (.sampleTick h) s = .next
      (((List.range 16).foldl (fun t k => if t.flag F.SHP_SAMPLE_SEL_EN h.val k then
        t.setWord .SHP_SAMPLE (sampleWord t h k (t.fget F.SHP_SAMPLE_SEL_WQ h.val k) ((t.fget F.SHP_SAMPLE_SEQ h.val k + 1) % 256)) h.val k
        else t) s).modHost h (fun x => { x with leashHeld := [], cwndHeld := [] })))

/-- R157, R170 to R174: descriptors. A fetch reads up to PREFETCH descriptors from the ring, in two reads where it wraps. A descriptor
whose PHASE matches its index enters the store and moves FETCH; one that does not match is read again, and halts the function (0x5) the fourth
time; a read that failed halts it (0x7). The next operation of the store starts, on the side list where something holds it
back; a fenced one waits until it is the oldest. HEAD is written to host memory once for what has moved, after the events decided before it. -/
def Obligations.Descriptors : Prop :=
  ∀ (s : State) (h : HostPort) (wq : Nat) (q : WorkQueue), tblGet wq (s.host h).wqs = some q → s.hostLive h = true →
    let n := fetchLen q
    let first := min n (ringSize q.logSize - q.fetch % ringSize q.logSize)
    let ask (i count : Nat) (again : Bool) (t : State) : State :=
      hostReq h (.desc wq i count again) (q.ring + 64 * (i % ringSize q.logSize)) (64 * count) false t
    (descReqs s h wq = [] → descWaiting s h wq = false →
      (q.reread = none → n ≠ 0 → unstarted q < q.prefetch → storeUsed s h + n ≤ 1024 →
        (first = n → exec (.descriptorFetch h wq) s = .next (ask q.fetch n false s)) ∧
        (first < n → exec (.descriptorFetch h wq) s =
          .next (ask ((q.fetch + first) % (2 * ringSize q.logSize)) (n - first) false (ask q.fetch first false s)))) ∧
      (n = 0 → exec (.descriptorFetch h wq) s = .next s) ∧
      (∀ i k, q.reread = some (i, k) → exec (.phaseReread h wq) s = .next (ask i 1 true s) ∧
        exec (.descriptorFetch h wq) s = .next s)) ∧
    (q.reread = none → exec (.phaseReread h wq) s = .next s) ∧
    (∀ tag i again, descReqs s h wq = [(tag, i, 1, again)] →
      let u := reqEnd h tag true s
      let lost := reqEnd h tag false s
      let tried := if again then q.reread.elim 0 (fun x => x.2 + 1) else 0
      (lost.hostLive h = true → exec (.descriptorFetchDone h wq none) s =
        .next (tagFreed h (haltHost h 7 wq false false i (reqFail h lost)))) ∧
      (u.hostLive h = true → tblGet wq (u.host h).wqs = some q → i < 2 * ringSize q.logSize → ∀ d : Bytes, d.length = 64 →
        (b2n (dFlag d 0) = wrapBit q.logSize i → exec (.descriptorFetchDone h wq (some d)) s =
          .next (tagFreed h (checkStore h wq (modWq h wq (fun r => skipInline (ringSize r.logSize)
            { r with fetch := (i + 1) % (2 * ringSize r.logSize), reread := none }) (storeDesc h wq i d u))))) ∧
        (b2n (dFlag d 0) ≠ wrapBit q.logSize i → tried < 3 → exec (.descriptorFetchDone h wq (some d)) s =
          .next (tagFreed h (checkStore h wq (modWq h wq (fun r => { r with reread := some (i, tried) }) u)))) ∧
        (b2n (dFlag d 0) ≠ wrapBit q.logSize i → 3 ≤ tried → exec (.descriptorFetchDone h wq (some d)) s =
          .next (tagFreed h (checkStore h wq (haltHost h 5 wq false false i u)))))) ∧
    (descReqs s h wq = [] → ∀ data, exec (.descriptorFetchDone h wq data) s = .next (tagFreed h s)) ∧
    (s.nicWorks = true → q.side.length < 16 → q.waitEvents = [] →
      (nextOp q = none → exec (.operationStart h wq) s = .next s) ∧
      (∀ i ds, nextOp q = some (i, ds) →
        (dFlag (ds.headD []) 4 = true → q.head ≠ i → exec (.operationStart h wq) s = .next s) ∧
        (dFlag (ds.headD []) 4 = false ∨ q.head = i → exec (.operationStart h wq) s = .next (pmcHost h.val 0x39 1
          (modWq h wq (fun r => { r with
            store := r.store.drop ds.length, next := (i + ds.length) % (2 * ringSize r.logSize), ops := tblSet i (newOp s h ds) r.ops,
            side := if startHeld s h q (newOp s h ds) then r.side ++ [i] else r.side }) s))))) ∧
    (16 ≤ q.side.length → exec (.operationStart h wq) s = .next s) ∧
    (q.headDue = true → headReady s h q = true → exec (.headIndexWrite h wq) s = .next (modWq h wq (fun r => { r with headDue := false })
      (hostWrite h q.headAddr (leBytes 8 q.head) plainAttr s))) ∧
    (q.headDue = false ∨ headReady s h q = false → exec (.headIndexWrite h wq) s = .next s)

/-- R106, R169, R172, R236, R240, R242, R251, R256, R258, R263: the work of a started operation. It begins once no earlier operation of the queue to
its destination has packets left, and hands over packets as long as data, window and tokens allow; a NOP descriptor has none and only
completes; a SEND longer than EAGER_MAX as it starts goes out as a rendezvous and takes a window first, after its
entry has been read in host-table mode; a RECV begins its search; a COLLECTIVE takes its group's next
slot, waits on the side list for a slot in progress, and ends at once where it has no armed group of its port or does not fit it.
The model's choices it rests on: log entries 66 and 68. -/
def Obligations.OperationsBegin : Prop :=
  ∀ (s : State) (h : HostPort) (wq idx : Nat) (q : WorkQueue) (op : OpState), tblGet wq (s.host h).wqs = some q →
    tblGet idx q.ops = some op → op.begun = false → s.hostLive h = true → s.nicWorks = true →
    let d := opFirst op
    let begun := modOp h wq idx (fun o => { o with begun := true }) s
    (∀ r ∈ [(1, Instr.putDescriptor h wq idx), (2, .putDurableDescriptor h wq idx), (3, .get h wq idx), (4, .atomicDescriptor h wq idx),
        (5, .atomicFetchDescriptor h wq idx), (6, .send h wq idx), (8, .vpWrite h wq idx), (10, .nopDescriptor h wq idx)],
      (dOp d = r.1 →
        (earlierOpen q idx op = true → exec r.2 s = .next (roomAgain s)) ∧
        (earlierOpen q idx op = false →
          (op.rndv = false → exec r.2 s = .next (roomAgain (pumpOp h wq idx none pumpFuel begun))) ∧
          (op.rndv = true →
            (s.fget F.MTE_RNDV_COUNT h.val = 0 → exec r.2 s =
              .next (roomAgain (pumpOp h wq idx none pumpFuel (opError h wq idx 1 1 begun)))) ∧
            (s.fget F.MTE_RNDV_COUNT h.val ≠ 0 →
              (freeRndv s h = none → exec r.2 s = .next (roomAgain (toSide h wq idx s))) ∧
              (∀ w, freeRndv s h = some w →
                (∀ u, needWin h w s = (u, none) → exec r.2 s = .next (roomAgain (pumpOp h wq idx none pumpFuel
                  (modOp h wq idx (fun o => { o with begun := true, rndvWin := some w }) (openWin h w
                    { closedWin true with pd := q.pd, access := 1, len := dLen d, rndv := some (wq, idx) } u))))) ∧
                (∀ u k, needWin h w s = (u, some k) → exec r.2 s = .next (roomAgain (toSide h wq idx u)))))))) ∧
      (dOp d ≠ r.1 → exec r.2 s = .next (roomAgain s))) ∧
    (∀ ds, (newOp s h ds).rndv = (decide (dOp (ds.headD []) = 6) && decide (eagerMax s h < dLen (ds.headD [])))) ∧
    (dOp d = 10 → pumpOp h wq idx none pumpFuel begun = checkOp h wq idx begun) ∧
    (dOp d = 7 → exec (.recv h wq idx) s = .next (portGoesOn h (recvStep h wq idx begun))) ∧
    (dOp d ≠ 7 → exec (.recv h wq idx) s = .next s) ∧
    (dOp d ≠ 9 → exec (.collective h wq idx) s = .next (roomAgain s)) ∧
    (dOp d = 9 →
      (tblGet (dGroup d) s.groups = none → exec (.collective h wq idx) s = .next (roomAgain (colRefuse h wq idx 1 0x11 s))) ∧
      (∀ g, tblGet (dGroup d) s.groups = some g →
        (g.owner ≠ h → exec (.collective h wq idx) s = .next (roomAgain (colRefuse h wq idx 1 0x11 s))) ∧
        (g.owner = h →
          (g.status = .disarming → exec (.collective h wq idx) s = .next (roomAgain (colRefuse h wq idx 2 0 s))) ∧
          (g.status = .failed → exec (.collective h wq idx) s =
            .next (roomAgain (colRefuse h wq idx (causeStatus g.cause g.detail).1 (causeStatus g.cause g.detail).2 s))) ∧
          (g.status = .armed →
            (colBadParams g d = true → exec (.collective h wq idx) s = .next (roomAgain (colRefuse h wq idx 1 1 s))) ∧
            (colBadParams g d = false → colBusy s (dGroup d) = true → exec (.collective h wq idx) s = .next (roomAgain (toSide h wq idx s))) ∧
            (colBadParams g d = false → colBusy s (dGroup d) = false → exec (.collective h wq idx) s =
              .next (roomAgain (colStart h wq idx (dGroup d) g d s)))))))

/-- R98, R104, R105, R107, R110, R238, R294, R356, R399: how an arrival is checked. A command acts on the packet at the head of its ejection buffer,
if that has the command's opcode; in DOZE the packet wakes the NIC and stays. A packet with a wrong PCRC is discarded and counted; one with an
opcode or form that is not listed, or a value out of range, is refused as MALFORMED, or dropped if it is not sequenced; one to no
endpoint is refused with NO_ENDPOINT. A PSEQ outside the window drops the packet and counts it; one of a pair whose held messages are ready
stays until they are released; a duplicate is counted and acknowledged again; a NOP that is new is
consumed. A discarded packet ends its slot as 2, a consumed one as 1, one that stays as 4.
The model's choices it rests on: log entries 58, 59, 60 and 82. -/
def Obligations.ArrivalChecks : Prop :=
  ∀ (s : State) (ip : IntPort),
    let rows := [(0x01, Instr.putShort ip), (0x21, .put ip), (0x02, .putShortDurable ip), (0x22, .putDurable ip), (0x03, .getReq ip),
      (0x04, .atomic ip), (0x05, .atomicFetch ip), (0x40, .vpDirectWrite ip), (0x0A, .nop ip), (0x08, .ack ip), (0x23, .getResp ip),
      (0x0B, .atomicResp ip), (0x06, .msgShort ip), (0x24, .msgEager ip), (0x07, .rndvReq ip)]
    (s.ints[ip].eject = [] → exec (.unlistedOpcode ip) s = .next s ∧ exec (.nack ip) s = .next s ∧ ∀ r ∈ rows, exec r.2 s = .next s) ∧
    (∀ e rest, s.ints[ip].eject = e :: rest →
      let out := takeEject ip e s
      let counted : State := { s with discards := { s.discards with opcode := s.discards.opcode + 1 } }
      (∀ r ∈ rows, pktOpcode e.pkt ≠ r.1 → exec r.2 s = .next s) ∧
      (∀ r ∈ rows, pktOpcode e.pkt = r.1 →
        (s.nicRuns = true → s.pwr.state = .doze → exec r.2 s = .next (dozeWake 9 s)) ∧
        (s.nicWorks = false → s.pwr.state ≠ .doze → exec r.2 s = .next s) ∧
        (s.nicWorks = true → pcrcOk e.pkt = false → exec r.2 s = .next (taken ip e 2 (pmcAdd 68 0x21 1 s))) ∧
        (s.nicWorks = true → pcrcOk e.pkt = true → malformed s e.pkt = true →
          (pktSequenced e.pkt = true → exec r.2 s = .next (roomAgain (nackEarly e.pkt 1 out))) ∧
          (pktSequenced e.pkt = false → pktUnlisted e.pkt = false → exec r.2 s = .next (taken ip e 2 s)) ∧
          (pktSequenced e.pkt = false → pktUnlisted e.pkt = true → exec r.2 s = .next (taken ip e 2 counted))) ∧
        (headSound s ip e → r.1 ≠ 8 → s.hostPresent (epPort (pktDstEp e.pkt)).val = true →
          tblGet (pktDstEp e.pkt) (s.host (epPort (pktDstEp e.pkt))).eps = none →
          exec r.2 s = .next (roomAgain (nackEarly e.pkt 2 out))) ∧
        (∀ h c p, headPaired s ip e h c p → r.1 ≠ 8 →
          let v := pairSeen s h e.pkt
          (seqOutside p (pktPseq e.pkt) = true → exec r.2 s =
            .next (taken ip e 2 { v with discards := { v.discards with window := v.discards.window + 1 } })) ∧
          (seqOutside p (pktPseq e.pkt) = false → readyHeld p ≠ [] → exec r.2 s = .next (nicSlot 4 v)) ∧
          (seqOutside p (pktPseq e.pkt) = false → readyHeld p = [] → seqNew p (pktPseq e.pkt) = false →
            p.durable.contains (pktPseq e.pkt) = false → exec r.2 s =
              .next (taken ip e 2 (ackOut h (arrivalKey e.pkt) 0 (pktPseq e.pkt) (arrivedAt e) (pmcAdd 68 0x25 1 v)))))) ∧
      (pktUnlisted e.pkt = true → s.nicWorks = true → pcrcOk e.pkt = true →
        (pktSequenced e.pkt = true → exec (.unlistedOpcode ip) s = .next (roomAgain (nackEarly e.pkt 1 out))) ∧
        (pktSequenced e.pkt = false → exec (.unlistedOpcode ip) s = .next (taken ip e 2 counted))) ∧
      (pktUnlisted e.pkt = false → exec (.unlistedOpcode ip) s = .next s) ∧
      (∀ h c p, headPaired s ip e h c p → pktOpcode e.pkt = 0x0A → seqOutside p (pktPseq e.pkt) = false → readyHeld p = [] →
        seqNew p (pktPseq e.pkt) = true →
        exec (.nop ip) s = .next (taken ip e 1 (consume h (arrivalKey e.pkt) e.pkt (arrivedAt e) (pairSeen s h e.pkt)))))

/-- R101, R103, R107, R109, R154, R216 to R223: what a new packet that names a window does. Where its window is on chip, open, of its
endpoint's domain, with its right, wide enough and aligned, and its bytes translate, one host request at a time, a put and a Velpen write put their data at the addresses translated and are
consumed, a durable one once a flush has ended, a Velpen write with NOTIFY adding its event; a get reserves a reply and starts the
reads of its window; an atomic enters the atomic unit, a fetching one with a reply reserved. A window that the check refuses refuses the packet with
that reason and the pair's ACK_SEQ.
The model's choices it rests on: log entries 19, 60, 61, 64 and 82. -/
def Obligations.WindowAccesses : Prop :=
  ∀ (s : State) (ip : IntPort) (e : InPacket) (h : HostPort) (c : EpCtx) (p : PairRec), headPaired s ip e h c p →
    seqOutside p (pktPseq e.pkt) = false → readyHeld p = [] → seqNew p (pktPseq e.pkt) = true →
    let k := arrivalKey e.pkt
    let now := arrivedAt e
    let q := winAsk (pairSeen s h e.pkt) h e.pkt
    let ends (row : Instr) (t : State) : Prop := exec row s = .next (taken ip e 1 t)
    ∀ i v, q.index = some i → i < winCount (pairSeen s h e.pkt) h → needWin h i (pairSeen s h e.pkt) = (v, none) →
      let w := winOf v h i
      let op := pktOpcode e.pkt
      let as := rangeAccesses (if op = 3 then (v.host h).hif.mrrs else (v.host h).hif.mps) w.pd (winRanges v h w q)
        (decide (op = 3 ∨ op = 4 ∨ op = 5)) (decide (op ≠ 3)) (w.access.testBit 3)
      (∀ r, winCheck w q c.pd (vpNotify e.pkt) = some r → w.rndv = none → ∀ row ∈ [(0x01, Instr.putShort ip), (0x21, .put ip),
          (0x02, .putShortDurable ip), (0x22, .putDurable ip), (0x03, .getReq ip), (0x04, .atomic ip), (0x05, .atomicFetch ip),
          (0x40, .vpDirectWrite ip)], op = row.1 →
        exec row.2 s = .next (roomAgain (refuse e.pkt (.refuse r 0) (takeEject ip e v)))) ∧
      (winCheck w q c.pd (vpNotify e.pkt) = none → as.any (pageFailed v h) = false →
        ∀ ps u x, translateAll h none none as v = (.all ps, u) → commitRefusal h p w e.pkt u = (x, none) →
        let written := writePieces h (isDurable e.pkt) (putData e.pkt) ps x
        let resv : Resv := { pair := k, reqSeq := pktPseq e.pkt, win := i, len := q.len, pd := w.pd, ranges := winRanges x h w q,
                             paged := w.access.testBit 3, tc := pktTc e.pkt, isGet := decide (op = 3), respSeq := none, data := [],
                             reads := 0, failed := false, ready := false, again := false }
        let late (t : State) : State := startFlush h (modRem h (fun y =>
          { y with unflushed := y.unflushed ++ [⟨k, pktPseq e.pkt, now⟩] }) (consumePending h k e.pkt t))
        (op = 0x01 → ends (.putShort ip) (consume h k e.pkt now written)) ∧
        (op = 0x21 → ends (.put ip) (consume h k e.pkt now written)) ∧
        (op = 0x02 → ends (.putShortDurable ip) (late written)) ∧
        (op = 0x22 → ends (.putDurable ip) (late written)) ∧
        (op = 0x40 → ends (.vpDirectWrite ip) (consume h k e.pkt now
          (if vpNotify e.pkt then eqDecide h w.eq (mkEvent written 3 0 (notifyBody e.pkt)) written else written))) ∧
        (op = 0x03 → ends (.getReq ip) (startReply h (takeResv h resv x).1 ps
          (noteLast h w e.pkt (consume h k e.pkt now (takeResv h resv x).2)))) ∧
        (op = 0x04 → ∀ a more, ps = a :: more → ends (.atomic ip)
          (startAtomics h (atomicIn h k e.pkt now a none i (consumePending h k e.pkt x)))) ∧
        (op = 0x05 → ∀ a more, ps = a :: more → ends (.atomicFetch ip)
          (startAtomics h (atomicIn h k e.pkt now a (some (takeResv h resv x).1) i
            (consume h k e.pkt now (takeResv h resv x).2)))))

/-- R102, R106, R108, R110, R213, R219, R221, R222, R231, R237, R238, R243: acknowledgements, responses, messages and the timers of a pair. An ACK or NACK is
taken by the sender of its pair, and what waited goes on. A response writes its operation's or its automatic get's buffer, as far as that has been read, and settles the request; one whose
request is gone is only consumed, and a failed fetching atomic ends in HOST_ERROR. A message that matching takes is consumed, one that comes while its endpoint searches a
Kennel block stays. The ACK
held back for coalescing goes out at its time; a packet not acknowledged in its time, or refused for a time that is over, is sent again, the 16th timeout giving
the pair up, once the pair's record is on chip; and the oldest waiting automatic get, in match order, starts while fewer than 1,024 are started on the chip.
The model's choices it rests on: log entries 24, 61, 62 and 82. -/
def Obligations.RepliesAndTimers : Prop :=
  (∀ (s : State) (ip : IntPort) (e : InPacket) (h : HostPort) (c : EpCtx) (p : PairRec), headPaired s ip e h c p →
    let k := arrivalKey e.pkt
    let now := arrivedAt e
    let v := pairSeen s h e.pkt
    let op := pktOpcode e.pkt
    let ends (row : Instr) (t : State) : Prop := exec row s = .next (taken ip e 1 t)
    (op = 0x08 → ends (.ack ip) (pumpPort h (ackIn h k e.pkt (ejection e) v))) ∧
    (op = 0x09 → pktAt e.pkt 19 1 ≠ 0x11 → ends (.nack ip) (pumpPort h (nackIn h k e.pkt v))) ∧
    (seqOutside p (pktPseq e.pkt) = false → readyHeld p = [] → seqNew p (pktPseq e.pkt) = true →
      (∀ row ∈ [(0x06, Instr.msgShort ip), (0x24, .msgEager ip), (0x07, .rndvReq ip)], op = row.1 →
        (∀ u, msgNew h k p e.pkt v = (u, .commit) → ends row.2 (consume h k e.pkt now u)) ∧
        (∀ u r d, msgNew h k p e.pkt v = (u, .refuse r d) →
          exec row.2 s = .next (roomAgain (refuse e.pkt (.refuse r d) (takeEject ip e u)))) ∧
        (c.search.isSome → exec row.2 s = .next (nicSlot 4 v))) ∧
      (tblGet (pktAt e.pkt 22 3) p.gets = none → ∀ row ∈ [(0x23, Instr.getResp ip), (0x0B, .atomicResp ip)], op = row.1 →
        ends row.2 (pumpPort h (consume h k e.pkt now v))) ∧
      (∀ g pd segs off len, tblGet (pktAt e.pkt 22 3) p.gets = some g → respDest v h g = some (pd, segs, off, len) →
        let n := min len (pktPlen e.pkt)
        (op = 0x23 → respShort v h g (off + n) = none →
          ∀ ps u, translateAll h none none (segAccesses (v.host h).hif.mps pd segs off n false true) v = (.all ps, u) →
          ends (.getResp ip) (pumpPort h (consume h k e.pkt now (respEnd h k e.pkt g (ps.map (·.len)).sum 0 0
            (writePieces h false (pktSlice e.pkt 32 n) ps u))))) ∧
        (op = 0x23 → ∀ id d, respShort v h g (off + n) = some (id, d) → exec (.getResp ip) s =
          .next (roomAgain (parkPkt e.pkt (ejection e) (.record id) (takeEject ip e (readSegs h id d v))))) ∧
        (op = 0x0B → pktAt e.pkt 40 2 = 0 →
          ∀ ps u, translateAll h none none (segAccesses (v.host h).hif.mps pd segs off len false true) v = (.all ps, u) →
          ends (.atomicResp ip) (pumpPort h (consume h k e.pkt now (respEnd h k e.pkt g len 0 0
            (writePieces h false (pktSlice e.pkt 32 len) ps u))))) ∧
        (op = 0x0B → pktAt e.pkt 40 2 ≠ 0 →
          ends (.atomicResp ip) (pumpPort h (consume h k e.pkt now (respEnd h k e.pkt g 0 5 0 v))))))) ∧
  (∀ (s : State) (h : HostPort) (ep peer : Nat) (p : PairRec),
    let k := pairNamed ep peer
    let seen := touchUnit (.pair h k) s
    getPair s h k = some p →
    (∀ q time, p.trig = some (q, time) → s.hostLive h = true → exec (.ackCoalesceTimeout h ep peer) s = .next (ackOut h k 0 q time s)) ∧
    (p.trig = none → exec (.ackCoalesceTimeout h ep peer) s = .next s) ∧
    (∀ seq, tblGet seq p.out = none ∨ s.hostLive h = false → exec (.e2eTimeout h ep peer seq) s = .next (portGoesOn h s) ∧
      exec (.refusalRetry h ep peer seq) s = .next (portGoesOn h s)) ∧
    (∀ seq o, tblGet seq p.out = some o → s.hostLive h = true → p.onChip = true →
      let slowed := if governed o.pkt then ccTimeout h k o.sentAt seen else seen
      (16 ≤ o.timeouts + 1 → exec (.e2eTimeout h ep peer seq) s = .next (portGoesOn h (breakPair h k slowed))) ∧
      (o.timeouts + 1 < 16 → exec (.e2eTimeout h ep peer seq) s = .next (portGoesOn h (againReply h k seq (replyReread h none)
        (modPair h k (fun p => { p with out := tblMod seq (fun e => { e with timeouts := o.timeouts + 1 }) p.out }) slowed)))) ∧
      (o.backoff = true → exec (.refusalRetry h ep peer seq) s =
        .next (portGoesOn h (againReply h k seq (replyReread h none) seen))) ∧
      (o.backoff = false → exec (.refusalRetry h ep peer seq) s = .next (portGoesOn h seen))) ∧
    (∀ seq o, tblGet seq p.out = some o → s.hostLive h = true → p.onChip = false → ∀ u w, needPair h k s = (u, .wait w) →
      let due (retry : Bool) : State := modRem h (fun x =>
        if x.late.contains (k, seq, retry) then x else { x with late := x.late ++ [(k, seq, retry)] }) u
      exec (.e2eTimeout h ep peer seq) s = .next (portGoesOn h (due false)) ∧
      exec (.refusalRetry h ep peer seq) s = .next (portGoesOn h (due true)))) ∧
  (∀ (s : State) (h : HostPort),
    (1024 ≤ bothPorts (autoGets s) → exec (.autoGetStart h) s = .next (roomAgain s)) ∧
    (bothPorts (autoGets s) < 1024 →
      let waits := (s.host h).mte.deliveries.find? (fun d => d.2.isGet && !d.2.started)
      (waits = none → exec (.autoGetStart h) s = .next (roomAgain s)) ∧
      (∀ i d, waits = some (i, d) →
        (d.record = false → exec (.autoGetStart h) s = .next (roomAgain s)) ∧
        (d.record = true → exec (.autoGetStart h) s = .next (roomAgain
          (pumpGet h i 20 (modDelivery h i (fun d => { d with started := true, depth := rndvDepth s h }) s)))))))

/-- R98, R104, R251, R252, R255, R258 to R263, R294, R356: Sheepdog. A collective packet meets its group by its number: an UP or DOWN for a group that is
not armed is refused with GROUP_NOT_ARMED, one for a failed group is answered with an ABORT, one with another TREE_ID, or from a chip that is no edge, is counted, one for an operation that has gone
on is dropped, one for an operation too far ahead, or whose slot is still in use, is counted as early and answered, and one for the current operation of its slot takes its part in that; a refusal marks its edge as not armed. A packet of the wrong class or
form is discarded, one with a wrong PCRC counted. What is due on an edge is sent again, and counted against RETRIES; an edge that
stays unarmed for its time fails its operations.
The model's choices it rests on: log entries 82 and 86. -/
def Obligations.Collectives : Prop :=
  (∀ (s : State) (ip : IntPort) (e : InPacket) (rest : List InPacket), s.ints[ip].eject = e :: rest →
    (∀ row ∈ [(0x0C, Instr.col ip), (0x25, .colData ip)],
      (pktOpcode e.pkt ≠ row.1 → exec row.2 s = .next s) ∧
      (pktOpcode e.pkt = row.1 → s.nicWorks = true →
        let u := takeEject ip e s
        let m := colMsg e.pkt
        let slot (g : ColGroup) := m.opseq.toNat % max 1 g.ops
        let ends (code : Nat) (t : State) : Prop := exec row.2 s = .next (roomAgain (nicSlot code t))
        (pcrcOk e.pkt = false → exec row.2 s = .next (nicSlot 2 (pmcAdd 68 0x21 1 u))) ∧
        (pcrcOk e.pkt = true → pktUnlisted e.pkt = true →
          exec row.2 s = .next (nicSlot 2 { u with discards := { u.discards with opcode := u.discards.opcode + 1 } })) ∧
        (pcrcOk e.pkt = true → pktUnlisted e.pkt = false → pktTc e.pkt ≠ s.useClass (·.collective) →
          exec row.2 s = .next (nicSlot 2 u)) ∧
        (pcrcOk e.pkt = true → pktUnlisted e.pkt = false → pktTc e.pkt = s.useClass (·.collective) →
          (tblGet m.grp s.groups = none → m.kind = 1 ∨ m.kind = 2 → ends 2 (colNotArmed e.pkt m u)) ∧
          (∀ g, tblGet m.grp s.groups = some g → m.kindOk = true →
            (g.status = .disarming → m.kind = 1 ∨ m.kind = 2 → ends 2 (colNotArmed e.pkt m u)) ∧
            (g.status ≠ .disarming → m.tree ≠ g.treeId ∨ colEdgeOf g e.pkt m = none → ends 1 (u.finc F.COL_ERR_TREE 1)) ∧
            (∀ i, m.tree = g.treeId → colEdgeOf g e.pkt m = some i →
              (g.status = .failed → m.kind = 1 ∨ m.kind = 2 → ends 1 (colReply m.grp g i 5 m u)) ∧
              (g.status = .armed →
                (tblGet (slot g) g.slots = none →
                  (opAhead g.next m.opseq = true → ends 1 u) ∧
                  (opAhead g.next m.opseq = false → (m.opseq - g.next).toNat < g.ops → ends 1 (colCurrent (slot g) i g e.pkt m u)) ∧
                  (opAhead g.next m.opseq = false → g.ops ≤ (m.opseq - g.next).toNat → ends 1 (colEarly i g m u))) ∧
                (∀ o, tblGet (slot g) g.slots = some o →
                  (o.opseq = m.opseq → ends 1 (colCurrent (slot g) i g e.pkt m u)) ∧
                  (o.opseq ≠ m.opseq → opAhead o.opseq m.opseq = true → ends 1 u) ∧
                  (o.opseq ≠ m.opseq → opAhead o.opseq m.opseq = false → colActive o = true ∨ g.ops ≤ (m.opseq - g.next).toNat →
                    ends 1 (colEarly i g m u))))))))) ∧
    (pktOpcode e.pkt = 9 → pktAt e.pkt 19 1 = 0x11 → headSound s ip e →
      exec (.nack ip) s = .next (nicSlot 1 (colRefused e.pkt (takeEject ip e s))))) ∧
  (∀ (s : State) (grp slot edge : Nat) (g : ColGroup) (o : ColOp), colOp s grp slot = some (g, o) →
    let x := getEdge o edge
    let counted := pmcAdd 70 0x31 1 ((modEdge grp slot edge (fun y => { y with tries := y.tries + 1 }) s).finc F.COL_ERR_RETX 1)
    let kind := if edge = 0 then 1 else 2
    let ends (t : State) : Prop := exec (.colRetransmit grp slot edge) s = .next (roomAgain t)
    (colAgain o edge = none → ends s) ∧
    (∀ k, colAgain o edge = some (some k) →
      (g.retries ≤ x.tries → ends (colFailGo grp slot 1 0 none s)) ∧
      (x.tries < g.retries →
        (∀ d, (if edge = 0 then upValue g o k else downValue g o k) = some d → ends (inject (segPkt counted grp g o edge kind k d) counted)) ∧
        ((if edge = 0 then upValue g o k else downValue g o k) = none →
          let f := freeBytes (segLen g o k) counted
          ends (inject (segPkt counted grp g o edge kind k f.1) f.2)))) ∧
    (colAgain o edge = some none →
      (g.retries ≤ x.tries → ends (modEdge grp slot edge (fun y => { y with abort := false }) s)) ∧
      (x.tries < g.retries → ends (inject (colPkt counted grp g o edge 5 []) counted)))) ∧
  (∀ (s : State) (grp edge : Nat) (g : ColGroup), tblGet grp s.groups = some g →
    exec (.armWaitExpiry grp edge) s =
      .next (roomAgain (g.slots.foldl (fun t o => if (getEdge o.2 edge).unarmed then colFailGo grp o.1 2 0 none t else t) s)) ∧
    ((∀ o ∈ g.slots, (getEdge o.2 edge).unarmed = false) → exec (.armWaitExpiry grp edge) s = .next (roomAgain s)))

/-- R63, R282 to R288, R302: fabric time. A TIM_SET on a grandmaster, or at LEVEL 31, steps the counter to the value written and counts the
step; on any other chip it does nothing. A tick of SLOW32 advances it by 30,517 or 30,518 ns while nothing faster runs. An UP port
sends its TEX on every group of its active lanes, and the one with the lowest number chooses the parent with it. A good TEX gives the port the time of its partner and its level; one
that carries the partner's measurement gives the flight time, and from the parent the offset that the servo answers (a half nanosecond is
rounded as a free bit says); a bad one is counted, and to a deaf receiver its columns are errors (R63).
The model's choices it rests on: log entries 14, 15, 36 and 50. -/
def Obligations.FabricTime : Prop :=
  ∀ (s : State) (mid : Mid) (p : NetPort) (v : Word) (set : Bytes),
    (s.rst.pHeld = false →
      ((s.flag F.TIM_CTL_GM = true ∨ s.tim.level = 31) → exec (.timSet mid v) s = .next (withTimeSync (fun u =>
        let t := u.finc F.TIM_STATUS_STEPS 1
        { t with tim := { t.tim with now := v, fixes := t.tim.fixes + 1, sinceStep := 0, fresh := false } }) s)) ∧
      (s.flag F.TIM_CTL_GM = false → s.tim.level ≠ 31 → exec (.timSet mid v) s = .next s)) ∧
    (s.rst.pHeld = false → s.fabricRuns = false →
      completes .slow32Tick s (fun t => t.tim.frac = (s.tim.frac + 18944) % 32768 ∧
        t.tim.now = s.tim.now + (if 32768 ≤ s.tim.frac + 18944 then 30518#64 else 30517#64) ∧
        t.regs = s.regs ∧ t.hosts = s.hosts ∧ t.ports = s.ports ∧ t.cfg = s.cfg ∧ t.rst = s.rst ∧ t.pwr = s.pwr)) ∧
    (s.fabricRuns = true → exec .slow32Tick s = .next s) ∧
    (s.routerRuns = true → s.fabricRuns = true → (s.port p).link.phase = .up →
      let out (t : State) : State := (sendSet p (.tex (texSet t p)) (wakeTx p t)).modPort p (fun q => { q with texSent := q.texSent + 1 })
      ((upPorts s).head? ≠ some p → exec (.texSend p) s = .next (out s)) ∧
      ((upPorts s).head? = some p → exec (.texSend p) s = .next (out (withTimeSync (fun t =>
        chooseParent { t with tim := { t.tim with sinceStep := min 4 (t.tim.sinceStep + 1) } }) s)))) ∧
    ((s.port p).link.phase ≠ .up → exec (.texSend p) s = .next s ∧
      (receives s p = false ∨ (s.port p).lane.deaf = false → exec (.texReceived p set) s = .next s)) ∧
    (receives s p = true → (s.port p).lane.deaf = true → exec (.texReceived p set) s = .next (columnErrors p 4 s)) ∧
    (hears s p = true → s.fabricRuns = true → (s.port p).link.phase = .up →
      (crGood set = none → exec (.texReceived p set) s = .next (crBad p s)) ∧
      (∀ c, crGood set = some c →
        let flags := leAt c 9 1
        let met := s.modPort p (fun q => { q with texHi := if flags.testBit 6 then leAt c 5 3 else q.texHi, peerLevel := flags % 32 })
        let pt := BitVec.ofNat 64 (fullT1 s.tim.level s.tim.now.toNat (leAt c 0 5) (met.port p).texHi)
        let heard := withTimeSync (fun t => { t with tim := { t.tim with unsync := false } })
          (met.modPort p (fun q => { q with tex := some (pt, s.tim.now) }))
        let theirs := signedOf 32 (leAt c 5 4)
        let mine := (s.tim.now - pt).toInt
        let half (bit : Nat) (x : Int) : Int := halfOf x (bitOf heard.freeValue bit)
        let timed := heard.tookFree.modPort p (fun q => { q with flight := (half 0 (theirs + mine)).toNat })
        ((flags.testBit 6 = true ∨ flags.testBit 5 = false) → exec (.texReceived p set) s = .next heard) ∧
        (flags.testBit 6 = false → flags.testBit 5 = true →
          ((timed.tim.parent ≠ p ∨ timed.tim.level = 0 ∨ timed.tim.level = 31) → exec (.texReceived p set) s = .next timed) ∧
          (timed.tim.parent = p → 1 ≤ timed.tim.level → timed.tim.level ≤ 30 →
            exec (.texReceived p set) s = .next (withTimeSync (servo (half 1 (mine - theirs))) timed)))))

/-- R27, R28, R38, R39, R45: the configuration store. A write of CFG_PROG_CTL sets block, region and AUTO_INC; with WRITE or READ it is a
command, which consumes the writer's unlock and is refused without power to the store (6), while one is in progress (4), for a WRITE under PFW_N
(5), past the end of its region (3), for a WRITE to the slot that is loaded (1) or to calibration without the unlock (2), and else stays in
progress until its pulse is over: then the 64 bytes are in the store, or the block stands in CFG_PROG_DATA, and BLOCK has
advanced where AUTO_INC said so; the pulse of a control record ends first. The order of the refusals, and of the two pulses, is the model's (log
entries 12 and 75). -/
def Obligations.ConfigStore : Prop :=
  ∀ (s : State) (mid : Mid) (v : Word), s.rst.pHeld = false →
    let block := fieldOf v 14 0
    let region := fieldOf v 17 16
    let put := ((s.fset F.CFG_PROG_CTL_BLOCK block).fset F.CFG_PROG_CTL_REGION region).fset F.CFG_PROG_CTL_AUTO_INC (fieldOf v 18 18)
    let err := progRefusal mid v s
    let asked (n : Nat) : State := (calDisarm mid put).fset F.CFG_PROG_CTL_ERR n
    let inside := 64 * block < (storeRegion region).2
    exec (.progRead mid v) s = exec (.progWrite mid v) s ∧
    (bitOf v 24 = false → bitOf v 25 = false → exec (.progWrite mid v) s = .next put) ∧
    (bitOf v 24 = true ∨ bitOf v 25 = true → err ≠ 0 → exec (.progWrite mid v) s = .next (asked err)) ∧
    (bitOf v 24 = true → err = 0 → exec (.progWrite mid v) s = .next ((asked 0).modCfg (fun c =>
      { c with prog := some (.write ((storeRegion region).1 + 64 * block) (progData (asked 0)) (bitOf v 18)) }))) ∧
    (bitOf v 24 = false → bitOf v 25 = true → err = 0 → exec (.progRead mid v) s = .next ((asked 0).modCfg (fun c =>
      { c with prog := some (.read ((storeRegion region).1 + 64 * block) (bitOf v 18)) }))) ∧
    (s.storeOn = false → err = 6) ∧
    (s.storeOn = true →
      (s.cfg.prog.isSome = true → err = 4) ∧
      (s.cfg.prog = none →
        (bitOf v 24 = true → s.pwr.pfw = true → err = 5) ∧
        (s.pwr.pfw = false → ¬ inside → err = 3) ∧
        (s.pwr.pfw = false → inside → bitOf v 24 = true → region = b2n s.cfg.slot → s.cfg.state = .loaded → err = 1) ∧
        (s.pwr.pfw = false → inside → bitOf v 24 = true → region = 2 → s.cfg.unlocked.contains mid = false → err = 2) ∧
        (inside → bitOf v 24 = false → err = 0) ∧
        (s.pwr.pfw = false → inside → region = 3 → err = 0))) ∧
    (∀ c, s.cfg.recPulse = some c → exec .progPulseDone s = .next (s.modCfg (fun c => { c with recPulse := none }))) ∧
    (∀ a data inc, s.cfg.recPulse = none → s.cfg.prog = some (.write a data inc) → exec .progPulseDone s = .next (progAdvance inc
      (s.modCfg (fun c => { c with prog := none, store := ramWrite c.store a data })))) ∧
    (∀ a inc, s.cfg.recPulse = none → s.cfg.prog = some (.read a inc) → exec .progPulseDone s = .next (progAdvance inc
      ((List.range 8).foldl (fun t k => t.setWord .CFG_PROG_DATA (BitVec.ofNat 64 (leNat (ramRead s.cfg.store (a + 8 * k) 8))) 0 k)
        (s.modCfg (fun c => { c with prog := none }))))) ∧
    (s.cfg.recPulse = none → s.cfg.prog = none → exec .progPulseDone s = .next s) ∧
    completes (.calUnlock mid v) s (fun t => (t.cfg.unlocked.contains mid = decide (fieldOf v 15 0 = 0x5CA1)) ∧
      (∀ m, m ≠ mid → t.cfg.unlocked.contains m = s.cfg.unlocked.contains m) ∧ t.regs = s.regs ∧ t.cfg.store = s.cfg.store)

/-- R28, R31, R35 to R38, R41, R42, R44, R397: activation, trial and the image load. A GO or CONFIRM that is accepted starts a check of the
slot, or the record pulse that confirms the slot on trial, CONFIRM before GO; one while an activation or a confirmation runs (1), without power to the store (2) or under PFW_N (3) is discarded whole, and a CONFIRM alone without a trial does nothing. The check's
result stands in RESULT, and a pass starts the record's pulse. A load reads the calibration region and takes the slot of the record, the other one after a trial that was not
confirmed; a slot that fails gives way to the other once, and then the chip has no image. A slot that passes is committed: its image,
tables and presets, of the sections its directory lists, hold, and the ports train.
The model's choices it rests on: log entries 5, 11, 13, 31, 32, 37 and 75. -/
def Obligations.ActivationAndLoad : Prop :=
  ∀ (s : State) (mid : Mid) (v : Word) (img : ImageDesc),
    (s.rst.pHeld = false →
      let u := calDisarm mid s
      let put := (u.fset F.CFG_ACTIVATE_SLOT (fieldOf v 0 0)).fset F.CFG_ACTIVATE_TRIAL (fieldOf v 1 1)
      let ok := put.fset F.CFG_ACTIVATE_ERR 0
      let kept := ok.modCfg (fun c => { writeRecord true c.slot .confirmed c with trial := false })
      let asked (t : State) : State := t.modCfg (fun c => { c with act := some (bitOf v 0, bitOf v 1) })
      let why := activateRefusal s
      exec (.confirm mid v) s = exec (.go mid v) s ∧
      (bitOf v 8 = false → bitOf v 9 = false → exec (.go mid v) s = .next put) ∧
      (bitOf v 8 = true ∨ bitOf v 9 = true → why ≠ 0 → exec (.go mid v) s = .next (u.fset F.CFG_ACTIVATE_ERR why)) ∧
      (why = 0 → bitOf v 8 = true →
        (bitOf v 9 = false ∨ s.cfg.trial = false → exec (.go mid v) s = .next (asked ok)) ∧
        (bitOf v 9 = true → s.cfg.trial = true → exec (.go mid v) s = .next (asked kept))) ∧
      (why = 0 → bitOf v 8 = false → bitOf v 9 = true →
        (s.cfg.trial = true → exec (.confirm mid v) s = .next kept) ∧
        (s.cfg.trial = false → exec (.confirm mid v) s = .next u)) ∧
      (s.cfg.act.isSome = true → why = 1) ∧
      (∀ copy, s.cfg.recPulse = some (copy, true) → why = 1) ∧
      (s.cfg.act = none → s.cfg.recPulse = none →
        (s.storeOn = false → why = 2) ∧
        (s.storeOn = true → s.pwr.pfw = true → why = 3) ∧
        (s.storeOn = true → s.pwr.pfw = false → why = 0))) ∧
    (∀ slot trial, s.cfg.act = some (slot, trial) → s.storeOn = true → s.cfg.recPulse = none →
      let reason := if headerReason s slot ≠ 0 then headerReason s slot
        else streamReason s slot (listedSections (slotSections s slot) img)
      let told := ((checkResult slot reason s).modCfg (fun c => { c with act := none })).fset F.CFG_ACTIVATE_RESULT reason
      (reason ≠ 0 → exec (.activateCheckDone img) s = .next told) ∧
      (reason = 0 → s.pwr.pfw = false → exec (.activateCheckDone img) s = .next (told.modCfg (fun c =>
        { writeRecord true slot (if trial then .pending else .confirmed) c with trial := c.trial && (trial || slot != c.slot) }))) ∧
      (reason = 0 → s.pwr.pfw = true → exec (.activateCheckDone img) s = .next (told.fset F.CFG_ACTIVATE_ERR 3))) ∧
    (s.cfg.act = none ∨ s.storeOn = false ∨ s.cfg.recPulse.isSome = true → exec (.activateCheckDone img) s = .next s) ∧
    (loadReady s = false → exec .imageLoadStart s = .next s) ∧
    (loadReady s = true →
      let r := ctlRecord s.cfg
      let begun := s.modCfg (fun c => { c with
        state := .loading, calValid := Config.calCheck (ramRead s.cfg.store 0x3C0000 0x10000), fellBack := false,
        fallback := false, trial := false, trialLoad := false, presetSkipped := false })
      let other : State := begun.modCfg (fun c => { c with stage := .header (!r.slot), fallback := true })
      (r.trial = .confirmed → exec .imageLoadStart s = .next (begun.modCfg (fun c => { c with stage := .header r.slot }))) ∧
      (r.trial = .pending → s.pwr.pfw = false → exec .imageLoadStart s =
        .next (begun.modCfg (fun c => { writeRecord false r.slot .loaded c with stage := .header r.slot, trialLoad := true }))) ∧
      (r.trial = .loaded → s.pwr.pfw = false → exec .imageLoadStart s =
        .next (begun.modCfg (fun c => { writeRecord false (!r.slot) .confirmed c with stage := .header (!r.slot), fallback := true }))) ∧
      (r.trial ≠ .confirmed → s.pwr.pfw = true → exec .imageLoadStart s = .next other)) ∧
    (∀ slot, s.cfg.stage = .header slot →
      (s.cfg.recPulse.isSome = true → exec .imageHeaderCheck s = .next s) ∧
      (s.cfg.recPulse = none →
        (headerReason s slot = 0 → exec .imageHeaderCheck s = .next (s.modCfg (fun c => { c with stage := .streaming slot }))) ∧
        (headerReason s slot ≠ 0 → exec .imageHeaderCheck s = .next (slotFails slot (headerReason s slot) s)))) ∧
    (∀ slot, s.cfg.stage = .streaming slot →
      let listed := listedSections (slotSections s slot) img
      (streamReason s slot listed = 0 → exec (.imageStreamDone img) s =
        .next ((checkResult slot 0 s).modCfg (fun c => { c with stage := .passed slot listed }))) ∧
      (streamReason s slot listed ≠ 0 → exec (.imageStreamDone img) s = .next (slotFails slot (streamReason s slot listed) s))) ∧
    (∀ slot reason, (s.cfg.fellBack = true → slotFails slot reason s = noImage (checkResult slot reason s)) ∧
      (s.cfg.fellBack = false → slotFails slot reason s = (checkResult slot reason s).modCfg (fun c =>
        { c with stage := .header (!slot), fellBack := true, fallback := true, trialLoad := false }))) ∧
    (∀ slot im, s.cfg.stage = .passed slot im → s.rst.clearing = false → s.rst.cHeld = false → s.rst.pHeld = false → s.flt.muzzle = false →
      let fused := if s.impl.grade5 then { im with ports := im.ports.map (fun q => { q with rateMax := max 1 q.rateMax }) } else im
      let c0 := s.modCfg (fun c => { c with stage := .idle, state := .loaded, slot := slot, trial := c.trialLoad, trialLoad := false })
      let c1 : State := { c0 with image := some fused, rtr := { imageTables fused with oldSeen := s.clock } }
      let c2 := fused.presets.foldl applyPreset (c1.modRst (fun r => { r with coreRel := true, cold := false, phase := .running }))
      let c3 := if c2.cfg.trial then asyncChip 0x09 0 (BitVec.ofNat 64 (b2n slot)) c2 else c2
      exec .imageCommit s = .next (allPorts.foldl (fun t p => startTraining p t) c3)) ∧
    ((s.rst.clearing = true ∨ s.rst.cHeld = true) → exec .imageCommit s = .next s)
end

