-- ==== Sys2Proof/Laws/Data.lean ====
section
/-! SUPPORT. Laws of the data types: bit fields, sparse tables, byte memories and their canonical form. -/

namespace Sys2Proof.Laws

open Sys2Proof.Machine

/-! ## Bit fields -/

theorem bitsOf_lt (v hi lo : Nat) : bitsOf v hi lo < 2 ^ (hi + 1 - lo) := Nat.mod_lt _ (Nat.two_pow_pos _)

theorem fieldOf_lt (w : Word) (hi lo : Nat) : fieldOf w hi lo < 2 ^ (hi + 1 - lo) := bitsOf_lt _ _ _

/-- A word split at a field: what lies above, the field and what lies below. -/
theorem word_split (n hi lo : Nat) (h : lo ≤ hi) :
    n = n / 2 ^ (hi + 1) * 2 ^ (hi + 1) + bitsOf n hi lo * 2 ^ lo + n % 2 ^ lo := by
  have e : hi + 1 = lo + (hi + 1 - lo) := by omega
  have h1 := Nat.div_add_mod n (2 ^ lo)
  have h2 := Nat.div_add_mod (n / 2 ^ lo) (2 ^ (hi + 1 - lo))
  have h3 : n / 2 ^ (hi + 1) = n / 2 ^ lo / 2 ^ (hi + 1 - lo) := by rw [Nat.div_div_eq_div_mul, ← Nat.pow_add, ← e]
  have h4 : (2 : Nat) ^ (hi + 1) = 2 ^ lo * 2 ^ (hi + 1 - lo) := by rw [← Nat.pow_add, ← e]
  rw [h3, h4]
  unfold bitsOf
  generalize n / 2 ^ lo = q at *
  generalize q / 2 ^ (hi + 1 - lo) = a at *
  generalize q % 2 ^ (hi + 1 - lo) = b at *
  generalize n % 2 ^ lo = c at *
  generalize (2 : Nat) ^ (hi + 1 - lo) = x at *
  generalize (2 : Nat) ^ lo = y at *
  subst h2
  subst h1
  ring

/-- What putting a field leaves, as a number. -/
theorem putField_toNat (w : Word) (hi lo v : Nat) (h : lo ≤ hi) (h' : hi < 64) :
    (putField w hi lo v).toNat =
      w.toNat / 2 ^ (hi + 1) * 2 ^ (hi + 1) + v % 2 ^ (hi + 1 - lo) * 2 ^ lo + w.toNat % 2 ^ lo := by
  have e := word_split w.toNat hi lo h
  have hv : v % 2 ^ (hi + 1 - lo) * 2 ^ lo + w.toNat % 2 ^ lo < 2 ^ (hi + 1) := by
    have h1 : v % 2 ^ (hi + 1 - lo) < 2 ^ (hi + 1 - lo) := Nat.mod_lt _ (Nat.two_pow_pos _)
    have h2 : w.toNat % 2 ^ lo < 2 ^ lo := Nat.mod_lt _ (Nat.two_pow_pos _)
    have e2 : (2 : Nat) ^ (hi + 1) = 2 ^ (hi + 1 - lo) * 2 ^ lo := by rw [← Nat.pow_add]; congr 1; omega
    rw [e2]
    calc v % 2 ^ (hi + 1 - lo) * 2 ^ lo + w.toNat % 2 ^ lo < v % 2 ^ (hi + 1 - lo) * 2 ^ lo + 2 ^ lo := by omega
      _ = (v % 2 ^ (hi + 1 - lo) + 1) * 2 ^ lo := by ring
      _ ≤ 2 ^ (hi + 1 - lo) * 2 ^ lo := Nat.mul_le_mul_right _ h1
  have hlt : w.toNat / 2 ^ (hi + 1) * 2 ^ (hi + 1) + v % 2 ^ (hi + 1 - lo) * 2 ^ lo + w.toNat % 2 ^ lo < 2 ^ 64 := by
    have e3 : (2 : Nat) ^ 64 = 2 ^ (63 - hi) * 2 ^ (hi + 1) := by rw [← Nat.pow_add]; congr 1; omega
    have h3 : w.toNat / 2 ^ (hi + 1) < 2 ^ (63 - hi) := by
      rw [Nat.div_lt_iff_lt_mul (Nat.two_pow_pos _), ← e3]; exact w.isLt
    have h4 : (w.toNat / 2 ^ (hi + 1) + 1) * 2 ^ (hi + 1) ≤ 2 ^ (63 - hi) * 2 ^ (hi + 1) := Nat.mul_le_mul_right _ h3
    rw [← e3, Nat.add_mul, Nat.one_mul] at h4
    omega
  unfold putField fieldOf
  rw [BitVec.toNat_ofNat]
  have e4 : w.toNat - bitsOf w.toNat hi lo * 2 ^ lo + v % 2 ^ (hi + 1 - lo) * 2 ^ lo =
      w.toNat / 2 ^ (hi + 1) * 2 ^ (hi + 1) + v % 2 ^ (hi + 1 - lo) * 2 ^ lo + w.toNat % 2 ^ lo := by omega
  rw [e4, Nat.mod_eq_of_lt hlt]

/-- A field reads back what was put into it. -/
theorem fieldOf_putField (w : Word) (hi lo v : Nat) (h : lo ≤ hi) (h' : hi < 64) :
    fieldOf (putField w hi lo v) hi lo = v % 2 ^ (hi + 1 - lo) := by
  unfold fieldOf bitsOf
  rw [putField_toNat w hi lo v h h']
  have e2 : (2 : Nat) ^ (hi + 1) = 2 ^ (hi + 1 - lo) * 2 ^ lo := by rw [← Nat.pow_add]; congr 1; omega
  have h2 : w.toNat % 2 ^ lo < 2 ^ lo := Nat.mod_lt _ (Nat.two_pow_pos _)
  rw [e2, ← Nat.mul_assoc, ← Nat.add_mul, Nat.mul_comm _ (2 ^ lo), Nat.mul_add_div (Nat.two_pow_pos _),
    Nat.div_eq_of_lt h2, Nat.add_zero, Nat.mul_comm _ (2 ^ (hi + 1 - lo)), Nat.mul_add_mod, Nat.mod_mod]

/-- A field below the one that was put keeps its value. -/
theorem fieldOf_putField_below (w : Word) (hi lo v hi' lo' : Nat) (h : lo ≤ hi) (h' : hi < 64) (hb : hi' < lo) :
    fieldOf (putField w hi lo v) hi' lo' = fieldOf w hi' lo' := by
  have key : ∀ n m : Nat, n % 2 ^ lo = m % 2 ^ lo → bitsOf n hi' lo' = bitsOf m hi' lo' := by
    intro n m e
    unfold bitsOf
    by_cases hl : lo' ≤ hi'
    · have e1 : ∀ k : Nat, k / 2 ^ lo' % 2 ^ (hi' + 1 - lo') = (k % 2 ^ (hi' + 1)) / 2 ^ lo' := by
        intro k
        have : (2 : Nat) ^ (hi' + 1) = 2 ^ lo' * 2 ^ (hi' + 1 - lo') := by rw [← Nat.pow_add]; congr 1; omega
        rw [this, Nat.mod_mul_right_div_self]
      have hd : (2 : Nat) ^ (hi' + 1) ∣ 2 ^ lo := Nat.pow_dvd_pow 2 (by omega)
      rw [e1, e1, ← Nat.mod_mod_of_dvd n hd, ← Nat.mod_mod_of_dvd m hd, e]
    · have : hi' + 1 - lo' = 0 := by omega
      rw [this]; simp [Nat.mod_one]
  apply key
  rw [putField_toNat w hi lo v h h']
  have hd : (2 : Nat) ^ lo ∣ 2 ^ (hi + 1) := Nat.pow_dvd_pow 2 (by omega)
  obtain ⟨c, hc⟩ := hd
  rw [hc]
  have : w.toNat / (2 ^ lo * c) * (2 ^ lo * c) + v % 2 ^ (hi + 1 - lo) * 2 ^ lo + w.toNat % 2 ^ lo =
      2 ^ lo * (w.toNat / (2 ^ lo * c) * c + v % 2 ^ (hi + 1 - lo)) + w.toNat % 2 ^ lo := by ring
  rw [this, Nat.mul_add_mod, Nat.mod_mod]

/-- A field above the one that was put keeps its value. -/
theorem fieldOf_putField_above (w : Word) (hi lo v hi' lo' : Nat) (h : lo ≤ hi) (h' : hi < 64) (ha : hi < lo') :
    fieldOf (putField w hi lo v) hi' lo' = fieldOf w hi' lo' := by
  unfold fieldOf bitsOf
  congr 1
  have e : lo' = (hi + 1) + (lo' - (hi + 1)) := by omega
  have key : (putField w hi lo v).toNat / 2 ^ (hi + 1) = w.toNat / 2 ^ (hi + 1) := by
    rw [putField_toNat w hi lo v h h', Nat.add_assoc, Nat.mul_comm (w.toNat / 2 ^ (hi + 1)), Nat.mul_add_div (Nat.two_pow_pos _)]
    have h1 : v % 2 ^ (hi + 1 - lo) < 2 ^ (hi + 1 - lo) := Nat.mod_lt _ (Nat.two_pow_pos _)
    have h2 : w.toNat % 2 ^ lo < 2 ^ lo := Nat.mod_lt _ (Nat.two_pow_pos _)
    have e2 : (2 : Nat) ^ (hi + 1) = 2 ^ (hi + 1 - lo) * 2 ^ lo := by rw [← Nat.pow_add]; congr 1; omega
    have hlt : v % 2 ^ (hi + 1 - lo) * 2 ^ lo + w.toNat % 2 ^ lo < 2 ^ (hi + 1) := by
      rw [e2]
      calc v % 2 ^ (hi + 1 - lo) * 2 ^ lo + w.toNat % 2 ^ lo < v % 2 ^ (hi + 1 - lo) * 2 ^ lo + 2 ^ lo := by omega
        _ = (v % 2 ^ (hi + 1 - lo) + 1) * 2 ^ lo := by ring
        _ ≤ 2 ^ (hi + 1 - lo) * 2 ^ lo := Nat.mul_le_mul_right _ h1
    rw [Nat.div_eq_of_lt hlt, Nat.add_zero]
  rw [e, Nat.pow_add, ← Nat.div_div_eq_div_mul, ← Nat.div_div_eq_div_mul, key]

/-! ## Sparse tables -/

/-- A set entry reads back. -/
@[simp] theorem tblGet_set {α : Type} (k : Nat) (v : α) (t : Tbl α) : tblGet k (tblSet k v t) = some v := by
  induction t with
  | nil => simp [tblSet, tblGet]
  | cons e t ih =>
    simp only [tblSet]
    split
    · rename_i h
      simp only [tblGet, ih, ite_eq_right_iff]
      intro h'; omega
    · split <;> simp [tblGet]

/-- Setting an entry leaves every other as it was. -/
theorem tblGet_set_other {α : Type} (k j : Nat) (v : α) (t : Tbl α) (h : j ≠ k) : tblGet j (tblSet k v t) = tblGet j t := by
  induction t with
  | nil => simp [tblSet, tblGet, Ne.symm h]
  | cons e t ih =>
    simp only [tblSet]
    split
    · simp only [tblGet, ih]
    · split
      · rename_i h1 h2
        have : e.1 ≠ j := by omega
        simp [tblGet, Ne.symm h, this]
      · simp [tblGet, Ne.symm h]

/-- A removed entry is gone. -/
@[simp] theorem tblGet_del {α : Type} (k : Nat) (t : Tbl α) : tblGet k (tblDel k t) = none := by
  induction t with
  | nil => rfl
  | cons e t ih =>
    unfold tblDel at *
    by_cases h : e.1 = k
    · simpa [h] using ih
    · simpa [h, tblGet] using ih

/-- Removing an entry leaves every other as it was. -/
theorem tblGet_del_other {α : Type} (k j : Nat) (t : Tbl α) (h : j ≠ k) : tblGet j (tblDel k t) = tblGet j t := by
  induction t with
  | nil => rfl
  | cons e t ih =>
    unfold tblDel at *
    by_cases h1 : e.1 = k
    · have : e.1 ≠ j := by omega
      rw [tblGet, if_neg this]
      simpa [h1] using ih
    · simp only [List.filter_cons]
      have : (e.1 != k) = true := by simpa using h1
      simp only [this, if_true, tblGet, ih]

/-- Changing an entry in place. -/
theorem tblGet_mod {α : Type} (k : Nat) (f : α → α) (t : Tbl α) : tblGet k (tblMod k f t) = (tblGet k t).map f := by
  induction t with
  | nil => rfl
  | cons e t ih =>
    unfold tblMod at *
    by_cases h : e.1 = k
    · simp [h, tblGet]
    · simpa [h, tblGet] using ih

/-- Changing an entry leaves every other as it was. -/
theorem tblGet_mod_other {α : Type} (k j : Nat) (f : α → α) (t : Tbl α) (h : j ≠ k) : tblGet j (tblMod k f t) = tblGet j t := by
  induction t with
  | nil => rfl
  | cons e t ih =>
    unfold tblMod at *
    by_cases h1 : e.1 = k
    · simp only [List.map_cons, h1, if_true, tblGet, if_neg (Ne.symm h)]
      simpa using ih
    · simp only [List.map_cons, h1, if_false, tblGet]
      split
      · rfl
      · simpa using ih

/-- Keys that rise from a bound rise from every lower one. -/
theorem tblRising_mono {α : Type} (lo lo' : Nat) (t : Tbl α) (h : lo' ≤ lo) (ht : tblRising lo t = true) : tblRising lo' t = true := by
  cases t with
  | nil => rfl
  | cons e t =>
    simp only [tblRising, Bool.and_eq_true, decide_eq_true_eq] at *
    exact ⟨by omega, ht.2⟩

/-- Setting an entry keeps the keys rising. -/
theorem tblRising_set {α : Type} (k : Nat) (v : α) (t : Tbl α) (lo : Nat) (h : lo ≤ k) (ht : tblRising lo t = true) :
    tblRising lo (tblSet k v t) = true := by
  induction t generalizing lo with
  | nil => simp [tblSet, tblRising, h]
  | cons e t ih =>
    simp only [tblRising, Bool.and_eq_true, decide_eq_true_eq] at ht
    simp only [tblSet]
    split
    · simp only [tblRising, Bool.and_eq_true, decide_eq_true_eq]
      exact ⟨ht.1, ih _ (by omega) ht.2⟩
    · split
      · rename_i h2
        subst h2
        simp only [tblRising, Bool.and_eq_true, decide_eq_true_eq]
        exact ht
      · simp only [tblRising, Bool.and_eq_true, decide_eq_true_eq]
        exact ⟨h, by omega, ht.2⟩

/-- Filtering keeps the keys rising. -/
theorem tblRising_filter {α : Type} (p : Nat × α → Bool) (t : Tbl α) (lo : Nat) (ht : tblRising lo t = true) :
    tblRising lo (t.filter p) = true := by
  induction t generalizing lo with
  | nil => rfl
  | cons e t ih =>
    simp only [tblRising, Bool.and_eq_true, decide_eq_true_eq] at ht
    simp only [List.filter_cons]
    split
    · simp only [tblRising, Bool.and_eq_true, decide_eq_true_eq]
      exact ⟨ht.1, ih _ ht.2⟩
    · exact tblRising_mono (e.1 + 1) lo _ (by omega) (ih _ ht.2)

/-- What is listed after a set was listed before or is the new entry. -/
theorem mem_tblSet {α : Type} (k : Nat) (v : α) (t : Tbl α) (x : Nat × α) (h : x ∈ tblSet k v t) : x = (k, v) ∨ x ∈ t := by
  induction t with
  | nil => left; simpa [tblSet] using h
  | cons e t ih =>
    simp only [tblSet] at h
    split at h
    · rcases List.mem_cons.mp h with h | h
      · right; simp [h]
      · rcases ih h with h | h
        · left; exact h
        · right; simp [h]
    · split at h
      · rcases List.mem_cons.mp h with h | h
        · left; exact h
        · right; simp [h]
      · rcases List.mem_cons.mp h with h | h
        · left; exact h
        · right; exact h

/-! ## Byte memories -/

/-- A written byte reads back. -/
theorem ramByte_put (m : Memory) (a : Nat) (b : Byte) : ramByte (ramPut m a b) a = b := by
  unfold ramPut ramByte
  split
  · rename_i h; simp [h]
  · simp

/-- Writing a byte leaves every other as it was. -/
theorem ramByte_put_other (m : Memory) (a c : Nat) (b : Byte) (h : c ≠ a) : ramByte (ramPut m a b) c = ramByte m c := by
  unfold ramPut ramByte
  split
  · simp [tblGet_del_other _ _ _ h]
  · simp [tblGet_set_other _ _ _ _ h]

/-- A byte written keeps the canonical form. -/
theorem ramPut_wf (size : Nat) (m : Memory) (a : Nat) (b : Byte) (ha : a < size) (h : Memory.wf size m = true) :
    Memory.wf size (ramPut m a b) = true := by
  unfold Memory.wf at *
  simp only [Bool.and_eq_true, List.all_eq_true, decide_eq_true_eq] at *
  unfold ramPut
  split
  · refine ⟨tblRising_filter _ _ _ h.1, fun c hc => ?_⟩
    exact h.2 c (List.mem_of_mem_filter hc)
  · rename_i hb
    refine ⟨tblRising_set _ _ _ _ (Nat.zero_le _) h.1, fun c hc => ?_⟩
    rcases mem_tblSet _ _ _ _ hc with hc | hc
    · subst hc; exact ⟨ha, hb⟩
    · exact h.2 c hc

/-- A byte string written within the memory keeps the canonical form. -/
theorem ramWrite_wf (size : Nat) (bs : Bytes) (m : Memory) (a : Nat) (ha : a + bs.length ≤ size) (h : Memory.wf size m = true) :
    Memory.wf size (ramWrite m a bs) = true := by
  induction bs generalizing m a with
  | nil => exact h
  | cons b bs ih =>
    simp only [List.length_cons] at ha
    exact ih _ _ (by omega) (ramPut_wf size m a b (by omega) h)

/-- Bytes outside a written string are as they were. -/
theorem ramByte_write_other (bs : Bytes) (m : Memory) (a c : Nat) (h : c < a ∨ a + bs.length ≤ c) :
    ramByte (ramWrite m a bs) c = ramByte m c := by
  induction bs generalizing m a with
  | nil => rfl
  | cons b bs ih =>
    simp only [List.length_cons] at h
    simp only [ramWrite]
    rw [ih _ _ (by omega), ramByte_put_other _ _ _ _ (by omega)]

/-- A written string reads back. -/
theorem ramRead_write (bs : Bytes) (m : Memory) (a : Nat) : ramRead (ramWrite m a bs) a bs.length = bs := by
  induction bs generalizing m a with
  | nil => rfl
  | cons b bs ih =>
    simp only [ramWrite, List.length_cons, ramRead]
    rw [ih, ramByte_write_other _ _ _ _ (by omega), ramByte_put]

/-- A string outside a written one reads as before. -/
theorem ramRead_write_other (bs : Bytes) (m : Memory) (a c n : Nat) (h : c + n ≤ a ∨ a + bs.length ≤ c) :
    ramRead (ramWrite m a bs) c n = ramRead m c n := by
  induction n generalizing c with
  | zero => rfl
  | succ n ih =>
    simp only [ramRead]
    rw [ramByte_write_other _ _ _ _ (by omega), ih _ (by omega)]

/-! ## Vectors -/

@[simp] theorem vecMod_same {α : Type} {n : Nat} (v : Vector α n) (i : Fin n) (f : α → α) : (vecMod v i f)[i] = f v[i] := by
  simp [vecMod]

theorem vecMod_other {α : Type} {n : Nat} (v : Vector α n) (i j : Fin n) (f : α → α) (h : j ≠ i) : (vecMod v i f)[j] = v[j] := by
  have : i.val ≠ j.val := fun e => h (Fin.ext e.symm)
  simp [vecMod, this]

end Sys2Proof.Laws
end

