-- ==== Sys2Proof/Laws/State.lean ====
section
/-! SUPPORT. One lemma per field per update of the state, so that no later proof unfolds a record update; and the laws of the
register file. -/

namespace Sys2Proof.Laws

open Sys2Proof.Machine

/-! ## setWord -/

@[simp] theorem setWord_impl (s : State) (r : RegId) (v : Word) (i k : Nat) : (s.setWord r v i k).impl = s.impl := rfl
@[simp] theorem setWord_image (s : State) (r : RegId) (v : Word) (i k : Nat) : (s.setWord r v i k).image = s.image := rfl
@[simp] theorem setWord_cfg (s : State) (r : RegId) (v : Word) (i k : Nat) : (s.setWord r v i k).cfg = s.cfg := rfl
@[simp] theorem setWord_pwr (s : State) (r : RegId) (v : Word) (i k : Nat) : (s.setWord r v i k).pwr = s.pwr := rfl
@[simp] theorem setWord_tim (s : State) (r : RegId) (v : Word) (i k : Nat) : (s.setWord r v i k).tim = s.tim := rfl
@[simp] theorem setWord_rst (s : State) (r : RegId) (v : Word) (i k : Nat) : (s.setWord r v i k).rst = s.rst := rfl
@[simp] theorem setWord_flt (s : State) (r : RegId) (v : Word) (i k : Nat) : (s.setWord r v i k).flt = s.flt := rfl
@[simp] theorem setWord_locks (s : State) (r : RegId) (v : Word) (i k : Nat) : (s.setWord r v i k).locks = s.locks := rfl
@[simp] theorem setWord_jtag (s : State) (r : RegId) (v : Word) (i k : Nat) : (s.setWord r v i k).jtag = s.jtag := rfl
@[simp] theorem setWord_smb (s : State) (r : RegId) (v : Word) (i k : Nat) : (s.setWord r v i k).smb = s.smb := rfl
@[simp] theorem setWord_cap (s : State) (r : RegId) (v : Word) (i k : Nat) : (s.setWord r v i k).cap = s.cap := rfl
@[simp] theorem setWord_sram (s : State) (r : RegId) (v : Word) (i k : Nat) : (s.setWord r v i k).sram = s.sram := rfl
@[simp] theorem setWord_ports (s : State) (r : RegId) (v : Word) (i k : Nat) : (s.setWord r v i k).ports = s.ports := rfl
@[simp] theorem setWord_ints (s : State) (r : RegId) (v : Word) (i k : Nat) : (s.setWord r v i k).ints = s.ints := rfl
@[simp] theorem setWord_rtr (s : State) (r : RegId) (v : Word) (i k : Nat) : (s.setWord r v i k).rtr = s.rtr := rfl
@[simp] theorem setWord_hosts (s : State) (r : RegId) (v : Word) (i k : Nat) : (s.setWord r v i k).hosts = s.hosts := rfl
@[simp] theorem setWord_park (s : State) (r : RegId) (v : Word) (i k : Nat) : (s.setWord r v i k).park = s.park := rfl
@[simp] theorem setWord_sweep (s : State) (r : RegId) (v : Word) (i k : Nat) : (s.setWord r v i k).sweep = s.sweep := rfl
@[simp] theorem setWord_discards (s : State) (r : RegId) (v : Word) (i k : Nat) : (s.setWord r v i k).discards = s.discards := rfl
@[simp] theorem setWord_agent (s : State) (r : RegId) (v : Word) (i k : Nat) : (s.setWord r v i k).agent = s.agent := rfl
@[simp] theorem setWord_groups (s : State) (r : RegId) (v : Word) (i k : Nat) : (s.setWord r v i k).groups = s.groups := rfl
@[simp] theorem setWord_modprs (s : State) (r : RegId) (v : Word) (i k : Nat) : (s.setWord r v i k).modprs = s.modprs := rfl
@[simp] theorem setWord_clock (s : State) (r : RegId) (v : Word) (i k : Nat) : (s.setWord r v i k).clock = s.clock := rfl
@[simp] theorem setWord_freeCount (s : State) (r : RegId) (v : Word) (i k : Nat) : (s.setWord r v i k).freeCount = s.freeCount := rfl
@[simp] theorem setWord_out (s : State) (r : RegId) (v : Word) (i k : Nat) : (s.setWord r v i k).out = s.out := rfl
@[simp] theorem setWord_pending (s : State) (r : RegId) (v : Word) (i k : Nat) : (s.setWord r v i k).pending = s.pending := rfl
@[simp] theorem setWord_host (s : State) (r : RegId) (v : Word) (i k : Nat) (h : HostPort) : (s.setWord r v i k).host h = s.host h := rfl
@[simp] theorem setWord_port (s : State) (r : RegId) (v : Word) (i k : Nat) (p : NetPort) : (s.setWord r v i k).port p = s.port p := rfl
@[simp] theorem setWord_coreRuns (s : State) (r : RegId) (v : Word) (i k : Nat) : (s.setWord r v i k).coreRuns = s.coreRuns := rfl
@[simp] theorem setWord_answers (s : State) (r : RegId) (v : Word) (i k : Nat) (x : Block) (j : Nat) : (s.setWord r v i k).answers x j = s.answers x j := rfl

/-! ## fset -/

@[simp] theorem fset_impl (s : State) (f : RegField) (v i k : Nat) : (s.fset f v i k).impl = s.impl := rfl
@[simp] theorem fset_image (s : State) (f : RegField) (v i k : Nat) : (s.fset f v i k).image = s.image := rfl
@[simp] theorem fset_cfg (s : State) (f : RegField) (v i k : Nat) : (s.fset f v i k).cfg = s.cfg := rfl
@[simp] theorem fset_pwr (s : State) (f : RegField) (v i k : Nat) : (s.fset f v i k).pwr = s.pwr := rfl
@[simp] theorem fset_tim (s : State) (f : RegField) (v i k : Nat) : (s.fset f v i k).tim = s.tim := rfl
@[simp] theorem fset_rst (s : State) (f : RegField) (v i k : Nat) : (s.fset f v i k).rst = s.rst := rfl
@[simp] theorem fset_flt (s : State) (f : RegField) (v i k : Nat) : (s.fset f v i k).flt = s.flt := rfl
@[simp] theorem fset_locks (s : State) (f : RegField) (v i k : Nat) : (s.fset f v i k).locks = s.locks := rfl
@[simp] theorem fset_jtag (s : State) (f : RegField) (v i k : Nat) : (s.fset f v i k).jtag = s.jtag := rfl
@[simp] theorem fset_smb (s : State) (f : RegField) (v i k : Nat) : (s.fset f v i k).smb = s.smb := rfl
@[simp] theorem fset_cap (s : State) (f : RegField) (v i k : Nat) : (s.fset f v i k).cap = s.cap := rfl
@[simp] theorem fset_sram (s : State) (f : RegField) (v i k : Nat) : (s.fset f v i k).sram = s.sram := rfl
@[simp] theorem fset_ports (s : State) (f : RegField) (v i k : Nat) : (s.fset f v i k).ports = s.ports := rfl
@[simp] theorem fset_ints (s : State) (f : RegField) (v i k : Nat) : (s.fset f v i k).ints = s.ints := rfl
@[simp] theorem fset_rtr (s : State) (f : RegField) (v i k : Nat) : (s.fset f v i k).rtr = s.rtr := rfl
@[simp] theorem fset_hosts (s : State) (f : RegField) (v i k : Nat) : (s.fset f v i k).hosts = s.hosts := rfl
@[simp] theorem fset_park (s : State) (f : RegField) (v i k : Nat) : (s.fset f v i k).park = s.park := rfl
@[simp] theorem fset_sweep (s : State) (f : RegField) (v i k : Nat) : (s.fset f v i k).sweep = s.sweep := rfl
@[simp] theorem fset_discards (s : State) (f : RegField) (v i k : Nat) : (s.fset f v i k).discards = s.discards := rfl
@[simp] theorem fset_agent (s : State) (f : RegField) (v i k : Nat) : (s.fset f v i k).agent = s.agent := rfl
@[simp] theorem fset_groups (s : State) (f : RegField) (v i k : Nat) : (s.fset f v i k).groups = s.groups := rfl
@[simp] theorem fset_modprs (s : State) (f : RegField) (v i k : Nat) : (s.fset f v i k).modprs = s.modprs := rfl
@[simp] theorem fset_clock (s : State) (f : RegField) (v i k : Nat) : (s.fset f v i k).clock = s.clock := rfl
@[simp] theorem fset_freeCount (s : State) (f : RegField) (v i k : Nat) : (s.fset f v i k).freeCount = s.freeCount := rfl
@[simp] theorem fset_out (s : State) (f : RegField) (v i k : Nat) : (s.fset f v i k).out = s.out := rfl
@[simp] theorem fset_pending (s : State) (f : RegField) (v i k : Nat) : (s.fset f v i k).pending = s.pending := rfl
@[simp] theorem fset_host (s : State) (f : RegField) (v i k : Nat) (h : HostPort) : (s.fset f v i k).host h = s.host h := rfl
@[simp] theorem fset_port (s : State) (f : RegField) (v i k : Nat) (p : NetPort) : (s.fset f v i k).port p = s.port p := rfl
@[simp] theorem fset_coreRuns (s : State) (f : RegField) (v i k : Nat) : (s.fset f v i k).coreRuns = s.coreRuns := rfl
@[simp] theorem fset_answers (s : State) (f : RegField) (v i k : Nat) (x : Block) (j : Nat) : (s.fset f v i k).answers x j = s.answers x j := rfl

/-! ## finc -/

@[simp] theorem finc_impl (s : State) (f : RegField) (d i k : Nat) : (s.finc f d i k).impl = s.impl := rfl
@[simp] theorem finc_image (s : State) (f : RegField) (d i k : Nat) : (s.finc f d i k).image = s.image := rfl
@[simp] theorem finc_cfg (s : State) (f : RegField) (d i k : Nat) : (s.finc f d i k).cfg = s.cfg := rfl
@[simp] theorem finc_pwr (s : State) (f : RegField) (d i k : Nat) : (s.finc f d i k).pwr = s.pwr := rfl
@[simp] theorem finc_tim (s : State) (f : RegField) (d i k : Nat) : (s.finc f d i k).tim = s.tim := rfl
@[simp] theorem finc_rst (s : State) (f : RegField) (d i k : Nat) : (s.finc f d i k).rst = s.rst := rfl
@[simp] theorem finc_flt (s : State) (f : RegField) (d i k : Nat) : (s.finc f d i k).flt = s.flt := rfl
@[simp] theorem finc_locks (s : State) (f : RegField) (d i k : Nat) : (s.finc f d i k).locks = s.locks := rfl
@[simp] theorem finc_jtag (s : State) (f : RegField) (d i k : Nat) : (s.finc f d i k).jtag = s.jtag := rfl
@[simp] theorem finc_smb (s : State) (f : RegField) (d i k : Nat) : (s.finc f d i k).smb = s.smb := rfl
@[simp] theorem finc_cap (s : State) (f : RegField) (d i k : Nat) : (s.finc f d i k).cap = s.cap := rfl
@[simp] theorem finc_sram (s : State) (f : RegField) (d i k : Nat) : (s.finc f d i k).sram = s.sram := rfl
@[simp] theorem finc_ports (s : State) (f : RegField) (d i k : Nat) : (s.finc f d i k).ports = s.ports := rfl
@[simp] theorem finc_ints (s : State) (f : RegField) (d i k : Nat) : (s.finc f d i k).ints = s.ints := rfl
@[simp] theorem finc_rtr (s : State) (f : RegField) (d i k : Nat) : (s.finc f d i k).rtr = s.rtr := rfl
@[simp] theorem finc_hosts (s : State) (f : RegField) (d i k : Nat) : (s.finc f d i k).hosts = s.hosts := rfl
@[simp] theorem finc_park (s : State) (f : RegField) (d i k : Nat) : (s.finc f d i k).park = s.park := rfl
@[simp] theorem finc_sweep (s : State) (f : RegField) (d i k : Nat) : (s.finc f d i k).sweep = s.sweep := rfl
@[simp] theorem finc_discards (s : State) (f : RegField) (d i k : Nat) : (s.finc f d i k).discards = s.discards := rfl
@[simp] theorem finc_agent (s : State) (f : RegField) (d i k : Nat) : (s.finc f d i k).agent = s.agent := rfl
@[simp] theorem finc_groups (s : State) (f : RegField) (d i k : Nat) : (s.finc f d i k).groups = s.groups := rfl
@[simp] theorem finc_modprs (s : State) (f : RegField) (d i k : Nat) : (s.finc f d i k).modprs = s.modprs := rfl
@[simp] theorem finc_clock (s : State) (f : RegField) (d i k : Nat) : (s.finc f d i k).clock = s.clock := rfl
@[simp] theorem finc_freeCount (s : State) (f : RegField) (d i k : Nat) : (s.finc f d i k).freeCount = s.freeCount := rfl
@[simp] theorem finc_out (s : State) (f : RegField) (d i k : Nat) : (s.finc f d i k).out = s.out := rfl
@[simp] theorem finc_pending (s : State) (f : RegField) (d i k : Nat) : (s.finc f d i k).pending = s.pending := rfl
@[simp] theorem finc_host (s : State) (f : RegField) (d i k : Nat) (h : HostPort) : (s.finc f d i k).host h = s.host h := rfl
@[simp] theorem finc_port (s : State) (f : RegField) (d i k : Nat) (p : NetPort) : (s.finc f d i k).port p = s.port p := rfl
@[simp] theorem finc_coreRuns (s : State) (f : RegField) (d i k : Nat) : (s.finc f d i k).coreRuns = s.coreRuns := rfl
@[simp] theorem finc_answers (s : State) (f : RegField) (d i k : Nat) (x : Block) (j : Nat) : (s.finc f d i k).answers x j = s.answers x j := rfl

/-! ## emit -/

@[simp] theorem emit_impl (s : State) (o : Output) : (s.emit o).impl = s.impl := rfl
@[simp] theorem emit_image (s : State) (o : Output) : (s.emit o).image = s.image := rfl
@[simp] theorem emit_regs (s : State) (o : Output) : (s.emit o).regs = s.regs := rfl
@[simp] theorem emit_cfg (s : State) (o : Output) : (s.emit o).cfg = s.cfg := rfl
@[simp] theorem emit_pwr (s : State) (o : Output) : (s.emit o).pwr = s.pwr := rfl
@[simp] theorem emit_tim (s : State) (o : Output) : (s.emit o).tim = s.tim := rfl
@[simp] theorem emit_rst (s : State) (o : Output) : (s.emit o).rst = s.rst := rfl
@[simp] theorem emit_flt (s : State) (o : Output) : (s.emit o).flt = s.flt := rfl
@[simp] theorem emit_locks (s : State) (o : Output) : (s.emit o).locks = s.locks := rfl
@[simp] theorem emit_jtag (s : State) (o : Output) : (s.emit o).jtag = s.jtag := rfl
@[simp] theorem emit_smb (s : State) (o : Output) : (s.emit o).smb = s.smb := rfl
@[simp] theorem emit_cap (s : State) (o : Output) : (s.emit o).cap = s.cap := rfl
@[simp] theorem emit_sram (s : State) (o : Output) : (s.emit o).sram = s.sram := rfl
@[simp] theorem emit_ports (s : State) (o : Output) : (s.emit o).ports = s.ports := rfl
@[simp] theorem emit_ints (s : State) (o : Output) : (s.emit o).ints = s.ints := rfl
@[simp] theorem emit_rtr (s : State) (o : Output) : (s.emit o).rtr = s.rtr := rfl
@[simp] theorem emit_hosts (s : State) (o : Output) : (s.emit o).hosts = s.hosts := rfl
@[simp] theorem emit_park (s : State) (o : Output) : (s.emit o).park = s.park := rfl
@[simp] theorem emit_sweep (s : State) (o : Output) : (s.emit o).sweep = s.sweep := rfl
@[simp] theorem emit_discards (s : State) (o : Output) : (s.emit o).discards = s.discards := rfl
@[simp] theorem emit_agent (s : State) (o : Output) : (s.emit o).agent = s.agent := rfl
@[simp] theorem emit_groups (s : State) (o : Output) : (s.emit o).groups = s.groups := rfl
@[simp] theorem emit_modprs (s : State) (o : Output) : (s.emit o).modprs = s.modprs := rfl
@[simp] theorem emit_clock (s : State) (o : Output) : (s.emit o).clock = s.clock := rfl
@[simp] theorem emit_freeCount (s : State) (o : Output) : (s.emit o).freeCount = s.freeCount := rfl
@[simp] theorem emit_pending (s : State) (o : Output) : (s.emit o).pending = s.pending := rfl
@[simp] theorem emit_host (s : State) (o : Output) (h : HostPort) : (s.emit o).host h = s.host h := rfl
@[simp] theorem emit_port (s : State) (o : Output) (p : NetPort) : (s.emit o).port p = s.port p := rfl
@[simp] theorem emit_regWord (s : State) (o : Output) (r' : RegId) (i' k' : Nat) : (s.emit o).regWord r' i' k' = s.regWord r' i' k' := rfl
@[simp] theorem emit_fget (s : State) (o : Output) (f' : RegField) (i' k' : Nat) : (s.emit o).fget f' i' k' = s.fget f' i' k' := rfl
@[simp] theorem emit_flag (s : State) (o : Output) (f' : RegField) (i' k' : Nat) : (s.emit o).flag f' i' k' = s.flag f' i' k' := rfl
@[simp] theorem emit_coreRuns (s : State) (o : Output) : (s.emit o).coreRuns = s.coreRuns := rfl
@[simp] theorem emit_answers (s : State) (o : Output) (x : Block) (j : Nat) : (s.emit o).answers x j = s.answers x j := rfl

/-! ## tookFree -/

@[simp] theorem tookFree_impl (s : State)  : (s.tookFree).impl = s.impl := rfl
@[simp] theorem tookFree_image (s : State)  : (s.tookFree).image = s.image := rfl
@[simp] theorem tookFree_regs (s : State)  : (s.tookFree).regs = s.regs := rfl
@[simp] theorem tookFree_cfg (s : State)  : (s.tookFree).cfg = s.cfg := rfl
@[simp] theorem tookFree_pwr (s : State)  : (s.tookFree).pwr = s.pwr := rfl
@[simp] theorem tookFree_tim (s : State)  : (s.tookFree).tim = s.tim := rfl
@[simp] theorem tookFree_rst (s : State)  : (s.tookFree).rst = s.rst := rfl
@[simp] theorem tookFree_flt (s : State)  : (s.tookFree).flt = s.flt := rfl
@[simp] theorem tookFree_locks (s : State)  : (s.tookFree).locks = s.locks := rfl
@[simp] theorem tookFree_jtag (s : State)  : (s.tookFree).jtag = s.jtag := rfl
@[simp] theorem tookFree_smb (s : State)  : (s.tookFree).smb = s.smb := rfl
@[simp] theorem tookFree_cap (s : State)  : (s.tookFree).cap = s.cap := rfl
@[simp] theorem tookFree_sram (s : State)  : (s.tookFree).sram = s.sram := rfl
@[simp] theorem tookFree_ports (s : State)  : (s.tookFree).ports = s.ports := rfl
@[simp] theorem tookFree_ints (s : State)  : (s.tookFree).ints = s.ints := rfl
@[simp] theorem tookFree_rtr (s : State)  : (s.tookFree).rtr = s.rtr := rfl
@[simp] theorem tookFree_hosts (s : State)  : (s.tookFree).hosts = s.hosts := rfl
@[simp] theorem tookFree_park (s : State)  : (s.tookFree).park = s.park := rfl
@[simp] theorem tookFree_sweep (s : State)  : (s.tookFree).sweep = s.sweep := rfl
@[simp] theorem tookFree_discards (s : State)  : (s.tookFree).discards = s.discards := rfl
@[simp] theorem tookFree_agent (s : State)  : (s.tookFree).agent = s.agent := rfl
@[simp] theorem tookFree_groups (s : State)  : (s.tookFree).groups = s.groups := rfl
@[simp] theorem tookFree_modprs (s : State)  : (s.tookFree).modprs = s.modprs := rfl
@[simp] theorem tookFree_clock (s : State)  : (s.tookFree).clock = s.clock := rfl
@[simp] theorem tookFree_out (s : State)  : (s.tookFree).out = s.out := rfl
@[simp] theorem tookFree_pending (s : State)  : (s.tookFree).pending = s.pending := rfl
@[simp] theorem tookFree_host (s : State)  (h : HostPort) : (s.tookFree).host h = s.host h := rfl
@[simp] theorem tookFree_port (s : State)  (p : NetPort) : (s.tookFree).port p = s.port p := rfl
@[simp] theorem tookFree_regWord (s : State)  (r' : RegId) (i' k' : Nat) : (s.tookFree).regWord r' i' k' = s.regWord r' i' k' := rfl
@[simp] theorem tookFree_fget (s : State)  (f' : RegField) (i' k' : Nat) : (s.tookFree).fget f' i' k' = s.fget f' i' k' := rfl
@[simp] theorem tookFree_flag (s : State)  (f' : RegField) (i' k' : Nat) : (s.tookFree).flag f' i' k' = s.flag f' i' k' := rfl
@[simp] theorem tookFree_coreRuns (s : State)  : (s.tookFree).coreRuns = s.coreRuns := rfl
@[simp] theorem tookFree_answers (s : State)  (x : Block) (j : Nat) : (s.tookFree).answers x j = s.answers x j := rfl

/-! ## modPort -/

@[simp] theorem modPort_impl (s : State) (p : NetPort) (f : Port → Port) : (s.modPort p f).impl = s.impl := rfl
@[simp] theorem modPort_image (s : State) (p : NetPort) (f : Port → Port) : (s.modPort p f).image = s.image := rfl
@[simp] theorem modPort_regs (s : State) (p : NetPort) (f : Port → Port) : (s.modPort p f).regs = s.regs := rfl
@[simp] theorem modPort_cfg (s : State) (p : NetPort) (f : Port → Port) : (s.modPort p f).cfg = s.cfg := rfl
@[simp] theorem modPort_pwr (s : State) (p : NetPort) (f : Port → Port) : (s.modPort p f).pwr = s.pwr := rfl
@[simp] theorem modPort_tim (s : State) (p : NetPort) (f : Port → Port) : (s.modPort p f).tim = s.tim := rfl
@[simp] theorem modPort_rst (s : State) (p : NetPort) (f : Port → Port) : (s.modPort p f).rst = s.rst := rfl
@[simp] theorem modPort_flt (s : State) (p : NetPort) (f : Port → Port) : (s.modPort p f).flt = s.flt := rfl
@[simp] theorem modPort_locks (s : State) (p : NetPort) (f : Port → Port) : (s.modPort p f).locks = s.locks := rfl
@[simp] theorem modPort_jtag (s : State) (p : NetPort) (f : Port → Port) : (s.modPort p f).jtag = s.jtag := rfl
@[simp] theorem modPort_smb (s : State) (p : NetPort) (f : Port → Port) : (s.modPort p f).smb = s.smb := rfl
@[simp] theorem modPort_cap (s : State) (p : NetPort) (f : Port → Port) : (s.modPort p f).cap = s.cap := rfl
@[simp] theorem modPort_sram (s : State) (p : NetPort) (f : Port → Port) : (s.modPort p f).sram = s.sram := rfl
@[simp] theorem modPort_ints (s : State) (p : NetPort) (f : Port → Port) : (s.modPort p f).ints = s.ints := rfl
@[simp] theorem modPort_rtr (s : State) (p : NetPort) (f : Port → Port) : (s.modPort p f).rtr = s.rtr := rfl
@[simp] theorem modPort_hosts (s : State) (p : NetPort) (f : Port → Port) : (s.modPort p f).hosts = s.hosts := rfl
@[simp] theorem modPort_park (s : State) (p : NetPort) (f : Port → Port) : (s.modPort p f).park = s.park := rfl
@[simp] theorem modPort_sweep (s : State) (p : NetPort) (f : Port → Port) : (s.modPort p f).sweep = s.sweep := rfl
@[simp] theorem modPort_discards (s : State) (p : NetPort) (f : Port → Port) : (s.modPort p f).discards = s.discards := rfl
@[simp] theorem modPort_agent (s : State) (p : NetPort) (f : Port → Port) : (s.modPort p f).agent = s.agent := rfl
@[simp] theorem modPort_groups (s : State) (p : NetPort) (f : Port → Port) : (s.modPort p f).groups = s.groups := rfl
@[simp] theorem modPort_modprs (s : State) (p : NetPort) (f : Port → Port) : (s.modPort p f).modprs = s.modprs := rfl
@[simp] theorem modPort_clock (s : State) (p : NetPort) (f : Port → Port) : (s.modPort p f).clock = s.clock := rfl
@[simp] theorem modPort_freeCount (s : State) (p : NetPort) (f : Port → Port) : (s.modPort p f).freeCount = s.freeCount := rfl
@[simp] theorem modPort_out (s : State) (p : NetPort) (f : Port → Port) : (s.modPort p f).out = s.out := rfl
@[simp] theorem modPort_pending (s : State) (p : NetPort) (f : Port → Port) : (s.modPort p f).pending = s.pending := rfl
@[simp] theorem modPort_host (s : State) (p : NetPort) (f : Port → Port) (h : HostPort) : (s.modPort p f).host h = s.host h := rfl
@[simp] theorem modPort_regWord (s : State) (p : NetPort) (f : Port → Port) (r' : RegId) (i' k' : Nat) : (s.modPort p f).regWord r' i' k' = s.regWord r' i' k' := rfl
@[simp] theorem modPort_fget (s : State) (p : NetPort) (f : Port → Port) (f' : RegField) (i' k' : Nat) : (s.modPort p f).fget f' i' k' = s.fget f' i' k' := rfl
@[simp] theorem modPort_flag (s : State) (p : NetPort) (f : Port → Port) (f' : RegField) (i' k' : Nat) : (s.modPort p f).flag f' i' k' = s.flag f' i' k' := rfl
@[simp] theorem modPort_coreRuns (s : State) (p : NetPort) (f : Port → Port) : (s.modPort p f).coreRuns = s.coreRuns := rfl
@[simp] theorem modPort_answers (s : State) (p : NetPort) (f : Port → Port) (x : Block) (j : Nat) : (s.modPort p f).answers x j = s.answers x j := rfl

/-! ## modLane -/

@[simp] theorem modLane_impl (s : State) (p : NetPort) (f : LaneState → LaneState) : (s.modLane p f).impl = s.impl := rfl
@[simp] theorem modLane_image (s : State) (p : NetPort) (f : LaneState → LaneState) : (s.modLane p f).image = s.image := rfl
@[simp] theorem modLane_regs (s : State) (p : NetPort) (f : LaneState → LaneState) : (s.modLane p f).regs = s.regs := rfl
@[simp] theorem modLane_cfg (s : State) (p : NetPort) (f : LaneState → LaneState) : (s.modLane p f).cfg = s.cfg := rfl
@[simp] theorem modLane_pwr (s : State) (p : NetPort) (f : LaneState → LaneState) : (s.modLane p f).pwr = s.pwr := rfl
@[simp] theorem modLane_tim (s : State) (p : NetPort) (f : LaneState → LaneState) : (s.modLane p f).tim = s.tim := rfl
@[simp] theorem modLane_rst (s : State) (p : NetPort) (f : LaneState → LaneState) : (s.modLane p f).rst = s.rst := rfl
@[simp] theorem modLane_flt (s : State) (p : NetPort) (f : LaneState → LaneState) : (s.modLane p f).flt = s.flt := rfl
@[simp] theorem modLane_locks (s : State) (p : NetPort) (f : LaneState → LaneState) : (s.modLane p f).locks = s.locks := rfl
@[simp] theorem modLane_jtag (s : State) (p : NetPort) (f : LaneState → LaneState) : (s.modLane p f).jtag = s.jtag := rfl
@[simp] theorem modLane_smb (s : State) (p : NetPort) (f : LaneState → LaneState) : (s.modLane p f).smb = s.smb := rfl
@[simp] theorem modLane_cap (s : State) (p : NetPort) (f : LaneState → LaneState) : (s.modLane p f).cap = s.cap := rfl
@[simp] theorem modLane_sram (s : State) (p : NetPort) (f : LaneState → LaneState) : (s.modLane p f).sram = s.sram := rfl
@[simp] theorem modLane_ints (s : State) (p : NetPort) (f : LaneState → LaneState) : (s.modLane p f).ints = s.ints := rfl
@[simp] theorem modLane_rtr (s : State) (p : NetPort) (f : LaneState → LaneState) : (s.modLane p f).rtr = s.rtr := rfl
@[simp] theorem modLane_hosts (s : State) (p : NetPort) (f : LaneState → LaneState) : (s.modLane p f).hosts = s.hosts := rfl
@[simp] theorem modLane_park (s : State) (p : NetPort) (f : LaneState → LaneState) : (s.modLane p f).park = s.park := rfl
@[simp] theorem modLane_sweep (s : State) (p : NetPort) (f : LaneState → LaneState) : (s.modLane p f).sweep = s.sweep := rfl
@[simp] theorem modLane_discards (s : State) (p : NetPort) (f : LaneState → LaneState) : (s.modLane p f).discards = s.discards := rfl
@[simp] theorem modLane_agent (s : State) (p : NetPort) (f : LaneState → LaneState) : (s.modLane p f).agent = s.agent := rfl
@[simp] theorem modLane_groups (s : State) (p : NetPort) (f : LaneState → LaneState) : (s.modLane p f).groups = s.groups := rfl
@[simp] theorem modLane_modprs (s : State) (p : NetPort) (f : LaneState → LaneState) : (s.modLane p f).modprs = s.modprs := rfl
@[simp] theorem modLane_clock (s : State) (p : NetPort) (f : LaneState → LaneState) : (s.modLane p f).clock = s.clock := rfl
@[simp] theorem modLane_freeCount (s : State) (p : NetPort) (f : LaneState → LaneState) : (s.modLane p f).freeCount = s.freeCount := rfl
@[simp] theorem modLane_out (s : State) (p : NetPort) (f : LaneState → LaneState) : (s.modLane p f).out = s.out := rfl
@[simp] theorem modLane_pending (s : State) (p : NetPort) (f : LaneState → LaneState) : (s.modLane p f).pending = s.pending := rfl
@[simp] theorem modLane_host (s : State) (p : NetPort) (f : LaneState → LaneState) (h : HostPort) : (s.modLane p f).host h = s.host h := rfl
@[simp] theorem modLane_regWord (s : State) (p : NetPort) (f : LaneState → LaneState) (r' : RegId) (i' k' : Nat) : (s.modLane p f).regWord r' i' k' = s.regWord r' i' k' := rfl
@[simp] theorem modLane_fget (s : State) (p : NetPort) (f : LaneState → LaneState) (f' : RegField) (i' k' : Nat) : (s.modLane p f).fget f' i' k' = s.fget f' i' k' := rfl
@[simp] theorem modLane_flag (s : State) (p : NetPort) (f : LaneState → LaneState) (f' : RegField) (i' k' : Nat) : (s.modLane p f).flag f' i' k' = s.flag f' i' k' := rfl
@[simp] theorem modLane_coreRuns (s : State) (p : NetPort) (f : LaneState → LaneState) : (s.modLane p f).coreRuns = s.coreRuns := rfl
@[simp] theorem modLane_answers (s : State) (p : NetPort) (f : LaneState → LaneState) (x : Block) (j : Nat) : (s.modLane p f).answers x j = s.answers x j := rfl

/-! ## modLink -/

@[simp] theorem modLink_impl (s : State) (p : NetPort) (f : LinkState → LinkState) : (s.modLink p f).impl = s.impl := rfl
@[simp] theorem modLink_image (s : State) (p : NetPort) (f : LinkState → LinkState) : (s.modLink p f).image = s.image := rfl
@[simp] theorem modLink_regs (s : State) (p : NetPort) (f : LinkState → LinkState) : (s.modLink p f).regs = s.regs := rfl
@[simp] theorem modLink_cfg (s : State) (p : NetPort) (f : LinkState → LinkState) : (s.modLink p f).cfg = s.cfg := rfl
@[simp] theorem modLink_pwr (s : State) (p : NetPort) (f : LinkState → LinkState) : (s.modLink p f).pwr = s.pwr := rfl
@[simp] theorem modLink_tim (s : State) (p : NetPort) (f : LinkState → LinkState) : (s.modLink p f).tim = s.tim := rfl
@[simp] theorem modLink_rst (s : State) (p : NetPort) (f : LinkState → LinkState) : (s.modLink p f).rst = s.rst := rfl
@[simp] theorem modLink_flt (s : State) (p : NetPort) (f : LinkState → LinkState) : (s.modLink p f).flt = s.flt := rfl
@[simp] theorem modLink_locks (s : State) (p : NetPort) (f : LinkState → LinkState) : (s.modLink p f).locks = s.locks := rfl
@[simp] theorem modLink_jtag (s : State) (p : NetPort) (f : LinkState → LinkState) : (s.modLink p f).jtag = s.jtag := rfl
@[simp] theorem modLink_smb (s : State) (p : NetPort) (f : LinkState → LinkState) : (s.modLink p f).smb = s.smb := rfl
@[simp] theorem modLink_cap (s : State) (p : NetPort) (f : LinkState → LinkState) : (s.modLink p f).cap = s.cap := rfl
@[simp] theorem modLink_sram (s : State) (p : NetPort) (f : LinkState → LinkState) : (s.modLink p f).sram = s.sram := rfl
@[simp] theorem modLink_ints (s : State) (p : NetPort) (f : LinkState → LinkState) : (s.modLink p f).ints = s.ints := rfl
@[simp] theorem modLink_rtr (s : State) (p : NetPort) (f : LinkState → LinkState) : (s.modLink p f).rtr = s.rtr := rfl
@[simp] theorem modLink_hosts (s : State) (p : NetPort) (f : LinkState → LinkState) : (s.modLink p f).hosts = s.hosts := rfl
@[simp] theorem modLink_park (s : State) (p : NetPort) (f : LinkState → LinkState) : (s.modLink p f).park = s.park := rfl
@[simp] theorem modLink_sweep (s : State) (p : NetPort) (f : LinkState → LinkState) : (s.modLink p f).sweep = s.sweep := rfl
@[simp] theorem modLink_discards (s : State) (p : NetPort) (f : LinkState → LinkState) : (s.modLink p f).discards = s.discards := rfl
@[simp] theorem modLink_agent (s : State) (p : NetPort) (f : LinkState → LinkState) : (s.modLink p f).agent = s.agent := rfl
@[simp] theorem modLink_groups (s : State) (p : NetPort) (f : LinkState → LinkState) : (s.modLink p f).groups = s.groups := rfl
@[simp] theorem modLink_modprs (s : State) (p : NetPort) (f : LinkState → LinkState) : (s.modLink p f).modprs = s.modprs := rfl
@[simp] theorem modLink_clock (s : State) (p : NetPort) (f : LinkState → LinkState) : (s.modLink p f).clock = s.clock := rfl
@[simp] theorem modLink_freeCount (s : State) (p : NetPort) (f : LinkState → LinkState) : (s.modLink p f).freeCount = s.freeCount := rfl
@[simp] theorem modLink_out (s : State) (p : NetPort) (f : LinkState → LinkState) : (s.modLink p f).out = s.out := rfl
@[simp] theorem modLink_pending (s : State) (p : NetPort) (f : LinkState → LinkState) : (s.modLink p f).pending = s.pending := rfl
@[simp] theorem modLink_host (s : State) (p : NetPort) (f : LinkState → LinkState) (h : HostPort) : (s.modLink p f).host h = s.host h := rfl
@[simp] theorem modLink_regWord (s : State) (p : NetPort) (f : LinkState → LinkState) (r' : RegId) (i' k' : Nat) : (s.modLink p f).regWord r' i' k' = s.regWord r' i' k' := rfl
@[simp] theorem modLink_fget (s : State) (p : NetPort) (f : LinkState → LinkState) (f' : RegField) (i' k' : Nat) : (s.modLink p f).fget f' i' k' = s.fget f' i' k' := rfl
@[simp] theorem modLink_flag (s : State) (p : NetPort) (f : LinkState → LinkState) (f' : RegField) (i' k' : Nat) : (s.modLink p f).flag f' i' k' = s.flag f' i' k' := rfl
@[simp] theorem modLink_coreRuns (s : State) (p : NetPort) (f : LinkState → LinkState) : (s.modLink p f).coreRuns = s.coreRuns := rfl
@[simp] theorem modLink_answers (s : State) (p : NetPort) (f : LinkState → LinkState) (x : Block) (j : Nat) : (s.modLink p f).answers x j = s.answers x j := rfl

/-! ## modInt -/

@[simp] theorem modInt_impl (s : State) (ip : IntPort) (f : IntPortState → IntPortState) : (s.modInt ip f).impl = s.impl := rfl
@[simp] theorem modInt_image (s : State) (ip : IntPort) (f : IntPortState → IntPortState) : (s.modInt ip f).image = s.image := rfl
@[simp] theorem modInt_regs (s : State) (ip : IntPort) (f : IntPortState → IntPortState) : (s.modInt ip f).regs = s.regs := rfl
@[simp] theorem modInt_cfg (s : State) (ip : IntPort) (f : IntPortState → IntPortState) : (s.modInt ip f).cfg = s.cfg := rfl
@[simp] theorem modInt_pwr (s : State) (ip : IntPort) (f : IntPortState → IntPortState) : (s.modInt ip f).pwr = s.pwr := rfl
@[simp] theorem modInt_tim (s : State) (ip : IntPort) (f : IntPortState → IntPortState) : (s.modInt ip f).tim = s.tim := rfl
@[simp] theorem modInt_rst (s : State) (ip : IntPort) (f : IntPortState → IntPortState) : (s.modInt ip f).rst = s.rst := rfl
@[simp] theorem modInt_flt (s : State) (ip : IntPort) (f : IntPortState → IntPortState) : (s.modInt ip f).flt = s.flt := rfl
@[simp] theorem modInt_locks (s : State) (ip : IntPort) (f : IntPortState → IntPortState) : (s.modInt ip f).locks = s.locks := rfl
@[simp] theorem modInt_jtag (s : State) (ip : IntPort) (f : IntPortState → IntPortState) : (s.modInt ip f).jtag = s.jtag := rfl
@[simp] theorem modInt_smb (s : State) (ip : IntPort) (f : IntPortState → IntPortState) : (s.modInt ip f).smb = s.smb := rfl
@[simp] theorem modInt_cap (s : State) (ip : IntPort) (f : IntPortState → IntPortState) : (s.modInt ip f).cap = s.cap := rfl
@[simp] theorem modInt_sram (s : State) (ip : IntPort) (f : IntPortState → IntPortState) : (s.modInt ip f).sram = s.sram := rfl
@[simp] theorem modInt_ports (s : State) (ip : IntPort) (f : IntPortState → IntPortState) : (s.modInt ip f).ports = s.ports := rfl
@[simp] theorem modInt_rtr (s : State) (ip : IntPort) (f : IntPortState → IntPortState) : (s.modInt ip f).rtr = s.rtr := rfl
@[simp] theorem modInt_hosts (s : State) (ip : IntPort) (f : IntPortState → IntPortState) : (s.modInt ip f).hosts = s.hosts := rfl
@[simp] theorem modInt_park (s : State) (ip : IntPort) (f : IntPortState → IntPortState) : (s.modInt ip f).park = s.park := rfl
@[simp] theorem modInt_sweep (s : State) (ip : IntPort) (f : IntPortState → IntPortState) : (s.modInt ip f).sweep = s.sweep := rfl
@[simp] theorem modInt_discards (s : State) (ip : IntPort) (f : IntPortState → IntPortState) : (s.modInt ip f).discards = s.discards := rfl
@[simp] theorem modInt_agent (s : State) (ip : IntPort) (f : IntPortState → IntPortState) : (s.modInt ip f).agent = s.agent := rfl
@[simp] theorem modInt_groups (s : State) (ip : IntPort) (f : IntPortState → IntPortState) : (s.modInt ip f).groups = s.groups := rfl
@[simp] theorem modInt_modprs (s : State) (ip : IntPort) (f : IntPortState → IntPortState) : (s.modInt ip f).modprs = s.modprs := rfl
@[simp] theorem modInt_clock (s : State) (ip : IntPort) (f : IntPortState → IntPortState) : (s.modInt ip f).clock = s.clock := rfl
@[simp] theorem modInt_freeCount (s : State) (ip : IntPort) (f : IntPortState → IntPortState) : (s.modInt ip f).freeCount = s.freeCount := rfl
@[simp] theorem modInt_out (s : State) (ip : IntPort) (f : IntPortState → IntPortState) : (s.modInt ip f).out = s.out := rfl
@[simp] theorem modInt_pending (s : State) (ip : IntPort) (f : IntPortState → IntPortState) : (s.modInt ip f).pending = s.pending := rfl
@[simp] theorem modInt_host (s : State) (ip : IntPort) (f : IntPortState → IntPortState) (h : HostPort) : (s.modInt ip f).host h = s.host h := rfl
@[simp] theorem modInt_port (s : State) (ip : IntPort) (f : IntPortState → IntPortState) (p : NetPort) : (s.modInt ip f).port p = s.port p := rfl
@[simp] theorem modInt_regWord (s : State) (ip : IntPort) (f : IntPortState → IntPortState) (r' : RegId) (i' k' : Nat) : (s.modInt ip f).regWord r' i' k' = s.regWord r' i' k' := rfl
@[simp] theorem modInt_fget (s : State) (ip : IntPort) (f : IntPortState → IntPortState) (f' : RegField) (i' k' : Nat) : (s.modInt ip f).fget f' i' k' = s.fget f' i' k' := rfl
@[simp] theorem modInt_flag (s : State) (ip : IntPort) (f : IntPortState → IntPortState) (f' : RegField) (i' k' : Nat) : (s.modInt ip f).flag f' i' k' = s.flag f' i' k' := rfl
@[simp] theorem modInt_coreRuns (s : State) (ip : IntPort) (f : IntPortState → IntPortState) : (s.modInt ip f).coreRuns = s.coreRuns := rfl
@[simp] theorem modInt_answers (s : State) (ip : IntPort) (f : IntPortState → IntPortState) (x : Block) (j : Nat) : (s.modInt ip f).answers x j = s.answers x j := rfl

/-! ## modHost -/

@[simp] theorem modHost_impl (s : State) (h : HostPort) (f : HostState → HostState) : (s.modHost h f).impl = s.impl := rfl
@[simp] theorem modHost_image (s : State) (h : HostPort) (f : HostState → HostState) : (s.modHost h f).image = s.image := rfl
@[simp] theorem modHost_regs (s : State) (h : HostPort) (f : HostState → HostState) : (s.modHost h f).regs = s.regs := rfl
@[simp] theorem modHost_cfg (s : State) (h : HostPort) (f : HostState → HostState) : (s.modHost h f).cfg = s.cfg := rfl
@[simp] theorem modHost_pwr (s : State) (h : HostPort) (f : HostState → HostState) : (s.modHost h f).pwr = s.pwr := rfl
@[simp] theorem modHost_tim (s : State) (h : HostPort) (f : HostState → HostState) : (s.modHost h f).tim = s.tim := rfl
@[simp] theorem modHost_rst (s : State) (h : HostPort) (f : HostState → HostState) : (s.modHost h f).rst = s.rst := rfl
@[simp] theorem modHost_flt (s : State) (h : HostPort) (f : HostState → HostState) : (s.modHost h f).flt = s.flt := rfl
@[simp] theorem modHost_locks (s : State) (h : HostPort) (f : HostState → HostState) : (s.modHost h f).locks = s.locks := rfl
@[simp] theorem modHost_jtag (s : State) (h : HostPort) (f : HostState → HostState) : (s.modHost h f).jtag = s.jtag := rfl
@[simp] theorem modHost_smb (s : State) (h : HostPort) (f : HostState → HostState) : (s.modHost h f).smb = s.smb := rfl
@[simp] theorem modHost_cap (s : State) (h : HostPort) (f : HostState → HostState) : (s.modHost h f).cap = s.cap := rfl
@[simp] theorem modHost_sram (s : State) (h : HostPort) (f : HostState → HostState) : (s.modHost h f).sram = s.sram := rfl
@[simp] theorem modHost_ports (s : State) (h : HostPort) (f : HostState → HostState) : (s.modHost h f).ports = s.ports := rfl
@[simp] theorem modHost_ints (s : State) (h : HostPort) (f : HostState → HostState) : (s.modHost h f).ints = s.ints := rfl
@[simp] theorem modHost_rtr (s : State) (h : HostPort) (f : HostState → HostState) : (s.modHost h f).rtr = s.rtr := rfl
@[simp] theorem modHost_park (s : State) (h : HostPort) (f : HostState → HostState) : (s.modHost h f).park = s.park := rfl
@[simp] theorem modHost_sweep (s : State) (h : HostPort) (f : HostState → HostState) : (s.modHost h f).sweep = s.sweep := rfl
@[simp] theorem modHost_discards (s : State) (h : HostPort) (f : HostState → HostState) : (s.modHost h f).discards = s.discards := rfl
@[simp] theorem modHost_agent (s : State) (h : HostPort) (f : HostState → HostState) : (s.modHost h f).agent = s.agent := rfl
@[simp] theorem modHost_groups (s : State) (h : HostPort) (f : HostState → HostState) : (s.modHost h f).groups = s.groups := rfl
@[simp] theorem modHost_modprs (s : State) (h : HostPort) (f : HostState → HostState) : (s.modHost h f).modprs = s.modprs := rfl
@[simp] theorem modHost_clock (s : State) (h : HostPort) (f : HostState → HostState) : (s.modHost h f).clock = s.clock := rfl
@[simp] theorem modHost_freeCount (s : State) (h : HostPort) (f : HostState → HostState) : (s.modHost h f).freeCount = s.freeCount := rfl
@[simp] theorem modHost_out (s : State) (h : HostPort) (f : HostState → HostState) : (s.modHost h f).out = s.out := rfl
@[simp] theorem modHost_pending (s : State) (h : HostPort) (f : HostState → HostState) : (s.modHost h f).pending = s.pending := rfl
@[simp] theorem modHost_port (s : State) (h : HostPort) (f : HostState → HostState) (p : NetPort) : (s.modHost h f).port p = s.port p := rfl
@[simp] theorem modHost_regWord (s : State) (h : HostPort) (f : HostState → HostState) (r' : RegId) (i' k' : Nat) : (s.modHost h f).regWord r' i' k' = s.regWord r' i' k' := rfl
@[simp] theorem modHost_fget (s : State) (h : HostPort) (f : HostState → HostState) (f' : RegField) (i' k' : Nat) : (s.modHost h f).fget f' i' k' = s.fget f' i' k' := rfl
@[simp] theorem modHost_flag (s : State) (h : HostPort) (f : HostState → HostState) (f' : RegField) (i' k' : Nat) : (s.modHost h f).flag f' i' k' = s.flag f' i' k' := rfl
@[simp] theorem modHost_coreRuns (s : State) (h : HostPort) (f : HostState → HostState) : (s.modHost h f).coreRuns = s.coreRuns := rfl
@[simp] theorem modHost_answers (s : State) (h : HostPort) (f : HostState → HostState) (x : Block) (j : Nat) : (s.modHost h f).answers x j = s.answers x j := rfl

/-! ## modHif -/

@[simp] theorem modHif_impl (s : State) (h : HostPort) (f : HifState → HifState) : (s.modHif h f).impl = s.impl := rfl
@[simp] theorem modHif_image (s : State) (h : HostPort) (f : HifState → HifState) : (s.modHif h f).image = s.image := rfl
@[simp] theorem modHif_regs (s : State) (h : HostPort) (f : HifState → HifState) : (s.modHif h f).regs = s.regs := rfl
@[simp] theorem modHif_cfg (s : State) (h : HostPort) (f : HifState → HifState) : (s.modHif h f).cfg = s.cfg := rfl
@[simp] theorem modHif_pwr (s : State) (h : HostPort) (f : HifState → HifState) : (s.modHif h f).pwr = s.pwr := rfl
@[simp] theorem modHif_tim (s : State) (h : HostPort) (f : HifState → HifState) : (s.modHif h f).tim = s.tim := rfl
@[simp] theorem modHif_rst (s : State) (h : HostPort) (f : HifState → HifState) : (s.modHif h f).rst = s.rst := rfl
@[simp] theorem modHif_flt (s : State) (h : HostPort) (f : HifState → HifState) : (s.modHif h f).flt = s.flt := rfl
@[simp] theorem modHif_locks (s : State) (h : HostPort) (f : HifState → HifState) : (s.modHif h f).locks = s.locks := rfl
@[simp] theorem modHif_jtag (s : State) (h : HostPort) (f : HifState → HifState) : (s.modHif h f).jtag = s.jtag := rfl
@[simp] theorem modHif_smb (s : State) (h : HostPort) (f : HifState → HifState) : (s.modHif h f).smb = s.smb := rfl
@[simp] theorem modHif_cap (s : State) (h : HostPort) (f : HifState → HifState) : (s.modHif h f).cap = s.cap := rfl
@[simp] theorem modHif_sram (s : State) (h : HostPort) (f : HifState → HifState) : (s.modHif h f).sram = s.sram := rfl
@[simp] theorem modHif_ports (s : State) (h : HostPort) (f : HifState → HifState) : (s.modHif h f).ports = s.ports := rfl
@[simp] theorem modHif_ints (s : State) (h : HostPort) (f : HifState → HifState) : (s.modHif h f).ints = s.ints := rfl
@[simp] theorem modHif_rtr (s : State) (h : HostPort) (f : HifState → HifState) : (s.modHif h f).rtr = s.rtr := rfl
@[simp] theorem modHif_park (s : State) (h : HostPort) (f : HifState → HifState) : (s.modHif h f).park = s.park := rfl
@[simp] theorem modHif_sweep (s : State) (h : HostPort) (f : HifState → HifState) : (s.modHif h f).sweep = s.sweep := rfl
@[simp] theorem modHif_discards (s : State) (h : HostPort) (f : HifState → HifState) : (s.modHif h f).discards = s.discards := rfl
@[simp] theorem modHif_agent (s : State) (h : HostPort) (f : HifState → HifState) : (s.modHif h f).agent = s.agent := rfl
@[simp] theorem modHif_groups (s : State) (h : HostPort) (f : HifState → HifState) : (s.modHif h f).groups = s.groups := rfl
@[simp] theorem modHif_modprs (s : State) (h : HostPort) (f : HifState → HifState) : (s.modHif h f).modprs = s.modprs := rfl
@[simp] theorem modHif_clock (s : State) (h : HostPort) (f : HifState → HifState) : (s.modHif h f).clock = s.clock := rfl
@[simp] theorem modHif_freeCount (s : State) (h : HostPort) (f : HifState → HifState) : (s.modHif h f).freeCount = s.freeCount := rfl
@[simp] theorem modHif_out (s : State) (h : HostPort) (f : HifState → HifState) : (s.modHif h f).out = s.out := rfl
@[simp] theorem modHif_pending (s : State) (h : HostPort) (f : HifState → HifState) : (s.modHif h f).pending = s.pending := rfl
@[simp] theorem modHif_port (s : State) (h : HostPort) (f : HifState → HifState) (p : NetPort) : (s.modHif h f).port p = s.port p := rfl
@[simp] theorem modHif_regWord (s : State) (h : HostPort) (f : HifState → HifState) (r' : RegId) (i' k' : Nat) : (s.modHif h f).regWord r' i' k' = s.regWord r' i' k' := rfl
@[simp] theorem modHif_fget (s : State) (h : HostPort) (f : HifState → HifState) (f' : RegField) (i' k' : Nat) : (s.modHif h f).fget f' i' k' = s.fget f' i' k' := rfl
@[simp] theorem modHif_flag (s : State) (h : HostPort) (f : HifState → HifState) (f' : RegField) (i' k' : Nat) : (s.modHif h f).flag f' i' k' = s.flag f' i' k' := rfl
@[simp] theorem modHif_coreRuns (s : State) (h : HostPort) (f : HifState → HifState) : (s.modHif h f).coreRuns = s.coreRuns := rfl
@[simp] theorem modHif_answers (s : State) (h : HostPort) (f : HifState → HifState) (x : Block) (j : Nat) : (s.modHif h f).answers x j = s.answers x j := rfl

/-! ## modCfg -/

@[simp] theorem modCfg_impl (s : State) (f : CfgState → CfgState) : (s.modCfg f).impl = s.impl := rfl
@[simp] theorem modCfg_image (s : State) (f : CfgState → CfgState) : (s.modCfg f).image = s.image := rfl
@[simp] theorem modCfg_regs (s : State) (f : CfgState → CfgState) : (s.modCfg f).regs = s.regs := rfl
@[simp] theorem modCfg_pwr (s : State) (f : CfgState → CfgState) : (s.modCfg f).pwr = s.pwr := rfl
@[simp] theorem modCfg_tim (s : State) (f : CfgState → CfgState) : (s.modCfg f).tim = s.tim := rfl
@[simp] theorem modCfg_rst (s : State) (f : CfgState → CfgState) : (s.modCfg f).rst = s.rst := rfl
@[simp] theorem modCfg_flt (s : State) (f : CfgState → CfgState) : (s.modCfg f).flt = s.flt := rfl
@[simp] theorem modCfg_locks (s : State) (f : CfgState → CfgState) : (s.modCfg f).locks = s.locks := rfl
@[simp] theorem modCfg_jtag (s : State) (f : CfgState → CfgState) : (s.modCfg f).jtag = s.jtag := rfl
@[simp] theorem modCfg_smb (s : State) (f : CfgState → CfgState) : (s.modCfg f).smb = s.smb := rfl
@[simp] theorem modCfg_cap (s : State) (f : CfgState → CfgState) : (s.modCfg f).cap = s.cap := rfl
@[simp] theorem modCfg_sram (s : State) (f : CfgState → CfgState) : (s.modCfg f).sram = s.sram := rfl
@[simp] theorem modCfg_ports (s : State) (f : CfgState → CfgState) : (s.modCfg f).ports = s.ports := rfl
@[simp] theorem modCfg_ints (s : State) (f : CfgState → CfgState) : (s.modCfg f).ints = s.ints := rfl
@[simp] theorem modCfg_rtr (s : State) (f : CfgState → CfgState) : (s.modCfg f).rtr = s.rtr := rfl
@[simp] theorem modCfg_hosts (s : State) (f : CfgState → CfgState) : (s.modCfg f).hosts = s.hosts := rfl
@[simp] theorem modCfg_park (s : State) (f : CfgState → CfgState) : (s.modCfg f).park = s.park := rfl
@[simp] theorem modCfg_sweep (s : State) (f : CfgState → CfgState) : (s.modCfg f).sweep = s.sweep := rfl
@[simp] theorem modCfg_discards (s : State) (f : CfgState → CfgState) : (s.modCfg f).discards = s.discards := rfl
@[simp] theorem modCfg_agent (s : State) (f : CfgState → CfgState) : (s.modCfg f).agent = s.agent := rfl
@[simp] theorem modCfg_groups (s : State) (f : CfgState → CfgState) : (s.modCfg f).groups = s.groups := rfl
@[simp] theorem modCfg_modprs (s : State) (f : CfgState → CfgState) : (s.modCfg f).modprs = s.modprs := rfl
@[simp] theorem modCfg_clock (s : State) (f : CfgState → CfgState) : (s.modCfg f).clock = s.clock := rfl
@[simp] theorem modCfg_freeCount (s : State) (f : CfgState → CfgState) : (s.modCfg f).freeCount = s.freeCount := rfl
@[simp] theorem modCfg_out (s : State) (f : CfgState → CfgState) : (s.modCfg f).out = s.out := rfl
@[simp] theorem modCfg_pending (s : State) (f : CfgState → CfgState) : (s.modCfg f).pending = s.pending := rfl
@[simp] theorem modCfg_host (s : State) (f : CfgState → CfgState) (h : HostPort) : (s.modCfg f).host h = s.host h := rfl
@[simp] theorem modCfg_port (s : State) (f : CfgState → CfgState) (p : NetPort) : (s.modCfg f).port p = s.port p := rfl
@[simp] theorem modCfg_regWord (s : State) (f : CfgState → CfgState) (r' : RegId) (i' k' : Nat) : (s.modCfg f).regWord r' i' k' = s.regWord r' i' k' := rfl
@[simp] theorem modCfg_fget (s : State) (f : CfgState → CfgState) (f' : RegField) (i' k' : Nat) : (s.modCfg f).fget f' i' k' = s.fget f' i' k' := rfl
@[simp] theorem modCfg_flag (s : State) (f : CfgState → CfgState) (f' : RegField) (i' k' : Nat) : (s.modCfg f).flag f' i' k' = s.flag f' i' k' := rfl
@[simp] theorem modCfg_coreRuns (s : State) (f : CfgState → CfgState) : (s.modCfg f).coreRuns = s.coreRuns := rfl
@[simp] theorem modCfg_answers (s : State) (f : CfgState → CfgState) (x : Block) (j : Nat) : (s.modCfg f).answers x j = s.answers x j := rfl

/-! ## modPwr -/

@[simp] theorem modPwr_impl (s : State) (f : PwrState → PwrState) : (s.modPwr f).impl = s.impl := rfl
@[simp] theorem modPwr_image (s : State) (f : PwrState → PwrState) : (s.modPwr f).image = s.image := rfl
@[simp] theorem modPwr_regs (s : State) (f : PwrState → PwrState) : (s.modPwr f).regs = s.regs := rfl
@[simp] theorem modPwr_cfg (s : State) (f : PwrState → PwrState) : (s.modPwr f).cfg = s.cfg := rfl
@[simp] theorem modPwr_tim (s : State) (f : PwrState → PwrState) : (s.modPwr f).tim = s.tim := rfl
@[simp] theorem modPwr_rst (s : State) (f : PwrState → PwrState) : (s.modPwr f).rst = s.rst := rfl
@[simp] theorem modPwr_flt (s : State) (f : PwrState → PwrState) : (s.modPwr f).flt = s.flt := rfl
@[simp] theorem modPwr_locks (s : State) (f : PwrState → PwrState) : (s.modPwr f).locks = s.locks := rfl
@[simp] theorem modPwr_jtag (s : State) (f : PwrState → PwrState) : (s.modPwr f).jtag = s.jtag := rfl
@[simp] theorem modPwr_smb (s : State) (f : PwrState → PwrState) : (s.modPwr f).smb = s.smb := rfl
@[simp] theorem modPwr_cap (s : State) (f : PwrState → PwrState) : (s.modPwr f).cap = s.cap := rfl
@[simp] theorem modPwr_sram (s : State) (f : PwrState → PwrState) : (s.modPwr f).sram = s.sram := rfl
@[simp] theorem modPwr_ports (s : State) (f : PwrState → PwrState) : (s.modPwr f).ports = s.ports := rfl
@[simp] theorem modPwr_ints (s : State) (f : PwrState → PwrState) : (s.modPwr f).ints = s.ints := rfl
@[simp] theorem modPwr_rtr (s : State) (f : PwrState → PwrState) : (s.modPwr f).rtr = s.rtr := rfl
@[simp] theorem modPwr_hosts (s : State) (f : PwrState → PwrState) : (s.modPwr f).hosts = s.hosts := rfl
@[simp] theorem modPwr_park (s : State) (f : PwrState → PwrState) : (s.modPwr f).park = s.park := rfl
@[simp] theorem modPwr_sweep (s : State) (f : PwrState → PwrState) : (s.modPwr f).sweep = s.sweep := rfl
@[simp] theorem modPwr_discards (s : State) (f : PwrState → PwrState) : (s.modPwr f).discards = s.discards := rfl
@[simp] theorem modPwr_agent (s : State) (f : PwrState → PwrState) : (s.modPwr f).agent = s.agent := rfl
@[simp] theorem modPwr_groups (s : State) (f : PwrState → PwrState) : (s.modPwr f).groups = s.groups := rfl
@[simp] theorem modPwr_modprs (s : State) (f : PwrState → PwrState) : (s.modPwr f).modprs = s.modprs := rfl
@[simp] theorem modPwr_clock (s : State) (f : PwrState → PwrState) : (s.modPwr f).clock = s.clock := rfl
@[simp] theorem modPwr_freeCount (s : State) (f : PwrState → PwrState) : (s.modPwr f).freeCount = s.freeCount := rfl
@[simp] theorem modPwr_out (s : State) (f : PwrState → PwrState) : (s.modPwr f).out = s.out := rfl
@[simp] theorem modPwr_pending (s : State) (f : PwrState → PwrState) : (s.modPwr f).pending = s.pending := rfl
@[simp] theorem modPwr_host (s : State) (f : PwrState → PwrState) (h : HostPort) : (s.modPwr f).host h = s.host h := rfl
@[simp] theorem modPwr_port (s : State) (f : PwrState → PwrState) (p : NetPort) : (s.modPwr f).port p = s.port p := rfl
@[simp] theorem modPwr_regWord (s : State) (f : PwrState → PwrState) (r' : RegId) (i' k' : Nat) : (s.modPwr f).regWord r' i' k' = s.regWord r' i' k' := rfl
@[simp] theorem modPwr_fget (s : State) (f : PwrState → PwrState) (f' : RegField) (i' k' : Nat) : (s.modPwr f).fget f' i' k' = s.fget f' i' k' := rfl
@[simp] theorem modPwr_flag (s : State) (f : PwrState → PwrState) (f' : RegField) (i' k' : Nat) : (s.modPwr f).flag f' i' k' = s.flag f' i' k' := rfl

/-! ## modRst -/

@[simp] theorem modRst_impl (s : State) (f : RstState → RstState) : (s.modRst f).impl = s.impl := rfl
@[simp] theorem modRst_image (s : State) (f : RstState → RstState) : (s.modRst f).image = s.image := rfl
@[simp] theorem modRst_regs (s : State) (f : RstState → RstState) : (s.modRst f).regs = s.regs := rfl
@[simp] theorem modRst_cfg (s : State) (f : RstState → RstState) : (s.modRst f).cfg = s.cfg := rfl
@[simp] theorem modRst_pwr (s : State) (f : RstState → RstState) : (s.modRst f).pwr = s.pwr := rfl
@[simp] theorem modRst_tim (s : State) (f : RstState → RstState) : (s.modRst f).tim = s.tim := rfl
@[simp] theorem modRst_flt (s : State) (f : RstState → RstState) : (s.modRst f).flt = s.flt := rfl
@[simp] theorem modRst_locks (s : State) (f : RstState → RstState) : (s.modRst f).locks = s.locks := rfl
@[simp] theorem modRst_jtag (s : State) (f : RstState → RstState) : (s.modRst f).jtag = s.jtag := rfl
@[simp] theorem modRst_smb (s : State) (f : RstState → RstState) : (s.modRst f).smb = s.smb := rfl
@[simp] theorem modRst_cap (s : State) (f : RstState → RstState) : (s.modRst f).cap = s.cap := rfl
@[simp] theorem modRst_sram (s : State) (f : RstState → RstState) : (s.modRst f).sram = s.sram := rfl
@[simp] theorem modRst_ports (s : State) (f : RstState → RstState) : (s.modRst f).ports = s.ports := rfl
@[simp] theorem modRst_ints (s : State) (f : RstState → RstState) : (s.modRst f).ints = s.ints := rfl
@[simp] theorem modRst_rtr (s : State) (f : RstState → RstState) : (s.modRst f).rtr = s.rtr := rfl
@[simp] theorem modRst_hosts (s : State) (f : RstState → RstState) : (s.modRst f).hosts = s.hosts := rfl
@[simp] theorem modRst_park (s : State) (f : RstState → RstState) : (s.modRst f).park = s.park := rfl
@[simp] theorem modRst_sweep (s : State) (f : RstState → RstState) : (s.modRst f).sweep = s.sweep := rfl
@[simp] theorem modRst_discards (s : State) (f : RstState → RstState) : (s.modRst f).discards = s.discards := rfl
@[simp] theorem modRst_agent (s : State) (f : RstState → RstState) : (s.modRst f).agent = s.agent := rfl
@[simp] theorem modRst_groups (s : State) (f : RstState → RstState) : (s.modRst f).groups = s.groups := rfl
@[simp] theorem modRst_modprs (s : State) (f : RstState → RstState) : (s.modRst f).modprs = s.modprs := rfl
@[simp] theorem modRst_clock (s : State) (f : RstState → RstState) : (s.modRst f).clock = s.clock := rfl
@[simp] theorem modRst_freeCount (s : State) (f : RstState → RstState) : (s.modRst f).freeCount = s.freeCount := rfl
@[simp] theorem modRst_out (s : State) (f : RstState → RstState) : (s.modRst f).out = s.out := rfl
@[simp] theorem modRst_pending (s : State) (f : RstState → RstState) : (s.modRst f).pending = s.pending := rfl
@[simp] theorem modRst_host (s : State) (f : RstState → RstState) (h : HostPort) : (s.modRst f).host h = s.host h := rfl
@[simp] theorem modRst_port (s : State) (f : RstState → RstState) (p : NetPort) : (s.modRst f).port p = s.port p := rfl
@[simp] theorem modRst_regWord (s : State) (f : RstState → RstState) (r' : RegId) (i' k' : Nat) : (s.modRst f).regWord r' i' k' = s.regWord r' i' k' := rfl
@[simp] theorem modRst_fget (s : State) (f : RstState → RstState) (f' : RegField) (i' k' : Nat) : (s.modRst f).fget f' i' k' = s.fget f' i' k' := rfl
@[simp] theorem modRst_flag (s : State) (f : RstState → RstState) (f' : RegField) (i' k' : Nat) : (s.modRst f).flag f' i' k' = s.flag f' i' k' := rfl

/-! ## modLock -/

@[simp] theorem modLock_impl (s : State) (k : Fin 256) (f : Lock → Lock) : (modLock k f s).impl = s.impl := rfl
@[simp] theorem modLock_image (s : State) (k : Fin 256) (f : Lock → Lock) : (modLock k f s).image = s.image := rfl
@[simp] theorem modLock_regs (s : State) (k : Fin 256) (f : Lock → Lock) : (modLock k f s).regs = s.regs := rfl
@[simp] theorem modLock_cfg (s : State) (k : Fin 256) (f : Lock → Lock) : (modLock k f s).cfg = s.cfg := rfl
@[simp] theorem modLock_pwr (s : State) (k : Fin 256) (f : Lock → Lock) : (modLock k f s).pwr = s.pwr := rfl
@[simp] theorem modLock_tim (s : State) (k : Fin 256) (f : Lock → Lock) : (modLock k f s).tim = s.tim := rfl
@[simp] theorem modLock_rst (s : State) (k : Fin 256) (f : Lock → Lock) : (modLock k f s).rst = s.rst := rfl
@[simp] theorem modLock_flt (s : State) (k : Fin 256) (f : Lock → Lock) : (modLock k f s).flt = s.flt := rfl
@[simp] theorem modLock_jtag (s : State) (k : Fin 256) (f : Lock → Lock) : (modLock k f s).jtag = s.jtag := rfl
@[simp] theorem modLock_smb (s : State) (k : Fin 256) (f : Lock → Lock) : (modLock k f s).smb = s.smb := rfl
@[simp] theorem modLock_cap (s : State) (k : Fin 256) (f : Lock → Lock) : (modLock k f s).cap = s.cap := rfl
@[simp] theorem modLock_sram (s : State) (k : Fin 256) (f : Lock → Lock) : (modLock k f s).sram = s.sram := rfl
@[simp] theorem modLock_ports (s : State) (k : Fin 256) (f : Lock → Lock) : (modLock k f s).ports = s.ports := rfl
@[simp] theorem modLock_ints (s : State) (k : Fin 256) (f : Lock → Lock) : (modLock k f s).ints = s.ints := rfl
@[simp] theorem modLock_rtr (s : State) (k : Fin 256) (f : Lock → Lock) : (modLock k f s).rtr = s.rtr := rfl
@[simp] theorem modLock_hosts (s : State) (k : Fin 256) (f : Lock → Lock) : (modLock k f s).hosts = s.hosts := rfl
@[simp] theorem modLock_park (s : State) (k : Fin 256) (f : Lock → Lock) : (modLock k f s).park = s.park := rfl
@[simp] theorem modLock_sweep (s : State) (k : Fin 256) (f : Lock → Lock) : (modLock k f s).sweep = s.sweep := rfl
@[simp] theorem modLock_discards (s : State) (k : Fin 256) (f : Lock → Lock) : (modLock k f s).discards = s.discards := rfl
@[simp] theorem modLock_agent (s : State) (k : Fin 256) (f : Lock → Lock) : (modLock k f s).agent = s.agent := rfl
@[simp] theorem modLock_groups (s : State) (k : Fin 256) (f : Lock → Lock) : (modLock k f s).groups = s.groups := rfl
@[simp] theorem modLock_modprs (s : State) (k : Fin 256) (f : Lock → Lock) : (modLock k f s).modprs = s.modprs := rfl
@[simp] theorem modLock_clock (s : State) (k : Fin 256) (f : Lock → Lock) : (modLock k f s).clock = s.clock := rfl
@[simp] theorem modLock_freeCount (s : State) (k : Fin 256) (f : Lock → Lock) : (modLock k f s).freeCount = s.freeCount := rfl
@[simp] theorem modLock_out (s : State) (k : Fin 256) (f : Lock → Lock) : (modLock k f s).out = s.out := rfl
@[simp] theorem modLock_pending (s : State) (k : Fin 256) (f : Lock → Lock) : (modLock k f s).pending = s.pending := rfl
@[simp] theorem modLock_host (s : State) (k : Fin 256) (f : Lock → Lock) (h : HostPort) : (modLock k f s).host h = s.host h := rfl
@[simp] theorem modLock_port (s : State) (k : Fin 256) (f : Lock → Lock) (p : NetPort) : (modLock k f s).port p = s.port p := rfl
@[simp] theorem modLock_regWord (s : State) (k : Fin 256) (f : Lock → Lock) (r' : RegId) (i' k' : Nat) : (modLock k f s).regWord r' i' k' = s.regWord r' i' k' := rfl
@[simp] theorem modLock_fget (s : State) (k : Fin 256) (f : Lock → Lock) (f' : RegField) (i' k' : Nat) : (modLock k f s).fget f' i' k' = s.fget f' i' k' := rfl
@[simp] theorem modLock_flag (s : State) (k : Fin 256) (f : Lock → Lock) (f' : RegField) (i' k' : Nat) : (modLock k f s).flag f' i' k' = s.flag f' i' k' := rfl
@[simp] theorem modLock_coreRuns (s : State) (k : Fin 256) (f : Lock → Lock) : (modLock k f s).coreRuns = s.coreRuns := rfl
@[simp] theorem modLock_answers (s : State) (k : Fin 256) (f : Lock → Lock) (x : Block) (j : Nat) : (modLock k f s).answers x j = s.answers x j := rfl

/-! ## What an update changes -/

@[simp] theorem emit_out (s : State) (o : Output) : (s.emit o).out = s.out ++ [o] := rfl

@[simp] theorem modCfg_cfg (s : State) (f : CfgState → CfgState) : (s.modCfg f).cfg = f s.cfg := rfl

@[simp] theorem modPwr_pwr (s : State) (f : PwrState → PwrState) : (s.modPwr f).pwr = f s.pwr := rfl

@[simp] theorem modRst_rst (s : State) (f : RstState → RstState) : (s.modRst f).rst = f s.rst := rfl

@[simp] theorem tookFree_freeCount (s : State) : s.tookFree.freeCount = s.freeCount + 1 := rfl

@[simp] theorem modHost_host_same (s : State) (h : HostPort) (f : HostState → HostState) :
    (s.modHost h f).host h = f (s.host h) := vecMod_same _ _ _

theorem modHost_host_other (s : State) (h g : HostPort) (f : HostState → HostState) (n : g ≠ h) :
    (s.modHost h f).host g = s.host g := vecMod_other _ _ _ _ n

@[simp] theorem modHif_host_same (s : State) (h : HostPort) (f : HifState → HifState) :
    (s.modHif h f).host h = { s.host h with hif := f (s.host h).hif } := modHost_host_same _ _ _

theorem modHif_host_other (s : State) (h g : HostPort) (f : HifState → HifState) (n : g ≠ h) :
    (s.modHif h f).host g = s.host g := modHost_host_other _ _ _ _ n

@[simp] theorem modPort_port_same (s : State) (p : NetPort) (f : Port → Port) : (s.modPort p f).port p = f (s.port p) :=
  vecMod_same _ _ _

theorem modPort_port_other (s : State) (p q : NetPort) (f : Port → Port) (n : q ≠ p) : (s.modPort p f).port q = s.port q :=
  vecMod_other _ _ _ _ n

@[simp] theorem modLane_port_same (s : State) (p : NetPort) (f : LaneState → LaneState) :
    (s.modLane p f).port p = { s.port p with lane := f (s.port p).lane } := modPort_port_same _ _ _

theorem modLane_port_other (s : State) (p q : NetPort) (f : LaneState → LaneState) (n : q ≠ p) :
    (s.modLane p f).port q = s.port q := modPort_port_other _ _ _ _ n

@[simp] theorem modLink_port_same (s : State) (p : NetPort) (f : LinkState → LinkState) :
    (s.modLink p f).port p = { s.port p with link := f (s.port p).link } := modPort_port_same _ _ _

theorem modLink_port_other (s : State) (p q : NetPort) (f : LinkState → LinkState) (n : q ≠ p) :
    (s.modLink p f).port q = s.port q := modPort_port_other _ _ _ _ n

@[simp] theorem modInt_same (s : State) (ip : IntPort) (f : IntPortState → IntPortState) :
    (s.modInt ip f).ints[ip] = f s.ints[ip] := vecMod_same _ _ _

theorem modInt_other (s : State) (ip jp : IntPort) (f : IntPortState → IntPortState) (n : jp ≠ ip) :
    (s.modInt ip f).ints[jp] = s.ints[jp] := vecMod_other _ _ _ _ n

@[simp] theorem modLock_same (s : State) (k : Fin 256) (f : Lock → Lock) : (modLock k f s).locks[k] = f s.locks[k] :=
  vecMod_same _ _ _

theorem modLock_other (s : State) (k j : Fin 256) (f : Lock → Lock) (n : j ≠ k) : (modLock k f s).locks[j] = s.locks[j] :=
  vecMod_other _ _ _ _ n

/-! ## The register file -/

/-- A stored word reads back. -/
@[simp] theorem regWord_setWord (s : State) (r : RegId) (v : Word) (i k : Nat) : (s.setWord r v i k).regWord r i k = v := by
  simp [State.regWord, State.setWord]

/-- Storing a word leaves the registers at every other address as they were. -/
theorem regWord_setWord_other (s : State) (r r' : RegId) (v : Word) (i k i' k' : Nat)
    (h : regAddr r' i' k' ≠ regAddr r i k) : (s.setWord r v i k).regWord r' i' k' = s.regWord r' i' k' := by
  simp [State.regWord, State.setWord, tblGet_set_other _ _ _ _ h]

theorem fget_def (s : State) (f : RegField) (i k : Nat) : s.fget f i k = fieldOf (s.regWord f.reg i k) f.hi f.lo := rfl

theorem flag_def (s : State) (f : RegField) (i k : Nat) : s.flag f i k = (s.fget f i k != 0) := rfl

/-- A stored field reads back its low bits. -/
theorem fget_fset (s : State) (f : RegField) (v i k : Nat) (h : f.lo ≤ f.hi) (h' : f.hi < 64) :
    (s.fset f v i k).fget f i k = v % 2 ^ (f.hi + 1 - f.lo) := by
  simp only [State.fget, State.fset, regWord_setWord]
  exact fieldOf_putField _ _ _ _ h h'

/-- Storing a field leaves the registers at every other address as they were. -/
theorem regWord_fset_other (s : State) (f : RegField) (r : RegId) (v i k i' k' : Nat)
    (h : regAddr r i' k' ≠ regAddr f.reg i k) : (s.fset f v i k).regWord r i' k' = s.regWord r i' k' :=
  regWord_setWord_other _ _ _ _ _ _ _ _ h

theorem fget_fset_other (s : State) (f g : RegField) (v i k i' k' : Nat)
    (h : regAddr g.reg i' k' ≠ regAddr f.reg i k) : (s.fset f v i k).fget g i' k' = s.fget g i' k' := by
  simp only [State.fget, regWord_fset_other _ _ _ _ _ _ _ _ h]

/-- Storing a field leaves the lower fields of its register as they were. -/
theorem fget_fset_below (s : State) (f g : RegField) (v i k : Nat) (e : g.reg = f.reg) (h : f.lo ≤ f.hi) (h' : f.hi < 64)
    (hb : g.hi < f.lo) : (s.fset f v i k).fget g i k = s.fget g i k := by
  simp only [State.fget, State.fset, e, regWord_setWord]
  exact fieldOf_putField_below _ _ _ _ _ _ h h' hb

/-- Storing a field leaves the higher fields of its register as they were. -/
theorem fget_fset_above (s : State) (f g : RegField) (v i k : Nat) (e : g.reg = f.reg) (h : f.lo ≤ f.hi) (h' : f.hi < 64)
    (ha : f.hi < g.lo) : (s.fset f v i k).fget g i k = s.fget g i k := by
  simp only [State.fget, State.fset, e, regWord_setWord]
  exact fieldOf_putField_above _ _ _ _ _ _ h h' ha

/-- A saturating count reads back. -/
theorem fget_finc (s : State) (f : RegField) (d i k : Nat) (h : f.lo ≤ f.hi) (h' : f.hi < 64) :
    (s.finc f d i k).fget f i k = min (2 ^ (f.hi + 1 - f.lo) - 1) (s.fget f i k + d) := by
  unfold State.finc
  rw [fget_fset _ _ _ _ _ h h', satAdd, Nat.mod_eq_of_lt]
  have := Nat.two_pow_pos (f.hi + 1 - f.lo)
  omega

end Sys2Proof.Laws
end

