-- ==== Sys2Proof/Laws/Events.lean ====
section
/-! SUPPORT. What the report of an event or of an error leaves alone (R186 to R188, R323 to R326): one lemma for each operation
that reports, and the laws of `reportOnly` and `regsBut`. -/

namespace Sys2Proof.Laws

open Sys2Proof.Machine

/-! ## The register frame -/

theorem regsBut_refl (s : State) (ks : List Nat) : regsBut s s ks := fun _ _ => rfl

theorem regsBut_trans {s t u : State} {ks : List Nat} (h1 : regsBut s t ks) (h2 : regsBut t u ks) : regsBut s u ks :=
  fun a m => (h2 a m).trans (h1 a m)

theorem regsBut_setWord (s : State) (r : RegId) (v : Word) (i k : Nat) (ks : List Nat) (m : regAddr r i k ∈ ks) :
    regsBut s (s.setWord r v i k) ks := by
  intro a n
  exact tblGet_set_other _ _ _ _ (fun e => n (e ▸ m))

theorem regsBut_fset (s : State) (f : RegField) (v i k : Nat) (ks : List Nat) (m : regAddr f.reg i k ∈ ks) :
    regsBut s (s.fset f v i k) ks := regsBut_setWord s f.reg _ i k ks m

theorem regsBut_finc (s : State) (f : RegField) (v i k : Nat) (ks : List Nat) (m : regAddr f.reg i k ∈ ks) :
    regsBut s (s.finc f v i k) ks := regsBut_setWord s f.reg _ i k ks m

/-- A register outside the list reads as before, under the same image. -/
theorem regWord_of_regsBut {s t : State} {ks : List Nat} (h : regsBut s t ks) (e : t.image = s.image) (r : RegId) (i k : Nat)
    (n : regAddr r i k ∉ ks) : t.regWord r i k = s.regWord r i k := by
  simp only [State.regWord, h _ n, e]

/-! ## Reports -/

theorem reportOnly_refl (s : State) : reportOnly s s := ⟨rfl, fun _ => rfl, regsBut_refl _ _⟩

theorem reportOnly_trans {s t u : State} (h1 : reportOnly s t) (h2 : reportOnly t u) : reportOnly s u := by
  obtain ⟨e1, f1, g1⟩ := h1
  obtain ⟨e2, f2, g2⟩ := h2
  refine ⟨?_, fun h => ?_, regsBut_trans g1 g2⟩
  · rw [e2]
    generalize u.regs = a at *
    generalize u.flt.alertAck = b at *
    generalize u.hosts = c at *
    rw [e1]
  · rw [f2 h, f1 h]

theorem reportOnly_regs (s : State) (r : RegId) (v : Word) (i k : Nat) (m : regAddr r i k ∈ reportRegs) :
    reportOnly s (s.setWord r v i k) := ⟨rfl, fun _ => rfl, regsBut_setWord s r v i k _ m⟩

theorem reportOnly_alert (s : State) (b : Bool) : reportOnly s { s with flt := { s.flt with alertAck := b } } :=
  ⟨rfl, fun _ => rfl, regsBut_refl _ _⟩

theorem reportOnly_image {s t : State} (h : reportOnly s t) : t.image = s.image := by rw [h.1]
theorem reportOnly_ports {s t : State} (h : reportOnly s t) : t.ports = s.ports := by rw [h.1]
theorem reportOnly_muzzle {s t : State} (h : reportOnly s t) : t.flt.muzzle = s.flt.muzzle := by rw [h.1]

theorem reportOnly_regWord {s t : State} (h : reportOnly s t) (r : RegId) (i k : Nat) (n : regAddr r i k ∉ reportRegs) :
    t.regWord r i k = s.regWord r i k := regWord_of_regsBut h.2.2 (reportOnly_image h) r i k n

theorem reportOnly_promote {s t : State} (h : reportOnly s t) : t.fget F.FLT_PROMOTE_PROMOTE = s.fget F.FLT_PROMOTE_PROMOTE := by
  simp only [State.fget]
  rw [reportOnly_regWord h _ _ _ (by decide)]

theorem reportOnly_noPromotion {s t : State} (h : reportOnly s t) (n : noPromotion s) : noPromotion t :=
  (reportOnly_promote h).trans n

theorem actingClass_plain {s : State} (n : noPromotion s) (k : Nat) : s.actingClass k = faultClass k := by
  unfold noPromotion at n
  simp [State.actingClass, n]

theorem asyncMerge_report (h : HostPort) (code src : Nat) (data : Word) (s : State) :
    reportOnly s (asyncMerge h code src data s) := by
  refine ⟨rfl, fun k => ?_, regsBut_refl _ _⟩
  unfold asyncMerge
  by_cases e : k = h
  · subst e; rw [modHost_host_same]
  · rw [modHost_host_other _ _ _ _ e]

theorem firstError_report (n : Nat) (mid : Mid) (acc : Nat) (addr : Word) (s : State) : reportOnly s (firstError n mid acc addr s) := by
  unfold firstError
  split
  · exact reportOnly_refl _
  · split
    · exact reportOnly_regs _ _ _ _ _ (by decide)
    · exact reportOnly_trans (reportOnly_trans (reportOnly_regs _ _ _ _ _ (by decide)) (reportOnly_regs _ _ _ _ _ (by decide)))
        (reportOnly_regs _ _ _ _ _ (by decide))

theorem raiseCore_report (n : Nat) (mid : Mid) (acc : Nat) (addr : Word) (s : State) (np : noPromotion s) (c : faultClass n ≠ 2) :
    reportOnly s (raiseCore n mid acc addr s) := by
  unfold raiseCore
  dsimp only
  have h1 : reportOnly s (s.fset F.FLT_STATUS_SRC (setBitTo (s.fget F.FLT_STATUS_SRC) n true)) := reportOnly_regs _ _ _ _ _ (by decide)
  have h2 := reportOnly_trans h1 (reportOnly_alert _ (if (s.fget F.FLT_STATUS_SRC).testBit n then
    (s.fset F.FLT_STATUS_SRC (setBitTo (s.fget F.FLT_STATUS_SRC) n true)).flt.alertAck else false))
  rw [if_neg]
  · exact reportOnly_trans h2 (firstError_report _ _ _ _ _)
  · rw [actingClass_plain (reportOnly_noPromotion h2 np)]; exact c

theorem eqOverflow_report (h : HostPort) (eq : Nat) (s : State) (np : noPromotion s) : reportOnly s (eqOverflow h eq s) := by
  have m : ∀ h : HostPort, regAddr .EQ_OVF h.val 0 ∈ reportRegs := by decide
  unfold eqOverflow
  dsimp only
  refine reportOnly_trans ?_ (asyncMerge_report _ _ _ _ _)
  have h1 : reportOnly s ((if s.flag F.EQ_OVF_FLAG h.val then s
      else (s.fset F.EQ_OVF_EQ eq h.val).fset F.EQ_OVF_FLAG 1 h.val).finc F.EQ_OVF_REFUSED 1 h.val) := by
    refine reportOnly_trans ?_ (reportOnly_regs _ _ _ _ _ (m h))
    split
    · exact reportOnly_refl _
    · exact reportOnly_trans (reportOnly_regs _ _ _ _ _ (m h)) (reportOnly_regs _ _ _ _ _ (m h))
  exact reportOnly_trans h1 (raiseCore_report _ _ _ _ _ (reportOnly_noPromotion h1 np) (by decide))

theorem asyncPost_report (h : HostPort) (code src : Nat) (data : Word) (s : State) (np : noPromotion s) :
    reportOnly s (asyncPost h code src data s) := by
  have h1 := asyncMerge_report h code src data s
  unfold asyncPost
  dsimp only
  split
  · split
    · exact reportOnly_trans h1 (eqOverflow_report _ _ _ (reportOnly_noPromotion h1 np))
    · exact h1
  · exact h1

theorem asyncChip_report (code src : Nat) (data : Word) (s : State) (np : noPromotion s) :
    reportOnly s (asyncChip code src data s) := by
  have h1 := asyncPost_report 0 code src data s np
  exact reportOnly_trans h1 (asyncPost_report 1 code src data _ (reportOnly_noPromotion h1 np))

theorem raiseFaultBy_report (n : Nat) (mid : Mid) (acc : Nat) (addr : Word) (s : State) (np : noPromotion s) (c : faultClass n ≠ 2) :
    reportOnly s (raiseFaultBy n mid acc addr s) := by
  have h1 := raiseCore_report n mid acc addr s np c
  unfold raiseFaultBy
  dsimp only
  split
  · exact reportOnly_trans h1 (asyncChip_report _ _ _ _ (reportOnly_noPromotion h1 np))
  · exact h1

theorem raiseFault_report (n : Nat) (s : State) (np : noPromotion s) (c : faultClass n ≠ 2) : reportOnly s (raiseFault n s) :=
  raiseFaultBy_report _ _ _ _ _ np c

theorem regAccessError_report (mid : Mid) (acc off : Nat) (s : State) (np : noPromotion s) :
    reportOnly s (regAccessError mid acc off s) := raiseFaultBy_report _ _ _ _ _ np (by decide)

/-! ## The pending entries -/

theorem asyncMerge_data (h : HostPort) (code src : Nat) (data : Word) (s : State) :
    asyncData (asyncMerge h code src data s) h code = some data := by
  simp [asyncData, asyncMerge, tblGet_set]

theorem asyncMerge_data_other (h h' : HostPort) (code code' src : Nat) (data : Word) (s : State) (d : h' ≠ h ∨ code' ≠ code) :
    asyncData (asyncMerge h code src data s) h' code' = asyncData s h' code' := by
  by_cases e : h' = h
  · subst e
    have d : code' ≠ code := by simpa using d
    simp [asyncData, asyncMerge, tblGet_set_other _ _ _ _ d]
  · simp [asyncData, asyncMerge, modHost_host_other _ _ _ _ e]

theorem asyncData_congr {s t : State} (e : t.hosts = s.hosts) (h : HostPort) (c : Nat) : asyncData t h c = asyncData s h c := by
  simp only [asyncData, State.host, e]

theorem firstError_hosts (n : Nat) (mid : Mid) (acc : Nat) (addr : Word) (s : State) : (firstError n mid acc addr s).hosts = s.hosts := by
  unfold firstError
  split
  · rfl
  · split <;> rfl

theorem raiseCore_hosts (n : Nat) (mid : Mid) (acc : Nat) (addr : Word) (s : State) (np : noPromotion s) (c : faultClass n ≠ 2) :
    (raiseCore n mid acc addr s).hosts = s.hosts := by
  unfold raiseCore
  dsimp only
  rw [if_neg, firstError_hosts]
  · rfl
  · have h1 : reportOnly s (s.fset F.FLT_STATUS_SRC (setBitTo (s.fget F.FLT_STATUS_SRC) n true)) := reportOnly_regs _ _ _ _ _ (by decide)
    have h2 := reportOnly_trans h1 (reportOnly_alert _ (if (s.fget F.FLT_STATUS_SRC).testBit n then
      (s.fset F.FLT_STATUS_SRC (setBitTo (s.fget F.FLT_STATUS_SRC) n true)).flt.alertAck else false))
    rw [actingClass_plain (reportOnly_noPromotion h2 np)]; exact c

theorem eqOverflow_data (h h' : HostPort) (eq c : Nat) (s : State) (np : noPromotion s) (d : c ≠ 4) :
    asyncData (eqOverflow h eq s) h' c = asyncData s h' c := by
  have m : ∀ h : HostPort, regAddr .EQ_OVF h.val 0 ∈ reportRegs := by decide
  unfold eqOverflow
  dsimp only
  rw [asyncMerge_data_other _ _ _ _ _ _ _ (Or.inr d)]
  generalize hx : (if s.flag F.EQ_OVF_FLAG h.val then s
      else (s.fset F.EQ_OVF_EQ eq h.val).fset F.EQ_OVF_FLAG 1 h.val).finc F.EQ_OVF_REFUSED 1 h.val = x
  have h1 : reportOnly s x := by
    rw [← hx]
    refine reportOnly_trans ?_ (reportOnly_regs _ _ _ _ _ (m h))
    split
    · exact reportOnly_refl _
    · exact reportOnly_trans (reportOnly_regs _ _ _ _ _ (m h)) (reportOnly_regs _ _ _ _ _ (m h))
  refine (asyncData_congr ?_ _ _)
  rw [raiseCore_hosts _ _ _ _ _ (reportOnly_noPromotion h1 np) (by decide), ← hx]
  split <;> rfl

/-- The entry of the posting port carries the data posted last; the overflow of its queue adds an entry of code 0x04 only. -/
theorem asyncPost_data (h : HostPort) (code src : Nat) (data : Word) (s : State) (np : noPromotion s) (d : code ≠ 4) :
    asyncData (asyncPost h code src data s) h code = some data := by
  have h1 := asyncMerge_report h code src data s
  have e := asyncMerge_data h code src data s
  unfold asyncPost
  dsimp only
  split
  · split
    · rw [eqOverflow_data _ _ _ _ _ (reportOnly_noPromotion h1 np) d, e]
    · exact e
  · exact e

theorem asyncPost_data_other (h h' : HostPort) (code code' src : Nat) (data : Word) (s : State) (np : noPromotion s)
    (d : h' ≠ h ∨ code' ≠ code) (d4 : code' ≠ 4) :
    asyncData (asyncPost h code src data s) h' code' = asyncData s h' code' := by
  have h1 := asyncMerge_report h code src data s
  have e := asyncMerge_data_other h h' code code' src data s d
  unfold asyncPost
  dsimp only
  split
  · split
    · rw [eqOverflow_data _ _ _ _ _ (reportOnly_noPromotion h1 np) d4, e]
    · exact e
  · exact e

/-- An event of scope Chip stands pending at both host ports. -/
theorem asyncChip_data (code src : Nat) (data : Word) (s : State) (np : noPromotion s) (d : code ≠ 4) (h : HostPort) :
    asyncData (asyncChip code src data s) h code = some data := by
  have h1 := asyncPost_report 0 code src data s np
  show asyncData (asyncPost 1 code src data (asyncPost 0 code src data s)) h code = some data
  by_cases e : h = 1
  · subst e
    exact asyncPost_data _ _ _ _ _ (reportOnly_noPromotion h1 np) d
  · have e0 : h = 0 := by fin_cases h <;> simp_all
    rw [asyncPost_data_other _ _ _ _ _ _ _ (reportOnly_noPromotion h1 np) (Or.inl e) d, e0]
    exact asyncPost_data _ _ _ _ _ np d

theorem asyncChip_data_other (code code' src : Nat) (data : Word) (s : State) (np : noPromotion s) (n : code' ≠ code) (d : code' ≠ 4)
    (h : HostPort) : asyncData (asyncChip code src data s) h code' = asyncData s h code' := by
  have h1 := asyncPost_report 0 code src data s np
  show asyncData (asyncPost 1 code src data (asyncPost 0 code src data s)) h code' = asyncData s h code'
  rw [asyncPost_data_other _ _ _ _ _ _ _ (reportOnly_noPromotion h1 np) (Or.inr n) d,
    asyncPost_data_other _ _ _ _ _ _ _ np (Or.inr n) d]

theorem raiseFaultBy_data (n : Nat) (mid : Mid) (acc : Nat) (addr : Word) (s : State) (np : noPromotion s) (c : faultClass n ≠ 2)
    (h : HostPort) (code : Nat) (d4 : code ≠ 4) (d6 : code ≠ 6) :
    asyncData (raiseFaultBy n mid acc addr s) h code = asyncData s h code := by
  have h1 := raiseCore_report n mid acc addr s np c
  have e := asyncData_congr (raiseCore_hosts n mid acc addr s np c) h code
  unfold raiseFaultBy
  dsimp only
  split
  · rw [asyncChip_data_other _ _ _ _ _ (reportOnly_noPromotion h1 np) d6 d4, e]
  · exact e

/-! ## The source bits and the first-error record -/

theorem firstError_status (n : Nat) (mid : Mid) (acc : Nat) (addr : Word) (s : State) :
    (firstError n mid acc addr s).regWord .FLT_STATUS 0 0 = s.regWord .FLT_STATUS 0 0 := by
  unfold firstError
  split
  · rfl
  · split
    · exact regWord_setWord_other _ _ _ _ _ _ _ _ (by decide)
    · dsimp only
      rw [regWord_setWord_other _ _ _ _ _ _ _ _ (by decide), regWord_setWord_other _ _ _ _ _ _ _ _ (by decide),
        regWord_setWord_other _ _ _ _ _ _ _ _ (by decide)]

theorem setBitTo_true_testBit (v n : Nat) : (setBitTo v n true).testBit n = true := by
  unfold setBitTo
  by_cases h : v.testBit n = true
  · simp [h]
  · have h' : v.testBit n = false := by simpa using h
    simp only [h', Bool.false_eq_true, beq_iff_eq, if_false, if_true]
    rw [Nat.testBit_eq_decide_div_mod_eq] at h' ⊢
    have : (v + 2 ^ n) / 2 ^ n = v / 2 ^ n + 1 := Nat.add_div_right _ (by positivity)
    simp only [this, decide_eq_true_eq, decide_eq_false_iff_not] at h' ⊢
    omega

theorem testBit_div (v k : Nat) : v.testBit k = decide (v / 2 ^ k % 2 = 1) := Nat.testBit_eq_decide_div_mod_eq

theorem setBitTo_true_testBit_other (v n k : Nat) (h : k ≠ n) : (setBitTo v n true).testBit k = v.testBit k := by
  unfold setBitTo
  by_cases b : v.testBit n = true
  · simp [b]
  · have b' : v.testBit n = false := by simpa using b
    simp only [b', Bool.false_eq_true, beq_iff_eq, if_false, if_true]
    rw [testBit_div] at b'
    have b' : v / 2 ^ n % 2 = 0 := by
      have := of_decide_eq_false b'; omega
    rw [testBit_div, testBit_div]
    rcases Nat.lt_or_gt_of_ne h with l | g
    · obtain ⟨j, rfl⟩ := Nat.exists_eq_add_of_lt l
      have e : v + 2 ^ (k + j + 1) = v + 2 ^ k * (2 * 2 ^ j) := by ring
      rw [e, Nat.add_mul_div_left _ _ (Nat.two_pow_pos k)]
      congr 2
      omega
    · obtain ⟨j, rfl⟩ := Nat.exists_eq_add_of_lt g
      have e : ∀ x : Nat, x / 2 ^ (n + j + 1) = x / 2 ^ n / 2 / 2 ^ j := by
        intro x
        rw [Nat.div_div_eq_div_mul, Nat.div_div_eq_div_mul]
        congr 1; ring
      rw [e, e, Nat.add_div_right _ (Nat.two_pow_pos n)]
      have : (v / 2 ^ n).succ / 2 = v / 2 ^ n / 2 := by omega
      rw [this]

theorem testBit_mod_two_pow (v w k : Nat) (h : k < w) : (v % 2 ^ w).testBit k = v.testBit k := by
  rw [Nat.testBit_mod_two_pow]; simp [h]

/-- A source bit of FLT_STATUS (R323). -/
theorem srcBit_fset (s : State) (v k : Nat) (h : k < 64) : ((s.fset F.FLT_STATUS_SRC v).fget F.FLT_STATUS_SRC).testBit k = v.testBit k := by
  rw [fget_fset _ _ _ _ _ (by decide) (by decide)]
  exact testBit_mod_two_pow _ _ _ h

theorem fget_status_congr {s t : State} (e : t.regWord .FLT_STATUS 0 0 = s.regWord .FLT_STATUS 0 0) :
    t.fget F.FLT_STATUS_SRC = s.fget F.FLT_STATUS_SRC := by
  simp only [State.fget]
  exact congrArg (fun w => fieldOf w 63 0) e

theorem raiseCore_status (n : Nat) (mid : Mid) (acc : Nat) (addr : Word) (s : State) (np : noPromotion s) (c : faultClass n ≠ 2) :
    (raiseCore n mid acc addr s).fget F.FLT_STATUS_SRC =
      (s.fset F.FLT_STATUS_SRC (setBitTo (s.fget F.FLT_STATUS_SRC) n true)).fget F.FLT_STATUS_SRC := by
  unfold raiseCore
  dsimp only
  rw [if_neg, fget_status_congr (firstError_status _ _ _ _ _)]
  · rfl
  · have h1 : reportOnly s (s.fset F.FLT_STATUS_SRC (setBitTo (s.fget F.FLT_STATUS_SRC) n true)) := reportOnly_regs _ _ _ _ _ (by decide)
    have h2 := reportOnly_trans h1 (reportOnly_alert _ (if (s.fget F.FLT_STATUS_SRC).testBit n then
      (s.fset F.FLT_STATUS_SRC (setBitTo (s.fget F.FLT_STATUS_SRC) n true)).flt.alertAck else false))
    rw [actingClass_plain (reportOnly_noPromotion h2 np)]; exact c

theorem raiseCore_bit (n : Nat) (mid : Mid) (acc : Nat) (addr : Word) (s : State) (np : noPromotion s) (c : faultClass n ≠ 2)
    (h : n < 64) : ((raiseCore n mid acc addr s).fget F.FLT_STATUS_SRC).testBit n = true := by
  rw [raiseCore_status _ _ _ _ _ np c, srcBit_fset _ _ _ h, setBitTo_true_testBit]

theorem raiseCore_bit_keeps (n k : Nat) (mid : Mid) (acc : Nat) (addr : Word) (s : State) (np : noPromotion s) (c : faultClass n ≠ 2)
    (h : k < 64) (b : (s.fget F.FLT_STATUS_SRC).testBit k = true) :
    ((raiseCore n mid acc addr s).fget F.FLT_STATUS_SRC).testBit k = true := by
  rw [raiseCore_status _ _ _ _ _ np c, srcBit_fset _ _ _ h]
  by_cases e : k = n
  · subst e; exact setBitTo_true_testBit _ _
  · rw [setBitTo_true_testBit_other _ _ _ e]; exact b

theorem asyncMerge_fget (h : HostPort) (code src : Nat) (data : Word) (s : State) (f : RegField) (i k : Nat) :
    (asyncMerge h code src data s).fget f i k = s.fget f i k := rfl

theorem eqOverflow_bit_keeps (h : HostPort) (eq k : Nat) (s : State) (np : noPromotion s) (l : k < 64)
    (b : (s.fget F.FLT_STATUS_SRC).testBit k = true) : ((eqOverflow h eq s).fget F.FLT_STATUS_SRC).testBit k = true := by
  have m : ∀ h : HostPort, regAddr .EQ_OVF h.val 0 ∈ reportRegs := by decide
  have m' : ∀ h : HostPort, regAddr .FLT_STATUS 0 0 ≠ regAddr .EQ_OVF h.val 0 := by decide
  unfold eqOverflow
  dsimp only
  rw [asyncMerge_fget]
  generalize hx : (if s.flag F.EQ_OVF_FLAG h.val then s
      else (s.fset F.EQ_OVF_EQ eq h.val).fset F.EQ_OVF_FLAG 1 h.val).finc F.EQ_OVF_REFUSED 1 h.val = x
  have h1 : reportOnly s x := by
    rw [← hx]
    refine reportOnly_trans ?_ (reportOnly_regs _ _ _ _ _ (m h))
    split
    · exact reportOnly_refl _
    · exact reportOnly_trans (reportOnly_regs _ _ _ _ _ (m h)) (reportOnly_regs _ _ _ _ _ (m h))
  refine raiseCore_bit_keeps _ _ _ _ _ _ (reportOnly_noPromotion h1 np) (by decide) l ?_
  have e : x.regWord .FLT_STATUS 0 0 = s.regWord .FLT_STATUS 0 0 := by
    rw [← hx]
    refine (regWord_setWord_other _ _ _ _ _ _ _ _ (m' h)).trans ?_
    split
    · rfl
    · exact (regWord_setWord_other _ _ _ _ _ _ _ _ (m' h)).trans (regWord_setWord_other _ _ _ _ _ _ _ _ (m' h))
  rw [fget_status_congr e]; exact b

theorem asyncPost_bit_keeps (h : HostPort) (code src : Nat) (data : Word) (s : State) (np : noPromotion s) (k : Nat) (l : k < 64)
    (b : (s.fget F.FLT_STATUS_SRC).testBit k = true) :
    ((asyncPost h code src data s).fget F.FLT_STATUS_SRC).testBit k = true := by
  have h1 := asyncMerge_report h code src data s
  unfold asyncPost
  dsimp only
  split
  · split
    · exact eqOverflow_bit_keeps _ _ _ _ (reportOnly_noPromotion h1 np) l b
    · exact b
  · exact b

theorem asyncChip_bit_keeps (code src : Nat) (data : Word) (s : State) (np : noPromotion s) (k : Nat) (l : k < 64)
    (b : (s.fget F.FLT_STATUS_SRC).testBit k = true) :
    ((asyncChip code src data s).fget F.FLT_STATUS_SRC).testBit k = true :=
  asyncPost_bit_keeps 1 code src data _ (reportOnly_noPromotion (asyncPost_report 0 code src data s np) np) k l
    (asyncPost_bit_keeps 0 code src data s np k l b)

/-- A source that is not fatal sets its bit of FLT_STATUS (R323). -/
theorem raiseFaultBy_bit (n : Nat) (mid : Mid) (acc : Nat) (addr : Word) (s : State) (np : noPromotion s) (c : faultClass n ≠ 2)
    (h : n < 64) : ((raiseFaultBy n mid acc addr s).fget F.FLT_STATUS_SRC).testBit n = true := by
  have b := raiseCore_bit n mid acc addr s np c h
  unfold raiseFaultBy
  dsimp only
  split
  · exact asyncChip_bit_keeps _ _ _ _ (reportOnly_noPromotion (raiseCore_report n mid acc addr s np c) np) _ h b
  · exact b

/-- A register that no report writes reads as before. -/
theorem reportOnly_fget {s t : State} (h : reportOnly s t) (f : RegField) (i k : Nat) (n : regAddr f.reg i k ∉ reportRegs) :
    t.fget f i k = s.fget f i k := by simp only [State.fget, reportOnly_regWord h _ _ _ n]

end Sys2Proof.Laws
end

