-- ==== Sys2Proof/Laws/Still.lean ====
section
/-! SUPPORT. What traffic leaves alone: one lemma for each operation of the lanes, the links, the router, the NIC, the events and
the faults, saying that it changes neither the image, the configuration store, fabric time, the resets, the locks, the TAP, the
management-bus target, the debug words, the module pins, the clock, the queue nor the retention SRAM. -/

set_option linter.unusedSimpArgs false
set_option linter.unusedVariables false
set_option linter.unusedTactic false
set_option linter.unreachableTactic false

namespace Sys2Proof.Laws

open Sys2Proof.Machine



theorem still_def (s : State) : s.still = stillOf s.impl s.image s.cfg s.tim s.rst s.locks s.jtag s.smb s.sram s.modprs
    s.clock s.pending s.pwr.rsram := rfl

theorem still_mk (impl image regs cfg pwr tim rst flt locks jtag smb cap sram ports ints rtr hosts park sweep discards agent groups modprs
    clock freeCount out pending) : (State.mk impl image regs cfg pwr tim rst flt locks jtag smb cap sram ports ints rtr hosts park sweep
    discards agent groups modprs clock freeCount out pending).still = stillOf impl image cfg tim rst locks jtag smb sram modprs clock pending pwr.rsram := rfl

theorem still_fold (s : State) : stillOf s.impl s.image s.cfg s.tim s.rst s.locks s.jtag s.smb s.sram s.modprs s.clock s.pending
    s.pwr.rsram = s.still := rfl

theorem ite_still (c : Prop) [Decidable c] (a b : State) : (if c then a else b).still = if c then a.still else b.still :=
  apply_ite _ _ _ _

theorem foldl_still {α : Type} (f : State → α → State) (l : List α) (s : State) (h : ∀ t x, (f t x).still = t.still) :
    (l.foldl f s).still = s.still := by
  induction l generalizing s with
  | nil => rfl
  | cons a l ih => simp only [List.foldl_cons, ih, h]

theorem foldl_still_pair {α β : Type} (f : State × β → α → State × β) (l : List α) (a : State × β)
    (h : ∀ t x, (f t x).1.still = t.1.still) : (l.foldl f a).1.still = a.1.still := by
  induction l generalizing a with
  | nil => rfl
  | cons x l ih => simp only [List.foldl_cons, ih, h]

theorem elim_still {α : Type} (o : Option α) (f : α → State) (s : State) (h : ∀ x, (f x).still = s.still) :
    (o.elim s f).still = s.still := by
  cases o <;> simp [h]

theorem setWord_still (s : State) (r : RegId) (v : Word) (i : Nat) (k : Nat) : (State.setWord s r v i k).still = s.still := by
  rfl

theorem fset_still (s : State) (f : RegField) (v : Nat) (i : Nat) (k : Nat) : (State.fset s f v i k).still = s.still := by
  unfold State.fset
  all_goals simp only [still_mk, still_fold, ite_still, ite_self, setWord_still]

theorem finc_still (s : State) (f : RegField) (d : Nat) (i : Nat) (k : Nat) : (State.finc s f d i k).still = s.still := by
  unfold State.finc
  all_goals simp only [still_mk, still_fold, ite_still, ite_self, fset_still]

theorem restore_still (s : State) (kinds : List ResetKind) (sel : RegId → Nat → Bool) :
    (State.restore s kinds sel).still = s.still := by
  unfold State.restore
  repeat' split
  all_goals simp only [still_mk, still_fold, ite_still, ite_self]

theorem emit_still (s : State) (o : Output) : (State.emit s o).still = s.still := by
  rfl

theorem tookFree_still (s : State) : (State.tookFree s).still = s.still := by
  rfl

theorem modPort_still (s : State) (p : NetPort) (f : Port → Port) : (State.modPort s p f).still = s.still := by
  rfl

theorem modLane_still (s : State) (p : NetPort) (f : LaneState → LaneState) : (State.modLane s p f).still = s.still := by
  unfold State.modLane
  all_goals simp only [still_mk, still_fold, ite_still, ite_self, modPort_still]

theorem modLink_still (s : State) (p : NetPort) (f : LinkState → LinkState) : (State.modLink s p f).still = s.still := by
  unfold State.modLink
  all_goals simp only [still_mk, still_fold, ite_still, ite_self, modPort_still]

theorem modInt_still (s : State) (ip : IntPort) (f : IntPortState → IntPortState) : (State.modInt s ip f).still = s.still := by
  rfl

theorem modHost_still (s : State) (h : HostPort) (f : HostState → HostState) : (State.modHost s h f).still = s.still := by
  rfl

theorem modHif_still (s : State) (h : HostPort) (f : HifState → HifState) : (State.modHif s h f).still = s.still := by
  unfold State.modHif
  all_goals simp only [still_mk, still_fold, ite_still, ite_self, modHost_still]

theorem pmcCount_still (u : Nat) (ev : Nat) (amt : Nat) (ok : Word → Bool) (s : State) :
    (pmcCount u ev amt ok s).still = s.still := by
  unfold pmcCount
  grind (splitImp := true) only [= still_def, = fset_still, foldl_still, = elim_still]

theorem pmcAdd_still (u : Nat) (ev : Nat) (amt : Nat) (s : State) : (pmcAdd u ev amt s).still = s.still := by
  unfold pmcAdd
  all_goals simp only [still_mk, still_fold, ite_still, ite_self, pmcCount_still]

theorem pmcClass_still (u : Nat) (ev : Nat) (amt : Nat) (tc : Nat) (s : State) : (pmcClass u ev amt tc s).still = s.still := by
  unfold pmcClass
  all_goals simp only [still_mk, still_fold, ite_still, ite_self, pmcCount_still]

theorem pmcHost_still (h : Nat) (ev : Nat) (amt : Nat) (s : State) : (pmcHost h ev amt s).still = s.still := by
  unfold pmcHost
  all_goals simp only [still_mk, still_fold, ite_still, ite_self, pmcCount_still]

theorem pmcRefusal_still (reason : Nat) (s : State) : (pmcRefusal reason s).still = s.still := by
  unfold pmcRefusal
  all_goals simp only [still_mk, still_fold, ite_still, ite_self, pmcCount_still]

theorem firstError_still (n : Nat) (mid : Mid) (access : Nat) (addr : Word) (s : State) :
    (firstError n mid access addr s).still = s.still := by
  unfold firstError
  repeat' split
  all_goals simp only [still_mk, still_fold, ite_still, ite_self, fset_still, setWord_still]

theorem enterMuzzle_still (n : Nat) (s : State) : (enterMuzzle n s).still = s.still := by
  unfold enterMuzzle
  try dsimp only
  split
  · rfl
  · split
    · rfl
    · refine (foldl_still _ _ _ ?_).trans rfl
      intro t h; rfl

theorem raiseCore_still (n : Nat) (mid : Mid) (access : Nat) (addr : Word) (s : State) :
    (raiseCore n mid access addr s).still = s.still := by
  unfold raiseCore
  dsimp only
  rw [ite_still]
  simp only [enterMuzzle_still, ite_self, firstError_still]
  rfl

theorem asyncMerge_still (h : HostPort) (code : Nat) (source : Nat) (data : Word) (s : State) :
    (asyncMerge h code source data s).still = s.still := by
  unfold asyncMerge
  all_goals simp only [still_mk, still_fold, ite_still, ite_self, modHost_still]

theorem eqOverflow_still (h : HostPort) (eq : Nat) (s : State) : (eqOverflow h eq s).still = s.still := by
  unfold eqOverflow
  repeat' split
  all_goals simp only [still_mk, still_fold, ite_still, ite_self, finc_still, fset_still, asyncMerge_still, raiseCore_still]

theorem asyncPost_still (h : HostPort) (code : Nat) (source : Nat) (data : Word) (s : State) :
    (asyncPost h code source data s).still = s.still := by
  unfold asyncPost
  grind (splitImp := true) only [= still_def, = asyncMerge_still, = eqOverflow_still, foldl_still, = elim_still]

theorem asyncChip_still (code : Nat) (source : Nat) (data : Word) (s : State) :
    (asyncChip code source data s).still = s.still := by
  unfold asyncChip
  grind (splitImp := true) only [= still_def, = asyncPost_still, foldl_still, = elim_still]

theorem withTimeSync_still (f : State → State) (s : State) (h : ∀ t, (f t).still = t.still) :
    (withTimeSync f s).still = s.still := by
  unfold withTimeSync
  try dsimp only
  split
  · exact h s
  · rw [asyncChip_still]; exact h s

theorem raiseFaultBy_still (n : Nat) (mid : Mid) (access : Nat) (addr : Word) (s : State) :
    (raiseFaultBy n mid access addr s).still = s.still := by
  unfold raiseFaultBy
  repeat' split
  all_goals simp only [still_mk, still_fold, ite_still, ite_self, asyncChip_still, raiseCore_still]

theorem raiseFault_still (n : Nat) (s : State) : (raiseFault n s).still = s.still := by
  unfold raiseFault
  all_goals simp only [still_mk, still_fold, ite_still, ite_self, raiseFaultBy_still]

theorem regAccessError_still (mid : Mid) (access : Nat) (off : Nat) (s : State) :
    (regAccessError mid access off s).still = s.still := by
  unfold regAccessError
  all_goals simp only [still_mk, still_fold, ite_still, ite_self, raiseFaultBy_still]

theorem recordHalt_still (h : HostPort) (cause : Nat) (wq : Nat) (admin : Bool) (eq : Bool) (idx : Nat) (s : State) :
    (recordHalt h cause wq admin eq idx s).still = s.still := by
  unfold recordHalt
  all_goals simp only [still_mk, still_fold, ite_still, ite_self, setWord_still]

theorem capPlace_still (entry : Bytes) (s : State) : (capPlace entry s).still = s.still := by
  rfl

theorem capAppend_still (entry : Bytes) (s : State) : (capAppend entry s).still = s.still := by
  unfold capAppend
  repeat' split
  all_goals simp only [still_mk, still_fold, ite_still, ite_self, finc_still, fset_still, capPlace_still]

theorem capSelect_still (s : State) (e : CapEvent) : (capSelect s e).1.still = s.still := by
  unfold capSelect
  refine foldl_still_pair _ _ _ ?_
  intro t k
  split
  · rfl
  · rfl

theorem capture_still (es : List CapEvent) (s : State) : (capture es s).still = s.still := by
  unfold capture
  try dsimp only
  split
  · rw [finc_still]
    refine (foldl_still _ _ _ ?_).trans ?_
    · intro t x; rw [pmcAdd_still, capAppend_still]
    · refine foldl_still_pair _ _ _ ?_
      intro t x; exact capSelect_still _ _
  · rfl

theorem sendSetOn_still (p : NetPort) (mask : Nat) (o : OrderedSet) (s : State) : (sendSetOn p mask o s).still = s.still := by
  rfl

theorem sendSet_still (p : NetPort) (o : OrderedSet) (s : State) : (sendSet p o s).still = s.still := by
  rfl

theorem sendFrame_still (p : NetPort) (bytes : Bytes) (abt : Bool) (s : State) : (sendFrame p bytes abt s).still = s.still := by
  rfl

theorem switchGroup_still (p : NetPort) (mask : Nat) (w : Nat) (g : Nat) (s : State) :
    (switchGroup p mask w g s).still = s.still := by
  unfold switchGroup
  all_goals simp only [still_mk, still_fold, ite_still, ite_self, sendSetOn_still, modLane_still]

theorem refuseWidth_still (p : NetPort) (s : State) : (refuseWidth p s).still = s.still := by
  rfl

theorem applyWidth_still (p : NetPort) (s : State) : (applyWidth p s).still = s.still := by
  unfold applyWidth
  grind (splitImp := true) only [= still_def, = refuseWidth_still, = switchGroup_still, = sendSetOn_still, = modLane_still,
      foldl_still, = elim_still]

theorem sendRefresh_still (p : NetPort) (s : State) : (sendRefresh p s).still = s.still := by
  unfold sendRefresh
  grind (splitImp := true) only [= still_def, = sendSet_still, foldl_still, = elim_still]

theorem wakeLanes_still (p : NetPort) (s : State) : (wakeLanes p s).still = s.still := by
  unfold wakeLanes
  grind (splitImp := true) only [= still_def, = sendSet_still, = refuseWidth_still, = switchGroup_still, = sendSetOn_still,
      foldl_still, = elim_still]

theorem wakeTx_still (p : NetPort) (s : State) : (wakeTx p s).still = s.still := by
  unfold wakeTx
  all_goals simp only [still_mk, still_fold, ite_still, ite_self, wakeLanes_still, modLane_still, sendRefresh_still]

theorem sendCr_still (p : NetPort) (set : Bytes) (s : State) : (sendCr p set s).still = s.still := by
  unfold sendCr
  all_goals simp only [still_mk, still_fold, ite_still, ite_self, sendSet_still, wakeTx_still]

theorem sendAck_still (p : NetPort) (s : State) : (sendAck p s).still = s.still := by
  unfold sendAck
  all_goals simp only [still_mk, still_fold, ite_still, ite_self, sendCr_still]

theorem countSlots_still (p : NetPort) (t : TxFrame) (wasted : Bool) (s : State) :
    (countSlots p t wasted s).still = s.still := by
  unfold countSlots
  repeat' split
  all_goals simp only [still_mk, still_fold, ite_still, ite_self, pmcClass_still]

theorem abandonTx_still (p : NetPort) (s : State) : (abandonTx p s).still = s.still := by
  unfold abandonTx
  repeat' split
  all_goals simp only [still_mk, still_fold, ite_still, ite_self, countSlots_still, sendFrame_still, modLink_still]

theorem recordDiscard_still (x : Nat) (cause : Nat) (dwell : Nat) (pkt : Packet) (s : State) :
    (recordDiscard x cause dwell pkt s).still = s.still := by
  unfold recordDiscard
  repeat' split
  all_goals simp only [still_mk, still_fold, ite_still, ite_self, capture_still, pmcClass_still]

theorem returnCredits_still (p : NetPort) (i : InPacket) (s : State) : (returnCredits p i s).still = s.still := by
  unfold returnCredits
  repeat' split
  all_goals simp only [still_mk, still_fold, ite_still, ite_self, modLink_still, sendCr_still]

theorem dropTailless_still (p : NetPort) (s : State) : (dropTailless p s).still = s.still := by
  rfl

theorem leaveStaging_still (p : NetPort) (i : InPacket) (s : State) : (leaveStaging p i s).still = s.still := by
  unfold leaveStaging
  all_goals simp only [still_mk, still_fold, ite_still, ite_self, returnCredits_still, dropTailless_still]

theorem releaseIn_still (p : NetPort) (tc : Nat) (pkt : Packet) (arrived : Nat) (whole : Bool) (owed : Bool) (s : State) :
    (releaseIn p tc pkt arrived whole owed s).still = s.still := by
  unfold releaseIn
  all_goals simp only [still_mk, still_fold, ite_still, ite_self, pmcClass_still, capture_still, leaveStaging_still,
      recordDiscard_still, finc_still, modPort_still]

theorem abortOutput_still (o : NetPort) (x : XbarPort) (s : State) : (abortOutput o x s).still = s.still := by
  unfold abortOutput
  grind (splitImp := true) only [= still_def, = modPort_still, = modLink_still, = abandonTx_still, foldl_still, = elim_still]

theorem dropArriving_still (p : NetPort) (s : State) : (dropArriving p s).still = s.still := by
  unfold dropArriving
  grind (splitImp := true) only [= still_def, = modPort_still, = abortOutput_still, foldl_still, = elim_still]

theorem linkDepart_still (p : NetPort) (cause : Nat) (fresh : Bool) (s : State) :
    (linkDepart p cause fresh s).still = s.still := by
  unfold linkDepart
  grind (splitImp := true) only [= still_def, = finc_still, = fset_still, = modPort_still, = abandonTx_still, = asyncChip_still,
      = dropArriving_still, = releaseIn_still, foldl_still, = elim_still]

theorem sendLve_still (p : NetPort) (reason : Nat) (s : State) : (sendLve p reason s).still = s.still := by
  unfold sendLve
  all_goals simp only [still_mk, still_fold, ite_still, ite_self, sendSet_still]

theorem resetL_still (p : NetPort) (reason : Nat) (cause : Nat) (fresh : Bool) (s : State) :
    (resetL p reason cause fresh s).still = s.still := by
  unfold resetL
  repeat' split
  all_goals simp only [still_mk, still_fold, ite_still, ite_self, modLane_still, restore_still, abandonTx_still,
      linkDepart_still, sendLve_still]

theorem windowLimit_still (p : NetPort) (s : State) : (windowLimit p s).still = s.still := by
  unfold windowLimit
  repeat' split
  all_goals simp only [still_mk, still_fold, ite_still, ite_self, modLink_still, resetL_still]

theorem linkError_still (p : NetPort) (s : State) : (linkError p s).still = s.still := by
  unfold linkError
  all_goals simp only [still_mk, still_fold, ite_still, ite_self, modLink_still, windowLimit_still]

theorem protocolError_still (p : NetPort) (s : State) : (protocolError p s).still = s.still := by
  unfold protocolError
  all_goals simp only [still_mk, still_fold, ite_still, ite_self, resetL_still]

theorem processAck_still (p : NetPort) (ack : BitVec 12) (s : State) : (processAck p ack s).still = s.still := by
  unfold processAck
  repeat' split
  all_goals simp only [still_mk, still_fold, ite_still, ite_self, finc_still, modLink_still, linkError_still]

theorem processNak_still (p : NetPort) (first : BitVec 12) (mask : Nat) (s : State) :
    (processNak p first mask s).still = s.still := by
  unfold processNak
  repeat' split
  all_goals simp only [still_mk, still_fold, ite_still, ite_self, modLink_still]

theorem crBad_still (p : NetPort) (s : State) : (crBad p s).still = s.still := by
  unfold crBad
  all_goals simp only [still_mk, still_fold, ite_still, ite_self, finc_still, linkError_still]

theorem codeErrors_still (p : NetPort) (errs : List (Nat × Nat)) (s : State) : (codeErrors p errs s).still = s.still := by
  unfold codeErrors
  grind (splitImp := true) only [= still_def, = finc_still, = raiseFault_still, foldl_still, = elim_still]

theorem columnErrors_still (p : NetPort) (n : Nat) (s : State) : (columnErrors p n s).still = s.still := by
  unfold columnErrors
  all_goals simp only [still_mk, still_fold, ite_still, ite_self, codeErrors_still]

theorem setsIn_still (p : NetPort) (n : Nat) (f : State → State) (s : State) (h : (f s).still = s.still) :
    (setsIn p n f s).still = s.still := by
  unfold setsIn
  grind (splitImp := true) only [= still_def, = columnErrors_still]

theorem crIn_still (p : NetPort) (set : Bytes) (s : State) : (crIn p set s).still = s.still := by
  unfold crIn
  repeat' split
  all_goals simp only [still_mk, still_fold, ite_still, ite_self, crBad_still, modLink_still, protocolError_still,
      processAck_still, processNak_still]

theorem crReceived_still (p : NetPort) (set : Bytes) (s : State) : (crReceived p set s).still = s.still := by
  exact setsIn_still _ _ _ _ (crIn_still _ _ _)

theorem sendNaks_still (p : NetPort) (ds : List Nat) (s : State) : (sendNaks p ds s).still = s.still := by
  unfold sendNaks
  grind (splitImp := true) only [= still_def, = modLink_still, = sendCr_still, foldl_still, = elim_still]

theorem releaseHeld_still (p : NetPort) (y0 : Nat) (y1 : State) : (releaseHeld p y0 y1).still = y1.still := by
  fun_induction releaseHeld <;> grind (splitImp := true) only [= still_def, = modLink_still, = releaseIn_still, foldl_still,
      = elim_still]

theorem acceptNext_still (p : NetPort) (s : State) : (acceptNext p s).still = s.still := by
  unfold acceptNext
  all_goals simp only [still_mk, still_fold, ite_still, ite_self, modLink_still, releaseHeld_still, sendAck_still]

theorem badFrame_still (p : NetPort) (fseq : BitVec 12) (s : State) : (badFrame p fseq s).still = s.still := by
  unfold badFrame
  repeat' split
  all_goals simp only [still_mk, still_fold, ite_still, ite_self, finc_still, modLink_still, linkError_still, sendCr_still]

theorem acceptFrame_still (p : NetPort) (fseq : BitVec 12) (d : Nat) (tc : Nat) (pkt : Packet) (s : State) :
    (acceptFrame p fseq d tc pkt s).still = s.still := by
  unfold acceptFrame
  repeat' split
  all_goals simp only [still_mk, still_fold, ite_still, ite_self, modLink_still, releaseHeld_still, releaseIn_still,
      sendAck_still, sendNaks_still]

theorem packetFrame_still (p : NetPort) (bytes : Bytes) (bad : Bool) (tail : Bool) (s : State) :
    (packetFrame p bytes bad tail s).still = s.still := by
  unfold packetFrame
  repeat' split
  all_goals simp only [still_mk, still_fold, ite_still, ite_self, finc_still, modLink_still, acceptFrame_still,
      badFrame_still, linkError_still, processAck_still, protocolError_still, releaseIn_still, sendAck_still]

theorem initRecordIn_still (p : NetPort) (init : Bytes) (s : State) : (initRecordIn p init s).still = s.still := by
  unfold initRecordIn
  repeat' split
  all_goals simp only [still_mk, still_fold, ite_still, ite_self, modLink_still, resetL_still]

theorem initFrameIn_still (p : NetPort) (bytes : Bytes) (bad : Bool) (s : State) :
    (initFrameIn p bytes bad s).still = s.still := by
  unfold initFrameIn
  repeat' split
  all_goals simp only [still_mk, still_fold, ite_still, ite_self, finc_still, initRecordIn_still, linkError_still]

theorem frameIn_still (p : NetPort) (bytes : Bytes) (errs : List (Nat × Nat)) (tail : Bool) (s : State) :
    (frameIn p bytes errs tail s).still = s.still := by
  unfold frameIn
  repeat' split
  all_goals simp only [still_mk, still_fold, ite_still, ite_self, finc_still, codeErrors_still, initFrameIn_still,
      linkError_still, packetFrame_still]

theorem frameColsIn_still (p : NetPort) (turned : BitVec 16) (cols : List (List (BitVec 10))) (tail : Bool) (s : State) :
    (frameColsIn p turned cols tail s).still = s.still := by
  unfold frameColsIn
  all_goals simp only [still_mk, still_fold, ite_still, ite_self, frameIn_still, modLane_still]

theorem linkUp_still (p : NetPort) (init : Bytes) (restricted : Bool) (s : State) :
    (linkUp p init restricted s).still = s.still := by
  unfold linkUp
  all_goals simp only [still_mk, still_fold, ite_still, ite_self, modLink_still, asyncChip_still]

theorem admitLink_still (p : NetPort) (s : State) : (admitLink p s).still = s.still := by
  unfold admitLink
  try dsimp only
  split
  · rw [linkUp_still]
  · rw [asyncChip_still, modLink_still]

theorem linkInit_still (p : NetPort) (s : State) : (linkInit p s).still = s.still := by
  unfold linkInit
  all_goals simp only [still_mk, still_fold, ite_still, ite_self, modLink_still]

theorem startPattern_still (p : NetPort) (s : State) : (startPattern p s).still = s.still := by
  rfl

theorem startTraining_still (p : NetPort) (s : State) : (startTraining p s).still = s.still := by
  unfold startTraining
  all_goals simp only [still_mk, still_fold, ite_still, ite_self, modLane_still, startPattern_still]

theorem startAttempt_still (p : NetPort) (rate : Nat) (s : State) : (startAttempt p rate s).still = s.still := by
  rfl

theorem clockCheck_still (p : NetPort) (khz : Nat) (s : State) : (clockCheck p khz s).still = s.still := by
  unfold clockCheck
  all_goals simp only [still_mk, still_fold, ite_still, ite_self, startAttempt_still, modLane_still]

theorem trainFail_still (p : NetPort) (cause : TrainCause) (s : State) : (trainFail p cause s).still = s.still := by
  unfold trainFail
  repeat' split
  all_goals simp only [still_mk, still_fold, ite_still, ite_self, finc_still, modLane_still]

theorem trainDeskewed_still (p : NetPort) (cs : List LaneCheck) (s : State) : (trainDeskewed p cs s).still = s.still := by
  rfl

theorem trainExchanged_still (p : NetPort) (mask : Nat) (rxWidth : Nat) (rxGroup : Nat) (s : State) :
    (trainExchanged p mask rxWidth rxGroup s).still = s.still := by
  unfold trainExchanged
  grind (splitImp := true) only [= still_def, = modLane_still, = trainFail_still, = linkInit_still, = sendSetOn_still,
      foldl_still, = elim_still]

theorem trainStep_still (p : NetPort) (r : TrainResult) (s : State) : (trainStep p r s).still = s.still := by
  unfold trainStep
  repeat' split
  all_goals simp only [still_mk, still_fold, ite_still, ite_self, modLane_still, trainDeskewed_still, trainExchanged_still]

theorem laneLeave_still (p : NetPort) (cause : Nat) (s : State) : (laneLeave p cause s).still = s.still := by
  unfold laneLeave
  all_goals simp only [still_mk, still_fold, ite_still, ite_self, linkDepart_still, modLane_still]

theorem laneLost_still (p : NetPort) (cause : Nat) (s : State) : (laneLost p cause s).still = s.still := by
  unfold laneLost
  all_goals simp only [still_mk, still_fold, ite_still, ite_self, laneLeave_still, modLane_still]

theorem laneRetrain_still (p : NetPort) (s : State) : (laneRetrain p s).still = s.still := by
  unfold laneRetrain
  all_goals simp only [still_mk, still_fold, ite_still, ite_self, laneLeave_still, startAttempt_still]

theorem wchIn_still (p : NetPort) (votes : List Nat) (s : State) : (wchIn p votes s).still = s.still := by
  refine setsIn_still _ _ _ _ ?_
  repeat' split
  all_goals simp only [laneRetrain_still, modLane_still]

theorem slpIn_still (p : NetPort) (s : State) : (slpIn p s).still = s.still := by
  exact setsIn_still _ _ _ _ (modLane_still _ _ _)

theorem wakeFailed_still (p : NetPort) (s : State) : (wakeFailed p s).still = s.still := by
  unfold wakeFailed
  all_goals simp only [still_mk, still_fold, ite_still, ite_self, finc_still, resetL_still, modLane_still]

theorem wakIn_still (p : NetPort) (count : Nat) (s : State) : (wakIn p count s).still = s.still := by
  unfold wakIn
  all_goals simp only [still_mk, still_fold, ite_still, ite_self, modLane_still, wakeFailed_still, columnErrors_still]

theorem idlSetsIn_still (p : NetPort) (n : Nat) (s : State) : (idlSetsIn p n s).still = s.still := by
  unfold idlSetsIn
  all_goals simp only [still_mk, still_fold, ite_still, ite_self, modLane_still, columnErrors_still]

theorem lcLost_still (p : NetPort) (s : State) : (lcLost p s).still = s.still := by
  unfold lcLost
  all_goals simp only [still_mk, still_fold, ite_still, ite_self, laneLost_still, trainFail_still]

theorem lveIn_still (p : NetPort) (reason : Nat) (s : State) : (lveIn p reason s).still = s.still := by
  exact setsIn_still _ _ _ _ (by simp only [laneLost_still, modLane_still])

theorem prbsSyncIn_still (p : NetPort) (history : List (BitVec 31)) (s : State) : (prbsSyncIn p history s).still = s.still := by
  unfold prbsSyncIn
  repeat' split
  all_goals simp only [still_mk, still_fold, ite_still, ite_self, modLane_still]

theorem prbsColumn_still (p : NetPort) (bytes : Bytes) (s : State) : (prbsColumn p bytes s).still = s.still := by
  unfold prbsColumn
  all_goals simp only [still_mk, still_fold, ite_still, ite_self, modLane_still, finc_still, fset_still]

theorem sleepTx_still (p : NetPort) (s : State) : (sleepTx p s).still = s.still := by
  rfl

theorem laneRestart_still (p : NetPort) (s : State) : (laneRestart p s).still = s.still := by
  unfold laneRestart
  repeat' split
  all_goals simp only [still_mk, still_fold, ite_still, ite_self, modLane_still, startTraining_still]

theorem progAdvance_still (inc : Bool) (s : State) : (progAdvance inc s).still = s.still := by
  unfold progAdvance
  repeat' split
  all_goals simp only [still_mk, still_fold, ite_still, ite_self, fset_still]

theorem modIn_still (x : XbarPort) (f : InPort → InPort) (s : State) : (modIn x f s).still = s.still := by
  unfold modIn
  repeat' split
  all_goals simp only [still_mk, still_fold, ite_still, ite_self, modInt_still, modPort_still]

theorem presentNext_still (p : NetPort) (s : State) : (presentNext p s).still = s.still := by
  unfold presentNext
  grind (splitImp := true) only [= still_def, = modPort_still, foldl_still, = elim_still]

theorem takePresented_still (c : Cand) (s : State) : (takePresented c s).still = s.still := by
  unfold takePresented
  repeat' split
  all_goals simp only [still_mk, still_fold, ite_still, ite_self, modPort_still, modInt_still]

theorem dropPresented_still (c : Cand) (s : State) : (dropPresented c s).still = s.still := by
  unfold dropPresented
  repeat' split
  all_goals simp only [still_mk, still_fold, ite_still, ite_self, leaveStaging_still, takePresented_still]

theorem modPresented_still (c : Cand) (f : InPacket → InPacket) (s : State) : (modPresented c f s).still = s.still := by
  unfold modPresented
  repeat' split
  all_goals simp only [still_mk, still_fold, ite_still, ite_self, modInt_still, modPort_still]

theorem discardAge_still (c : Cand) (s : State) : (discardAge c s).still = s.still := by
  unfold discardAge
  all_goals simp only [still_mk, still_fold, ite_still, ite_self, finc_still, dropPresented_still, recordDiscard_still]

theorem discardDwell_still (c : Cand) (s : State) : (discardDwell c s).still = s.still := by
  unfold discardDwell
  all_goals simp only [still_mk, still_fold, ite_still, ite_self, finc_still, dropPresented_still, recordDiscard_still]

theorem discardRoute_still (c : Cand) (invalid : Bool) (s : State) : (discardRoute c invalid s).still = s.still := by
  unfold discardRoute
  repeat' split
  all_goals simp only [still_mk, still_fold, ite_still, ite_self, finc_still, fset_still, dropPresented_still,
      recordDiscard_still]

theorem candidate_still (x : XbarPort) (s : State) : (candidate x s).1.still = s.still := by
  have h1 : ∀ (t : State) (c : Prop) [Decidable c] (x : RtrState), (if c then { t with rtr := x } else t).still = t.still := by
    intros; split <;> rfl
  have h2 : ∀ (t : State) (c : Prop) [Decidable c], (if c then t.finc F.RTR_EPOCH_FALLBACK 1 else t).still = t.still := by
    intros; split <;> rfl
  unfold candidate
  split
  · rfl
  · dsimp only
    split
    · exact discardAge_still _ _
    · split
      · rw [discardRoute_still, h1, h2]
      · rw [h1, h2]
      · refine (foldl_still _ _ _ ?_).trans ?_
        · intro t x
          split
          · split
            · exact wakeTx_still _ _
            · rfl
          · rfl
        · rw [h1, h2]

theorem advanceDefl_still (s : State) : (advanceDefl s).still = s.still := by
  rfl

theorem addDwell_still (c : Cand) (s : State) : (addDwell c s).still = s.still := by
  unfold addDwell
  all_goals simp only [still_mk, still_fold, ite_still, ite_self, modPresented_still]

theorem transitStep_still (halted : Bool) (c : Cand) (acc : State × List Grant) :
    (transitStep halted c acc).1.still = acc.1.still := by
  unfold transitStep
  try dsimp only
  grind only [= advanceDefl_still, = addDwell_still, = discardDwell_still]

theorem preempt_still (halted : Bool) (c : Cand) (acc : State × List Grant) : (preempt halted c acc).1.still = acc.1.still := by
  unfold preempt
  try dsimp only
  grind only [= advanceDefl_still, = addDwell_still, = fset_still, = pmcAdd_still, = finc_still]

theorem freshStep_still (halted : Bool) (c : Cand) (acc : State × List Grant) : (freshStep halted c acc).1.still = acc.1.still := by
  unfold freshStep
  try dsimp only
  grind only [= advanceDefl_still, = preempt_still]

theorem enterOutput_still (g : Grant) (pkt : Packet) (s : State) : (enterOutput g pkt s).still = s.still := by
  unfold enterOutput
  repeat' split
  all_goals simp only [still_mk, still_fold, ite_still, ite_self, modInt_still, modLink_still, modPort_still]

theorem leaveInput_still (g : Grant) (s : State) : (leaveInput g s).still = s.still := by
  unfold leaveInput
  repeat' split
  all_goals simp only [still_mk, still_fold, ite_still, ite_self, modIn_still, takePresented_still]

theorem commitGrant_still (s : State) (g : Grant) : (commitGrant s g).still = s.still := by
  have h1 : ∀ (t : State) (c : Prop) [Decidable c] (u a b v : Nat), (if c then t else pmcClass u a b v t).still = t.still := by
    intros; split <;> simp only [pmcClass_still]
  have h2 : ∀ (t : State) (c : Prop) [Decidable c] (u a b v : Nat), (if c then pmcClass u a b v t else t).still = t.still := by
    intros; split <;> simp only [pmcClass_still]
  unfold commitGrant
  dsimp only
  split
  · split
    · simp only [modInt_still, leaveInput_still, enterOutput_still, h1, h2, pmcClass_still]
    · simp only [leaveInput_still, enterOutput_still, h1, h2, pmcClass_still]
  · simp only [leaveInput_still, enterOutput_still, h1, h2, pmcClass_still]

theorem endFrame_still (p : NetPort) (t : TxFrame) (s : State) : (endFrame p t s).still = s.still := by
  unfold endFrame
  all_goals simp only [still_mk, still_fold, ite_still, ite_self, sendFrame_still, countSlots_still, modLink_still]

theorem sendCycle_still (p : NetPort) (t : TxFrame) (s : State) : (sendCycle p t s).still = s.still := by
  unfold sendCycle
  repeat' split
  all_goals simp only [still_mk, still_fold, ite_still, ite_self, modLink_still, endFrame_still]

theorem startResend_still (p : NetPort) (f : ReplayFrame) (s : State) : (startResend p f s).still = s.still := by
  unfold startResend
  repeat' split
  all_goals simp only [still_mk, still_fold, ite_still, ite_self, modLink_still, pmcAdd_still]

theorem startFrame_still (p : NetPort) (k : OutPkt) (s : State) : (startFrame p k s).still = s.still := by
  unfold startFrame
  all_goals simp only [still_mk, still_fold, ite_still, ite_self, modLink_still, pmcClass_still]

theorem startNext_still (p : NetPort) (s : State) : (startNext p s).still = s.still := by
  unfold startNext
  grind (splitImp := true) only [= still_def, = startFrame_still, = startResend_still, foldl_still, = elim_still]

theorem transmit_still (p : NetPort) (s : State) : (transmit p s).still = s.still := by
  unfold transmit
  grind (splitImp := true) only [= still_def, = sendCycle_still, = startNext_still, foldl_still, = elim_still]

theorem idleSlot_still (cs : List Cand) (o : Nat) (s : State) : (idleSlot cs o s).still = s.still := by
  unfold idleSlot
  grind (splitImp := true) only [= still_def, = pmcAdd_still, foldl_still, = elim_still]

theorem portCycle_still (cs : List Cand) (gs : List Grant) (x : XbarPort) (s : State) :
    (portCycle cs gs x s).still = s.still := by
  unfold portCycle
  grind (splitImp := true) only [= still_def, = idleSlot_still, = pmcAdd_still, foldl_still, = elim_still]

theorem tickPorts_still (s : State) : (tickPorts s).still = s.still := by
  unfold tickPorts
  repeat' split
  all_goals simp only [still_mk, still_fold, ite_still, ite_self]

theorem finishLeaving_still (s : State) : (finishLeaving s).still = s.still := by
  unfold finishLeaving
  grind (splitImp := true) only [= still_def, = returnCredits_still, = modPort_still, foldl_still, = elim_still]

theorem candidates_still (s : State) : (candidates s).1.still = s.still := by
  unfold candidates
  rw [foldl_still_pair _ _ _ (fun t x => ?_)]
  · dsimp only
    exact foldl_still _ _ _ (fun t x => presentNext_still _ _)
  · dsimp only; exact candidate_still _ _

theorem allocate_still (halted : Bool) (s : State) : (allocate halted s).1.still = s.still := by
  unfold allocate
  dsimp only
  refine (foldl_still_pair _ _ _ ?_).trans ((foldl_still_pair _ _ _ ?_).trans ?_)
  · intro t x; rw [freshStep_still]
  · intro t x; rw [transitStep_still]
  · rw [candidates_still]

theorem countCycles_still (s : State) : (countCycles s).still = s.still := by
  unfold countCycles
  grind (splitImp := true) only [= still_def, = fset_still, foldl_still, = elim_still]

theorem countWaits_still (gs : List Grant) (s : State) : (countWaits gs s).still = s.still := by
  unfold countWaits
  repeat' split
  all_goals simp only [still_mk, still_fold, ite_still, ite_self]

theorem allocatorStep_still (halted : Bool) (s : State) : (allocatorStep halted s).still = s.still := by
  unfold allocatorStep
  dsimp only
  rw [still_mk]
  simp only [still_fold, countWaits_still]
  rw [foldl_still _ _ _ (fun t x => portCycle_still _ _ _ _), capture_still, foldl_still _ _ _
      (fun t g => commitGrant_still t g),
    allocate_still]

theorem coreCycle_still (s : State) : (coreCycle s).still = s.still := by
  have hf : ∀ t : State, (allPorts.foldl (fun t p => transmit p t) t).still = t.still :=
    fun t => foldl_still _ _ _ (fun t p => transmit_still _ _)
  unfold coreCycle
  dsimp only
  simp only [ite_still, hf, allocatorStep_still, finishLeaving_still, tickPorts_still, still_mk, still_fold, ite_self,
    countCycles_still]

theorem bounce_still (ip : IntPort) (s : State) : (bounce ip s).still = s.still := by
  unfold bounce
  repeat' split
  all_goals simp only [still_mk, still_fold, ite_still, ite_self, modInt_still, capture_still, pmcAdd_still, pmcClass_still]

theorem dwellEvent_still (x : XbarPort) (s : State) : (dwellEvent x s).still = s.still := by
  unfold dwellEvent
  repeat' split
  all_goals simp only [still_mk, still_fold, ite_still, ite_self, discardDwell_still]

theorem ageEvent_still (x : XbarPort) (s : State) : (ageEvent x s).still = s.still := by
  unfold ageEvent
  repeat' split
  all_goals simp only [still_mk, still_fold, ite_still, ite_self, discardAge_still]

theorem releaseOutput_still (o : NetPort) (x : XbarPort) (s : State) : (releaseOutput o x s).still = s.still := by
  unfold releaseOutput
  repeat' split
  all_goals simp only [still_mk, still_fold, ite_still, ite_self, modLink_still]

theorem arrivedWhole_still (p : NetPort) (a : Arriving) (s : State) : (arrivedWhole p a s).still = s.still := by
  unfold arrivedWhole
  grind (splitImp := true) only [= still_def, = releaseOutput_still, = modPort_still, = returnCredits_still, foldl_still, =
      elim_still]

theorem discardArriving_still (p : NetPort) (a : Arriving) (s : State) : (discardArriving p a s).still = s.still := by
  unfold discardArriving
  all_goals simp only [still_mk, still_fold, ite_still, ite_self, dropArriving_still, modLink_still]

theorem closeArriving_still (p : NetPort) (ok : Bool) (s : State) : (closeArriving p ok s).still = s.still := by
  unfold closeArriving
  repeat' split
  all_goals simp only [still_mk, still_fold, ite_still, ite_self, acceptNext_still, arrivedWhole_still, modLink_still,
      badFrame_still, discardArriving_still]

theorem abtIn_still (p : NetPort) (s : State) : (abtIn p s).still = s.still := by
  unfold abtIn
  grind (splitImp := true) only [= still_def, = discardArriving_still, = finc_still, = columnErrors_still, foldl_still, =
      elim_still]

theorem tableAdvance_still (s : State) : (tableAdvance s).still = s.still := by
  unfold tableAdvance
  repeat' split
  all_goals simp only [still_mk, still_fold, ite_still, ite_self, fset_still]

theorem tableCommand_still (v : Word) (s : State) : (tableCommand v s).still = s.still := by
  unfold tableCommand
  dsimp only
  split
  · exact fset_still _ _ _ _ _
  · split
    · exact fset_still _ _ _ _ _
    · split
      · exact fset_still _ _ _ _ _
      · split
        · rfl
        · split
          · rw [tableAdvance_still]; rfl
          · rfl

theorem tableDone_still (s : State) : (tableDone s).still = s.still := by
  unfold tableDone
  repeat' split
  all_goals simp only [still_mk, still_fold, ite_still, ite_self, setWord_still, tableAdvance_still]

theorem epochWrite_still (v : Word) (s : State) : (epochWrite v s).still = s.still := by
  unfold epochWrite
  all_goals simp only [still_mk, still_fold, ite_still, ite_self, fset_still, tableDone_still]

theorem copyEnd_still (s : State) : (copyEnd s).still = s.still := by
  unfold copyEnd
  repeat' split
  all_goals simp only [still_mk, still_fold, ite_still, ite_self]

theorem inject_still (pkt : Packet) (s : State) : (inject pkt s).still = s.still := by
  unfold inject
  all_goals simp only [still_mk, still_fold, ite_still, ite_self, modInt_still]

theorem nicSlot_still (code : Nat) (s : State) : (nicSlot code s).still = s.still := by
  unfold nicSlot
  all_goals simp only [still_mk, still_fold, ite_still, ite_self, pmcAdd_still]

theorem nackWith_still (p : Packet) (reason : Nat) (detail : Nat) (ackSeq : Nat) (sack : Nat) (s : State) :
    (nackWith p reason detail ackSeq sack s).still = s.still := by
  unfold nackWith
  all_goals simp only [still_mk, still_fold, ite_still, ite_self, nicSlot_still, pmcRefusal_still, inject_still]

theorem nackEarly_still (p : Packet) (reason : Nat) (s : State) : (nackEarly p reason s).still = s.still := by
  unfold nackEarly
  all_goals simp only [still_mk, still_fold, ite_still, ite_self, nackWith_still]

theorem hostSlot_still (h : HostPort) (ok : Bool) (s : State) : (hostSlot h ok s).still = s.still := by
  unfold hostSlot
  all_goals simp only [still_mk, still_fold, ite_still, ite_self, pmcHost_still]

theorem hostWrite_still (h : HostPort) (addr : Nat) (data : Bytes) (attr : TlpAttr) (s : State) :
    (hostWrite h addr data attr s).still = s.still := by
  unfold hostWrite
  all_goals simp only [still_mk, still_fold, ite_still, ite_self, hostSlot_still, pmcHost_still, emit_still]

theorem hostWrites_still (h : HostPort) (addr : Nat) (data : Bytes) (attr : TlpAttr) (s : State) :
    (hostWrites h addr data attr s).still = s.still := by
  unfold hostWrites
  grind (splitImp := true) only [= still_def, = hostWrite_still, foldl_still, = elim_still]

theorem areaPiece_still (h : HostPort) (addr : Nat) (len : Nat) (s : State) : (areaPiece h addr len s).still = s.still := by
  unfold areaPiece
  all_goals simp only [still_mk, still_fold, ite_still, ite_self, hostSlot_still, pmcHost_still, emit_still]

theorem areaWrite_still (h : HostPort) (addr : Nat) (len : Nat) (s : State) : (areaWrite h addr len s).still = s.still := by
  unfold areaWrite
  grind (splitImp := true) only [= still_def, = areaPiece_still, foldl_still, = elim_still]

theorem sendReq_still (h : HostPort) (r : HostReq) (s : State) : (sendReq h r s).still = s.still := by
  unfold sendReq
  all_goals simp only [still_mk, still_fold, ite_still, ite_self, emit_still, modHif_still, pmcHost_still]

theorem hostReqUnder_still (h : HostPort) (kind : ReqKind) (addr : Nat) (len : Nat) (noSnoop : Bool) (under : Option PageUse)
    (s : State) :
    (hostReqUnder h kind addr len noSnoop under s).still = s.still := by
  unfold hostReqUnder
  all_goals simp only [still_mk, still_fold, ite_still, ite_self, sendReq_still, modHif_still]

theorem hostReq_still (h : HostPort) (kind : ReqKind) (addr : Nat) (len : Nat) (noSnoop : Bool) (s : State) :
    (hostReq h kind addr len noSnoop s).still = s.still := by
  unfold hostReq
  all_goals simp only [still_mk, still_fold, ite_still, ite_self, hostReqUnder_still]

theorem reqEnd_still (h : HostPort) (tag : Nat) (ok : Bool) (s : State) : (reqEnd h tag ok s).still = s.still := by
  unfold reqEnd
  all_goals simp only [still_mk, still_fold, ite_still, ite_self, hostSlot_still, modHif_still]

theorem reqFail_still (h : HostPort) (s : State) : (reqFail h s).still = s.still := by
  unfold reqFail
  all_goals simp only [still_mk, still_fold, ite_still, ite_self, raiseFault_still]

theorem msixSend_still (h : HostPort) (vec : Nat) (s : State) : (msixSend h vec s).still = s.still := by
  unfold msixSend
  all_goals simp only [still_mk, still_fold, ite_still, ite_self, hostSlot_still, emit_still, modHif_still]

theorem msixRecheck_still (h : HostPort) (s : State) : (msixRecheck h s).still = s.still := by
  unfold msixRecheck
  grind (splitImp := true) only [= still_def, = msixSend_still, foldl_still, = elim_still]

theorem modEq_still (h : HostPort) (eq : Nat) (f : EventQueue → EventQueue) (s : State) : (modEq h eq f s).still = s.still := by
  unfold modEq
  all_goals simp only [still_mk, still_fold, ite_still, ite_self, modHost_still]

theorem eqDecide_still (h : HostPort) (eq : Nat) (entry : Bytes) (s : State) : (eqDecide h eq entry s).still = s.still := by
  unfold eqDecide
  all_goals simp only [still_mk, still_fold, ite_still, ite_self, modEq_still]

theorem eqFire_still (h : HostPort) (eq : Nat) (s : State) : (eqFire h eq s).still = s.still := by
  unfold eqFire
  repeat' split
  all_goals simp only [still_mk, still_fold, ite_still, ite_self, modEq_still, msixSend_still]

theorem eqDue_still (h : HostPort) (eq : Nat) (s : State) : (eqDue h eq s).still = s.still := by
  unfold eqDue
  grind (splitImp := true) only [= still_def, = msixSend_still, = modEq_still, foldl_still, = elim_still]

theorem eqPlace_still (h : HostPort) (eq : Nat) (entry : Bytes) (stashed : Bool) (s : State) :
    (eqPlace h eq entry stashed s).still = s.still := by
  unfold eqPlace
  repeat' split
  all_goals simp only [still_mk, still_fold, ite_still, ite_self, hostWrite_still, eqDue_still, eqFire_still, modEq_still]

theorem eventWrite_still (h : HostPort) (eq : Nat) (s : State) : (eventWrite h eq s).still = s.still := by
  unfold eventWrite
  repeat' split
  all_goals simp only [still_mk, still_fold, ite_still, ite_self, eqDue_still, eqPlace_still, modEq_still]

theorem stashDrainN_still (h : HostPort) (eq : Nat) (y0 : Nat) (y1 : State) : (stashDrainN h eq y0 y1).still = y1.still := by
  fun_induction stashDrainN <;> grind (splitImp := true) only [= still_def, = eqPlace_still, = modEq_still, foldl_still,
      = elim_still]

theorem asyncPut_still (h : HostPort) (eq : Nat) (code : Nat) (a : AsyncPend) (s : State) :
    (asyncPut h eq code a s).still = s.still := by
  unfold asyncPut
  repeat' split
  all_goals simp only [still_mk, still_fold, ite_still, ite_self, modEq_still, modHost_still, eqPlace_still]

theorem asyncWrite_still (h : HostPort) (s : State) : (asyncWrite h s).still = s.still := by
  unfold asyncWrite
  grind (splitImp := true) only [= still_def, = asyncPut_still, foldl_still, = elim_still]

theorem modGroup_still (grp : Nat) (f : ColGroup → ColGroup) (s : State) : (modGroup grp f s).still = s.still := by
  rfl

theorem modSlot_still (grp : Nat) (slot : Nat) (f : ColOp → ColOp) (s : State) : (modSlot grp slot f s).still = s.still := by
  unfold modSlot
  all_goals simp only [still_mk, still_fold, ite_still, ite_self, modGroup_still]

theorem colSlots_still (code : Nat) (n : Nat) (s : State) : (colSlots code n s).still = s.still := by
  unfold colSlots
  all_goals simp only [still_mk, still_fold, ite_still, ite_self, pmcAdd_still]

theorem colAbort_still (grp : Nat) (slot : Nat) (cause : Nat) (from_ : Option Nat) (s : State) :
    (colAbort grp slot cause from_ s).still = s.still := by
  unfold colAbort
  repeat' split
  all_goals first | rfl | (simp only [still_mk, still_fold, ite_still, ite_self, foldl_still, elim_still, inject_still,
      colSlots_still, modSlot_still, modGroup_still, finc_still, raiseFault_still]; done) | grind (splitImp := true) only [=
          still_def, = inject_still, = colSlots_still, = modSlot_still, = modGroup_still, = finc_still, = raiseFault_still,
              foldl_still, = elim_still]

theorem colHalt_still (h : HostPort) (s : State) : (colHalt h s).still = s.still := by
  unfold colHalt
  grind (splitImp := true) only [= still_def, = modGroup_still, = colAbort_still, foldl_still, = elim_still]

theorem refuseParked_still (h : HostPort) (s : State) : (refuseParked h s).still = s.still := by
  unfold refuseParked
  grind (splitImp := true) only [= still_def, = nackEarly_still, foldl_still, = elim_still]

theorem haltHost_still (h : HostPort) (cause : Nat) (wq : Nat) (admin : Bool) (eq : Bool) (idx : Nat) (s : State) :
    (haltHost h cause wq admin eq idx s).still = s.still := by
  unfold haltHost
  repeat' split
  all_goals simp only [still_mk, still_fold, ite_still, ite_self, modHif_still, asyncPost_still, colHalt_still,
      msixSend_still, raiseFault_still, recordHalt_still, refuseParked_still]

theorem eqArm_still (h : HostPort) (eq : Nat) (s : State) : (eqArm h eq s).still = s.still := by
  unfold eqArm
  repeat' split
  all_goals simp only [still_mk, still_fold, ite_still, ite_self, eqDue_still, modEq_still]

theorem eqCiWrite_still (h : HostPort) (eq : Nat) (v : Word) (s : State) : (eqCiWrite h eq v s).still = s.still := by
  unfold eqCiWrite
  repeat' split
  all_goals simp only [still_mk, still_fold, ite_still, ite_self, eqArm_still, haltHost_still, modEq_still]

theorem pickOne_still {α : Type} (xs : List α) (s : State) : (pickOne xs s).2.still = s.still := by
  unfold pickOne
  repeat' split
  all_goals simp only [still_mk, still_fold, ite_still, ite_self, tookFree_still]

theorem modXlt_still (h : HostPort) (f : XltState → XltState) (s : State) : (modXlt h f s).still = s.still := by
  unfold modXlt
  all_goals simp only [still_mk, still_fold, ite_still, ite_self, modHost_still]

theorem xltSeed_still (h : HostPort) (s : State) : (xltSeed h s).still = s.still := by
  unfold xltSeed
  repeat' split
  all_goals simp only [still_mk, still_fold, ite_still, ite_self, modXlt_still]

theorem xltFault_still (h : HostPort) (pd : Nat) (va : Nat) (remote : Bool) (need : Nat) (code : Nat) (level : Nat) (s : State) :
    (xltFault h pd va remote need code level s).still = s.still := by
  unfold xltFault
  repeat' split
  all_goals simp only [still_mk, still_fold, ite_still, ite_self, finc_still, setWord_still, raiseFault_still]

theorem startWalk_still (h : HostPort) (pd : Nat) (va : Nat) (kind : WalkKind) (who : Option XltUser) (s : State) :
    (startWalk h pd va kind who s).2.still = s.still := by
  unfold startWalk
  grind (splitImp := true) only [= still_def, = hostReq_still, = modXlt_still, foldl_still, = elim_still]

theorem startAhead_still (h : HostPort) (pd : Nat) (va : Nat) (kind : WalkKind) (s : State) :
    (startAhead h pd va kind s).still = s.still := by
  unfold startAhead
  repeat' split
  all_goals simp only [still_mk, still_fold, ite_still, ite_self, startWalk_still]

theorem endWalk_still (h : HostPort) (id : Nat) (e : Option AtcEntry) (s : State) : (endWalk h id e s).still = s.still := by
  unfold endWalk
  all_goals simp only [still_mk, still_fold, ite_still, ite_self, modXlt_still]

theorem walkNext_still (h : HostPort) (id : Nat) (w : Walk) (level : Nat) (table : Nat) (s : State) :
    (walkNext h id w level table s).1.still = s.still := by
  unfold walkNext
  grind (splitImp := true) only [= still_def, = endWalk_still, = hostReq_still, = modXlt_still, foldl_still, = elim_still]

theorem walkRead_still (h : HostPort) (id : Nat) (data : Option Bytes) (s : State) :
    (walkRead h id data s).1.still = s.still := by
  unfold walkRead
  repeat' split
  all_goals simp only [still_mk, still_fold, ite_still, ite_self, endWalk_still, walkNext_still]

theorem prefetchNext_still (h : HostPort) (a : XAccess) (next : Nat) (s : State) :
    (prefetchNext h a next s).still = s.still := by
  unfold prefetchNext
  repeat' split
  all_goals simp only [still_mk, still_fold, ite_still, ite_self, startAhead_still]

theorem translate_still (h : HostPort) (a : XAccess) (who : Option XltUser) (known : Option (Walk × WalkEnd)) (s : State) :
    (Machine.translate h a who known s).2.still = s.still := by
  unfold Machine.translate
  grind (splitImp := true) only [= still_def, = pickOne_still, = pmcHost_still, = prefetchNext_still, = startWalk_still,
      foldl_still, = elim_still]

theorem translateAll_still (h : HostPort) (who : Option XltUser) (known : Option (Walk × WalkEnd)) (y0 : List XAccess) (y1 :
    State) :
    (translateAll h who known y0 y1).2.still = y1.still := by
  fun_induction Machine.translateAll <;> grind (splitImp := true) only [= still_def, = translate_still, foldl_still, = elim_still]

theorem invalidatePoint_still (h : HostPort) (v : InvScope) (s : State) : (invalidatePoint h v s).2.still = s.still := by
  rfl

theorem invGo_still (h : HostPort) (s : State) : (invGo h s).still = s.still := by
  unfold invGo
  repeat' split
  all_goals simp only [still_mk, still_fold, ite_still, ite_self, fset_still, invalidatePoint_still, modXlt_still]

theorem invRegDone_still (h : HostPort) (s : State) : (invRegDone h s).still = s.still := by
  unfold invRegDone
  repeat' split
  all_goals simp only [still_mk, still_fold, ite_still, ite_self, modXlt_still]

theorem modPair_still (h : HostPort) (key : Nat) (f : PairRec → PairRec) (s : State) : (modPair h key f s).still = s.still := by
  unfold modPair
  all_goals simp only [still_mk, still_fold, ite_still, ite_self, modHost_still]

theorem modEp_still (h : HostPort) (ep : Nat) (f : EpCtx → EpCtx) (s : State) : (modEp h ep f s).still = s.still := by
  unfold modEp
  all_goals simp only [still_mk, still_fold, ite_still, ite_self, modHost_still]

theorem modWin_still (h : HostPort) (w : Nat) (f : Window → Window) (s : State) : (modWin h w f s).still = s.still := by
  unfold modWin
  all_goals simp only [still_mk, still_fold, ite_still, ite_self, modHost_still]

theorem modRem_still (h : HostPort) (f : RemState → RemState) (s : State) : (modRem h f s).still = s.still := by
  unfold modRem
  all_goals simp only [still_mk, still_fold, ite_still, ite_self, modHost_still]

theorem modMte_still (h : HostPort) (f : MteState → MteState) (s : State) : (modMte h f s).still = s.still := by
  unfold modMte
  all_goals simp only [still_mk, still_fold, ite_still, ite_self, modHost_still]

theorem modWq_still (h : HostPort) (wq : Nat) (f : WorkQueue → WorkQueue) (s : State) : (modWq h wq f s).still = s.still := by
  unfold modWq
  all_goals simp only [still_mk, still_fold, ite_still, ite_self, modHost_still]

theorem touchUnit_still (u : CacheUnit) (s : State) : (touchUnit u s).still = s.still := by
  rfl

theorem cacheUnit_still (u : CacheUnit) (s : State) : (cacheUnit u s).still = s.still := by
  rfl

theorem evict_still (u : CacheUnit) (s : State) : (evict u s).still = s.still := by
  unfold evict
  grind (splitImp := true) only [= still_def, = areaWrite_still, = modEp_still, = modPair_still, = modWin_still, foldl_still,
      = elim_still]

theorem makeRoom_still (n f : Nat) (s t : State) (h : makeRoom n f s = some t) : t.still = s.still := by
  induction f generalizing s with
  | zero => unfold makeRoom at h; grind
  | succ f ih =>
    unfold makeRoom at h
    split at h
    · grind
    · split at h
      · rw [ih _ h, evict_still]; rfl
      · cases h

theorem fetchRecord_still (h : HostPort) (k : ReqKind) (addr : Nat) (len : Nat) (w : ParkWait) (s : State) :
    (fetchRecord h k addr len w s).1.still = s.still := by
  unfold fetchRecord
  try dsimp only
  split
  · rfl
  · split
    · rfl
    · split
      · rfl
      · rename_i heq
        simp only [pmcAdd_still, hostReq_still]
        exact makeRoom_still _ _ _ _ heq

theorem needCtx_still (h : HostPort) (ep : Nat) (s : State) : (needCtx h ep s).1.still = s.still := by
  unfold needCtx
  repeat' split
  all_goals simp only [still_mk, still_fold, ite_still, ite_self, touchUnit_still, fetchRecord_still]

theorem needPair_still (h : HostPort) (key : Nat) (s : State) : (needPair h key s).1.still = s.still := by
  unfold needPair
  try dsimp only
  split
  · split
    · exact touchUnit_still _ _
    · split
      all_goals
        rename_i heq
        have e := fetchRecord_still h (.pair key) (pairSlot s h (by assumption : PairRec).slot) 768 (.pair key) s
        grind
  · split
    · exact finc_still _ _ _ _ _
    · split
      · rfl
      · rename_i heq
        simp only [cacheUnit_still, modHost_still]
        exact makeRoom_still _ _ _ _ heq

theorem needBoth_still (h : HostPort) (ep : Nat) (key : Nat) (s : State) : (needBoth h ep key s).1.still = s.still := by
  unfold needBoth
  grind (splitImp := true) only [= still_def, = needCtx_still, = needPair_still, foldl_still, = elim_still]

theorem needWin_still (h : HostPort) (w : Nat) (s : State) : (needWin h w s).1.still = s.still := by
  unfold needWin
  repeat' split
  all_goals simp only [still_mk, still_fold, ite_still, ite_self, touchUnit_still, fetchRecord_still]

theorem openWin_still (h : HostPort) (w : Nat) (x : Window) (s : State) : (openWin h w x s).still = s.still := by
  unfold openWin
  repeat' split
  all_goals simp only [still_mk, still_fold, ite_still, ite_self, modHost_still, areaWrite_still]

theorem closeWin_still (h : HostPort) (w : Nat) (s : State) : (closeWin h w s).still = s.still := by
  unfold closeWin
  repeat' split
  all_goals simp only [still_mk, still_fold, ite_still, ite_self, areaWrite_still, modWin_still]

theorem ccSample_still (h : HostPort) (key : Nat) (rtt : Nat) (freed : Nat) (sentAt : Word) (s : State) :
    (ccSample h key rtt freed sentAt s).still = s.still := by
  unfold ccSample
  repeat' split
  all_goals simp only [still_mk, still_fold, ite_still, ite_self, finc_still, tookFree_still, modPair_still]

theorem ccRefusal_still (h : HostPort) (key : Nat) (sentAt : Word) (s : State) :
    (ccRefusal h key sentAt s).still = s.still := by
  unfold ccRefusal
  repeat' split
  all_goals simp only [still_mk, still_fold, ite_still, ite_self, finc_still, modPair_still]

theorem ccTimeout_still (h : HostPort) (key : Nat) (sentAt : Word) (s : State) :
    (ccTimeout h key sentAt s).still = s.still := by
  unfold ccTimeout
  repeat' split
  all_goals simp only [still_mk, still_fold, ite_still, ite_self, finc_still, modPair_still]

theorem leashDebit_still (h : HostPort) (wq : Nat) (pkt : Packet) (s : State) : (leashDebit h wq pkt s).still = s.still := by
  unfold leashDebit
  repeat' split
  all_goals simp only [still_mk, still_fold, ite_still, ite_self, modWq_still]

theorem sendSeq_still (h : HostPort) (key : Nat) (owner : Owner) (mk : Nat → Packet) (get : Option (Nat × Nat)) (s : State) :
    (sendSeq h key owner mk get s).still = s.still := by
  unfold sendSeq
  repeat' split
  all_goals simp only [still_mk, still_fold, ite_still, ite_self, inject_still, modPair_still]

theorem noteHeld_still (h : HostPort) (wq : Nat) (b : Held) (s : State) : (noteHeld h wq b s).still = s.still := by
  unfold noteHeld
  repeat' split
  all_goals simp only [still_mk, still_fold, ite_still, ite_self, modHost_still]

theorem resend_still (h : HostPort) (key : Nat) (seq : Nat) (s : State) : (resend h key seq s).still = s.still := by
  unfold resend
  grind (splitImp := true) only [= still_def, = inject_still, = leashDebit_still, = modPair_still, foldl_still, = elim_still]

theorem completeIdx_still (h : HostPort) (wq : Nat) (idx : Nat) (span : Nat) (after : Nat) (s : State) :
    (completeIdx h wq idx span after s).still = s.still := by
  unfold completeIdx
  all_goals simp only [still_mk, still_fold, ite_still, ite_self, modWq_still, pmcHost_still]

theorem finishOp_still (h : HostPort) (wq : Nat) (idx : Nat) (s : State) : (finishOp h wq idx s).still = s.still := by
  unfold finishOp
  repeat' split
  all_goals simp only [still_mk, still_fold, ite_still, ite_self, completeIdx_still, eqDecide_still, eqOverflow_still,
      modWq_still]

theorem drainWaits_still (h : HostPort) (wq : Nat) (y0 : Nat) (y1 : State) : (drainWaits h wq y0 y1).still = y1.still := by
  fun_induction drainWaits <;> grind (splitImp := true) only [= still_def, = completeIdx_still, = eqDecide_still, = modWq_still,
      foldl_still, = elim_still]

theorem checkOp_still (h : HostPort) (wq : Nat) (idx : Nat) (s : State) : (checkOp h wq idx s).still = s.still := by
  unfold checkOp
  repeat' split
  all_goals simp only [still_mk, still_fold, ite_still, ite_self, closeWin_still, finishOp_still]

theorem modOp_still (h : HostPort) (wq : Nat) (idx : Nat) (f : OpState → OpState) (s : State) :
    (modOp h wq idx f s).still = s.still := by
  unfold modOp
  all_goals simp only [still_mk, still_fold, ite_still, ite_self, modWq_still]

theorem opError_still (h : HostPort) (wq : Nat) (idx : Nat) (status : Nat) (detail : Nat) (s : State) :
    (opError h wq idx status detail s).still = s.still := by
  unfold opError
  repeat' split
  all_goals simp only [still_mk, still_fold, ite_still, ite_self, modOp_still]

theorem toSide_still (h : HostPort) (wq : Nat) (idx : Nat) (s : State) : (toSide h wq idx s).still = s.still := by
  unfold toSide
  repeat' split
  all_goals simp only [still_mk, still_fold, ite_still, ite_self, modWq_still]

theorem offSide_still (h : HostPort) (wq : Nat) (idx : Nat) (s : State) : (offSide h wq idx s).still = s.still := by
  unfold offSide
  all_goals simp only [still_mk, still_fold, ite_still, ite_self, modWq_still]

theorem gatherMore_still (h : HostPort) (wq : Nat) (idx : Nat) (q : WorkQueue) (op : OpState) (len : Nat) (known : Option (Walk
    × WalkEnd)) (s : State) :
    (gatherMore h wq idx q op len known s).still = s.still := by
  unfold gatherMore
  grind (splitImp := true) only [= still_def, = translate_still, = hostReqUnder_still, = modOp_still, = opError_still, =
      xltFault_still, foldl_still, = elim_still]

theorem handOver_still (h : HostPort) (wq : Nat) (idx : Nat) (q : WorkQueue) (op : OpState) (len : Nat) (data : Bytes) (s :
    State) :
    (handOver h wq idx q op len data s).still = s.still := by
  unfold handOver
  repeat' split
  all_goals simp only [still_mk, still_fold, ite_still, ite_self, leashDebit_still, modOp_still, offSide_still, sendSeq_still]

theorem pumpOp_still (h : HostPort) (wq : Nat) (idx : Nat) (known : Option (Walk × WalkEnd)) (y0 : Nat) (y1 : State) :
    (pumpOp h wq idx known y0 y1).still = y1.still := by
  fun_induction pumpOp <;> grind (splitImp := true) only [= still_def, = checkOp_still, = opError_still, = needBoth_still, =
      needPair_still, = toSide_still, = gatherMore_still, = noteHeld_still, = handOver_still, foldl_still, = elim_still]

theorem beginRndv_still (h : HostPort) (wq : Nat) (idx : Nat) (q : WorkQueue) (op : OpState) (s : State) :
    (beginRndv h wq idx q op s).1.still = s.still := by
  unfold beginRndv
  grind (splitImp := true) only [= still_def, = opError_still, = modOp_still, = toSide_still, = needWin_still, = openWin_still,
      foldl_still, = elim_still]

theorem beginOp_still (h : HostPort) (wq : Nat) (idx : Nat) (s : State) : (beginOp h wq idx s).still = s.still := by
  unfold beginOp
  repeat' split
  all_goals simp only [still_mk, still_fold, ite_still, ite_self, beginRndv_still, modOp_still, pumpOp_still]

theorem pumpQueue_still (h : HostPort) (wq : Nat) (s : State) : (pumpQueue h wq s).still = s.still := by
  unfold pumpQueue
  grind (splitImp := true) only [= still_def, = beginOp_still, = pumpOp_still, foldl_still, = elim_still]

theorem pumpHost_still (h : HostPort) (s : State) : (pumpHost h s).still = s.still := by
  unfold pumpHost
  grind (splitImp := true) only [= still_def, = drainWaits_still, = pumpQueue_still, foldl_still, = elim_still]

theorem recordWake_still (source : Nat) (noRef : Bool) (s : State) : (recordWake source noRef s).still = s.still := by
  unfold recordWake
  all_goals simp only [still_mk, still_fold, ite_still, ite_self, setWord_still]

theorem dozeWake_still (source : Nat) (s : State) : (dozeWake source s).still = s.still := by
  unfold dozeWake
  split
  · dsimp only; rw [still_mk]; simp only [still_fold, recordWake_still]
  · rfl

theorem checkStore_still (h : HostPort) (wq : Nat) (s : State) : (checkStore h wq s).still = s.still := by
  unfold checkStore
  repeat' split
  all_goals simp only [still_mk, still_fold, ite_still, ite_self, haltHost_still]

theorem speculate_still (h : HostPort) (q : WorkQueue) (d : Bytes) (s : State) : (speculate h q d s).still = s.still := by
  unfold speculate
  grind (splitImp := true) only [= still_def, = startAhead_still, foldl_still, = elim_still]

theorem storeDesc_still (h : HostPort) (wq : Nat) (idx : Nat) (d : Bytes) (s : State) :
    (storeDesc h wq idx d s).still = s.still := by
  unfold storeDesc
  repeat' split
  all_goals simp only [still_mk, still_fold, ite_still, ite_self, modWq_still, speculate_still]

theorem indexBell_still (h : HostPort) (wq : Nat) (v : Word) (s : State) : (indexBell h wq v s).still = s.still := by
  unfold indexBell
  repeat' split
  all_goals simp only [still_mk, still_fold, ite_still, ite_self, finc_still, haltHost_still, modWq_still, pmcHost_still]

theorem inlineBell_still (h : HostPort) (wq : Nat) (d : Bytes) (s : State) : (inlineBell h wq d s).still = s.still := by
  unfold inlineBell
  repeat' split
  all_goals simp only [still_mk, still_fold, ite_still, ite_self, finc_still, checkStore_still, haltHost_still, modWq_still,
      pmcHost_still, storeDesc_still]

theorem bell_still (h : HostPort) (wq : Nat) (bytes : Bytes) (s : State) : (bell h wq bytes s).still = s.still := by
  unfold bell
  repeat' split
  all_goals simp only [still_mk, still_fold, ite_still, ite_self, modHif_still, dozeWake_still, indexBell_still,
      inlineBell_still]

theorem releaseBells_still (h : HostPort) (s : State) : (releaseBells h s).still = s.still := by
  unfold releaseBells
  grind (splitImp := true) only [= still_def, = modHif_still, = bell_still, foldl_still, = elim_still]

theorem readDescs_still (h : HostPort) (wq : Nat) (idx : Nat) (count : Nat) (phase : Bool) (q : WorkQueue) (s : State) :
    (readDescs h wq idx count phase q s).still = s.still := by
  unfold readDescs
  all_goals simp only [still_mk, still_fold, ite_still, ite_self, hostReq_still]

theorem fetchDescs_still (h : HostPort) (wq : Nat) (s : State) : (fetchDescs h wq s).still = s.still := by
  unfold fetchDescs
  repeat' split
  all_goals simp only [still_mk, still_fold, ite_still, ite_self, readDescs_still]

theorem takeDescs_still (h : HostPort) (wq : Nat) (tried : Nat) (y0 : List (Nat × Bytes)) (y1 : State) :
    (takeDescs h wq tried y0 y1).still = y1.still := by
  fun_induction takeDescs <;> grind (splitImp := true) only [= still_def, = haltHost_still, = modWq_still, = storeDesc_still,
      foldl_still, = elim_still]

theorem descsDone_still (h : HostPort) (wq : Nat) (data : Option Bytes) (s : State) :
    (descsDone h wq data s).still = s.still := by
  unfold descsDone
  grind (splitImp := true) only [= still_def, = checkStore_still, = haltHost_still, = reqEnd_still, = reqFail_still,
      = takeDescs_still, foldl_still, = elim_still]

theorem rereadDesc_still (h : HostPort) (wq : Nat) (s : State) : (rereadDesc h wq s).still = s.still := by
  unfold rereadDesc
  repeat' split
  all_goals simp only [still_mk, still_fold, ite_still, ite_self, readDescs_still]

theorem startOp_still (h : HostPort) (wq : Nat) (s : State) : (startOp h wq s).still = s.still := by
  unfold startOp
  repeat' split
  all_goals simp only [still_mk, still_fold, ite_still, ite_self, modWq_still, pmcHost_still]

theorem beginOf_still (codes : List Nat) (h : HostPort) (wq : Nat) (idx : Nat) (s : State) :
    (beginOf codes h wq idx s).still = s.still := by
  unfold beginOf
  repeat' split
  all_goals simp only [still_mk, still_fold, ite_still, ite_self, beginOp_still]

theorem writeHead_still (h : HostPort) (wq : Nat) (s : State) : (writeHead h wq s).still = s.still := by
  unfold writeHead
  repeat' split
  all_goals simp only [still_mk, still_fold, ite_still, ite_self, hostWrite_still, modWq_still]

theorem modAdm_still (h : HostPort) (f : AdmState → AdmState) (s : State) : (modAdm h f s).still = s.still := by
  unfold modAdm
  all_goals simp only [still_mk, still_fold, ite_still, ite_self, modHost_still]

theorem admNext_still (h : HostPort) (s : State) : (admNext h s).still = s.still := by
  unfold admNext
  repeat' split
  all_goals simp only [still_mk, still_fold, ite_still, ite_self, hostReq_still]

theorem admDone_still (h : HostPort) (idx : Nat) (code : Nat) (result : Nat) (s : State) :
    (admDone h idx code result s).still = s.still := by
  unfold admDone
  repeat' split
  all_goals simp only [still_mk, still_fold, ite_still, ite_self, admNext_still, hostWrite_still, modAdm_still, msixSend_still]

theorem admLate_still (h : HostPort) (idx : Nat) (k : LateKind) (s : State) : (admLate h idx k s).still = s.still := by
  unfold admLate
  all_goals simp only [still_mk, still_fold, ite_still, ite_self, admNext_still, modAdm_still]

theorem admEnable_still (h : HostPort) (s : State) : (admEnable h s).still = s.still := by
  unfold admEnable
  repeat' split
  all_goals simp only [still_mk, still_fold, ite_still, ite_self, fset_still, modAdm_still]

theorem admBell_still (h : HostPort) (v : Word) (s : State) : (admBell h v s).still = s.still := by
  unfold admBell
  repeat' split
  all_goals simp only [still_mk, still_fold, ite_still, ite_self, fset_still, admNext_still, dozeWake_still, haltHost_still]

theorem admRead_still (h : HostPort) (data : Option Bytes) (s : State) : (admRead h data s).still = s.still := by
  unfold admRead
  repeat' split
  all_goals simp only [still_mk, still_fold, ite_still, ite_self, admDone_still, haltHost_still, hostReq_still, modAdm_still,
      reqEnd_still, reqFail_still]

theorem syncKennel_still (h : HostPort) (held : Bool) (old : List Msg) (new : List Msg) (s : State) :
    (syncKennel h held old new s).still = s.still := by
  unfold syncKennel
  grind (splitImp := true) only [= still_def, = hostWrite_still, foldl_still, = elim_still]

theorem writeCont_still (h : HostPort) (m : Msg) (s : State) : (writeCont h m s).still = s.still := by
  unfold writeCont
  repeat' split
  all_goals simp only [still_mk, still_fold, ite_still, ite_self, hostWrite_still]

theorem writeMsg_still (h : HostPort) (m : Msg) (s : State) : (writeMsg h m s).still = s.still := by
  unfold writeMsg
  repeat' split
  all_goals simp only [still_mk, still_fold, ite_still, ite_self, modMte_still, hostWrites_still, writeCont_still]

theorem freeData_still (h : HostPort) (k : Nat) (s : State) : (freeData h k s).still = s.still := by
  unfold freeData
  all_goals simp only [still_mk, still_fold, ite_still, ite_self, modMte_still]

theorem mteSlot_still (ok : Bool) (s : State) : (mteSlot ok s).still = s.still := by
  unfold mteSlot
  all_goals simp only [still_mk, still_fold, ite_still, ite_self, pmcAdd_still]

theorem countSearch_still (examined : Nat) (s : State) : (countSearch examined s).still = s.still := by
  unfold countSearch
  all_goals simp only [still_mk, still_fold, ite_still, ite_self, pmcAdd_still]

theorem modDelivery_still (h : HostPort) (id : Nat) (f : Delivery → Delivery) (s : State) :
    (modDelivery h id f s).still = s.still := by
  unfold modDelivery
  all_goals simp only [still_mk, still_fold, ite_still, ite_self, modMte_still]

theorem endDelivery_still (h : HostPort) (id : Nat) (s : State) : (endDelivery h id s).still = s.still := by
  unfold endDelivery
  repeat' split
  all_goals simp only [still_mk, still_fold, ite_still, ite_self, finc_still, eqDecide_still, eqOverflow_still,
      modDelivery_still, modMte_still]

theorem drainMatches_still (h : HostPort) (s : State) : (drainMatches h s).still = s.still := by
  unfold drainMatches
  grind (splitImp := true) only [= still_def, = eqDecide_still, = modMte_still, foldl_still, = elim_still]

theorem readSegs_still (h : HostPort) (id : Nat) (d : Delivery) (s : State) : (readSegs h id d s).still = s.still := by
  unfold readSegs
  all_goals simp only [still_mk, still_fold, ite_still, ite_self, hostReq_still, modDelivery_still]

theorem deliverOn_still (h : HostPort) (id : Nat) (known : Option (Walk × WalkEnd)) (y0 : Nat) (y1 : State) :
    (deliverOn h id known y0 y1).still = y1.still := by
  fun_induction deliverOn <;> grind (splitImp := true) only [= still_def, = endDelivery_still, = readSegs_still, =
      translate_still, = hostWrite_still, = modDelivery_still, = xltFault_still, foldl_still, = elim_still]

theorem deliver_still (h : HostPort) (id : Nat) (s : State) : (deliver h id s).still = s.still := by
  unfold deliver
  all_goals simp only [still_mk, still_fold, ite_still, ite_self, deliverOn_still]

theorem startDelivery_still (h : HostPort) (ep : Nat) (r : Recv) (m : Msg) (record : Bool) (s : State) :
    (startDelivery h ep r m record s).still = s.still := by
  unfold startDelivery
  repeat' split
  all_goals simp only [still_mk, still_fold, ite_still, ite_self, deliver_still, hostReq_still, modMte_still]

theorem recordDone_still (h : HostPort) (id : Nat) (ok : Bool) (s : State) : (recordDone h id ok s).still = s.still := by
  unfold recordDone
  repeat' split
  all_goals simp only [still_mk, still_fold, ite_still, ite_self, finc_still, deliver_still, endDelivery_still,
      modDelivery_still]

theorem dataSlotDone_still (h : HostPort) (id : Nat) (data : Option Bytes) (s : State) :
    (dataSlotDone h id data s).still = s.still := by
  unfold dataSlotDone
  grind (splitImp := true) only [= still_def, = finc_still, = deliver_still, = endDelivery_still, = freeData_still,
      = modDelivery_still, foldl_still, = elim_still]

theorem appendUnexp_still (h : HostPort) (ep : Nat) (c : EpCtx) (m : Msg) (s : State) :
    (appendUnexp h ep c m s).still = s.still := by
  unfold appendUnexp
  all_goals simp only [still_mk, still_fold, ite_still, ite_self, syncKennel_still, modEp_still]

theorem releaseMsg_still (h : HostPort) (ep : Nat) (m : Msg) (s : State) : (releaseMsg h ep m s).still = s.still := by
  unfold releaseMsg
  repeat' split
  all_goals simp only [still_mk, still_fold, ite_still, ite_self, startDelivery_still, modEp_still, mteSlot_still,
      countSearch_still, writeCont_still, appendUnexp_still]

theorem unhold_still (h : HostPort) (key : Nat) (p : PairRec) (pseq : Nat) (s : State) :
    (unhold h key p pseq s).still = s.still := by
  unfold unhold
  all_goals simp only [still_mk, still_fold, ite_still, ite_self, syncKennel_still, modPair_still]

theorem releaseReady_still (h : HostPort) (key : Nat) (y0 : Nat) (y1 : State) :
    (releaseReady h key y0 y1).still = y1.still := by
  fun_induction releaseReady <;> grind (splitImp := true) only [= still_def, = releaseMsg_still, = unhold_still, foldl_still, =
      elim_still]

theorem msgRefused_still (h : HostPort) (s : State) : (msgRefused h s).1.still = s.still := by
  unfold msgRefused
  all_goals simp only [still_mk, still_fold, ite_still, ite_self, mteSlot_still, finc_still]

theorem msgNew_still (h : HostPort) (key : Nat) (p : PairRec) (pkt : Packet) (s : State) :
    (msgNew h key p pkt s).1.still = s.still := by
  unfold msgNew
  dsimp only
  repeat' split
  all_goals simp only [finc_still, countSearch_still, eqOverflow_still, modEp_still, modPair_still, pmcAdd_still,
    startDelivery_still, writeMsg_still, mteSlot_still, appendUnexp_still, syncKennel_still, msgRefused_still]

theorem recvDone_still (h : HostPort) (wq : Nat) (idx : Nat) (s : State) : (recvDone h wq idx s).still = s.still := by
  unfold recvDone
  all_goals simp only [still_mk, still_fold, ite_still, ite_self, checkOp_still, modOp_still]

theorem recvFail_still (h : HostPort) (r : Recv) (status : Nat) (detail : Nat) (s : State) :
    (recvFail h r status detail s).still = s.still := by
  unfold recvFail
  repeat' split
  all_goals simp only [still_mk, still_fold, ite_still, ite_self, eqDecide_still, eqOverflow_still, modWq_still, recvDone_still]

theorem recvRefuse_still (h : HostPort) (r : Recv) (s : State) : (recvRefuse h r s).still = s.still := by
  unfold recvRefuse
  all_goals simp only [still_mk, still_fold, ite_still, ite_self, recvFail_still, mteSlot_still, finc_still]

theorem setUnexp_still (h : HostPort) (ep : Nat) (rest : List Msg) (s : State) : (setUnexp h ep rest s).still = s.still := by
  unfold setUnexp
  all_goals simp only [still_mk, still_fold, ite_still, ite_self, syncKennel_still, modEp_still]

theorem writeRecord768_still (h : HostPort) (slot : Nat) (s : State) : (writeRecord768 h slot s).still = s.still := by
  unfold writeRecord768
  all_goals simp only [still_mk, still_fold, ite_still, ite_self, areaWrite_still]

theorem recvTake_still (h : HostPort) (ep : Nat) (r : Recv) (m : Msg) (rest : List Msg) (s : State) :
    (recvTake h ep r m rest s).still = s.still := by
  unfold recvTake
  repeat' split
  all_goals simp only [still_mk, still_fold, ite_still, ite_self, recvRefuse_still, recvDone_still, startDelivery_still,
      writeRecord768_still, setUnexp_still, mteSlot_still]

theorem recvAppend_still (h : HostPort) (ep : Nat) (r : Recv) (s : State) : (recvAppend h ep r s).still = s.still := by
  unfold recvAppend
  repeat' split
  all_goals simp only [still_mk, still_fold, ite_still, ite_self, recvRefuse_still, recvDone_still, writeRecord768_still,
      modEp_still, mteSlot_still]

theorem readBlock_still (h : HostPort) (ep : Nat) (m : Msg) (s : State) : (readBlock h ep m s).still = s.still := by
  unfold readBlock
  all_goals simp only [still_mk, still_fold, ite_still, ite_self, hostReq_still, pmcAdd_still]

theorem recvSearch_still (h : HostPort) (ep : Nat) (r : Recv) (s : State) : (recvSearch h ep r s).still = s.still := by
  unfold recvSearch
  grind (splitImp := true) only [= still_def, = countSearch_still, = modEp_still, = readBlock_still, = recvAppend_still,
      = recvTake_still, foldl_still, = elim_still]

theorem recvStep_still (h : HostPort) (wq : Nat) (idx : Nat) (s : State) : (recvStep h wq idx s).still = s.still := by
  unfold recvStep
  repeat' split
  all_goals first
    | (simp only [needCtx_still, recvFail_still, recvSearch_still, implies_true]; done)
    | (grind (splitImp := true) only [= needCtx_still, = recvFail_still, = recvSearch_still, = still_def, foldl_still])

theorem pumpRecvs_still (h : HostPort) (s : State) : (pumpRecvs h s).still = s.still := by
  unfold pumpRecvs
  grind (splitImp := true) only [= still_def, = recvStep_still, foldl_still, = elim_still]

theorem searchOver_still (h : HostPort) (ep : Nat) (s : State) : (searchOver h ep s).still = s.still := by
  unfold searchOver
  grind (splitImp := true) only [= still_def, = pumpRecvs_still, = releaseReady_still, foldl_still, = elim_still]

theorem kennelDone_still (h : HostPort) (ep : Nat) (ok : Bool) (s : State) : (kennelDone h ep ok s).still = s.still := by
  unfold kennelDone
  grind (splitImp := true) only [= still_def, = finc_still, = modEp_still, = pmcAdd_still, = readBlock_still, = recvAppend_still,
      = recvFail_still, = recvTake_still, = searchOver_still, foldl_still, = elim_still]

theorem oweLast_still (h : HostPort) (d : Delivery) (s : State) : (oweLast h d s).still = s.still := by
  unfold oweLast
  all_goals simp only [still_mk, still_fold, ite_still, ite_self, modRem_still]

theorem checkGet_still (h : HostPort) (id : Nat) (s : State) : (checkGet h id s).still = s.still := by
  unfold checkGet
  repeat' split
  all_goals simp only [still_mk, still_fold, ite_still, ite_self, endDelivery_still, oweLast_still]

theorem pumpOwed_still (h : HostPort) (s : State) : (pumpOwed h s).still = s.still := by
  unfold pumpOwed
  grind (splitImp := true) only [= still_def, = needPair_still, = leashDebit_still, = sendSeq_still, = modRem_still,
      foldl_still, = elim_still]

theorem pumpGet_still (h : HostPort) (id : Nat) (y0 : Nat) (y1 : State) : (pumpGet h id y0 y1).still = y1.still := by
  fun_induction pumpGet <;> grind (splitImp := true) only [= still_def, = checkGet_still, = needPair_still, =
      modDelivery_still, = oweLast_still, = noteHeld_still, = sendSeq_still, = leashDebit_still, foldl_still, = elim_still]

theorem autoStart_still (h : HostPort) (s : State) : (autoStart h s).still = s.still := by
  unfold autoStart
  repeat' split
  all_goals simp only [still_mk, still_fold, ite_still, ite_self, modDelivery_still, pumpGet_still]

theorem pumpAll_still (h : HostPort) (s : State) : (pumpAll h s).still = s.still := by
  unfold pumpAll
  grind (splitImp := true) only [= still_def, = drainMatches_still, = pumpOwed_still, = pumpHost_still, = pumpGet_still, =
      deliver_still, = pumpRecvs_still, foldl_still, = elim_still]

theorem mteDestroy_still (h : HostPort) (ep : Nat) (s : State) : (mteDestroy h ep s).still = s.still := by
  unfold mteDestroy
  grind (splitImp := true) only [= still_def, = modHost_still, = eqDecide_still, = eqOverflow_still, = freeData_still,
      = modEp_still, = modMte_still, foldl_still, = elim_still]

theorem debugLevelSet_still (v : Word) (s : State) : (debugLevelSet v s).still = s.still := by
  unfold debugLevelSet
  repeat' split
  all_goals simp only [still_mk, still_fold, ite_still, ite_self, fset_still]

theorem dbgAdvance_still (s : State) : (dbgAdvance s).still = s.still := by
  unfold dbgAdvance
  repeat' split
  all_goals simp only [still_mk, still_fold, ite_still, ite_self, fset_still]

theorem dbgRead_still (mid : Mid) (s : State) : (dbgRead mid s).1.still = s.still := by
  unfold dbgRead
  repeat' split
  all_goals simp only [still_mk, still_fold, ite_still, ite_self, tookFree_still, dbgAdvance_still, regAccessError_still]

theorem dbgHaltWrite_still (v : Word) (s : State) : (dbgHaltWrite v s).still = s.still := by
  unfold dbgHaltWrite
  repeat' split
  all_goals simp only [still_mk, still_fold, ite_still, ite_self, fset_still, allocatorStep_still, finishLeaving_still,
    tickPorts_still]

theorem funcDone_still (h : HostPort) (s : State) : (funcDone h s).still = s.still := by
  unfold funcDone
  try dsimp only
  split
  · rfl
  · try dsimp only
    rw [fset_still, restore_still]
    rw [still_mk]; simp only [still_fold, modHost_still]

theorem linkOff_still (h : HostPort) (s : State) : (linkOff h s).still = s.still := by
  unfold linkOff
  all_goals simp only [still_mk, still_fold, ite_still, ite_self, modHif_still]

theorem hostTrained_still (h : HostPort) (width : Nat) (rate : Nat) (flit : Bool) (s : State) :
    (hostTrained h width rate flit s).still = s.still := by
  unfold hostTrained
  repeat' split
  all_goals simp only [still_mk, still_fold, ite_still, ite_self, modHif_still]

theorem hostDown_still (h : HostPort) (s : State) : (hostDown h s).still = s.still := by
  unfold hostDown
  repeat' split
  all_goals simp only [still_mk, still_fold, ite_still, ite_self, linkOff_still, raiseFault_still]

theorem configWrite_still (h : HostPort) (req : ConfigReq) (s : State) : (configWrite h req s).still = s.still := by
  unfold configWrite
  repeat' split
  all_goals simp only [still_mk, still_fold, ite_still, ite_self, modHif_still, msixRecheck_still, emit_still]

theorem modPwr_still (s : State) (f : PwrState → PwrState) (h : (f s.pwr).rsram = s.pwr.rsram) :
    (s.modPwr f).still = s.still := by
  show stillOf _ _ _ _ _ _ _ _ _ _ _ _ (f s.pwr).rsram = _
  rw [h]
  rfl

theorem recordReset_still (source : Nat) (kind : Nat) (mid : Mid) (s : State) :
    (recordReset source kind mid s).still = s.still := by
  unfold recordReset
  repeat' split
  all_goals simp only [still_mk, still_fold, ite_still, ite_self, setWord_still]

theorem keepLines_still (keep : Nat → Bool) (s : State) : (keepLines keep s).still = s.still := by
  rfl

theorem watchRefclk_still (s : State) : (watchRefclk s).still = s.still := by
  unfold watchRefclk
  all_goals simp only [still_mk, still_fold, ite_still, ite_self, raiseFault_still]

theorem watchSupply_still (s : State) : (watchSupply s).still = s.still := by
  unfold watchSupply
  all_goals simp only [still_mk, still_fold, ite_still, ite_self, raiseFault_still]

theorem leaveAll_still (reason : Nat) (s : State) : (leaveAll reason s).still = s.still := by
  unfold leaveAll
  grind (splitImp := true) only [= still_def, = abandonTx_still, = sendLve_still, foldl_still, = elim_still]

theorem startLanePlls_still (s : State) : (startLanePlls s).still = s.still := by
  rfl

theorem releaseResv_still (h : HostPort) (r : Nat) (acked : Bool) (s : State) : (releaseResv h r acked s).still = s.still := by
  unfold releaseResv
  grind (splitImp := true) only [= still_def, = checkOp_still, = modOp_still, = modRem_still, foldl_still, = elim_still]

theorem dropSent_still (h : HostPort) (key : Nat) (seq : Nat) (e : SentPkt) (s : State) :
    (dropSent h key seq e s).still = s.still := by
  unfold dropSent
  all_goals simp only [still_mk, still_fold, ite_still, ite_self, modPair_still]

theorem dropGet_still (h : HostPort) (key : Nat) (seq : Nat) (g : PendingGet) (s : State) :
    (dropGet h key seq g s).still = s.still := by
  unfold dropGet
  all_goals simp only [still_mk, still_fold, ite_still, ite_self, modPair_still]

theorem opSettled_still (h : HostPort) (wq : Nat) (idx : Nat) (s : State) : (opSettled h wq idx s).still = s.still := by
  unfold opSettled
  all_goals simp only [still_mk, still_fold, ite_still, ite_self, checkOp_still, modOp_still]

theorem rndvFailed_still (h : HostPort) (wq : Nat) (idx : Nat) (s : State) : (rndvFailed h wq idx s).still = s.still := by
  unfold rndvFailed
  repeat' split
  all_goals simp only [still_mk, still_fold, ite_still, ite_self, closeWin_still, modOp_still]

theorem getSettled_still (h : HostPort) (id : Nat) (status : Nat) (detail : Nat) (s : State) :
    (getSettled h id status detail s).still = s.still := by
  unfold getSettled
  repeat' split
  all_goals simp only [still_mk, still_fold, ite_still, ite_self, checkGet_still, modDelivery_still]

theorem getFailed_still (h : HostPort) (key : Nat) (seq : Nat) (status : Nat) (detail : Nat) (g : PendingGet) (s : State) :
    (getFailed h key seq status detail g s).still = s.still := by
  unfold getFailed
  repeat' split
  all_goals simp only [still_mk, still_fold, ite_still, ite_self, dropGet_still, getSettled_still, opError_still,
      opSettled_still]

theorem ownerEnd_still (h : HostPort) (key : Nat) (seq : Nat) (e : SentPkt) (fin : SentEnd) (s : State) :
    (ownerEnd h key seq e fin s).still = s.still := by
  unfold ownerEnd
  repeat' split
  all_goals simp only [still_mk, still_fold, ite_still, ite_self, getFailed_still, modOp_still, opError_still,
      opSettled_still, releaseResv_still, rndvFailed_still]

theorem endSent_still (h : HostPort) (key : Nat) (seq : Nat) (fin : SentEnd) (s : State) :
    (endSent h key seq fin s).still = s.still := by
  unfold endSent
  repeat' split
  all_goals simp only [still_mk, still_fold, ite_still, ite_self, dropSent_still, ownerEnd_still]

theorem giveUpOps_still (h : HostPort) (key : Nat) (s : State) : (giveUpOps h key s).still = s.still := by
  unfold giveUpOps
  grind (splitImp := true) only [= still_def, = checkOp_still, = modOp_still, = opError_still, = rndvFailed_still, foldl_still,
      = elim_still]

theorem breakPair_still (h : HostPort) (key : Nat) (s : State) : (breakPair h key s).still = s.still := by
  unfold breakPair
  grind (splitImp := true) only [= still_def, = getSettled_still, = giveUpOps_still, = modPair_still, = releaseResv_still,
      foldl_still, = elim_still]

theorem ackIn_still (h : HostPort) (key : Nat) (pkt : Packet) (ej : Ejection) (s : State) :
    (ackIn h key pkt ej s).still = s.still := by
  unfold ackIn
  grind (splitImp := true) only [= still_def, = finc_still, = ccSample_still, = endSent_still, = modPair_still, foldl_still,
      = elim_still]

theorem finalRefusal_still (h : HostPort) (key : Nat) (seq : Nat) (reason : Nat) (s : State) :
    (finalRefusal h key seq reason s).still = s.still := by
  unfold finalRefusal
  repeat' split
  all_goals simp only [still_mk, still_fold, ite_still, ite_self, breakPair_still, dropSent_still, inject_still,
      modPair_still, ownerEnd_still]

theorem nackIn_still (h : HostPort) (key : Nat) (pkt : Packet) (s : State) : (nackIn h key pkt s).still = s.still := by
  unfold nackIn
  grind (splitImp := true) only [= still_def, = ccRefusal_still, = endSent_still, = finalRefusal_still, = modPair_still,
      foldl_still, = elim_still]

theorem againReply_still (h : HostPort) (key seq : Nat) (reread : Nat → State → State) (s : State) (e : ∀ r t, (reread r
    t).still = t.still) :
    (againReply h key seq reread s).still = s.still := by
  unfold againReply
  try dsimp only
  grind only [= resend_still]

theorem ackOut_still (h : HostPort) (key : Nat) (status : Nat) (trig : Nat) (time : Word) (s : State) :
    (ackOut h key status trig time s).still = s.still := by
  unfold ackOut
  repeat' split
  all_goals simp only [still_mk, still_fold, ite_still, ite_self, inject_still, modPair_still]

theorem noteConsumed_still (h : HostPort) (key : Nat) (q : Nat) (now : Bool) (time : Word) (s : State) :
    (noteConsumed h key q now time s).still = s.still := by
  unfold noteConsumed
  repeat' split
  all_goals simp only [still_mk, still_fold, ite_still, ite_self, ackOut_still, modPair_still]

theorem consume_still (h : HostPort) (key : Nat) (pkt : Packet) (time : Word) (s : State) :
    (consume h key pkt time s).still = s.still := by
  unfold consume
  all_goals simp only [still_mk, still_fold, ite_still, ite_self, modPair_still, noteConsumed_still, releaseReady_still]

theorem consumePending_still (h : HostPort) (key : Nat) (pkt : Packet) (s : State) :
    (consumePending h key pkt s).still = s.still := by
  unfold consumePending
  all_goals simp only [still_mk, still_fold, ite_still, ite_self, modPair_still, releaseReady_still]

theorem coalesced_still (h : HostPort) (key : Nat) (s : State) : (coalesced h key s).still = s.still := by
  unfold coalesced
  repeat' split
  all_goals simp only [still_mk, still_fold, ite_still, ite_self, ackOut_still]

theorem freeWords_still (y0 : Nat) (y1 : State) : (freeWords y0 y1).2.still = y1.still := by
  fun_induction freeWords <;> grind (splitImp := true) only [= still_def, = tookFree_still, foldl_still, = elim_still]

theorem freeBytes_still (n : Nat) (s : State) : (freeBytes n s).2.still = s.still := by
  unfold freeBytes
  all_goals simp only [still_mk, still_fold, ite_still, ite_self, freeWords_still]

theorem modResv_still (h : HostPort) (r : Nat) (f : Resv → Resv) (s : State) : (modResv h r f s).still = s.still := by
  unfold modResv
  all_goals simp only [still_mk, still_fold, ite_still, ite_self, modRem_still]

theorem replySend_still (h : HostPort) (r : Nat) (s : State) : (replySend h r s).still = s.still := by
  unfold replySend
  repeat' split
  all_goals first
    | (simp only [modPair_still, modResv_still, needPair_still, releaseResv_still, resend_still, sendSeq_still,
        implies_true]; done)
    | (grind (splitImp := true) only [= modPair_still, = modResv_still, = needPair_still, = releaseResv_still, = resend_still,
        = sendSeq_still, = still_def, foldl_still])

theorem replyReads_still (h : HostPort) (r : Nat) (y0 : Nat) (y1 : List Piece) (y2 : State) :
    (replyReads h r y0 y1 y2).still = y2.still := by
  fun_induction replyReads <;> grind (splitImp := true) only [= still_def, = hostReqUnder_still, foldl_still, = elim_still]

theorem startReply_still (h : HostPort) (r : Nat) (pieces : List Piece) (s : State) :
    (startReply h r pieces s).still = s.still := by
  unfold startReply
  all_goals simp only [still_mk, still_fold, ite_still, ite_self, modResv_still, replyReads_still]

theorem pageRequest_still (h : HostPort) (a : XAccess) (s : State) : (pageRequest h a s).2.still = s.still := by
  unfold pageRequest
  repeat' split
  all_goals simp only [still_mk, still_fold, ite_still, ite_self, finc_still, hostSlot_still, modRem_still, emit_still]

theorem pageFail_still (h : HostPort) (tag : Nat) (s : State) : (pageFail h tag s).still = s.still := by
  unfold pageFail
  repeat' split
  all_goals simp only [still_mk, still_fold, ite_still, ite_self, modRem_still]

theorem replyReread_still (h : HostPort) (known : Option (Walk × WalkEnd)) (r : Nat) (s : State) :
    (replyReread h known r s).still = s.still := by
  unfold replyReread
  split
  · rfl
  · rename_i v hv
    split
    · rfl
    · generalize hl : rangeAccesses (maxRead s h) v.pd v.ranges true false v.paged = l
      have e := translateAll_still h (some (.reply r)) known l s
      generalize translateAll h (some (.reply r)) known l s = x at e ⊢
      obtain ⟨a, t⟩ := x
      dsimp only at e ⊢
      rw [← e]
      repeat' split
      all_goals simp_all only [startReply_still, modResv_still, pageRequest_still, freeBytes_still, xltFault_still,
        replySend_still, Prod.mk.injEq]

theorem getReadDone_still (h : HostPort) (r : Nat) (off : Nat) (len : Nat) (data : Option Bytes) (s : State) :
    (getReadDone h r off len data s).still = s.still := by
  unfold getReadDone
  repeat' split
  all_goals simp only [still_mk, still_fold, ite_still, ite_self, freeBytes_still, modResv_still, replySend_still,
      reqFail_still]

theorem pumpReplies_still (h : HostPort) (s : State) : (pumpReplies h s).still = s.still := by
  unfold pumpReplies
  grind (splitImp := true) only [= still_def, = replyReread_still, = replySend_still, foldl_still, = elim_still]

theorem timeoutHere_still (h : HostPort) (key : Nat) (seq : Nat) (e : SentPkt) (s : State) :
    (timeoutHere h key seq e s).still = s.still := by
  unfold timeoutHere
  grind (splitImp := true) only [= still_def, = ccTimeout_still, = breakPair_still, = againReply_still, = replyReread_still, =
      modPair_still, foldl_still, = elim_still]

theorem lateHere_still (h : HostPort) (key : Nat) (seq : Nat) (retry : Bool) (s : State) :
    (lateHere h key seq retry s).still = s.still := by
  unfold lateHere
  grind (splitImp := true) only [= still_def, = timeoutHere_still, = againReply_still, = replyReread_still, foldl_still, =
      elim_still]

theorem lateDue_still (h : HostPort) (key : Nat) (seq : Nat) (retry : Bool) (s : State) :
    (lateDue h key seq retry s).still = s.still := by
  unfold lateDue
  grind (splitImp := true) only [= still_def, = needPair_still, = lateHere_still, = modRem_still, foldl_still, = elim_still]

theorem pumpLate_still (h : HostPort) (s : State) : (pumpLate h s).still = s.still := by
  unfold pumpLate
  grind (splitImp := true) only [= still_def, = lateDue_still, = modRem_still, foldl_still, = elim_still]

theorem e2eTimeoutIn_still (h : HostPort) (key : Nat) (seq : Nat) (s : State) : (e2eTimeoutIn h key seq s).still = s.still := by
  unfold e2eTimeoutIn
  all_goals simp only [still_mk, still_fold, ite_still, ite_self, lateDue_still]

theorem refusalRetryIn_still (h : HostPort) (key : Nat) (seq : Nat) (s : State) :
    (refusalRetryIn h key seq s).still = s.still := by
  unfold refusalRetryIn
  all_goals simp only [still_mk, still_fold, ite_still, ite_self, lateDue_still]

theorem pumpPort_still (h : HostPort) (s : State) : (pumpPort h s).still = s.still := by
  unfold pumpPort
  all_goals simp only [still_mk, still_fold, ite_still, ite_self, pumpAll_still, pumpReplies_still, pumpLate_still]

theorem startFlush_still (h : HostPort) (s : State) : (startFlush h s).still = s.still := by
  unfold startFlush
  repeat' split
  all_goals simp only [still_mk, still_fold, ite_still, ite_self, hostReq_still, modRem_still, pmcHost_still]

theorem flushAck_still (h : HostPort) (ok : Bool) (d : DurablePut) (s : State) : (flushAck h ok d s).still = s.still := by
  unfold flushAck
  all_goals simp only [still_mk, still_fold, ite_still, ite_self, ackOut_still, modPair_still]

theorem flushEnd_still (h : HostPort) (id : Nat) (ok : Bool) (s : State) : (flushEnd h id ok s).still = s.still := by
  unfold flushEnd
  grind (splitImp := true) only [= still_def, = flushAck_still, = modRem_still, = reqFail_still, = startFlush_still, foldl_still,
      = elim_still]

theorem atomicResult_still (a : AtomicOp) (old : Nat) (s : State) : (atomicResult a old s).2.still = s.still := by
  unfold atomicResult
  grind (splitImp := true) only [= still_def, = tookFree_still, foldl_still, = elim_still]

theorem startAtomics_still (h : HostPort) (s : State) : (startAtomics h s).still = s.still := by
  unfold startAtomics
  grind (splitImp := true) only [= still_def, = hostReqUnder_still, = modRem_still, foldl_still, = elim_still]

theorem atomicDone_still (h : HostPort) (u : Nat) (data : Option Bytes) (s : State) :
    (atomicDone h u data s).still = s.still := by
  unfold atomicDone
  repeat' split
  all_goals first
    | (simp only [ackOut_still, atomicResult_still, hostWrite_still, modPair_still, modRem_still, modResv_still,
        noteConsumed_still, replySend_still, reqFail_still, startAtomics_still, implies_true]; done)
    | (grind (splitImp := true) only [= ackOut_still, = atomicResult_still, = hostWrite_still, = modPair_still, = modRem_still,
        = modResv_still, = noteConsumed_still, = replySend_still, = reqFail_still, = startAtomics_still, = still_def,
        foldl_still])

theorem writePieces_still (h : HostPort) (durable : Bool) (y0 : Bytes) (y1 : List Piece) (y2 : State) :
    (writePieces h durable y0 y1 y2).still = y2.still := by
  fun_induction writePieces <;> grind (splitImp := true) only [= still_def, = hostWrite_still, foldl_still, = elim_still]

theorem commitRefusal_still (h : HostPort) (p : PairRec) (w : Window) (pkt : Packet) (s : State) :
    (commitRefusal h p w pkt s).1.still = s.still := by
  unfold commitRefusal
  grind (splitImp := true) only [= still_def, = eqOverflow_still, foldl_still, = elim_still]

theorem noteLast_still (h : HostPort) (w : Window) (pkt : Packet) (s : State) : (noteLast h w pkt s).still = s.still := by
  unfold noteLast
  repeat' split
  all_goals simp only [still_mk, still_fold, ite_still, ite_self, modOp_still]

theorem noteRefused_still (h : HostPort) (w : Window) (pkt : Packet) (reason : Nat) (s : State) :
    (noteRefused h w pkt reason s).still = s.still := by
  unfold noteRefused
  repeat' split
  all_goals simp only [still_mk, still_fold, ite_still, ite_self, checkOp_still, noteLast_still, opError_still]

theorem takeResv_still (h : HostPort) (v : Resv) (s : State) : (takeResv h v s).2.still = s.still := by
  unfold takeResv
  all_goals simp only [still_mk, still_fold, ite_still, ite_self, modRem_still]

theorem atomicIn_still (h : HostPort) (key : Nat) (pkt : Packet) (time : Word) (p : Piece) (resv : Option Nat) (win : Nat) (s :
    State) :
    (atomicIn h key pkt time p resv win s).still = s.still := by
  unfold atomicIn
  all_goals simp only [still_mk, still_fold, ite_still, ite_self, modRem_still]

theorem commitWin_still (h : HostPort) (key : Nat) (pkt : Packet) (time : Word) (idx : Nat) (w : Window) (q : WinAsk) (pieces :
    List Piece) (s : State) :
    (commitWin h key pkt time idx w q pieces s).still = s.still := by
  unfold commitWin
  repeat' split
  all_goals simp only [still_mk, still_fold, ite_still, ite_self, atomicIn_still, consume_still, consumePending_still,
      eqDecide_still, modRem_still, noteLast_still, startAtomics_still, startFlush_still, startReply_still, takeResv_still,
      writePieces_still]

theorem judgeWin_still (h : HostPort) (key : Nat) (c : EpCtx) (p : PairRec) (pkt : Packet) (time : Word) (known : Option (Walk
    × WalkEnd)) (s : State) :
    (judgeWin h key c p pkt time known s).1.still = s.still := by
  unfold judgeWin
  dsimp only
  split
  · rfl
  · split
    · rename_i w heq
      have e := needWin_still h (by assumption) s
      grind
    · rename_i heq
      grind (splitImp := true) only [= needWin_still, = noteRefused_still, = xltFault_still, = translateAll_still,
          = pageRequest_still, = commitRefusal_still, = commitWin_still]

theorem respEnd_still (h : HostPort) (key : Nat) (pkt : Packet) (g : PendingGet) (n : Nat) (status : Nat) (detail : Nat) (s :
    State) :
    (respEnd h key pkt g n status detail s).still = s.still := by
  unfold respEnd
  repeat' split
  all_goals simp only [still_mk, still_fold, ite_still, ite_self, dropGet_still, getSettled_still, modDelivery_still,
      modOp_still, opError_still, opSettled_still]

theorem judgeResp_still (h : HostPort) (key : Nat) (p : PairRec) (pkt : Packet) (time : Word) (known : Option (Walk × WalkEnd))
    (s : State) :
    (judgeResp h key p pkt time known s).1.still = s.still := by
  unfold judgeResp
  grind (splitImp := true) only [= still_def, = dropGet_still, = consume_still, = respEnd_still, = translateAll_still, =
      xltFault_still, = writePieces_still, = readSegs_still, foldl_still, = elim_still]

theorem judgeEp_still (h : HostPort) (pkt : Packet) (s : State) : (judgeEp h pkt s).1.still = s.still := by
  unfold judgeEp
  grind (splitImp := true) only [= still_def, = needBoth_still, foldl_still, = elim_still]

theorem judgeAck_still (h : HostPort) (pkt : Packet) (ej : Ejection) (s : State) : (judgeAck h pkt ej s).1.still = s.still := by
  unfold judgeAck
  repeat' split
  all_goals first
    | (simp only [ackIn_still, judgeEp_still, nackIn_still, needPair_still, pumpPort_still, implies_true]; done)
    | (grind (splitImp := true) only [= ackIn_still, = judgeEp_still, = nackIn_still, = needPair_still, = pumpPort_still,
        = still_def, foldl_still])

theorem judgeNew_still (h : HostPort) (key : Nat) (c : EpCtx) (p : PairRec) (pkt : Packet) (time : Word) (known : Option (Walk
    × WalkEnd)) (s : State) :
    (judgeNew h key c p pkt time known s).1.still = s.still := by
  unfold judgeNew
  simp only
  split
  · rw [consume_still]
  · split
    · have e := judgeResp_still h key p pkt time known s
      generalize judgeResp h key p pkt time known s = r at e ⊢
      obtain ⟨t, v⟩ := r
      cases v <;> simp only at e ⊢ <;> first
        | exact e
        | (rw [pumpPort_still]; exact e)
    · split
      · have e := msgNew_still h key p pkt s
        generalize msgNew h key p pkt s = r at e ⊢
        obtain ⟨t, v⟩ := r
        cases v <;> simp only at e ⊢ <;> first
          | exact e
          | (rw [consume_still]; exact e)
      · rw [judgeWin_still]

theorem judgeOrder_still (h : HostPort) (key : Nat) (c : EpCtx) (p : PairRec) (pkt : Packet) (time : Word) (known : Option
    (Walk × WalkEnd)) (s : State) :
    (judgeOrder h key c p pkt time known s).1.still = s.still := by
  unfold judgeOrder
  repeat' split
  all_goals simp only [still_mk, still_fold, ite_still, ite_self, judgeNew_still, pmcAdd_still, ackOut_still]

theorem judgeSeq_still (h : HostPort) (pkt : Packet) (time : Word) (known : Option (Walk × WalkEnd)) (s : State) :
    (judgeSeq h pkt time known s).1.still = s.still := by
  unfold judgeSeq
  grind (splitImp := true) only [= still_def, = judgeEp_still, = needPair_still, = judgeOrder_still, foldl_still, = elim_still]

theorem countOpcode_still (pkt : Packet) (s : State) : (countOpcode pkt s).still = s.still := by
  unfold countOpcode
  all_goals simp only [still_mk, still_fold, ite_still, ite_self]

theorem discardPkt_still (pkt : Packet) (s : State) : (discardPkt pkt s).still = s.still := by
  unfold discardPkt
  all_goals simp only [still_mk, still_fold, ite_still, ite_self, nicSlot_still, countOpcode_still]

theorem judge_still (pkt : Packet) (ej : Ejection) (known : Option (Walk × WalkEnd)) (s : State) :
    (judge pkt ej known s).1.still = s.still := by
  unfold judge
  repeat' split
  all_goals simp only [still_mk, still_fold, ite_still, ite_self, pmcAdd_still, countOpcode_still, judgeAck_still, judgeSeq_still]

theorem refuse_still (pkt : Packet) (v : Verdict) (s : State) : (refuse pkt v s).still = s.still := by
  unfold refuse
  grind (splitImp := true) only [= still_def, = nackEarly_still, = nackWith_still, foldl_still, = elim_still]

theorem verdictSlot_still (v : Verdict) (s : State) : (verdictSlot v s).still = s.still := by
  unfold verdictSlot
  repeat' split
  all_goals simp only [still_mk, still_fold, ite_still, ite_self, nicSlot_still]

theorem parkPkt_still (pkt : Packet) (ej : Ejection) (w : ParkWait) (s : State) : (parkPkt pkt ej w s).still = s.still := by
  unfold parkPkt
  all_goals simp only [still_mk, still_fold, ite_still, ite_self, pmcAdd_still, finc_still, nicSlot_still, refuse_still]

theorem releaseGo_still (known : Option (Walk × WalkEnd)) (y0 : List Parked) (y1 : List Parked) (y2 : State) :
    (releaseGo known y0 y1 y2).still = y2.still := by
  fun_induction releaseGo <;> grind (splitImp := true) only [= still_def, = judge_still, = verdictSlot_still, = refuse_still,
      foldl_still, = elim_still]

theorem releaseParked_still (known : Option (Walk × WalkEnd)) (s : State) : (releaseParked known s).still = s.still := by
  unfold releaseParked
  repeat' split
  all_goals simp only [still_mk, still_fold, ite_still, ite_self, releaseGo_still]

theorem roomAgain_still (s : State) : (roomAgain s).still = s.still := by
  unfold roomAgain
  all_goals simp only [still_mk, still_fold, ite_still, ite_self, releaseParked_still]

theorem portGoesOn_still (h : HostPort) (s : State) : (portGoesOn h s).still = s.still := by
  unfold portGoesOn
  all_goals simp only [still_mk, still_fold, ite_still, ite_self, roomAgain_still, pumpPort_still]

theorem refuseFetch_still (h : HostPort) (w : ParkWait) (s : State) : (refuseFetch h w s).still = s.still := by
  unfold refuseFetch
  grind (splitImp := true) only [= still_def, = nicSlot_still, = refuse_still, foldl_still, = elim_still]

theorem takeEject_still (ip : IntPort) (e : InPacket) (s : State) : (takeEject ip e s).still = s.still := by
  unfold takeEject
  all_goals simp only [still_mk, still_fold, ite_still, ite_self, modInt_still, capture_still, pmcClass_still]

theorem arrive_still (mine : Packet → Bool) (ip : IntPort) (s : State) : (arrive mine ip s).still = s.still := by
  unfold arrive
  grind (splitImp := true) only [= still_def, = dozeWake_still, = judge_still, = nicSlot_still, = roomAgain_still, =
      parkPkt_still, = takeEject_still, = verdictSlot_still, = refuse_still, foldl_still, = elim_still]

theorem enterState_still (t : PowerState) (s : State) : (enterState t s).still = s.still := by
  rfl

theorem startEntry_still (target : PowerState) (s : State) : (startEntry target s).still = s.still := by
  unfold startEntry
  try dsimp only
  simp only [modPwr_still, still_mk, still_fold, ite_still, ite_self, resetL_still, foldl_still, implies_true]

theorem startExit_still (source : PowerState) (thenDoze : Bool) (s : State) :
    (startExit source thenDoze s).still = s.still := by
  unfold startExit
  try dsimp only
  simp only [modPwr_still, still_mk, still_fold, ite_still, ite_self, startLanePlls_still]

theorem recordWakeFrom_still (source : Nat) (noRef : Bool) (from_ : PowerState) (s : State) :
    (recordWakeFrom source noRef from_ s).still = s.still := by
  unfold recordWakeFrom
  all_goals simp only [still_mk, still_fold, ite_still, ite_self, setWord_still]

theorem wakeEvent_still (source : Nat) (thenDoze : Bool) (s : State) : (wakeEvent source thenDoze s).still = s.still := by
  unfold wakeEvent
  dsimp only
  split
  · rfl
  · split
    · rfl
    · simp only [modPwr_still, ite_still, ite_self, recordWakeFrom_still]
    · rfl
    · simp only [startExit_still, recordWakeFrom_still, ite_still, ite_self]

theorem autoDozeGo_still (s : State) : (autoDozeGo s).still = s.still := by
  unfold autoDozeGo
  all_goals simp only [still_mk, still_fold, ite_still, ite_self, enterState_still]

theorem nicReadyGo_still (s : State) : (nicReadyGo s).still = s.still := by
  unfold nicReadyGo
  grind (splitImp := true) only [= still_def, = modPwr_still, = portGoesOn_still, = releaseBells_still, foldl_still, = elim_still]

theorem whistleGo_still (s : State) : (whistleGo s).still = s.still := by
  unfold whistleGo
  try dsimp only
  simp only [modPwr_still, still_mk, still_fold, ite_still, ite_self, recordWakeFrom_still]

theorem whistleEnd_still (s : State) : (whistleEnd s).still = s.still := by
  unfold whistleEnd
  repeat' split
  all_goals simp only [still_mk, still_fold, ite_still, ite_self, wakeEvent_still]

theorem whistleOff_still (s : State) : (whistleOff s).still = s.still := by
  rfl

theorem flushEach_still (h : HostPort) (s : State) : (flushEach h s).still = s.still := by
  unfold flushEach
  grind (splitImp := true) only [= still_def, = modRem_still, = startFlush_still, foldl_still, = elim_still]

theorem pfwOn_still (s : State) : (pfwOn s).still = s.still := by
  unfold pfwOn
  try dsimp only
  simp only [modPwr_still, still_mk, still_fold, ite_still, ite_self, asyncChip_still, flushEach_still, foldl_still,
      implies_true]

theorem pfwOff_still (s : State) : (pfwOff s).still = s.still := by
  unfold pfwOff
  try dsimp only
  simp only [modPwr_still, still_mk, still_fold, ite_still, ite_self, wakeEvent_still]

theorem timerDone_still (s : State) : (timerDone s).still = s.still := by
  unfold timerDone
  repeat' split
  all_goals simp only [still_mk, still_fold, ite_still, ite_self, fset_still, wakeEvent_still]

theorem perstOff_still (h : HostPort) (s : State) : (perstOff h s).still = s.still := by
  unfold perstOff
  repeat' split
  all_goals simp only [still_mk, still_fold, ite_still, ite_self, modHif_still, wakeEvent_still]

theorem loseEntry_still (b : Bool) (chip : Nat) (s : State) : (loseEntry b chip s).still = s.still := by
  rfl

theorem loseEp_still (h : HostPort) (ep : Nat) (s : State) : (loseEp h ep s).still = s.still := by
  unfold loseEp
  grind (splitImp := true) only [= still_def, = modHost_still, = breakPair_still, = portGoesOn_still, foldl_still, = elim_still]

theorem loseWindow_still (h : HostPort) (w : Nat) (s : State) : (loseWindow h w s).still = s.still := by
  unfold loseWindow
  all_goals simp only [still_mk, still_fold, ite_still, ite_self, modHost_still]

theorem losePacket_still (x : XbarPort) (s : State) : (losePacket x s).still = s.still := by
  unfold losePacket
  repeat' split
  all_goals simp only [still_mk, still_fold, ite_still, ite_self, dropPresented_still]

theorem damage_still (src : Nat) (t : FaultTarget) (s : State) : (damage src t s).still = s.still := by
  unfold damage
  repeat' split
  all_goals simp only [still_mk, still_fold, ite_still, ite_self, haltHost_still, loseEntry_still, loseEp_still,
      losePacket_still, loseWindow_still, resetL_still]

theorem lineRises_still (src : Fin 64) (mid : Mid) (access : Nat) (addr : Word) (t : FaultTarget) (s : State) :
    (lineRises src mid access addr t s).still = s.still := by
  unfold lineRises
  repeat' split
  all_goals simp only [still_mk, still_fold, ite_still, ite_self, damage_still, raiseFaultBy_still]

theorem lineFalls_still (src : Fin 64) (s : State) : (lineFalls src s).still = s.still := by
  unfold lineFalls
  try dsimp only
  split
  · rfl
  · split <;> rfl

theorem supplyLow_still (s : State) : (supplyLow s).still = s.still := by
  unfold supplyLow
  try dsimp only
  simp only [modPwr_still, still_mk, still_fold, ite_still, ite_self, lineRises_still]

theorem injectFault_still (mid : Mid) (v : Word) (s : State) : (injectFault mid v s).still = s.still := by
  unfold injectFault
  repeat' split
  all_goals simp only [still_mk, still_fold, ite_still, ite_self, fset_still, raiseFaultBy_still]

theorem alertAnswered_still (s : State) : (alertAnswered s).still = s.still := by
  rfl

theorem clearFaults_still (v : Word) (s : State) : (clearFaults v s).still = s.still := by
  unfold clearFaults
  repeat' split
  all_goals simp only [still_mk, still_fold, ite_still, ite_self, fset_still]

theorem setLine_still (n : Nat) (high : Bool) (s : State) : (setLine n high s).still = s.still := by
  unfold setLine
  repeat' split
  all_goals simp only [still_mk, still_fold, ite_still, ite_self, lineFalls_still, lineRises_still]

theorem tempSampled_still (t : Nat) (s : State) : (tempSampled t s).still = s.still := by
  unfold tempSampled
  try dsimp only
  simp only [modPwr_still, still_mk, still_fold, ite_still, ite_self, setLine_still, asyncChip_still, fset_still]

theorem modEdge_still (grp : Nat) (slot : Nat) (e : Nat) (f : ColEdge → ColEdge) (s : State) :
    (modEdge grp slot e f s).still = s.still := by
  unfold modEdge
  all_goals simp only [still_mk, still_fold, ite_still, ite_self, modSlot_still]

theorem namedOp_still (o : ColOp) (s : State) : (namedOp o s).2.still = s.still := by
  unfold namedOp
  repeat' split
  all_goals simp only [still_mk, still_fold, ite_still, ite_self, tookFree_still]

theorem colAck_still (grp : Nat) (slot : Nat) (e : Nat) (s : State) : (colAck grp slot e s).still = s.still := by
  unfold colAck
  repeat' split
  all_goals simp only [still_mk, still_fold, ite_still, ite_self, namedOp_still, inject_still]

theorem releaseSeg_still (grp : Nat) (slot : Nat) (e : Nat) (seg : Nat) (s : State) :
    (releaseSeg grp slot e seg s).still = s.still := by
  unfold releaseSeg
  all_goals simp only [still_mk, still_fold, ite_still, ite_self, colAck_still, modEdge_still]

theorem colComplete_still (h : HostPort) (grp : Nat) (slot : Nat) (moved : Nat) (status : Nat) (detail : Nat) (s : State) :
    (colComplete h grp slot moved status detail s).still = s.still := by
  unfold colComplete
  repeat' split
  all_goals simp only [still_mk, still_fold, ite_still, ite_self, checkOp_still, modOp_still, modSlot_still, opError_still]

theorem colFail_still (grp : Nat) (slot : Nat) (cause : Nat) (detail : Nat) (from_ : Option Nat) (s : State) :
    (colFail grp slot cause detail from_ s).still = s.still := by
  unfold colFail
  repeat' split
  all_goals simp only [still_mk, still_fold, ite_still, ite_self, colAbort_still, colComplete_still, modGroup_still]

theorem colRead_still (h : HostPort) (grp : Nat) (slot : Nat) (pd : Nat) (g : ColGroup) (o : ColOp) (known : Option (Walk ×
    WalkEnd)) (s : State) :
    (colRead h grp slot pd g o known s).still = s.still := by
  unfold colRead
  grind (splitImp := true) only [= still_def, = translate_still, = hostReqUnder_still, = modSlot_still, = colFail_still, =
      xltFault_still, foldl_still, = elim_still]

theorem combineSeg_still (grp : Nat) (slot : Nat) (seg : Nat) (y0 : Nat) (y1 : State) :
    (combineSeg grp slot seg y0 y1).still = y1.still := by
  fun_induction combineSeg <;> grind (splitImp := true) only [= still_def, = modSlot_still, = pmcAdd_still, = releaseSeg_still,
      foldl_still, = elim_still]

theorem colCombine_still (grp : Nat) (slot : Nat) (s : State) : (colCombine grp slot s).still = s.still := by
  unfold colCombine
  grind (splitImp := true) only [= still_def, = combineSeg_still, = modSlot_still, foldl_still, = elim_still]

theorem segSpent_still (grp : Nat) (slot : Nat) (seg : Nat) (s : State) : (segSpent grp slot seg s).still = s.still := by
  unfold segSpent
  repeat' split
  all_goals simp only [still_mk, still_fold, ite_still, ite_self, colSlots_still, modSlot_still]

theorem sendSegs_still (grp : Nat) (slot : Nat) (e : Nat) (y0 : Nat) (y1 : State) :
    (sendSegs grp slot e y0 y1).still = y1.still := by
  fun_induction sendSegs <;> grind (splitImp := true) only [= still_def, = segSpent_still, = inject_still, = modEdge_still,
      foldl_still, = elim_still]

theorem writeSegs_still (h : HostPort) (grp : Nat) (slot : Nat) (pd : Nat) (known : Option (Walk × WalkEnd)) (y0 : Nat) (y1 :
    State) :
    (writeSegs h grp slot pd known y0 y1).still = y1.still := by
  fun_induction writeSegs <;> grind (splitImp := true) only [= still_def, = translateAll_still, = segSpent_still, =
      modSlot_still, = writePieces_still, = colFail_still, = xltFault_still, foldl_still, = elim_still]

theorem colRelease_still (grp : Nat) (slot : Nat) (y0 : Nat) (y1 : State) : (colRelease grp slot y0 y1).still = y1.still := by
  fun_induction colRelease <;> grind (splitImp := true) only [= still_def, = modSlot_still, = releaseSeg_still, foldl_still,
      = elim_still]

theorem colPass_still (grp : Nat) (slot : Nat) (known : Option (Walk × WalkEnd)) (s : State) :
    (colPass grp slot known s).still = s.still := by
  unfold colPass
  grind (splitImp := true) only [= still_def, = colCombine_still, = colComplete_still, = colRead_still, = colRelease_still,
      = sendSegs_still, = writeSegs_still, foldl_still, = elim_still]

theorem colStep_still (grp : Nat) (slot : Nat) (known : Option (Walk × WalkEnd)) (s : State) :
    (colStep grp slot known s).still = s.still := by
  unfold colStep
  all_goals simp only [still_mk, still_fold, ite_still, ite_self, colPass_still]

theorem colRefuse_still (h : HostPort) (wq : Nat) (idx : Nat) (status : Nat) (detail : Nat) (s : State) :
    (colRefuse h wq idx status detail s).still = s.still := by
  unfold colRefuse
  all_goals simp only [still_mk, still_fold, ite_still, ite_self, checkOp_still, modOp_still, opError_still]

theorem colStart_still (h : HostPort) (wq : Nat) (idx : Nat) (grp : Nat) (g : ColGroup) (d : Bytes) (s : State) :
    (colStart h wq idx grp g d s).still = s.still := by
  unfold colStart
  repeat' split
  all_goals simp only [still_mk, still_fold, ite_still, ite_self, colFail_still, colStep_still, modGroup_still, modOp_still,
      offSide_still]

theorem colBegin_still (h : HostPort) (wq : Nat) (idx : Nat) (s : State) : (colBegin h wq idx s).still = s.still := by
  unfold colBegin
  grind (splitImp := true) only [= still_def, = colRefuse_still, = colStart_still, = toSide_still, foldl_still, = elim_still]

theorem colPump_still (h : HostPort) (s : State) : (colPump h s).still = s.still := by
  unfold colPump
  grind (splitImp := true) only [= still_def, = colBegin_still, foldl_still, = elim_still]

theorem colGo_still (grp : Nat) (slot : Nat) (known : Option (Walk × WalkEnd)) (s : State) :
    (colGo grp slot known s).still = s.still := by
  unfold colGo
  repeat' split
  all_goals simp only [still_mk, still_fold, ite_still, ite_self, colPump_still, colStep_still]

theorem colFailGo_still (grp : Nat) (slot : Nat) (cause : Nat) (detail : Nat) (from_ : Option Nat) (s : State) :
    (colFailGo grp slot cause detail from_ s).still = s.still := by
  unfold colFailGo
  repeat' split
  all_goals simp only [still_mk, still_fold, ite_still, ite_self, colFail_still, colPump_still]

theorem colReadDone_still (h : HostPort) (grp : Nat) (slot : Nat) (seg : Nat) (len : Nat) (data : Option Bytes) (s : State) :
    (colReadDone h grp slot seg len data s).still = s.still := by
  unfold colReadDone
  repeat' split
  all_goals simp only [still_mk, still_fold, ite_still, ite_self, colFailGo_still, colGo_still, modSlot_still, reqFail_still]

theorem colNotArmed_still (pkt : Packet) (m : ColMsg) (s : State) : (colNotArmed pkt m s).still = s.still := by
  unfold colNotArmed
  all_goals simp only [still_mk, still_fold, ite_still, ite_self, inject_still, pmcRefusal_still]

theorem colStore_still (slot : Nat) (e : Nat) (m : ColMsg) (s : State) : (colStore slot e m s).still = s.still := by
  unfold colStore
  repeat' split
  all_goals simp only [still_mk, still_fold, ite_still, ite_self, colAck_still, colGo_still, modEdge_still]

theorem colAcked_still (slot : Nat) (e : Nat) (pkt : Packet) (m : ColMsg) (s : State) :
    (colAcked slot e pkt m s).still = s.still := by
  unfold colAcked
  all_goals simp only [still_mk, still_fold, ite_still, ite_self, colGo_still, modEdge_still]

theorem colFound_still (slot : Nat) (g : ColGroup) (m : ColMsg) (s : State) : (colFound slot g m s).still = s.still := by
  unfold colFound
  repeat' split
  all_goals simp only [still_mk, still_fold, ite_still, ite_self, modGroup_still, modSlot_still]

theorem colAbortAcked_still (slot : Nat) (e : Nat) (m : ColMsg) (s : State) : (colAbortAcked slot e m s).still = s.still := by
  unfold colAbortAcked
  grind (splitImp := true) only [= still_def, = modEdge_still, foldl_still, = elim_still]

theorem colCurrent_still (slot : Nat) (e : Nat) (g : ColGroup) (pkt : Packet) (m : ColMsg) (s : State) :
    (colCurrent slot e g pkt m s).still = s.still := by
  unfold colCurrent
  grind (splitImp := true) only [= still_def, = colAbortAcked_still, = colFound_still, = namedOp_still, = inject_still, =
      colFailGo_still, = colStore_still, = colAcked_still, foldl_still, = elim_still]

theorem colReply_still (grp : Nat) (g : ColGroup) (e : Nat) (kind : Nat) (m : ColMsg) (s : State) :
    (colReply grp g e kind m s).still = s.still := by
  unfold colReply
  all_goals simp only [still_mk, still_fold, ite_still, ite_self, namedOp_still, inject_still]

theorem colEarly_still (e : Nat) (g : ColGroup) (m : ColMsg) (s : State) : (colEarly e g m s).still = s.still := by
  unfold colEarly
  all_goals simp only [still_mk, still_fold, ite_still, ite_self, finc_still, colReply_still]

theorem colIn_still (pkt : Packet) (s : State) : (colIn pkt s).still = s.still := by
  unfold colIn
  grind (splitImp := true) only [= still_def, = colNotArmed_still, = colAbortAcked_still, = finc_still, = colReply_still, =
      colEarly_still, = colCurrent_still, foldl_still, = elim_still]

theorem colRefused_still (pkt : Packet) (s : State) : (colRefused pkt s).still = s.still := by
  unfold colRefused
  grind (splitImp := true) only [= still_def, = modEdge_still, foldl_still, = elim_still]

theorem colArrive_still (code : Nat) (ip : IntPort) (s : State) : (colArrive code ip s).still = s.still := by
  unfold colArrive
  repeat' split
  all_goals simp only [still_mk, still_fold, ite_still, ite_self, dozeWake_still, takeEject_still, nicSlot_still, pmcAdd_still,
      discardPkt_still, roomAgain_still, colIn_still]

theorem colNackIn_still (ip : IntPort) (s : State) : (colNackIn ip s).still = s.still := by
  unfold colNackIn
  repeat' split
  all_goals simp only [still_mk, still_fold, ite_still, ite_self, dozeWake_still, takeEject_still, nicSlot_still, pmcAdd_still,
      discardPkt_still, colRefused_still]

theorem colRetry_still (grp : Nat) (slot : Nat) (e : Nat) (s : State) : (colRetry grp slot e s).still = s.still := by
  unfold colRetry
  split
  · rfl
  · split
    · rfl
    · dsimp only
      split
      · split
        · exact modEdge_still _ _ _ _ _
        · exact colFailGo_still _ _ _ _ _ _
      · split
        · rw [inject_still, pmcAdd_still, finc_still, modEdge_still]
        · split
          · rw [inject_still, pmcAdd_still, finc_still, modEdge_still]
          · rw [inject_still, freeBytes_still, pmcAdd_still, finc_still, modEdge_still]

theorem armWaitOver_still (grp : Nat) (e : Nat) (s : State) : (armWaitOver grp e s).still = s.still := by
  unfold armWaitOver
  grind (splitImp := true) only [= still_def, = colFailGo_still, foldl_still, = elim_still]

theorem admRun_still (h : HostPort) (op : Nat) (check : Bytes → Nat) (act : Nat → Bytes → State → State) (s : State) (e : ∀ i c
    s, (act i c s).still = s.still) :
    (admRun h op check act s).still = s.still := by
  unfold admRun
  grind (splitImp := true) only [= still_def, = admDone_still, foldl_still, = elim_still]

theorem admCreateWq_still (h : HostPort) (s : State) : (admCreateWq h s).still = s.still := by
  unfold admCreateWq
  refine admRun_still _ _ _ _ _ (fun i c => ?_)
  grind (splitImp := true) only [= still_def, foldl_still, = modHost_still, = admDone_still]

theorem admDestroyWq_still (h : HostPort) (s : State) : (admDestroyWq h s).still = s.still := by
  unfold admDestroyWq
  refine admRun_still _ _ _ _ _ (fun i c => ?_)
  grind (splitImp := true) only [= still_def, foldl_still, = admLate_still, = modWq_still]

theorem admDestroyWqDone_still (h : HostPort) (wq : Nat) (s : State) : (admDestroyWqDone h wq s).still = s.still := by
  unfold admDestroyWqDone
  repeat' split
  all_goals simp only [still_mk, still_fold, ite_still, ite_self, admDone_still, writeHead_still, modHost_still]

theorem admSetShaper_still (h : HostPort) (s : State) : (admSetShaper h s).still = s.still := by
  unfold admSetShaper
  refine admRun_still _ _ _ _ _ (fun i c => ?_)
  grind (splitImp := true) only [= still_def, foldl_still, = admDone_still, = modWq_still]

theorem admCreateEq_still (h : HostPort) (s : State) : (admCreateEq h s).still = s.still := by
  unfold admCreateEq
  refine admRun_still _ _ _ _ _ (fun i c => ?_)
  grind (splitImp := true) only [= still_def, foldl_still, = modHost_still, = admDone_still]

theorem admDestroyEq_still (h : HostPort) (s : State) : (admDestroyEq h s).still = s.still := by
  unfold admDestroyEq
  refine admRun_still _ _ _ _ _ (fun i c => ?_)
  grind (splitImp := true) only [= still_def, foldl_still, = modHost_still, = admDone_still]

theorem admCreatePd_still (h : HostPort) (s : State) : (admCreatePd h s).still = s.still := by
  unfold admCreatePd
  refine admRun_still _ _ _ _ _ (fun i c => ?_)
  grind (splitImp := true) only [= still_def, foldl_still, = modHost_still, = admDone_still]

theorem admDestroyPd_still (h : HostPort) (s : State) : (admDestroyPd h s).still = s.still := by
  unfold admDestroyPd
  grind (splitImp := true) only [= still_def, = admRun_still, = admDone_still, = invalidatePoint_still, = modHost_still,
      foldl_still, = elim_still]

theorem admCreateEp_still (h : HostPort) (s : State) : (admCreateEp h s).still = s.still := by
  unfold admCreateEp
  refine admRun_still _ _ _ _ _ (fun i c t => ?_)
  dsimp only
  split
  · rename_i u heq
    rw [admDone_still, cacheUnit_still, modHost_still]
    exact makeRoom_still _ _ _ _ heq
  · rw [admDone_still, areaWrite_still, modHost_still]

theorem refuseEp_still (h : HostPort) (ep : Nat) (s : State) : (refuseEp h ep s).still = s.still := by
  unfold refuseEp
  grind (splitImp := true) only [= still_def, = nackEarly_still, foldl_still, = elim_still]

theorem admDestroyEp_still (h : HostPort) (s : State) : (admDestroyEp h s).still = s.still := by
  unfold admDestroyEp
  refine admRun_still _ _ _ _ _ (fun i c => ?_)
  grind (splitImp := true) only [= still_def, foldl_still, = admLate_still, = modEp_still, = mteDestroy_still, = refuseEp_still]

theorem admDestroyEpDone_still (h : HostPort) (ep : Nat) (s : State) : (admDestroyEpDone h ep s).still = s.still := by
  unfold admDestroyEpDone
  repeat' split
  all_goals simp only [still_mk, still_fold, ite_still, ite_self, modHost_still, admDone_still]

theorem admOpenWindow_still (h : HostPort) (s : State) : (admOpenWindow h s).still = s.still := by
  unfold admOpenWindow
  refine admRun_still _ _ _ _ _ (fun i c => ?_)
  grind (splitImp := true) only [= still_def, foldl_still, = admDone_still, = needWin_still, = openWin_still]

theorem admRevokeWindow_still (h : HostPort) (s : State) : (admRevokeWindow h s).still = s.still := by
  unfold admRevokeWindow
  refine admRun_still _ _ _ _ _ (fun i c => ?_)
  grind (splitImp := true) only [= still_def, foldl_still, = admDone_still, = admLate_still, = closeWin_still, = needWin_still]

theorem admRevokeDone_still (h : HostPort) (w : Nat) (s : State) : (admRevokeDone h w s).still = s.still := by
  unfold admRevokeDone
  repeat' split
  all_goals simp only [still_mk, still_fold, ite_still, ite_self, admDone_still]

theorem admInvalidate_still (h : HostPort) (s : State) : (admInvalidate h s).still = s.still := by
  unfold admInvalidate
  refine admRun_still _ _ _ _ _ (fun i c => ?_)
  grind (splitImp := true) only [= still_def, foldl_still, = admLate_still, = invalidatePoint_still]

theorem admInvalidateDone_still (h : HostPort) (s : State) : (admInvalidateDone h s).still = s.still := by
  unfold admInvalidateDone
  repeat' split
  all_goals simp only [still_mk, still_fold, ite_still, ite_self, admDone_still]

theorem admArmGroup_still (h : HostPort) (s : State) : (admArmGroup h s).still = s.still := by
  unfold admArmGroup
  refine admRun_still _ _ _ _ _ (fun i c => ?_)
  grind (splitImp := true) only [= still_def, foldl_still, = hostReq_still]

theorem admTreeDone_still (h : HostPort) (data : Option Bytes) (s : State) : (admTreeDone h data s).still = s.still := by
  unfold admTreeDone
  dsimp only
  repeat' split
  all_goals simp only [admDone_still, reqFail_still, still_mk, still_fold, reqEnd_still, ite_still, ite_self]

theorem admDisarmGroup_still (h : HostPort) (s : State) : (admDisarmGroup h s).still = s.still := by
  unfold admDisarmGroup
  refine admRun_still _ _ _ _ _ (fun i c => ?_)
  grind (splitImp := true) only [= still_def, foldl_still, = admLate_still, = colFail_still, = colPump_still, = modGroup_still]

theorem admDisarmDone_still (grp : Nat) (s : State) : (admDisarmDone grp s).still = s.still := by
  unfold admDisarmDone
  repeat' split
  all_goals simp only [still_mk, still_fold, ite_still, ite_self, admDone_still]

theorem admNopCmd_still (h : HostPort) (s : State) : (admNopCmd h s).still = s.still := by
  unfold admNopCmd
  refine admRun_still _ _ _ _ _ (fun i c => ?_)
  grind (splitImp := true) only [= still_def, foldl_still, = admDone_still]

theorem failWaiting_still (h : HostPort) (waits : WorkQueue → OpState → Bool) (s : State) :
    (failWaiting h waits s).still = s.still := by
  unfold failWaiting
  grind (splitImp := true) only [= still_def, = checkOp_still, = opError_still, = recvFail_still, foldl_still, = elim_still]

theorem failGets_still (h : HostPort) (key : Nat) (s : State) : (failGets h key s).still = s.still := by
  unfold failGets
  grind (splitImp := true) only [= still_def, = checkGet_still, = modDelivery_still, foldl_still, = elim_still]

theorem installRecord_still (h : HostPort) (k : ReqKind) (s : State) : (installRecord h k s).still = s.still := by
  have key : ∀ (n m : Nat) (f : State → State), (∀ t, (f t).still = t.still) →
      (((makeRoom n m s).map f).getD s).still = s.still := by
    intro n m f hf
    cases e : makeRoom n m s with
    | none => rfl
    | some t => simp only [Option.map_some, Option.getD_some, hf]; exact makeRoom_still _ _ _ _ e
  unfold installRecord
  try dsimp only
  split
  · exact key _ _ _ (fun t => by simp only [cacheUnit_still, modEp_still])
  · exact key _ _ _ (fun t => by simp only [cacheUnit_still, modPair_still])
  · exact key _ _ _ (fun t => by simp only [cacheUnit_still, modHost_still])
  · rfl

theorem windowCommand_still (h : HostPort) (w : Nat) (ok : Bool) (s : State) : (windowCommand h w ok s).still = s.still := by
  unfold windowCommand
  repeat' split
  all_goals simp only [still_mk, still_fold, ite_still, ite_self, admDone_still, admOpenWindow_still, admRevokeWindow_still]

theorem dropLate_still (h : HostPort) (key : Nat) (s : State) : (dropLate h key s).still = s.still := by
  rfl

theorem fetchEnd_still (h : HostPort) (tag : Nat) (k : ReqKind) (ok : Bool) (s : State) :
    (fetchEnd h tag k ok s).still = s.still := by
  unfold fetchEnd
  repeat' split
  all_goals simp only [still_mk, still_fold, ite_still, ite_self, reqEnd_still, releaseParked_still, installRecord_still,
      windowCommand_still, pumpPort_still, reqFail_still, finc_still, failWaiting_still, refuseFetch_still, dropLate_still,
          failGets_still]

theorem fetchDoneIn_still (h : HostPort) (tag : Nat) (ok : Bool) (s : State) : (fetchDoneIn h tag ok s).still = s.still := by
  unfold fetchDoneIn
  repeat' split
  all_goals simp only [still_mk, still_fold, ite_still, ite_self, fetchEnd_still]

theorem wakeUser_still (h : HostPort) (known : Option (Walk × WalkEnd)) (u : XltUser) (s : State) :
    (wakeUser h known u s).still = s.still := by
  unfold wakeUser
  repeat' split
  all_goals simp only [still_mk, still_fold, ite_still, ite_self, colGo_still, deliverOn_still, pumpOp_still, replyReread_still]

theorem pumpCols_still (h : HostPort) (s : State) : (pumpCols h s).still = s.still := by
  unfold pumpCols
  grind (splitImp := true) only [= still_def, = colGo_still, foldl_still, = elim_still]

theorem walkOver_still (h : HostPort) (w : Walk) (e : WalkEnd) (s : State) : (walkOver h w e s).still = s.still := by
  unfold walkOver
  grind (splitImp := true) only [= still_def, = wakeUser_still, = pumpPort_still, = pumpCols_still, = releaseParked_still,
      foldl_still, = elim_still]

theorem walkDoneIn_still (h : HostPort) (tag : Nat) (data : Option Bytes) (s : State) :
    (walkDoneIn h tag data s).still = s.still := by
  unfold walkDoneIn
  grind (splitImp := true) only [= still_def, = reqEnd_still, = walkRead_still, = reqFail_still, = walkOver_still, foldl_still,
      = elim_still]

theorem issueOne_still (h : HostPort) (r : HostReq) (s : State) : (issueOne h r s).still = s.still := by
  unfold issueOne
  repeat' split
  all_goals simp only [still_mk, still_fold, ite_still, ite_self, walkOver_still, endWalk_still, sendReq_still]

theorem issueWaiting_still (h : HostPort) (y0 : Nat) (y1 : State) : (issueWaiting h y0 y1).still = y1.still := by
  fun_induction issueWaiting <;> grind (splitImp := true) only [= still_def, = issueOne_still, = modHif_still, foldl_still, =
      elim_still]

theorem tagFreed_still (h : HostPort) (s : State) : (tagFreed h s).still = s.still := by
  unfold tagFreed
  all_goals simp only [still_mk, still_fold, ite_still, ite_self, roomAgain_still, issueWaiting_still]

theorem localDone_still (h : HostPort) (wq : Nat) (idx : Nat) (len : Nat) (data : Option Bytes) (s : State) :
    (localDone h wq idx len data s).still = s.still := by
  unfold localDone
  repeat' split
  all_goals simp only [still_mk, still_fold, ite_still, ite_self, checkOp_still, modOp_still, opError_still, pumpOp_still,
      reqFail_still]

theorem askPair_still (h : HostPort) (key : Nat) (s : State) : (askPair h key s).still = s.still := by
  unfold askPair
  repeat' split
  all_goals simp only [still_mk, still_fold, ite_still, ite_self, needPair_still]

theorem pairResetGo_still (h : HostPort) (peer : Nat) (s : State) : (pairResetGo h peer s).still = s.still := by
  unfold pairResetGo
  repeat' split
  all_goals simp only [still_mk, still_fold, ite_still, ite_self, fset_still, askPair_still, modRem_still]

theorem resetSend_still (h : HostPort) (key : Nat) (s : State) : (resetSend h key s).still = s.still := by
  unfold resetSend
  all_goals simp only [still_mk, still_fold, ite_still, ite_self, breakPair_still, modPair_still]

theorem resetRecv_still (h : HostPort) (key : Nat) (s : State) : (resetRecv h key s).still = s.still := by
  unfold resetRecv
  all_goals simp only [still_mk, still_fold, ite_still, ite_self, modPair_still]

theorem pairResetEnd_still (h : HostPort) (s : State) : (pairResetEnd h s).still = s.still := by
  unfold pairResetEnd
  repeat' split
  all_goals simp only [still_mk, still_fold, ite_still, ite_self, modRem_still, resetRecv_still, resetSend_still]

theorem quietOver_still (h : HostPort) (key : Nat) (s : State) : (quietOver h key s).still = s.still := by
  unfold quietOver
  all_goals simp only [still_mk, still_fold, ite_still, ite_self, portGoesOn_still, modPair_still]

theorem ccQueryGo_still (h : HostPort) (peer : Nat) (s : State) : (ccQueryGo h peer s).still = s.still := by
  unfold ccQueryGo
  repeat' split
  all_goals simp only [still_mk, still_fold, ite_still, ite_self, fset_still, askPair_still, modRem_still]

theorem ccQueryEnd_still (h : HostPort) (s : State) : (ccQueryEnd h s).still = s.still := by
  unfold ccQueryEnd
  grind (splitImp := true) only [= still_def, = fset_still, = setWord_still, = modRem_still, foldl_still, = elim_still]

theorem resendDue_still (h : HostPort) (s : State) : (resendDue h s).still = s.still := by
  unfold resendDue
  grind (splitImp := true) only [= still_def, = resend_still, foldl_still, = elim_still]

theorem leashTick_still (h : HostPort) (s : State) : (leashTick h s).still = s.still := by
  unfold leashTick
  all_goals simp only [still_mk, still_fold, ite_still, ite_self, modHost_still, portGoesOn_still, resendDue_still]

theorem sampleAll_still (h : HostPort) (s : State) : (sampleAll h s).still = s.still := by
  unfold sampleAll
  grind (splitImp := true) only [= still_def, = modHost_still, = setWord_still, foldl_still, = elim_still]

theorem whileLive_still (mid : Mid) (off : Nat) (s : State) : (whileLive mid off s).still = s.still := by
  unfold whileLive
  repeat' split
  all_goals simp only [still_mk, still_fold, ite_still, ite_self, finc_still, fset_still]

theorem writePlain_still (r : RegId) (i : Nat) (k : Nat) (v : Word) (s : State) : (writePlain r i k v s).still = s.still := by
  unfold writePlain
  all_goals simp only [still_mk, still_fold, ite_still, ite_self, setWord_still]

theorem firstInfoWrite_still (v : Word) (s : State) : (firstInfoWrite v s).still = s.still := by
  unfold firstInfoWrite
  repeat' split
  all_goals simp only [still_mk, still_fold, ite_still, ite_self, fset_still]

theorem flagWrite_still (flag : RegField) (count : RegField) (i : Nat) (v : Word) (s : State) :
    (flagWrite flag count i v s).still = s.still := by
  unfold flagWrite
  repeat' split
  all_goals simp only [still_mk, still_fold, ite_still, ite_self, fset_still]

theorem pmcCtlWrite_still (u : Nat) (v : Word) (s : State) : (pmcCtlWrite u v s).still = s.still := by
  unfold pmcCtlWrite
  grind (splitImp := true) only [= still_def, = setWord_still, = writePlain_still, foldl_still, = elim_still]

theorem snapUnit_still (s : State) (u : Nat) : (snapUnit s u).still = s.still := by
  unfold snapUnit
  grind (splitImp := true) only [= still_def, = setWord_still, foldl_still, = elim_still]

theorem pmcSnapWrite_still (v : Word) (s : State) : (pmcSnapWrite v s).still = s.still := by
  unfold pmcSnapWrite
  grind (splitImp := true) only [= still_def, = fset_still, = setWord_still, = snapUnit_still, foldl_still, = elim_still]

theorem capCtlWrite_still (v : Word) (s : State) : (capCtlWrite v s).still = s.still := by
  unfold capCtlWrite
  dsimp only
  rw [ite_still]
  split
  · rw [fset_still, fset_still, still_mk]
    split
    · simp only [still_fold, tookFree_still, writePlain_still]
    · simp only [still_fold, writePlain_still]
  · rw [writePlain_still]

theorem capCiWrite_still (v : Word) (s : State) : (capCiWrite v s).still = s.still := by
  unfold capCiWrite
  repeat' split
  all_goals simp only [still_mk, still_fold, ite_still, ite_self, fset_still]

theorem admCfgWrite_still (h : HostPort) (v : Word) (s : State) : (admCfgWrite h v s).still = s.still := by
  unfold admCfgWrite
  repeat' split
  all_goals simp only [still_mk, still_fold, ite_still, ite_self, admEnable_still, writePlain_still]

theorem invCtlWrite_still (h : HostPort) (v : Word) (s : State) : (invCtlWrite h v s).still = s.still := by
  unfold invCtlWrite
  repeat' split
  all_goals simp only [still_mk, still_fold, ite_still, ite_self, fset_still, invGo_still, writePlain_still]

theorem areaRegWrite_still (mid : Mid) (off : Nat) (r : RegId) (h : HostPort) (v : Word) (s : State) :
    (areaRegWrite mid off r h v s).still = s.still := by
  unfold areaRegWrite
  all_goals simp only [still_mk, still_fold, ite_still, ite_self, regAccessError_still, writePlain_still, modHost_still]

theorem lnkCtlWrite_still (p : NetPort) (v : Word) (s : State) : (lnkCtlWrite p v s).still = s.still := by
  unfold lnkCtlWrite
  repeat' split
  all_goals simp only [still_mk, still_fold, ite_still, ite_self, admitLink_still, writePlain_still]

theorem errWinWrite_still (p : NetPort) (v : Word) (s : State) : (errWinWrite p v s).still = s.still := by
  unfold errWinWrite
  all_goals simp only [still_mk, still_fold, ite_still, ite_self, modLink_still, writePlain_still]

theorem lanCtlWrite_still (p : NetPort) (v : Word) (s : State) : (lanCtlWrite p v s).still = s.still := by
  unfold lanCtlWrite
  repeat' split
  all_goals simp only [still_mk, still_fold, ite_still, ite_self, modLane_still, resetL_still, startTraining_still,
      writePlain_still]

theorem portWrite_still (p : NetPort) (f : State → State) (s : State) (h : (f s).still = s.still) :
    (portWrite p f s).still = s.still := by
  unfold portWrite
  try dsimp only
  split
  · rfl
  · exact h

theorem nicWrite_still (mid : Mid) (off : Nat) (r : RegId) (h : HostPort) (k : Nat) (v : Word) (s : State) :
    (nicWrite mid off r h k v s).still = s.still := by
  unfold nicWrite
  repeat' split
  all_goals first | rfl | (simp only [still_mk, still_fold, ite_still, ite_self, foldl_still, elim_still, admCfgWrite_still,
      admBell_still, eqCiWrite_still, flagWrite_still, xltSeed_still, writePlain_still, invCtlWrite_still, areaRegWrite_still,
          pairResetGo_still, ccQueryGo_still]; done) | grind (splitImp := true) only [= still_def, = admCfgWrite_still, =
              admBell_still, = eqCiWrite_still, = flagWrite_still, = xltSeed_still, = writePlain_still, = invCtlWrite_still, =
                  areaRegWrite_still, = pairResetGo_still, = ccQueryGo_still, foldl_still, = elim_still]

theorem netWrite_still (r : RegId) (p : NetPort) (k : Nat) (v : Word) (s : State) : (netWrite r p k v s).still = s.still := by
  unfold netWrite
  repeat' split
  all_goals simp only [still_mk, still_fold, ite_still, ite_self, errWinWrite_still, lanCtlWrite_still, lnkCtlWrite_still,
      writePlain_still]

theorem msixWrite_still (h : HostPort) (table : Bool) (a : Nat) (bytes : Bytes) (s : State) :
    (msixWrite h table a bytes s).still = s.still := by
  unfold msixWrite
  repeat' split
  all_goals simp only [still_mk, still_fold, ite_still, ite_self, modHif_still, msixRecheck_still]

theorem partialWrite_still (mid : Mid) (off : Nat) (bytes : Bytes) (s : State) :
    (partialWrite mid off bytes s).still = s.still := by
  unfold partialWrite
  repeat' split
  all_goals simp only [still_mk, still_fold, ite_still, ite_self, msixWrite_still, regAccessError_still]

theorem retryEnds_still (p : NetPort) (s : State) : (retryEnds p s).still = s.still := by
  unfold retryEnds
  all_goals simp only [still_mk, still_fold, ite_still, ite_self, startAttempt_still]

theorem tsIn_still (p : NetPort) (s : State) : (tsIn p s).still = s.still := by
  exact setsIn_still _ _ _ _ (laneRetrain_still _ _)

theorem widthBoundary_still (p : NetPort) (s : State) : (widthBoundary p s).still = s.still := by
  unfold widthBoundary
  all_goals simp only [still_mk, still_fold, ite_still, ite_self, applyWidth_still]

theorem codeErrorIn_still (p : NetPort) (lane : Fin 16) (turned : Bool) (group : BitVec 10) (s : State) :
    (codeErrorIn p lane turned group s).still = s.still := by
  unfold codeErrorIn
  all_goals simp only [still_mk, still_fold, ite_still, ite_self, modLane_still, codeErrors_still]

theorem sleepDue_still (p : NetPort) (s : State) : (sleepDue p s).still = s.still := by
  unfold sleepDue
  repeat' split
  all_goals simp only [still_mk, still_fold, ite_still, ite_self, sleepTx_still]

theorem wakeToResend_still (p : NetPort) (s : State) : (wakeToResend p s).still = s.still := by
  unfold wakeToResend
  repeat' split
  all_goals simp only [still_mk, still_fold, ite_still, ite_self, wakeTx_still]

theorem nakAgain_still (p : NetPort) (fseq : BitVec 12) (s : State) : (nakAgain p fseq s).still = s.still := by
  unfold nakAgain
  repeat' split
  all_goals simp only [still_mk, still_fold, ite_still, ite_self, sendNaks_still]

theorem replayLate_still (p : NetPort) (s : State) : (replayLate p s).still = s.still := by
  unfold replayLate
  repeat' split
  all_goals simp only [still_mk, still_fold, ite_still, ite_self, finc_still, modLink_still, linkError_still,
      wakeToResend_still]

theorem refreshDue_still (p : NetPort) (s : State) : (refreshDue p s).still = s.still := by
  unfold refreshDue
  repeat' split
  all_goals simp only [still_mk, still_fold, ite_still, ite_self, sendRefresh_still, wakeTx_still]

theorem windowEnds_still (p : NetPort) (s : State) : (windowEnds p s).still = s.still := by
  unfold windowEnds
  all_goals simp only [still_mk, still_fold, ite_still, ite_self, modLink_still]

theorem initSend_still (p : NetPort) (s : State) : (initSend p s).still = s.still := by
  unfold initSend
  all_goals simp only [still_mk, still_fold, ite_still, ite_self, wakeTx_still, sendFrame_still]

theorem initLate_still (p : NetPort) (s : State) : (initLate p s).still = s.still := by
  unfold initLate
  repeat' split
  all_goals simp only [still_mk, still_fold, ite_still, ite_self, resetL_still]

theorem admissionDue_still (p : NetPort) (s : State) : (admissionDue p s).still = s.still := by
  unfold admissionDue
  repeat' split
  all_goals simp only [still_mk, still_fold, ite_still, ite_self, admitLink_still]

theorem wakeAsked_still (p : NetPort) (s : State) : (wakeAsked p s).still = s.still := by
  unfold wakeAsked
  repeat' split
  all_goals simp only [still_mk, still_fold, ite_still, ite_self, wakeTx_still]

theorem reqThen_still (h : HostPort) (tag : Nat) (ok : Bool) (f : State → State) (s : State) (e : ∀ t, (f t).still = t.still) :
    (reqThen h tag ok f s).still = s.still := by
  unfold reqThen
  grind (splitImp := true) only [= still_def, = reqEnd_still, = tagFreed_still, = pumpPort_still, foldl_still, = elim_still]

theorem failIf_still (failed : Bool) (h : HostPort) (s : State) : (failIf failed h s).still = s.still := by
  unfold failIf
  repeat' split
  all_goals simp only [still_mk, still_fold, ite_still, ite_self, reqFail_still]

theorem localReadEnd_still (h : HostPort) (tag : Nat) (data : Option Bytes) (s : State) :
    (localReadEnd h tag data s).still = s.still := by
  unfold localReadEnd
  repeat' split
  all_goals first
    | (simp only [colReadDone_still, localDone_still, reqThen_still, implies_true]; done)
    | (grind (splitImp := true) only [= colReadDone_still, = localDone_still, = still_def, foldl_still])

theorem getReadEnd_still (h : HostPort) (tag : Nat) (data : Option Bytes) (s : State) :
    (getReadEnd h tag data s).still = s.still := by
  unfold getReadEnd
  repeat' split
  all_goals first
    | (simp only [getReadDone_still, reqThen_still, implies_true]; done)
    | (grind (splitImp := true) only [= getReadDone_still, = still_def, foldl_still])

theorem atomicReadEnd_still (h : HostPort) (tag : Nat) (data : Option Bytes) (s : State) :
    (atomicReadEnd h tag data s).still = s.still := by
  unfold atomicReadEnd
  repeat' split
  all_goals first
    | (simp only [atomicDone_still, reqThen_still, implies_true]; done)
    | (grind (splitImp := true) only [= atomicDone_still, = still_def, foldl_still])

theorem flushReadEnd_still (h : HostPort) (tag : Nat) (ok : Bool) (s : State) : (flushReadEnd h tag ok s).still = s.still := by
  unfold flushReadEnd
  repeat' split
  all_goals first
    | (simp only [flushEnd_still, reqThen_still, implies_true]; done)
    | (grind (splitImp := true) only [= flushEnd_still, = still_def, foldl_still])

theorem recordReadEnd_still (h : HostPort) (tag : Nat) (ok : Bool) (s : State) :
    (recordReadEnd h tag ok s).still = s.still := by
  unfold recordReadEnd
  repeat' split
  all_goals first
    | (simp only [failIf_still, recordDone_still, reqThen_still, implies_true]; done)
    | (grind (splitImp := true) only [= failIf_still, = recordDone_still, = still_def, foldl_still])

theorem slotReadEnd_still (h : HostPort) (tag : Nat) (data : Option Bytes) (s : State) :
    (slotReadEnd h tag data s).still = s.still := by
  unfold slotReadEnd
  repeat' split
  all_goals first
    | (simp only [dataSlotDone_still, failIf_still, reqThen_still, implies_true]; done)
    | (grind (splitImp := true) only [= dataSlotDone_still, = failIf_still, = still_def, foldl_still])

theorem blockReadEnd_still (h : HostPort) (tag : Nat) (ok : Bool) (s : State) : (blockReadEnd h tag ok s).still = s.still := by
  unfold blockReadEnd
  repeat' split
  all_goals first
    | (simp only [failIf_still, kennelDone_still, reqThen_still, implies_true]; done)
    | (grind (splitImp := true) only [= failIf_still, = kennelDone_still, = still_def, foldl_still])

theorem reqTimeout_still (h : HostPort) (tag : Nat) (s : State) : (reqTimeout h tag s).still = s.still := by
  unfold reqTimeout
  repeat' split
  all_goals simp only [still_mk, still_fold, ite_still, ite_self, finc_still, tagFreed_still, admRead_still, admTreeDone_still,
      descsDone_still, colRead_still, localReadEnd_still, walkDoneIn_still, fetchDoneIn_still, getReadEnd_still,
          atomicReadEnd_still, flushReadEnd_still, recordReadEnd_still, slotReadEnd_still, blockReadEnd_still]

theorem badBell_still (h : HostPort) (off : Nat) (size : Nat) (s : State) : (badBell h off size s).still = s.still := by
  unfold badBell
  repeat' split
  all_goals simp only [still_mk, still_fold, ite_still, ite_self, finc_still]

theorem inlineWrite_still (h : HostPort) (wq : Nat) (desc : Bytes) (s : State) : (inlineWrite h wq desc s).still = s.still := by
  unfold inlineWrite
  repeat' split
  all_goals simp only [still_mk, still_fold, ite_still, ite_self, badBell_still, bell_still]

theorem recvBegin_still (h : HostPort) (wq : Nat) (idx : Nat) (s : State) : (recvBegin h wq idx s).still = s.still := by
  unfold recvBegin
  repeat' split
  all_goals simp only [still_mk, still_fold, ite_still, ite_self, portGoesOn_still, recvStep_still, modOp_still]

theorem collectiveBegin_still (h : HostPort) (wq : Nat) (idx : Nat) (s : State) :
    (collectiveBegin h wq idx s).still = s.still := by
  unfold collectiveBegin
  repeat' split
  all_goals simp only [still_mk, still_fold, ite_still, ite_self, colBegin_still]

theorem slotsFreed_still (h : HostPort) (s : State) : (slotsFreed h s).still = s.still := by
  unfold slotsFreed
  all_goals simp only [still_mk, still_fold, ite_still, ite_self, portGoesOn_still]

theorem pageAnswer_still (h : HostPort) (tag : Nat) (ok : Bool) (s : State) : (pageAnswer h tag ok s).still = s.still := by
  unfold pageAnswer
  repeat' split
  all_goals simp only [still_mk, still_fold, ite_still, ite_self, modRem_still, pageFail_still]

theorem failHoldEnds_still (h : HostPort) (tag : Nat) (s : State) : (failHoldEnds h tag s).still = s.still := by
  unfold failHoldEnds
  repeat' split
  all_goals simp only [still_mk, still_fold, ite_still, ite_self, modRem_still]

theorem invalidationEnds_still (h : HostPort) (path : InvPath) (s : State) : (invalidationEnds h path s).still = s.still := by
  unfold invalidationEnds
  repeat' split
  all_goals simp only [still_mk, still_fold, ite_still, ite_self, admInvalidateDone_still, invRegDone_still]

theorem nackArrive_still (ip : IntPort) (s : State) : (nackArrive ip s).still = s.still := by
  unfold nackArrive
  repeat' split
  all_goals simp only [still_mk, still_fold, ite_still, ite_self, arrive_still, colNackIn_still]

theorem engineSlots_still (s : State) : (engineSlots s).still = s.still := by
  unfold engineSlots
  grind (splitImp := true) only [= still_def, = nicSlot_still, = pmcAdd_still, = colSlots_still, = pmcHost_still, foldl_still,
      = elim_still]

theorem agentAnswer_still (p : Packet) (op : Nat) (status : Nat) (v : Word) (s : State) :
    (agentAnswer p op status v s).still = s.still := by
  unfold agentAnswer
  all_goals simp only [still_mk, still_fold, ite_still, ite_self, inject_still]

theorem countMgmt_still (s : State) : (countMgmt s).still = s.still := by
  rfl

theorem telemetrySend_still (s : State) : (telemetrySend s).still = s.still := by
  unfold telemetrySend
  dsimp only
  split
  · rfl
  · rw [inject_still]; rfl

theorem telemetryArrive_still (ip : IntPort) (s : State) : (telemetryArrive ip s).still = s.still := by
  unfold telemetryArrive
  grind (splitImp := true) only [= still_def, = takeEject_still, = nicSlot_still, = pmcAdd_still, = discardPkt_still, =
      capAppend_still, = finc_still, foldl_still, = elim_still]

theorem smbLast_still (s : State) : (smbLast s).still = s.still := by
  unfold smbLast
  all_goals simp only [still_mk, still_fold, ite_still, ite_self, emit_still]

end Sys2Proof.Laws
end

