-- ==== Sys2Proof/Laws/Ports.lean ====
section
/-! SUPPORT. What the departure of a link and the reset of a port do to the network ports (R93, R94, R313): the port itself goes down
with its lanes stopped; the lanes of every other port and the state of its link stay. -/

set_option linter.unusedSimpArgs false

namespace Sys2Proof.Laws

open Sys2Proof.Machine

/-! ## Counters and captures leave the ports alone -/

theorem foldl_ports {α : Type} (f : State → α → State) (l : List α) (s : State) (h : ∀ t x, (f t x).ports = t.ports) :
    (l.foldl f s).ports = s.ports := by
  induction l generalizing s with
  | nil => rfl
  | cons a l ih => simp only [List.foldl_cons, ih, h]

theorem port_of_ports {s t : State} (h : t.ports = s.ports) (p : NetPort) : t.port p = s.port p := by
  simp only [State.port, h]

theorem pmcCount_ports (u ev amt : Nat) (ok : Word → Bool) (s : State) : (pmcCount u ev amt ok s).ports = s.ports := by
  unfold pmcCount
  split
  · refine foldl_ports _ _ _ (fun t i => ?_)
    dsimp only
    split <;> rfl
  · rfl

theorem pmcAdd_ports (u ev amt : Nat) (s : State) : (pmcAdd u ev amt s).ports = s.ports := pmcCount_ports _ _ _ _ _
theorem pmcClass_ports (u ev amt tc : Nat) (s : State) : (pmcClass u ev amt tc s).ports = s.ports := pmcCount_ports _ _ _ _ _

theorem capAppend_ports (e : Bytes) (s : State) : (capAppend e s).ports = s.ports := by
  unfold capAppend
  dsimp only
  split
  · rfl
  · split <;> rfl

theorem capSelect_ports (s : State) (e : CapEvent) : (capSelect s e).1.ports = s.ports := by
  unfold capSelect
  have : ∀ (l : List Nat) (a : State × Option Nat), (l.foldl (fun (acc : State × Option Nat) (k : Nat) =>
    if capMatches acc.1 k e then
      let c := acc.1.cap.matched.toList.getD k 0
      let t := { acc.1 with cap := { acc.1.cap with matched := acc.1.cap.matched.setIfInBounds k (c + 1) } }
      (t, if acc.2.isNone && c % 2 ^ acc.1.fget F.CAP_FILT_A_SAMPLE 0 k = 0 then some k else acc.2)
    else acc) a).1.ports = a.1.ports := by
    intro l
    induction l with
    | nil => intro a; rfl
    | cons k l ih =>
      intro a
      rw [List.foldl_cons, ih]
      split <;> rfl
  exact this _ _

theorem capture_ports (es : List CapEvent) (s : State) : (capture es s).ports = s.ports := by
  unfold capture
  split
  · dsimp only
    rw [finc_ports]
    have h1 : ∀ (l : List CapEvent) (a : State × List (Nat × CapEvent)), (l.foldl (fun acc e =>
      ((capSelect acc.1 e).1, match (capSelect acc.1 e).2 with | some k => acc.2 ++ [(k, e)] | none => acc.2)) a).1.ports = a.1.ports := by
      intro l
      induction l with
      | nil => intro a; rfl
      | cons e l ih =>
        intro a
        rw [List.foldl_cons, ih]
        exact capSelect_ports _ _
    rw [foldl_ports _ _ _ (fun t x => by rw [pmcAdd_ports, capAppend_ports])]
    exact h1 _ _
  · rfl

theorem recordDiscard_ports (x cause dwell : Nat) (pkt : Packet) (s : State) : (recordDiscard x cause dwell pkt s).ports = s.ports := by
  unfold recordDiscard
  rw [capture_ports, pmcClass_ports]

/-! ## Lanes and link phases through a departure -/

theorem faces_of_ports {s t : State} (h : t.ports = s.ports) (q : NetPort) : portFaces t q = portFaces s q := by
  simp only [portFaces, State.port, h]

theorem faces_modPort (s : State) (p q : NetPort) (f : Port → Port) (h : laneFace (f (s.port p)).lane = laneFace (s.port p).lane)
    (h' : (f (s.port p)).link.phase = (s.port p).link.phase) : portFaces (s.modPort p f) q = portFaces s q := by
  by_cases e : q = p
  · subst e; simp only [portFaces, modPort_port_same, h, h']
  · simp only [portFaces, modPort_port_other _ _ _ _ e]

theorem faces_modLink (s : State) (p q : NetPort) (f : LinkState → LinkState)
    (h' : (f (s.port p).link).phase = (s.port p).link.phase) : portFaces (s.modLink p f) q = portFaces s q :=
  faces_modPort s p q _ rfl h'

theorem faces_modLane (s : State) (p q : NetPort) (f : LaneState → LaneState)
    (h' : laneFace (f (s.port p).lane) = laneFace (s.port p).lane) : portFaces (s.modLane p f) q = portFaces s q :=
  faces_modPort s p q _ h' rfl

theorem sendSet_faces (p q : NetPort) (o : OrderedSet) (s : State) : portFaces (sendSet p o s) q = portFaces s q := by
  unfold sendSet sendSetOn
  generalize codeLanes s p (txLanes (s.port p).lane) (orderedChars o) = r
  exact (faces_modLane _ p q _ rfl).trans (faces_of_ports rfl q)

theorem sendFrame_faces (p q : NetPort) (bytes : Bytes) (abt : Bool) (s : State) :
    portFaces (sendFrame p bytes abt s) q = portFaces s q := by
  unfold sendFrame
  dsimp only
  generalize codeLanes s p (txLanes (s.port p).lane) _ = r
  exact (faces_modLane _ p q _ rfl).trans (faces_of_ports rfl q)

theorem abandonTx_faces (p q : NetPort) (s : State) : portFaces (abandonTx p s) q = portFaces s q := by
  unfold abandonTx
  split
  · rfl
  · rename_i t h
    refine (faces_modLink _ _ _ _ rfl).trans (Eq.trans ?_ (sendFrame_faces p q (frameBytes t.fseq t.tc t.pkt t.ack t.rtx) true s))
    exact faces_of_ports (pmcClass_ports _ _ _ _ _) _

theorem undebit_phase (k : Packet) (tc : Nat) (l : LinkState) : (undebit k tc l).phase = l.phase := rfl

theorem abortOutput_faces (o : NetPort) (x : XbarPort) (q : NetPort) (s : State) :
    portFaces (abortOutput o x s) q = portFaces s q := by
  unfold abortOutput
  dsimp only
  have h0 : portFaces (s.modPort o (fun q => { q with busy := 0 })) q = portFaces s q := faces_modPort _ _ _ _ rfl rfl
  have h1 : ∀ (f : Option OutPkt), portFaces (match f with
      | some f => (s.modPort o (fun q => { q with busy := 0 })).modLink o (fun l =>
          { undebit f.pkt f.tc l with fifo := l.fifo.filter (fun g => g.source != some x) })
      | none => s.modPort o (fun q => { q with busy := 0 })) q = portFaces s q := by
    intro f
    cases f with
    | none => exact h0
    | some f => exact (faces_modLink _ _ _ _ rfl).trans h0
  split
  · split
    · refine (faces_modLink _ _ _ _ rfl).trans ((abandonTx_faces _ _ _).trans ?_)
      split
      · exact (faces_modLink _ _ _ _ rfl).trans (h1 _)
      · exact h1 _
    · exact h1 _
  · exact h1 _

theorem dropArriving_faces (p q : NetPort) (s : State) : portFaces (dropArriving p s) q = portFaces s q := by
  unfold dropArriving
  dsimp only
  refine (faces_modPort _ _ _ _ rfl rfl).trans ?_
  split
  · exact abortOutput_faces _ _ _ _
  · rfl

theorem returnCredits_free (p : NetPort) (i : InPacket) (s : State) (h : i.owed = false) : returnCredits p i s = s := by
  unfold returnCredits
  rw [h]; rfl

theorem releaseIn_faces (p q : NetPort) (tc : Nat) (pkt : Packet) (arrived : Nat) (s : State) :
    portFaces (releaseIn p tc pkt arrived true false s) q = portFaces s q := by
  unfold releaseIn leaveStaging
  dsimp only
  have h1 : portFaces (capture [{ point := 1, port := p.val, cause := 0, dwell := 0, pkt := pkt }]
      (pmcClass p.val 0x11 (pktLen pkt) tc (pmcClass p.val 0x10 1 tc s))) q = portFaces s q :=
    faces_of_ports (by rw [capture_ports, pmcClass_ports, pmcClass_ports]) q
  split
  · rw [if_pos rfl, returnCredits_free _ _ _ rfl]
    exact (faces_of_ports (recordDiscard_ports _ _ _ _ _) q).trans h1
  · split
    · rw [if_pos rfl, returnCredits_free _ _ _ rfl]
      exact (faces_of_ports (by rw [recordDiscard_ports, finc_ports]) q).trans h1
    · exact (faces_modPort _ _ _ _ rfl rfl).trans h1

theorem foldl_faces {α : Type} (f : State → α → State) (l : List α) (s : State) (q : NetPort)
    (h : ∀ t x, portFaces (f t x) q = portFaces t q) : portFaces (l.foldl f s) q = portFaces s q := by
  induction l generalizing s with
  | nil => rfl
  | cons a l ih => simp only [List.foldl_cons, ih, h]

/-! ## The always-on registers through a departure -/

/-- The registers below 0x50000: those of the always-on domain and of CFG. -/
def lowRegs (s : State) : Tbl Word := s.regs.filter (fun e => decide (e.1 < 0x50000))

theorem filter_tblSet_high {α : Type} (k : Nat) (v : α) (t : Tbl α) (h : 0x50000 ≤ k) :
    (tblSet k v t).filter (fun e => decide (e.1 < 0x50000)) = t.filter (fun e => decide (e.1 < 0x50000)) := by
  have hk : decide (k < 0x50000) = false := by simpa using h
  induction t with
  | nil => simp [tblSet, hk]
  | cons e t ih =>
    unfold tblSet
    split
    · simp only [List.filter_cons, ih]
    · split
      · rename_i e1
        simp only [List.filter_cons, e1, hk, Bool.false_eq_true, if_false]
      · simp only [List.filter_cons, hk]; rfl

theorem tblGet_filter_low {α : Type} (k : Nat) (t : Tbl α) (h : k < 0x50000) :
    tblGet k (t.filter (fun e => decide (e.1 < 0x50000))) = tblGet k t := by
  induction t with
  | nil => rfl
  | cons e t ih =>
    by_cases g : e.1 < 0x50000
    · simp only [List.filter_cons, decide_eq_true g, if_true, tblGet, ih]
    · have : e.1 ≠ k := by omega
      simp only [List.filter_cons, decide_eq_false g, Bool.false_eq_true, if_false, tblGet, if_neg this, ih]

theorem regAddr_high (r : RegId) (i k : Nat) (h : 0x50000 ≤ (regPlace r).base) : 0x50000 ≤ regAddr r i k := by
  unfold regAddr
  dsimp only
  omega

theorem setWord_low (s : State) (r : RegId) (v : Word) (i k : Nat) (h : 0x50000 ≤ (regPlace r).base) :
    lowRegs (s.setWord r v i k) = lowRegs s := filter_tblSet_high _ _ _ (regAddr_high r i k h)

theorem fset_low (s : State) (f : RegField) (v i k : Nat) (h : 0x50000 ≤ (regPlace f.reg).base) :
    lowRegs (s.fset f v i k) = lowRegs s := setWord_low s f.reg _ i k h

theorem finc_low (s : State) (f : RegField) (v i k : Nat) (h : 0x50000 ≤ (regPlace f.reg).base) :
    lowRegs (s.finc f v i k) = lowRegs s := setWord_low s f.reg _ i k h

theorem noPromotion_of_low {s t : State} (h : lowRegs t = lowRegs s) (e : t.image = s.image) (np : noPromotion s) : noPromotion t := by
  have g : tblGet (regAddr .FLT_PROMOTE 0 0) t.regs = tblGet (regAddr .FLT_PROMOTE 0 0) s.regs := by
    rw [← tblGet_filter_low _ t.regs (by decide), ← tblGet_filter_low _ s.regs (by decide)]
    exact congrArg _ h
  unfold noPromotion at np ⊢
  refine Eq.trans ?_ np
  simp only [State.fget, State.regWord]
  rw [e]
  exact congrArg (fun w => fieldOf (Option.getD w (resetWord s.image .FLT_PROMOTE 0)) 63 0) g

theorem foldl_low {α : Type} (f : State → α → State) (l : List α) (s : State) (h : ∀ t x, lowRegs (f t x) = lowRegs t) :
    lowRegs (l.foldl f s) = lowRegs s := by
  induction l generalizing s with
  | nil => rfl
  | cons a l ih => simp only [List.foldl_cons, ih, h]

theorem pmcCount_low (u ev amt : Nat) (ok : Word → Bool) (s : State) : lowRegs (pmcCount u ev amt ok s) = lowRegs s := by
  unfold pmcCount
  split
  · refine foldl_low _ _ _ (fun t i => ?_)
    dsimp only
    split
    · exact fset_low _ _ _ _ _ (by decide)
    · rfl
  · rfl

theorem pmcAdd_low (u ev amt : Nat) (s : State) : lowRegs (pmcAdd u ev amt s) = lowRegs s := pmcCount_low _ _ _ _ _
theorem pmcClass_low (u ev amt tc : Nat) (s : State) : lowRegs (pmcClass u ev amt tc s) = lowRegs s := pmcCount_low _ _ _ _ _

theorem capPlace_low (e : Bytes) (s : State) : lowRegs (capPlace e s) = lowRegs s := by
  unfold capPlace
  exact fset_low _ _ _ _ _ (by decide)

theorem capAppend_low (e : Bytes) (s : State) : lowRegs (capAppend e s) = lowRegs s := by
  unfold capAppend
  dsimp only
  split
  · exact capPlace_low _ _
  · split
    · rw [capPlace_low, fset_low _ _ _ _ _ (by decide), finc_low _ _ _ _ _ (by decide), fset_low _ _ _ _ _ (by decide)]
    · exact finc_low _ _ _ _ _ (by decide)

theorem capSelect_low (s : State) (e : CapEvent) : lowRegs (capSelect s e).1 = lowRegs s := by
  unfold capSelect
  have : ∀ (l : List Nat) (a : State × Option Nat), lowRegs (l.foldl (fun (acc : State × Option Nat) (k : Nat) =>
    if capMatches acc.1 k e then
      let c := acc.1.cap.matched.toList.getD k 0
      let t := { acc.1 with cap := { acc.1.cap with matched := acc.1.cap.matched.setIfInBounds k (c + 1) } }
      (t, if acc.2.isNone && c % 2 ^ acc.1.fget F.CAP_FILT_A_SAMPLE 0 k = 0 then some k else acc.2)
    else acc) a).1 = lowRegs a.1 := by
    intro l
    induction l with
    | nil => intro a; rfl
    | cons k l ih =>
      intro a
      rw [List.foldl_cons, ih]
      split <;> rfl
  exact this _ _

theorem capture_low (es : List CapEvent) (s : State) : lowRegs (capture es s) = lowRegs s := by
  unfold capture
  split
  · dsimp only
    rw [finc_low _ _ _ _ _ (by decide)]
    have h1 : ∀ (l : List CapEvent) (a : State × List (Nat × CapEvent)), lowRegs (l.foldl (fun acc e =>
      ((capSelect acc.1 e).1, match (capSelect acc.1 e).2 with | some k => acc.2 ++ [(k, e)] | none => acc.2)) a).1 = lowRegs a.1 := by
      intro l
      induction l with
      | nil => intro a; rfl
      | cons e l ih =>
        intro a
        rw [List.foldl_cons, ih]
        exact capSelect_low _ _
    rw [foldl_low _ _ _ (fun t x => by rw [pmcAdd_low, capAppend_low])]
    exact h1 _ _
  · rfl

theorem recordDiscard_low (x cause dwell : Nat) (pkt : Packet) (s : State) : lowRegs (recordDiscard x cause dwell pkt s) = lowRegs s := by
  unfold recordDiscard
  rw [capture_low, pmcClass_low]

theorem abandonTx_low (p : NetPort) (s : State) : lowRegs (abandonTx p s) = lowRegs s := by
  unfold abandonTx
  split
  · rfl
  · refine Eq.trans (b := lowRegs (countSlots p _ true _)) rfl ?_
    unfold countSlots
    rw [pmcClass_low]
    rfl

theorem abortOutput_low (o : NetPort) (x : XbarPort) (s : State) : lowRegs (abortOutput o x s) = lowRegs s := by
  unfold abortOutput
  dsimp only
  split
  · split
    · refine Eq.trans (b := lowRegs (abandonTx o _)) rfl ?_
      rw [abandonTx_low]
      split <;> split <;> rfl
    · split <;> rfl
  · split <;> rfl

theorem dropArriving_low (p : NetPort) (s : State) : lowRegs (dropArriving p s) = lowRegs s := by
  unfold dropArriving
  dsimp only
  split
  · exact abortOutput_low _ _ _
  · rfl

theorem releaseIn_low (p : NetPort) (tc : Nat) (pkt : Packet) (arrived : Nat) (s : State) :
    lowRegs (releaseIn p tc pkt arrived true false s) = lowRegs s := by
  unfold releaseIn leaveStaging
  dsimp only
  split
  · rw [if_pos rfl, returnCredits_free _ _ _ rfl, recordDiscard_low, capture_low, pmcClass_low, pmcClass_low]
  · split
    · rw [if_pos rfl, returnCredits_free _ _ _ rfl, recordDiscard_low, finc_low _ _ _ _ _ (by decide), capture_low, pmcClass_low,
        pmcClass_low]
    · refine Eq.trans (b := lowRegs (capture _ _)) rfl ?_
      rw [capture_low, pmcClass_low, pmcClass_low]

theorem image_of_still {s t : State} (h : t.still = s.still) : t.image = s.image := by
  simp only [still_def, stillOf, Prod.mk.injEq] at h; exact h.2.1

theorem rst_of_still {s t : State} (h : t.still = s.still) : t.rst = s.rst := by
  simp only [still_def, stillOf, Prod.mk.injEq] at h; exact h.2.2.2.2.1

/-- The departing port's link is DOWN with its lanes as they were; every other port shows what it showed. -/
theorem linkDepart_faces (p q : NetPort) (cause : Nat) (fresh : Bool) (s : State) (np : noPromotion s) :
    portFaces (linkDepart p cause fresh s) q = (laneFace (s.port q).lane, if q = p then .down else (s.port q).link.phase) := by
  unfold linkDepart
  dsimp only
  generalize hx : dropArriving p (if decide ((s.port p).link.phase = .up) = true then abandonTx p s else s) = x
  have h1 : portFaces x q = portFaces s q := by
    rw [← hx, dropArriving_faces]
    split
    · exact abandonTx_faces _ _ _
    · rfl
  have h2 : lowRegs x = lowRegs s := by
    rw [← hx, dropArriving_low]
    split
    · exact abandonTx_low _ _
    · rfl
  have h3 : x.image = s.image := by
    refine image_of_still ?_
    rw [← hx, dropArriving_still]
    split
    · exact abandonTx_still _ _
    · rfl
  generalize hm : x.modPort p (fun q => _) = y
  have g1 : portFaces y q = (laneFace (s.port q).lane, if q = p then .down else (s.port q).link.phase) := by
    have e1 : laneFace (x.port q).lane = laneFace (s.port q).lane := congrArg Prod.fst h1
    have e2 : (x.port q).link.phase = (s.port q).link.phase := congrArg Prod.snd h1
    rw [← hm]
    by_cases e : q = p
    · subst e
      rw [if_pos rfl, portFaces, modPort_port_same, ← e1]; rfl
    · rw [if_neg e, portFaces, modPort_port_other _ _ _ _ e, e1, e2]
  have g2 : lowRegs y = lowRegs s := by rw [← hm]; exact h2
  have g3 : y.image = s.image := by rw [← hm]; exact h3
  generalize hz : List.foldl _ y _ = z
  have k1 : portFaces z q = (laneFace (s.port q).lane, if q = p then .down else (s.port q).link.phase) := by
    rw [← hz, foldl_faces _ _ _ _ (fun t x => releaseIn_faces _ _ _ _ _ _)]; exact g1
  have k2 : lowRegs z = lowRegs s := by
    rw [← hz, foldl_low _ _ _ (fun t x => releaseIn_low _ _ _ _ _)]; exact g2
  have k3 : z.image = s.image := by
    rw [← g3, ← hz]
    refine image_of_still ?_
    rw [foldl_still _ _ _ (fun t x => releaseIn_still _ _ _ _ _ _ _)]
  split
  · rw [← k1]
    refine faces_of_ports ?_ q
    rw [reportOnly_ports (asyncChip_report _ _ _ _ ?_)]
    · rfl
    · refine noPromotion_of_low (s := s) ?_ k3 np
      rw [fset_low _ _ _ _ _ (by decide), finc_low _ _ _ _ _ (by decide), finc_low _ _ _ _ _ (by decide)]
      exact k2
  · split
    · exact k1
    · exact k1

theorem sendLve_faces (p q : NetPort) (reason : Nat) (s : State) : portFaces (sendLve p reason s) q = portFaces s q := by
  unfold sendLve
  dsimp only
  split
  · rw [sendSet_faces]
    split
    · exact sendSet_faces _ _ _ _
    · rfl
  · rfl

theorem sendLve_low (p : NetPort) (reason : Nat) (s : State) : lowRegs (sendLve p reason s) = lowRegs s := by
  unfold sendLve
  dsimp only
  split
  · split <;> rfl
  · rfl

/-- The reset of a port (R313): its lanes stop and its link goes down; every other port shows what it showed. -/
theorem resetL_faces (p q : NetPort) (reason cause : Nat) (fresh : Bool) (s : State) (np : noPromotion s)
    (run : s.routerRuns = true) (role : s.role p ≠ .disabled) :
    portFaces (resetL p reason cause fresh s) q =
      if q = p then (laneFace (laneStop (retryPll (s.port p).lane)), .down) else portFaces s q := by
  unfold resetL
  rw [if_neg (by simp [run, role])]
  dsimp only
  generalize hx : sendLve p reason (if (s.port p).link.phase = .up then abandonTx p s else s) = x
  have h1 : ∀ q, portFaces x q = portFaces s q := by
    intro q
    rw [← hx, sendLve_faces]
    split
    · exact abandonTx_faces _ _ _
    · rfl
  have h2 : lowRegs x = lowRegs s := by
    rw [← hx, sendLve_low]
    split
    · exact abandonTx_low _ _
    · rfl
  have h3 : x.image = s.image := by
    refine image_of_still ?_
    rw [← hx, sendLve_still]
    split
    · exact abandonTx_still _ _
    · rfl
  have d := fun q => linkDepart_faces p q cause fresh x (noPromotion_of_low h2 h3 np)
  refine Eq.trans (b := portFaces ((linkDepart p cause fresh x).modLane p (fun l => laneStop (retryPll l))) q) rfl ?_
  have hs : ∀ l : LaneState, laneFace (laneStop (retryPll l)) = laneFace (laneStop (retryPll (laneFace l))) := by
    intro l; unfold retryPll; split <;> rename_i h <;> simp only [laneFace] at * <;> simp [h, laneStop, laneForget]
  by_cases e : q = p
  · subst e
    have d1 := congrArg Prod.fst (d q)
    have d2 := congrArg Prod.snd (d q)
    have e1 := congrArg Prod.fst (h1 q)
    simp only [portFaces, if_true] at d1 d2 e1
    simp only [if_true, portFaces, modLane_port_same, d2]
    rw [hs, d1, e1, ← hs]
  · have d1 := d q
    rw [if_neg e] at d1
    rw [if_neg e, ← h1 q]
    simp only [portFaces, modLane_port_other _ _ _ _ e] at d1 ⊢
    exact d1

end Sys2Proof.Laws
end

