-- ==== Sys2Proof/Laws/Registers.lean ====
section
/-! SUPPORT. Where the registers that commands write stand in BAR0, and what a write at such an address comes to. -/

-- The kernel decisions of this file wait for one another: one after the other, each holds no thread while it waits.
set_option Elab.async false

namespace Sys2Proof.Laws

open Sys2Proof.Machine

/-! ## Addresses -/

theorem regAt_prog_ctl : regAt (regAddr .CFG_PROG_CTL 0 0) = some (.CFG_PROG_CTL, 0, 0) := by decide +kernel
theorem regAt_cal_unlock : regAt (regAddr .CFG_CAL_UNLOCK 0 0) = some (.CFG_CAL_UNLOCK, 0, 0) := by decide +kernel
theorem regAt_activate : regAt (regAddr .CFG_ACTIVATE 0 0) = some (.CFG_ACTIVATE, 0, 0) := by decide +kernel
theorem regAt_bind : regAt (regAddr .AON_BIND 0 0) = some (.AON_BIND, 0, 0) := by decide +kernel
theorem regAt_rsram : regAt (regAddr .AON_RSRAM_DATA 0 0) = some (.AON_RSRAM_DATA, 0, 0) := by decide +kernel
theorem regAt_cap_ci : regAt (regAddr .CAP_CI 0 0) = some (.CAP_CI, 0, 0) := by decide +kernel
theorem regAt_cap_ctl : regAt (regAddr .CAP_CTL 0 0) = some (.CAP_CTL, 0, 0) := by decide +kernel
theorem regAt_dbg_halt : regAt (regAddr .DBG_HALT 0 0) = some (.DBG_HALT, 0, 0) := by decide +kernel
theorem regAt_dbg_level : regAt (regAddr .DBG_LEVEL 0 0) = some (.DBG_LEVEL, 0, 0) := by decide +kernel
theorem regAt_dbg_mem : regAt (regAddr .DBG_MEM_DATA 0 0) = some (.DBG_MEM_DATA, 0, 0) := by decide +kernel
theorem regAt_inject : regAt (regAddr .FLT_INJECT 0 0) = some (.FLT_INJECT, 0, 0) := by decide +kernel
theorem regAt_snap : regAt (regAddr .PMC_SNAP 0 0) = some (.PMC_SNAP, 0, 0) := by decide +kernel
theorem regAt_pwr_ctl : regAt (regAddr .PWR_CTL 0 0) = some (.PWR_CTL, 0, 0) := by decide +kernel
theorem regAt_rst_cmd : regAt (regAddr .RST_CMD 0 0) = some (.RST_CMD, 0, 0) := by decide +kernel
theorem regAt_rst_wdog : regAt (regAddr .RST_WDOG 0 0) = some (.RST_WDOG, 0, 0) := by decide +kernel
theorem regAt_epoch : regAt (regAddr .RTR_EPOCH 0 0) = some (.RTR_EPOCH, 0, 0) := by decide +kernel
theorem regAt_tbl_ctl : regAt (regAddr .RTR_TBL_CTL 0 0) = some (.RTR_TBL_CTL, 0, 0) := by decide +kernel
theorem regAt_tim_set : regAt (regAddr .TIM_SET 0 0) = some (.TIM_SET, 0, 0) := by decide +kernel
theorem regAt_lock : ∀ k : Fin 256, regAt (regAddr .SEM_LOCK 0 k.val) = some (.SEM_LOCK, 0, k.val) := by decide +kernel
theorem regAt_lan_ctl : ∀ p : Fin 64, regAt (regAddr .LAN_CTL p.val 0) = some (.LAN_CTL, p.val, 0) := by decide +kernel
theorem regAt_lnk_ctl : ∀ p : Fin 64, regAt (regAddr .LNK_CTL p.val 0) = some (.LNK_CTL, p.val, 0) := by decide +kernel
theorem regAt_pmc_ctl : ∀ u : Fin 72, regAt (regAddr .PMC_CTL u.val 0) = some (.PMC_CTL, u.val, 0) := by decide +kernel
theorem regAt_adm_cfg : ∀ h : Fin 2, regAt (regAddr .WQ_ADM_CFG h.val 0) = some (.WQ_ADM_CFG, h.val, 0) := by decide +kernel
theorem regAt_adm_pi : ∀ h : Fin 2, regAt (regAddr .WQ_ADM_PI h.val 0) = some (.WQ_ADM_PI, h.val, 0) := by decide +kernel
theorem regAt_inv_ctl : ∀ h : Fin 2, regAt (regAddr .XLT_INV_CTL h.val 0) = some (.XLT_INV_CTL, h.val, 0) := by decide +kernel
theorem regAt_pair_q : ∀ h : Fin 2, regAt (regAddr .CC_PAIR_Q h.val 0) = some (.CC_PAIR_Q, h.val, 0) := by decide +kernel
theorem regAt_pair_reset : ∀ h : Fin 2, regAt (regAddr .EPC_PAIR_RESET h.val 0) = some (.EPC_PAIR_RESET, h.val, 0) := by decide +kernel

/-- What one row of the register list answers for an offset. -/
def rowAt (off : Nat) (r : RegId) : Option (RegId × Nat × Nat) :=
  let p := regPlace r
  if off < p.base then none
  else
    let d := off - p.base
    let i := if p.instStride = 0 then 0 else d / p.instStride
    let e := d - p.instStride * i
    let k := if p.idxStride = 0 then 0 else e / p.idxStride
    if i < p.instCount ∧ k < p.idxCount ∧ p.instStride * i + p.idxStride * k = d then some (r, i, k) else none

theorem regAt_rows (off : Nat) : regAt off = regList.findSome? (rowAt off) := rfl

/-- The row holds nothing from `lo` to `hi`: it lies above, below, or in the gap of one block instance. -/
def rowMisses (lo hi : Nat) (r : RegId) : Bool :=
  let p := regPlace r
  decide (hi < p.base) || decide (p.base + p.instStride * (p.instCount - 1) + p.idxStride * (p.idxCount - 1) < lo) ||
    (decide (p.instStride ≠ 0) && decide (p.base ≤ lo) && decide ((lo - p.base) / p.instStride = (hi - p.base) / p.instStride) &&
      decide (p.idxStride * (p.idxCount - 1) < lo - p.base - p.instStride * ((lo - p.base) / p.instStride)))

theorem rowAt_none {lo hi off : Nat} {r : RegId} (l : lo ≤ off) (u : off ≤ hi) (m : rowMisses lo hi r = true) :
    rowAt off r = none := by
  unfold rowMisses at m
  unfold rowAt
  generalize regPlace r = p at m ⊢
  simp only [Bool.or_eq_true, Bool.and_eq_true, decide_eq_true_eq] at m
  dsimp only
  by_cases b : off < p.base
  · rw [if_pos b]
  rw [if_neg b]
  refine if_neg ?_
  rintro ⟨ci, ck, cd⟩
  generalize ei : (if p.instStride = 0 then 0 else (off - p.base) / p.instStride) = i at ci ck cd
  generalize (if p.idxStride = 0 then 0 else (off - p.base - p.instStride * i) / p.idxStride) = k at ck cd
  have hk : p.idxStride * k ≤ p.idxStride * (p.idxCount - 1) := Nat.mul_le_mul_left _ (by omega)
  have hi' : p.instStride * i ≤ p.instStride * (p.instCount - 1) := Nat.mul_le_mul_left _ (by omega)
  rcases m with (m | m) | ⟨⟨⟨m0, m1⟩, m2⟩, m3⟩
  · omega
  · omega
  · rw [if_neg m0] at ei
    have h1 : (lo - p.base) / p.instStride ≤ (off - p.base) / p.instStride := Nat.div_le_div_right (by omega)
    have h2 : (off - p.base) / p.instStride ≤ (hi - p.base) / p.instStride := Nat.div_le_div_right (by omega)
    have h3 : (lo - p.base) / p.instStride = i := by omega
    rw [h3] at m3
    omega

/-- The rows of the register list before the consumer indices. -/
def rowsBeforeCi : List RegId := regList.takeWhile (fun r => r != .EQ_CI)

theorem regList_ci : regList = rowsBeforeCi ++ .EQ_CI :: (regList.dropWhile (fun r => r != .EQ_CI)).tail := by decide +kernel

theorem rows_miss_ci : ∀ h : Fin 2, rowsBeforeCi.all (rowMisses (0xE8000 + 0x10000 * h.val) (0xEFFF8 + 0x10000 * h.val)) = true := by
  decide +kernel

theorem regAddr_ci (h : Fin 2) (k : Fin 4096) : regAddr .EQ_CI h.val k.val = 0xE8000 + 0x10000 * h.val + 8 * k.val := rfl

theorem rowAt_some {off i k : Nat} {r : RegId} (b : ¬ off < (regPlace r).base) (s1 : (regPlace r).instStride ≠ 0)
    (s2 : (regPlace r).idxStride ≠ 0) (ei : (off - (regPlace r).base) / (regPlace r).instStride = i)
    (ek : (off - (regPlace r).base - (regPlace r).instStride * i) / (regPlace r).idxStride = k)
    (ci : i < (regPlace r).instCount) (ck : k < (regPlace r).idxCount)
    (cd : (regPlace r).instStride * i + (regPlace r).idxStride * k = off - (regPlace r).base) :
    rowAt off r = some (r, i, k) := by
  unfold rowAt
  generalize regPlace r = p at *
  dsimp only
  rw [if_neg b, if_neg s1, if_neg s2, ei, ek, if_pos ⟨ci, ck, cd⟩]

theorem rowAt_ci (h : Fin 2) (k : Fin 4096) :
    rowAt (0xE8000 + 0x10000 * h.val + 8 * k.val) .EQ_CI = some (.EQ_CI, h.val, k.val) := by
  refine rowAt_some ?_ ?_ ?_ ?_ ?_ ?_ ?_ ?_ <;> simp only [regPlace] <;> omega

theorem findSome_at {α β : Type} {f : α → Option β} {a b : List α} {x : α} {y : β} (n : a.findSome? f = none) (e : f x = some y) :
    (a ++ x :: b).findSome? f = some y := by
  rw [List.findSome?_append, n, Option.none_or, List.findSome?_cons, e]

theorem regAt_eq_ci (h : Fin 2) (k : Fin 4096) : regAt (regAddr .EQ_CI h.val k.val) = some (.EQ_CI, h.val, k.val) := by
  rw [regAddr_ci, regAt_rows, regList_ci]
  refine findSome_at (List.findSome?_eq_none_iff.mpr fun r m => ?_) (rowAt_ci h k)
  exact rowAt_none (by omega) (by omega) (List.all_eq_true.mp (rows_miss_ci h) r m)

/-! ## A write at a register that answers -/

theorem regHere_at {s : State} {off : Nat} {r : RegId} {i k : Nat} (e : regAt off = some (r, i, k))
    (a : s.answers (regPlace r).block i = true) : regHere s off = some (r, i, k) := by
  simp only [regHere, e]; exact if_pos a

theorem regHere_off {s : State} {off : Nat} {r : RegId} {i k : Nat} (e : regAt off = some (r, i, k))
    (a : s.answers (regPlace r).block i = false) : regHere s off = none := by
  simp only [regHere, e, a]; rfl

theorem writeReg_at {mid : Mid} {s : State} {off : Nat} {v : Word} {r : RegId} {i k : Nat} (e : regAt off = some (r, i, k))
    (a : s.answers (regPlace r).block i = true) : writeReg mid off v s = writeAt mid off r i k v s := by
  simp only [writeReg, regHere_at e a]

theorem writeReg_off {mid : Mid} {s : State} {off : Nat} {v : Word} {r : RegId} {i k : Nat} (e : regAt off = some (r, i, k))
    (a : s.answers (regPlace r).block i = false) : writeReg mid off v s = s := by
  simp only [writeReg, regHere_off e a]

theorem readReg_at {mid : Mid} {s : State} {off : Nat} {r : RegId} {i k : Nat} (e : regAt off = some (r, i, k))
    (a : s.answers (regPlace r).block i = true) : readReg mid off s = readAt mid r i k s := by
  simp only [readReg, regHere_at e a]

/-! ## The registers that commands write -/

theorem portIx_val (p : NetPort) : portIx p.val = p := Fin.ofNat_val_eq_self p
theorem hostIx_val : ∀ h : HostPort, hostIx h.val = h := by decide
theorem lockIx_val (k : Fin 256) : Fin.ofNat 256 k.val = k := Fin.ofNat_val_eq_self k

theorem write_prog_ctl {mid : Mid} {v : Word} {s : State} (a : s.rst.pHeld = false) :
    writeReg mid (regAddr .CFG_PROG_CTL 0 0) v s = progCtlWrite mid v s := by
  rw [writeReg_at regAt_prog_ctl (by simp only [State.answers, regPlace, a, Bool.not_false])]
  rfl

theorem write_cal_unlock {mid : Mid} {v : Word} {s : State} (a : s.rst.pHeld = false) :
    writeReg mid (regAddr .CFG_CAL_UNLOCK 0 0) v s = calUnlockWrite mid v s := by
  rw [writeReg_at regAt_cal_unlock (by simp only [State.answers, regPlace, a, Bool.not_false])]
  rfl

theorem write_activate {mid : Mid} {v : Word} {s : State} (a : s.rst.pHeld = false) :
    writeReg mid (regAddr .CFG_ACTIVATE 0 0) v s = activateWrite v (calDisarm mid s) := by
  rw [writeReg_at regAt_activate (by simp only [State.answers, regPlace, a, Bool.not_false])]
  rfl

theorem write_bind {mid : Mid} {v : Word} {s : State} (a : s.rst.pHeld = false) :
    writeReg mid (regAddr .AON_BIND 0 0) v s = bindWrite mid v s := by
  rw [writeReg_at regAt_bind (by simp only [State.answers, regPlace, a, Bool.not_false])]
  rfl

theorem write_rsram {mid : Mid} {v : Word} {s : State} (a : s.rst.pHeld = false) :
    writeReg mid (regAddr .AON_RSRAM_DATA 0 0) v s = (rsramAccess (some v) s).1 := by
  rw [writeReg_at regAt_rsram (by simp only [State.answers, regPlace, a, Bool.not_false])]
  rfl

theorem write_inject {mid : Mid} {v : Word} {s : State} (a : s.rst.pHeld = false) :
    writeReg mid (regAddr .FLT_INJECT 0 0) v s = injectFault mid v s := by
  rw [writeReg_at regAt_inject (by simp only [State.answers, regPlace, a, Bool.not_false])]
  rfl

theorem write_pwr_ctl {mid : Mid} {v : Word} {s : State} (a : s.rst.pHeld = false) :
    writeReg mid (regAddr .PWR_CTL 0 0) v s = pwrCtlWrite mid v s := by
  rw [writeReg_at regAt_pwr_ctl (by simp only [State.answers, regPlace, a, Bool.not_false])]
  rfl

theorem write_rst_cmd {mid : Mid} {v : Word} {s : State} (a : s.rst.pHeld = false) :
    writeReg mid (regAddr .RST_CMD 0 0) v s = resetCommand mid v s := by
  rw [writeReg_at regAt_rst_cmd (by simp only [State.answers, regPlace, a, Bool.not_false])]
  rfl

theorem write_rst_wdog {mid : Mid} {v : Word} {s : State} (a : s.rst.pHeld = false) :
    writeReg mid (regAddr .RST_WDOG 0 0) v s = wdogWrite v s := by
  rw [writeReg_at regAt_rst_wdog (by simp only [State.answers, regPlace, a, Bool.not_false])]
  rfl

theorem write_tim_set {mid : Mid} {v : Word} {s : State} (a : s.rst.pHeld = false) :
    writeReg mid (regAddr .TIM_SET 0 0) v s = timSetGo v s := by
  rw [writeReg_at regAt_tim_set (by simp only [State.answers, regPlace, a, Bool.not_false])]
  rfl

theorem write_cap_ci {mid : Mid} {v : Word} {s : State} (a : s.svcRuns = true) :
    writeReg mid (regAddr .CAP_CI 0 0) v s = capCiWrite v s := by
  rw [writeReg_at regAt_cap_ci (by simp only [State.answers, regPlace, a])]
  rfl

theorem write_cap_ctl {mid : Mid} {v : Word} {s : State} (a : s.svcRuns = true) :
    writeReg mid (regAddr .CAP_CTL 0 0) v s = capCtlWrite v s := by
  rw [writeReg_at regAt_cap_ctl (by simp only [State.answers, regPlace, a])]
  rfl

theorem write_dbg_halt {mid : Mid} {v : Word} {s : State} (a : s.svcRuns = true) :
    writeReg mid (regAddr .DBG_HALT 0 0) v s = dbgHaltWrite v s := by
  rw [writeReg_at regAt_dbg_halt (by simp only [State.answers, regPlace, a])]
  rfl

theorem write_dbg_level {mid : Mid} {v : Word} {s : State} (a : s.svcRuns = true) :
    writeReg mid (regAddr .DBG_LEVEL 0 0) v s = debugLevelSet v s := by
  rw [writeReg_at regAt_dbg_level (by simp only [State.answers, regPlace, a])]
  rfl

theorem write_dbg_mem {mid : Mid} {v : Word} {s : State} (a : s.svcRuns = true) :
    writeReg mid (regAddr .DBG_MEM_DATA 0 0) v s = dbgWrite mid v s := by
  rw [writeReg_at regAt_dbg_mem (by simp only [State.answers, regPlace, a])]
  rfl

theorem write_snap {mid : Mid} {v : Word} {s : State} (a : s.svcRuns = true) :
    writeReg mid (regAddr .PMC_SNAP 0 0) v s = pmcSnapWrite v s := by
  rw [writeReg_at regAt_snap (by simp only [State.answers, regPlace, a])]
  rfl

theorem write_epoch {mid : Mid} {v : Word} {s : State} (a : s.routerRuns = true) :
    writeReg mid (regAddr .RTR_EPOCH 0 0) v s = epochWrite v s := by
  rw [writeReg_at regAt_epoch (by simp only [State.answers, regPlace, a])]
  rfl

theorem write_tbl_ctl {mid : Mid} {v : Word} {s : State} (a : s.routerRuns = true) :
    writeReg mid (regAddr .RTR_TBL_CTL 0 0) v s = tableCommand v s := by
  rw [writeReg_at regAt_tbl_ctl (by simp only [State.answers, regPlace, a])]
  rfl

theorem write_pmc_ctl {mid : Mid} {v : Word} {s : State} (u : Fin 72) (a : s.svcRuns = true) :
    writeReg mid (regAddr .PMC_CTL u.val 0) v s = pmcCtlWrite u.val v s := by
  rw [writeReg_at (regAt_pmc_ctl u) (by simp only [State.answers, regPlace, a])]
  rfl

theorem write_lan_ctl {mid : Mid} {v : Word} {s : State} (p : Fin 64) (a : s.routerRuns = true) :
    writeReg mid (regAddr .LAN_CTL p.val 0) v s = portWrite p (lanCtlWrite p v) s := by
  rw [writeReg_at (regAt_lan_ctl p) (by simp only [State.answers, regPlace, a])]
  show portWrite (portIx p.val) (netWrite .LAN_CTL (portIx p.val) 0 v) s = _
  rw [portIx_val]; rfl

theorem write_lnk_ctl {mid : Mid} {v : Word} {s : State} (p : Fin 64) (a : s.routerRuns = true) :
    writeReg mid (regAddr .LNK_CTL p.val 0) v s = portWrite p (lnkCtlWrite p v) s := by
  rw [writeReg_at (regAt_lnk_ctl p) (by simp only [State.answers, regPlace, a])]
  show portWrite (portIx p.val) (netWrite .LNK_CTL (portIx p.val) 0 v) s = _
  rw [portIx_val]; rfl

theorem write_adm_cfg {mid : Mid} {v : Word} {s : State} (h : Fin 2) (a : s.nicRuns = true) (e : s.hostPresent h.val = true) :
    writeReg mid (regAddr .WQ_ADM_CFG h.val 0) v s = admCfgWrite h v s := by
  rw [writeReg_at (regAt_adm_cfg h) (by simp only [State.answers, regPlace, a, e, Bool.and_self])]
  show nicWrite mid (regAddr .WQ_ADM_CFG h.val 0) .WQ_ADM_CFG (hostIx h.val) 0 v s = _
  rw [hostIx_val]; rfl

theorem write_adm_pi {mid : Mid} {v : Word} {s : State} (h : Fin 2) (a : s.nicRuns = true) (e : s.hostPresent h.val = true) :
    writeReg mid (regAddr .WQ_ADM_PI h.val 0) v s = admBell h v s := by
  rw [writeReg_at (regAt_adm_pi h) (by simp only [State.answers, regPlace, a, e, Bool.and_self])]
  show nicWrite mid (regAddr .WQ_ADM_PI h.val 0) .WQ_ADM_PI (hostIx h.val) 0 v s = _
  rw [hostIx_val]; rfl

theorem write_inv_ctl {mid : Mid} {v : Word} {s : State} (h : Fin 2) (a : s.nicRuns = true) (e : s.hostPresent h.val = true) :
    writeReg mid (regAddr .XLT_INV_CTL h.val 0) v s = invCtlWrite h v s := by
  rw [writeReg_at (regAt_inv_ctl h) (by simp only [State.answers, regPlace, a, e, Bool.and_self])]
  show nicWrite mid (regAddr .XLT_INV_CTL h.val 0) .XLT_INV_CTL (hostIx h.val) 0 v s = _
  rw [hostIx_val]; rfl

theorem write_pair_q {mid : Mid} {v : Word} {s : State} (h : Fin 2) (a : s.nicRuns = true) (e : s.hostPresent h.val = true) :
    writeReg mid (regAddr .CC_PAIR_Q h.val 0) v s = if bitOf v 24 then ccQueryGo h (fieldOf v 23 0) s else s := by
  rw [writeReg_at (regAt_pair_q h) (by simp only [State.answers, regPlace, a, e, Bool.and_self])]
  show nicWrite mid (regAddr .CC_PAIR_Q h.val 0) .CC_PAIR_Q (hostIx h.val) 0 v s = _
  rw [hostIx_val]; rfl

theorem write_pair_reset {mid : Mid} {v : Word} {s : State} (h : Fin 2) (a : s.nicRuns = true) (e : s.hostPresent h.val = true) :
    writeReg mid (regAddr .EPC_PAIR_RESET h.val 0) v s = if bitOf v 24 then pairResetGo h (fieldOf v 23 0) s else s := by
  rw [writeReg_at (regAt_pair_reset h) (by simp only [State.answers, regPlace, a, e, Bool.and_self])]
  show nicWrite mid (regAddr .EPC_PAIR_RESET h.val 0) .EPC_PAIR_RESET (hostIx h.val) 0 v s = _
  rw [hostIx_val]; rfl

theorem write_eq_ci {mid : Mid} {v : Word} {s : State} (h : Fin 2) (k : Fin 4096) (a : s.nicRuns = true)
    (e : s.hostPresent h.val = true) : writeReg mid (regAddr .EQ_CI h.val k.val) v s = eqCiWrite h k.val v s := by
  rw [writeReg_at (regAt_eq_ci h k) (by simp only [State.answers, regPlace, a, e, Bool.and_self])]
  show nicWrite mid (regAddr .EQ_CI h.val k.val) .EQ_CI (hostIx h.val) k.val v s = _
  rw [hostIx_val]; rfl

theorem write_lock {mid : Mid} {v : Word} {s : State} (k : Fin 256) (a : s.svcRuns = true) :
    writeReg mid (regAddr .SEM_LOCK 0 k.val) v s = lockWrite mid k v s := by
  rw [writeReg_at (regAt_lock k) (by simp only [State.answers, regPlace, a])]
  show chipWrite mid .SEM_LOCK 0 k.val v s = _
  show lockWrite mid (Fin.ofNat 256 k.val) v s = _
  rw [lockIx_val]

theorem read_lock {mid : Mid} {s : State} (k : Fin 256) (a : s.svcRuns = true) :
    readReg mid (regAddr .SEM_LOCK 0 k.val) s =
      (modLock k (fun _ => (lockRead mid s.locks[k]).2) s, (lockRead mid s.locks[k]).1) := by
  rw [readReg_at (regAt_lock k) (by simp only [State.answers, regPlace, a])]
  simp only [readAt, lockIx_val]

theorem read_rsram {mid : Mid} {s : State} (a : s.rst.pHeld = false) :
    readReg mid (regAddr .AON_RSRAM_DATA 0 0) s = rsramAccess none s := by
  rw [readReg_at regAt_rsram (by simp only [State.answers, regPlace, a, Bool.not_false])]
  rfl

theorem read_dbg_mem {mid : Mid} {s : State} (a : s.svcRuns = true) :
    readReg mid (regAddr .DBG_MEM_DATA 0 0) s = dbgRead mid s := by
  rw [readReg_at regAt_dbg_mem (by simp only [State.answers, regPlace, a])]
  rfl

end Sys2Proof.Laws
end

