-- ==== Sys2Proof/Laws/Access.lean ====
section
/-! SUPPORT. What a register access does by the access codes, and how the fields of a register read after one is set. -/

namespace Sys2Proof.Laws

open Sys2Proof.Machine

/-- The fields of a row list lie apart. -/
def apart : List FieldRow → Bool
  | [] => true
  | r :: l => decide (r.lo ≤ r.hi) && decide (r.hi < 64) && l.all (fun q => decide (q.hi < r.lo) || decide (r.hi < q.lo)) && apart l
theorem fields_apart (r : RegId) : apart (regFields r) = true := by cases r <;> decide

theorem fold_other (v : Word) (row : FieldRow) : ∀ (l : List FieldRow) (w : Word), apart l = true → (∀ q ∈ l, q.hi < row.lo ∨ row.hi < q.lo) → 
    fieldOf (l.foldl (writeField v) w) row.hi row.lo = fieldOf w row.hi row.lo := by
  intro l
  induction l with
  | nil => intro w _ _; rfl
  | cons q l ih =>
    intro w a d
    simp only [apart, Bool.and_eq_true, decide_eq_true_eq] at a
    rw [List.foldl_cons, ih _ a.2 (fun x m => d x (List.mem_cons_of_mem _ m))]
    have one : ∀ x, fieldOf (putField w q.hi q.lo x) row.hi row.lo = fieldOf w row.hi row.lo := by
      intro x
      rcases d q List.mem_cons_self with h | h
      · exact fieldOf_putField_above w _ _ _ _ _ a.1.1.1 a.1.1.2 h
      · exact fieldOf_putField_below w _ _ _ _ _ a.1.1.1 a.1.1.2 h
    unfold writeField
    dsimp only
    split <;> first | rfl | exact one _

theorem fold_field (v : Word) (row : FieldRow) : ∀ (l : List FieldRow) (w : Word), apart l = true → row ∈ l →
    fieldOf (l.foldl (writeField v) w) row.hi row.lo =
      writtenField row.access (fieldOf w row.hi row.lo) (fieldOf v row.hi row.lo) := by
  intro l
  induction l with
  | nil => intro w _ m; cases m
  | cons q l ih =>
    intro w a m
    have a' := a
    simp only [apart, Bool.and_eq_true, decide_eq_true_eq, List.all_eq_true, Bool.or_eq_true] at a
    rw [List.foldl_cons]
    rcases List.mem_cons.mp m with rfl | m
    · rw [fold_other v row l _ a.2 (fun x mx => (a.1.2 x mx).imp id id)]
      have one : ∀ x, x < 2 ^ (row.hi + 1 - row.lo) → fieldOf (putField w row.hi row.lo x) row.hi row.lo = x := by
        intro x hx
        rw [fieldOf_putField w _ _ _ a.1.1.1 a.1.1.2, Nat.mod_eq_of_lt hx]
      unfold writeField writtenField
      dsimp only
      cases row.access <;> dsimp only
      · exact one _ (fieldOf_lt _ _ _)
      · exact one _ (Nat.lt_of_le_of_lt (Nat.sub_le _ _) (fieldOf_lt _ _ _))
      · exact one _ (Nat.or_lt_two_pow (fieldOf_lt _ _ _) (fieldOf_lt _ _ _))
    · rw [ih _ a.2 m]
      have d := a.1.2 row m
      have one : ∀ x, fieldOf (putField w q.hi q.lo x) row.hi row.lo = fieldOf w row.hi row.lo := by
        intro x
        rcases d with h | h
        · exact fieldOf_putField_below w _ _ _ _ _ a.1.1.1 a.1.1.2 h
        · exact fieldOf_putField_above w _ _ _ _ _ a.1.1.1 a.1.1.2 h
      have : fieldOf (writeField v w q) row.hi row.lo = fieldOf w row.hi row.lo := by
        unfold writeField
        dsimp only
        split <;> first | rfl | exact one _
      rw [this]

theorem rowAt_spec {off i k : Nat} {r r' : RegId} (e : rowAt off r' = some (r, i, k)) :
    r = r' ∧ i < (regPlace r).instCount ∧ k < (regPlace r).idxCount ∧ off = regAddr r i k := by
  unfold rowAt at e
  dsimp only at e
  by_cases nb : off < (regPlace r').base
  · rw [if_pos nb] at e; cases e
  rw [if_neg nb] at e
  generalize (if (regPlace r').instStride = 0 then 0 else (off - (regPlace r').base) / (regPlace r').instStride) = x at e
  generalize (if (regPlace r').idxStride = 0 then 0 else (off - (regPlace r').base - (regPlace r').instStride * x) / (regPlace r').idxStride) = y at e
  by_cases c : x < (regPlace r').instCount ∧ y < (regPlace r').idxCount ∧ (regPlace r').instStride * x + (regPlace r').idxStride * y = off - (regPlace r').base
  · rw [if_pos c] at e
    obtain ⟨rfl, rfl, rfl⟩ : r' = r ∧ x = i ∧ y = k := by
      have := Option.some.inj e
      exact ⟨congrArg (·.1) this, congrArg (·.2.1) this, congrArg (·.2.2) this⟩
    refine ⟨rfl, c.1, c.2.1, ?_⟩
    unfold regAddr
    dsimp only
    omega
  · rw [if_neg c] at e; cases e

theorem regAt_spec {off i k : Nat} {r : RegId} (e : regAt off = some (r, i, k)) :
    i < (regPlace r).instCount ∧ k < (regPlace r).idxCount ∧ off = regAddr r i k := by
  rw [regAt_rows] at e
  obtain ⟨r', _, h⟩ := List.exists_of_findSome?_eq_some e
  obtain ⟨e, h⟩ := rowAt_spec h
  exact h

/-- How many instances a block of each kind may have. -/
def oneInst (r : RegId) : Bool :=
  match (regPlace r).block with
  | .lnk | .lan => decide ((regPlace r).instCount ≤ 64)
  | .hif | .wq | .eq | .xlt | .win | .mte | .cc => decide ((regPlace r).instCount ≤ 2)
  | .epc | .col | .sem | .pmc | .rtr | .cap | .dbg => true
  | _ => decide ((regPlace r).instCount ≤ 1)
theorem oneInst_all (r : RegId) : oneInst r = true := by cases r <;> decide

theorem calDisarm_role (mid : Mid) (s : State) (p) : (calDisarm mid s).role p = s.role p := rfl

theorem plain_at (mid : Mid) (off : Nat) (r : RegId) (i k : Nat) (v : Word) (s : State) (hr : regAt off = some (r, i, k))
    (pl : plainWritten r = true) (en : ofPort r = true → s.role (portIx i) ≠ .disabled) :
    writeAt mid off r i k v s = writePlain r i k v (unlockUsed mid r s) := by
  obtain ⟨hi, hk, ho⟩ := regAt_spec hr
  have oi := oneInst_all r
  have hs : holdsStatic r = false := by
    simp only [plainWritten, Bool.and_eq_true, Bool.not_eq_true'] at pl; exact pl.1
  unfold writeAt
  rw [if_neg (by rw [hs]; decide)]
  unfold unlockUsed
  unfold ofPort at en
  unfold plainWritten at pl
  unfold oneInst at oi
  have h1 : i < 1 → i = 0 := by omega
  have h2 : i < 2 → (hostIx i).val = i := by
    intro h
    rcases (by omega : i = 0 ∨ i = 1) with rfl | rfl <;> rfl
  have h3 : i < 64 → (portIx i).val = i := fun h => Nat.mod_eq_of_lt h
  cases r
  all_goals first
    | (exfalso; revert pl; decide)
    | skip
  all_goals simp only [regPlace, beq_self_eq_true, Bool.true_or, Bool.or_true] at hi en ⊢
  all_goals first
    | rfl
    | (cases h1 hi; rfl)
    | (show writePlain _ (hostIx i).val _ _ _ = _; rw [h2 hi]; rfl)
    | skip
  all_goals (unfold portWrite; rw [if_neg (en trivial)]; show writePlain _ (portIx i).val _ _ _ = _; rw [h3 hi]; rfl)

theorem writePlain_fields (r : RegId) (i k : Nat) (v : Word) (s u : State) (hu : u.regWord r i k = s.regWord r i k) :
    ∃ w, writePlain r i k v u = u.setWord r w i k ∧ ∀ row ∈ regFields r, fieldOf w row.hi row.lo =
            writtenField row.access (s.fget ⟨r, row.hi, row.lo⟩ i k) (fieldOf v row.hi row.lo) := by
  refine ⟨_, rfl, fun row m => ?_⟩
  rw [hu]
  exact fold_field v row _ _ (fields_apart r) m

/-- An offset in no MSI-X array reaches none (R366). -/
theorem msixHere_none (s : State) {off : Nat} (m : msixAt off = none) : msixHere s off = none := by
  unfold msixHere; rw [m]; rfl

theorem exec_write (s : State) (mid : Mid) (off : Offset) (v : Word) (m : msixAt off.toNat = none) (a : off.toNat % 8 = 0) :
    exec (.registerWrite mid off v) s = .next (writeReg mid off.toNat v s) := by
  show Host.Outcome.next (writeForm mid off.toNat v s) = _
  refine congrArg _ ?_
  unfold writeForm
  rw [msixHere_none s m]
  exact if_pos a

theorem fget_fset_apart (s : State) (f g : RegField) (v : Nat) (h : f.lo ≤ f.hi) (h' : f.hi < 64) (i k : Nat) (e : g.reg = f.reg)
    (d : g.hi < f.lo ∨ f.hi < g.lo) : (s.fset f v i k).fget g i k = s.fget g i k := by
  show fieldOf ((s.setWord f.reg _ i k).regWord g.reg i k) g.hi g.lo = fieldOf (s.regWord g.reg i k) _ _
  rw [e]
  have : ∀ w, (s.setWord f.reg w i k).regWord f.reg i k = w := by
    intro w
    unfold State.regWord State.setWord
    simp
  rw [this]
  rcases d with d | d
  · exact fieldOf_putField_below _ _ _ _ _ _ h h' d
  · exact fieldOf_putField_above _ _ _ _ _ _ h h' d

theorem whileLive_spec (mid : Mid) (off : Nat) (ho : off < 2 ^ 24) (s : State) : whileLive mid off s = { s with regs := (whileLive mid off s).regs } ∧
          regsBut s (whileLive mid off s) [regAddr .CFG_WHILE_LIVE 0 0] ∧ (whileLive mid off s).flag F.CFG_WHILE_LIVE_FLAG = true ∧
          (s.flag F.CFG_WHILE_LIVE_FLAG = false → (whileLive mid off s).fget F.CFG_WHILE_LIVE_MID = mid.toNat ∧
            (whileLive mid off s).fget F.CFG_WHILE_LIVE_OFFSET = off) ∧
          (whileLive mid off s).fget F.CFG_WHILE_LIVE_COUNT = min 65535 (s.fget F.CFG_WHILE_LIVE_COUNT + 1) := by
  have hm : mid.toNat % 2 ^ 8 = mid.toNat := Nat.mod_eq_of_lt mid.isLt
  have hf : off % 2 ^ 24 = off := Nat.mod_eq_of_lt ho
  have hl : s.fget F.CFG_WHILE_LIVE_COUNT < 2 ^ 16 := fieldOf_lt _ _ _
  have hc : min 65535 (s.fget F.CFG_WHILE_LIVE_COUNT + 1) % 2 ^ 16 = min 65535 (s.fget F.CFG_WHILE_LIVE_COUNT + 1) := by omega
  unfold whileLive
  by_cases c : s.flag F.CFG_WHILE_LIVE_FLAG = true
  · rw [if_pos c]
    dsimp only
    refine ⟨rfl, regsBut_finc _ _ _ _ _ _ (by simp [F.CFG_WHILE_LIVE_COUNT]), ?_, fun h => (by rw [c] at h; cases h), ?_⟩
    · unfold State.flag State.finc at *
      simp (disch := decide) only [fget_fset_apart]
      exact c
    · unfold State.finc
      simp (disch := decide) only [fget_fset]
      exact hc
  · rw [if_neg c]
    dsimp only
    refine ⟨rfl, ?_, ?_, fun _ => ⟨?_, ?_⟩, ?_⟩
    · exact regsBut_trans (regsBut_trans (regsBut_trans (regsBut_fset _ _ _ _ _ _ (by simp [F.CFG_WHILE_LIVE_FLAG])) (regsBut_fset _ _ _ _ _ _ (by simp [F.CFG_WHILE_LIVE_MID])))
        (regsBut_fset _ _ _ _ _ _ (by simp [F.CFG_WHILE_LIVE_OFFSET]))) (regsBut_finc _ _ _ _ _ _ (by simp [F.CFG_WHILE_LIVE_COUNT]))
    · unfold State.flag State.finc
      simp (disch := decide) only [fget_fset, fget_fset_apart]
      rfl
    · unfold State.finc
      simp (disch := decide) only [fget_fset, fget_fset_apart]
      exact hm
    · unfold State.finc
      simp (disch := decide) only [fget_fset, fget_fset_apart]
      exact hf
    · unfold State.finc
      simp (disch := decide) only [fget_fset, fget_fset_apart]
      exact hc

theorem static_at (mid : Mid) (off : Nat) (r : RegId) (i k : Nat) (v : Word) (s : State)
    (st : holdsStatic r = true) (en : ofPort r = true → s.role (portIx i) ≠ .disabled) :
    writeAt mid off r i k v s = whileLive mid off s := by
  unfold writeAt
  rw [if_pos st]
  unfold ofPort at en
  cases r
  all_goals first
    | (exfalso; revert st; decide)
    | skip
  all_goals simp only [regPlace, beq_self_eq_true, Bool.or_true] at en ⊢
  all_goals (unfold portWrite; rw [if_neg (en trivial)])

theorem disabled_at (mid : Mid) (off : Nat) (r : RegId) (i k : Nat) (v : Word) (s : State)
    (st : ofPort r = true) (en : s.role (portIx i) = .disabled) :
    writeAt mid off r i k v s = s := by
  unfold writeAt
  unfold ofPort at st
  cases r
  all_goals first
    | (exfalso; revert st; decide)
    | skip
  all_goals simp only [regPlace]
  all_goals first
    | (simp only [portWrite, if_pos en, ite_self]; done)
    | (rw [if_neg (by decide)]; unfold portWrite; exact if_pos en)

theorem clear_other (row : FieldRow) : ∀ (l : List FieldRow) (w : Word), apart l = true → (∀ q ∈ l, q.hi < row.lo ∨ row.hi < q.lo) →
    fieldOf (l.foldl (fun w row => if row.access = .rc then putField w row.hi row.lo 0 else w) w) row.hi row.lo = fieldOf w row.hi row.lo := by
  intro l
  induction l with
  | nil => intro w _ _; rfl
  | cons q l ih =>
    intro w a d
    simp only [apart, Bool.and_eq_true, decide_eq_true_eq] at a
    rw [List.foldl_cons, ih _ a.2 (fun x m => d x (List.mem_cons_of_mem _ m))]
    split
    · rcases d q List.mem_cons_self with h | h
      · exact fieldOf_putField_above w _ _ _ _ _ a.1.1.1 a.1.1.2 h
      · exact fieldOf_putField_below w _ _ _ _ _ a.1.1.1 a.1.1.2 h
    · rfl

theorem clear_field (row : FieldRow) : ∀ (l : List FieldRow) (w : Word), apart l = true → row ∈ l →
    fieldOf (l.foldl (fun w row => if row.access = .rc then putField w row.hi row.lo 0 else w) w) row.hi row.lo =
      if row.access = .rc then 0 else fieldOf w row.hi row.lo := by
  intro l
  induction l with
  | nil => intro w _ m; cases m
  | cons q l ih =>
    intro w a m
    simp only [apart, Bool.and_eq_true, decide_eq_true_eq, List.all_eq_true, Bool.or_eq_true] at a
    rw [List.foldl_cons]
    rcases List.mem_cons.mp m with rfl | m
    · rw [clear_other row l _ a.2 (fun x mx => (a.1.2 x mx).imp id id)]
      split
      · rw [fieldOf_putField w _ _ _ a.1.1.1 a.1.1.2, Nat.zero_mod]
      · rfl
    · rw [ih _ a.2 m]
      have d := a.1.2 row m
      have : fieldOf (if q.access = .rc then putField w q.hi q.lo 0 else w) row.hi row.lo = fieldOf w row.hi row.lo := by
        split
        · rcases d with h | h
          · exact fieldOf_putField_below w _ _ _ _ _ a.1.1.1 a.1.1.2 h
          · exact fieldOf_putField_above w _ _ _ _ _ a.1.1.1 a.1.1.2 h
        · rfl
      rw [this]

theorem readAt_plain (mid : Mid) (r : RegId) (i k : Nat) (s : State) (h : [RegId.SEM_LOCK, .AON_RSRAM_DATA, .DBG_MEM_DATA].contains r = false) :
    readAt mid r i k s = if (regFields r).any (fun row => row.access == .rc) then (s.setWord r (clearRead r (s.regWord r i k)) i k, readWord s r i k) else (s, readWord s r i k) := by
  cases r
  all_goals first
    | (exfalso; revert h; decide)
    | rfl

theorem exec_read (s : State) (mid : Mid) (off : Offset) (m : msixAt off.toNat = none) (a : off.toNat % 8 = 0) :
    exec (.registerReadClear mid off 8) s = .next ((readReg mid off.toNat s).1.emit (.regRead mid off (readReg mid off.toNat s).2)) := by
  show Host.Outcome.next (readForm mid off.toNat 8 s) = _
  refine congrArg _ ?_
  unfold readForm
  rw [msixHere_none s m]
  show (if 8 = 8 ∧ off.toNat % 8 = 0 then readOut mid off.toNat s else _) = _
  rw [if_pos ⟨rfl, a⟩]
  unfold readOut
  simp only [BitVec.ofNat_toNat, BitVec.setWidth_eq]

theorem peek_plain (mid : Mid) (s : State) (off : Nat) (r : RegId) (i k : Nat) (hr : regAt off = some (r, i, k))
    (a : s.answers (regPlace r).block i = true) (h : [RegId.SEM_LOCK, .AON_RSRAM_DATA, .DBG_MEM_DATA].contains r = false) :
    peekReg mid off s = (s, readWord s r i k) := by
  unfold peekReg
  rw [regHere_at hr a]
  clear hr a
  cases r
  all_goals first
    | (exfalso; revert h; decide)
    | rfl

end Sys2Proof.Laws
end

