-- ==== Sys2Proof/Laws/Kept.lean ====
section
/-! SUPPORT. What the always-on operations leave alone: one lemma for each operation that changes neither the configuration store,
its command in progress, the retention SRAM, the fixed parameters nor the queue. -/

set_option linter.unusedSimpArgs false
set_option linter.unusedVariables false
set_option linter.unusedTactic false
set_option linter.unreachableTactic false

namespace Sys2Proof.Laws

open Sys2Proof.Machine

theorem kept_def (s : State) : s.kept = keptOf s.impl s.pending s.cfg.store s.cfg.prog s.pwr.rsram := rfl

theorem kept_mk (impl image regs cfg pwr tim rst flt locks jtag smb cap sram ports ints rtr hosts park sweep discards agent groups
    modprs clock freeCount out pending) : (State.mk impl image regs cfg pwr tim rst flt locks jtag smb cap sram ports ints rtr hosts
    park sweep discards agent groups modprs clock freeCount out pending).kept = keptOf impl pending cfg.store cfg.prog pwr.rsram := rfl

theorem kept_fold (s : State) : keptOf s.impl s.pending s.cfg.store s.cfg.prog s.pwr.rsram = s.kept := rfl

theorem ite_kept (c : Prop) [Decidable c] (a b : State) : (if c then a else b).kept = if c then a.kept else b.kept :=
  apply_ite _ _ _ _

theorem foldl_kept {α : Type} (f : State → α → State) (l : List α) (s : State) (h : ∀ t x, (f t x).kept = t.kept) :
    (l.foldl f s).kept = s.kept := by
  induction l generalizing s with
  | nil => rfl
  | cons a l ih => simp only [List.foldl_cons, ih, h]

/-- What traffic leaves alone holds what is kept. -/
theorem kept_of_still {s t : State} (h : t.still = s.still) : t.kept = s.kept := by
  simp only [still_def, stillOf, Prod.mk.injEq] at h
  obtain ⟨h1, -, h3, -, -, -, -, -, -, -, -, h12, h13⟩ := h
  simp only [kept_def, keptOf, h1, h3, h12, h13]

theorem setWord_kept (s : State) (r : RegId) (v : Word) (i : Nat) (k : Nat) : (State.setWord s r v i k).kept = s.kept :=
  kept_of_still (setWord_still _ _ _ _ _)

theorem fset_kept (s : State) (f : RegField) (v : Nat) (i : Nat) (k : Nat) : (State.fset s f v i k).kept = s.kept :=
  kept_of_still (fset_still _ _ _ _ _)

theorem finc_kept (s : State) (f : RegField) (d : Nat) (i : Nat) (k : Nat) : (State.finc s f d i k).kept = s.kept :=
  kept_of_still (finc_still _ _ _ _ _)

theorem restore_kept (s : State) (kinds : List ResetKind) (sel : RegId → Nat → Bool) : (State.restore s kinds sel).kept = s.kept :=
  kept_of_still (restore_still _ _ _)

theorem emit_kept (s : State) (o : Output) : (State.emit s o).kept = s.kept :=
  kept_of_still (emit_still _ _)

theorem tookFree_kept (s : State) : (State.tookFree s).kept = s.kept :=
  kept_of_still (tookFree_still _)

theorem modPort_kept (s : State) (p : NetPort) (f : Port → Port) : (State.modPort s p f).kept = s.kept :=
  kept_of_still (modPort_still _ _ _)

theorem modLane_kept (s : State) (p : NetPort) (f : LaneState → LaneState) : (State.modLane s p f).kept = s.kept :=
  kept_of_still (modLane_still _ _ _)

theorem modHif_kept (s : State) (h : HostPort) (f : HifState → HifState) : (State.modHif s h f).kept = s.kept :=
  kept_of_still (modHif_still _ _ _)

theorem pmcAdd_kept (u : Nat) (ev : Nat) (amt : Nat) (s : State) : (pmcAdd u ev amt s).kept = s.kept :=
  kept_of_still (pmcAdd_still _ _ _ _)

theorem asyncChip_kept (code : Nat) (source : Nat) (data : Word) (s : State) : (asyncChip code source data s).kept = s.kept :=
  kept_of_still (asyncChip_still _ _ _ _)

theorem raiseFault_kept (n : Nat) (s : State) : (raiseFault n s).kept = s.kept :=
  kept_of_still (raiseFault_still _ _)

theorem regAccessError_kept (mid : Mid) (access : Nat) (off : Nat) (s : State) : (regAccessError mid access off s).kept = s.kept :=
  kept_of_still (regAccessError_still _ _ _ _)

theorem wakeTx_kept (p : NetPort) (s : State) : (wakeTx p s).kept = s.kept :=
  kept_of_still (wakeTx_still _ _)

theorem abandonTx_kept (p : NetPort) (s : State) : (abandonTx p s).kept = s.kept :=
  kept_of_still (abandonTx_still _ _)

theorem linkDepart_kept (p : NetPort) (cause : Nat) (fresh : Bool) (s : State) : (linkDepart p cause fresh s).kept = s.kept :=
  kept_of_still (linkDepart_still _ _ _ _)

theorem sendLve_kept (p : NetPort) (reason : Nat) (s : State) : (sendLve p reason s).kept = s.kept :=
  kept_of_still (sendLve_still _ _ _)

theorem resetL_kept (p : NetPort) (reason : Nat) (cause : Nat) (fresh : Bool) (s : State) :
    (resetL p reason cause fresh s).kept = s.kept :=
  kept_of_still (resetL_still _ _ _ _ _)

theorem crBad_kept (p : NetPort) (s : State) : (crBad p s).kept = s.kept :=
  kept_of_still (crBad_still _ _)

theorem startTraining_kept (p : NetPort) (s : State) : (startTraining p s).kept = s.kept :=
  kept_of_still (startTraining_still _ _)

theorem laneLeave_kept (p : NetPort) (cause : Nat) (s : State) : (laneLeave p cause s).kept = s.kept :=
  kept_of_still (laneLeave_still _ _ _)

theorem sendSet_kept (p : NetPort) (o : OrderedSet) (s : State) : (sendSet p o s).kept = s.kept :=
  kept_of_still (sendSet_still _ _ _)

theorem columnErrors_kept (p : NetPort) (n : Nat) (s : State) : (columnErrors p n s).kept = s.kept :=
  kept_of_still (columnErrors_still _ _ _)

theorem keepLines_kept (keep : Nat → Bool) (s : State) : (keepLines keep s).kept = s.kept :=
  kept_of_still (keepLines_still _ _)

theorem watchRefclk_kept (s : State) : (watchRefclk s).kept = s.kept :=
  kept_of_still (watchRefclk_still _)

theorem watchSupply_kept (s : State) : (watchSupply s).kept = s.kept :=
  kept_of_still (watchSupply_still _)

theorem enterState_kept (p : PowerState) (s : State) : (enterState p s).kept = s.kept :=
  kept_of_still (enterState_still _ _)

theorem tableCommand_kept (v : Word) (s : State) : (tableCommand v s).kept = s.kept :=
  kept_of_still (tableCommand_still _ _)

theorem epochWrite_kept (v : Word) (s : State) : (epochWrite v s).kept = s.kept :=
  kept_of_still (epochWrite_still _ _)

theorem refuseParked_kept (h : HostPort) (s : State) : (refuseParked h s).kept = s.kept :=
  kept_of_still (refuseParked_still _ _)

theorem dozeWake_kept (source : Nat) (s : State) : (dozeWake source s).kept = s.kept :=
  kept_of_still (dozeWake_still _ _)

theorem takeEject_kept (ip : IntPort) (e : InPacket) (s : State) : (takeEject ip e s).kept = s.kept :=
  kept_of_still (takeEject_still _ _ _)

theorem progAdvance_kept (inc : Bool) (s : State) : (progAdvance inc s).kept = s.kept :=
  kept_of_still (progAdvance_still _ _)

theorem debugLevelSet_kept (v : Word) (s : State) : (debugLevelSet v s).kept = s.kept :=
  kept_of_still (debugLevelSet_still _ _)

theorem dbgAdvance_kept (s : State) : (dbgAdvance s).kept = s.kept :=
  kept_of_still (dbgAdvance_still _)

theorem dbgRead_kept (mid : Mid) (s : State) : (dbgRead mid s).1.kept = s.kept :=
  kept_of_still (dbgRead_still _ _)

theorem dbgHaltWrite_kept (v : Word) (s : State) : (dbgHaltWrite v s).kept = s.kept :=
  kept_of_still (dbgHaltWrite_still _ _)

theorem linkOff_kept (h : HostPort) (s : State) : (linkOff h s).kept = s.kept :=
  kept_of_still (linkOff_still _ _)

theorem recordReset_kept (source : Nat) (kind : Nat) (mid : Mid) (s : State) : (recordReset source kind mid s).kept = s.kept :=
  kept_of_still (recordReset_still _ _ _ _)

theorem leaveAll_kept (reason : Nat) (s : State) : (leaveAll reason s).kept = s.kept :=
  kept_of_still (leaveAll_still _ _)

theorem startLanePlls_kept (s : State) : (startLanePlls s).kept = s.kept :=
  kept_of_still (startLanePlls_still _)

theorem startEntry_kept (target : PowerState) (s : State) : (startEntry target s).kept = s.kept :=
  kept_of_still (startEntry_still _ _)

theorem startExit_kept (source : PowerState) (thenDoze : Bool) (s : State) : (startExit source thenDoze s).kept = s.kept :=
  kept_of_still (startExit_still _ _ _)

theorem wakeEvent_kept (source : Nat) (thenDoze : Bool) (s : State) : (wakeEvent source thenDoze s).kept = s.kept :=
  kept_of_still (wakeEvent_still _ _ _)

theorem injectFault_kept (mid : Mid) (v : Word) (s : State) : (injectFault mid v s).kept = s.kept :=
  kept_of_still (injectFault_still _ _ _)

theorem clearFaults_kept (v : Word) (s : State) : (clearFaults v s).kept = s.kept :=
  kept_of_still (clearFaults_still _ _)

theorem whileLive_kept (mid : Mid) (off : Nat) (s : State) : (whileLive mid off s).kept = s.kept :=
  kept_of_still (whileLive_still _ _ _)

theorem writePlain_kept (r : RegId) (i : Nat) (k : Nat) (v : Word) (s : State) : (writePlain r i k v s).kept = s.kept :=
  kept_of_still (writePlain_still _ _ _ _ _)

theorem firstInfoWrite_kept (v : Word) (s : State) : (firstInfoWrite v s).kept = s.kept :=
  kept_of_still (firstInfoWrite_still _ _)

theorem flagWrite_kept (flag : RegField) (count : RegField) (i : Nat) (v : Word) (s : State) :
    (flagWrite flag count i v s).kept = s.kept :=
  kept_of_still (flagWrite_still _ _ _ _ _)

theorem pmcCtlWrite_kept (u : Nat) (v : Word) (s : State) : (pmcCtlWrite u v s).kept = s.kept :=
  kept_of_still (pmcCtlWrite_still _ _ _)

theorem pmcSnapWrite_kept (v : Word) (s : State) : (pmcSnapWrite v s).kept = s.kept :=
  kept_of_still (pmcSnapWrite_still _ _)

theorem capCtlWrite_kept (v : Word) (s : State) : (capCtlWrite v s).kept = s.kept :=
  kept_of_still (capCtlWrite_still _ _)

theorem capCiWrite_kept (v : Word) (s : State) : (capCiWrite v s).kept = s.kept :=
  kept_of_still (capCiWrite_still _ _)

theorem nicWrite_kept (mid : Mid) (off : Nat) (r : RegId) (h : HostPort) (k : Nat) (v : Word) (s : State) :
    (nicWrite mid off r h k v s).kept = s.kept :=
  kept_of_still (nicWrite_still _ _ _ _ _ _ _)

theorem netWrite_kept (r : RegId) (p : NetPort) (k : Nat) (v : Word) (s : State) : (netWrite r p k v s).kept = s.kept :=
  kept_of_still (netWrite_still _ _ _ _ _)

theorem msixWrite_kept (h : HostPort) (table : Bool) (a : Nat) (bytes : Bytes) (s : State) :
    (msixWrite h table a bytes s).kept = s.kept :=
  kept_of_still (msixWrite_still _ _ _ _ _)

theorem agentAnswer_kept (p : Packet) (op : Nat) (status : Nat) (v : Word) (s : State) :
    (agentAnswer p op status v s).kept = s.kept :=
  kept_of_still (agentAnswer_still _ _ _ _ _)

theorem modPwr_kept (s : State) (f : PwrState → PwrState) (h : (f s.pwr).rsram = s.pwr.rsram) : (s.modPwr f).kept = s.kept := by
  show keptOf _ _ _ _ (f s.pwr).rsram = _
  rw [h]
  rfl

theorem withTimeSync_kept (f : State → State) (s : State) (h : ∀ t, (f t).kept = t.kept) : (withTimeSync f s).kept = s.kept := by
  unfold withTimeSync
  simp only [ite_kept]
  rw [kept_of_still (asyncChip_still _ _ _ _), ite_self]
  exact h s

theorem withTim_kept (g : State → TimState) (s : State) : (withTimeSync (fun t => { t with tim := g t }) s).kept = s.kept := by
  exact withTimeSync_kept _ _ (fun t => rfl)

@[simp] theorem writeRecord_store (a b : Bool) (d : TrialState) (c : CfgState) : (writeRecord a b d c).store = c.store := by
  unfold writeRecord
  dsimp only
  split <;> rfl

@[simp] theorem writeRecord_prog (a b : Bool) (d : TrialState) (c : CfgState) : (writeRecord a b d c).prog = c.prog := by
  unfold writeRecord
  dsimp only
  split <;> rfl

theorem presenceChange_kept (g : Nat) (absent : Bool) (s : State) : (presenceChange g absent s).kept = s.kept := by
  unfold presenceChange
  split
  · rfl
  · dsimp only
    rw [foldl_kept]
    · rfl
    · intro t x
      simp only [ite_kept, modLane_kept, laneLeave_kept, startTraining_kept, ite_self]

theorem modCfg_kept (s : State) (f : CfgState → CfgState) (h : (f s.cfg).store = s.cfg.store) (h' :
    (f s.cfg).prog = s.cfg.prog) : (s.modCfg f).kept = s.kept := by
  show keptOf _ _ (f s.cfg).store (f s.cfg).prog _ = _
  rw [h, h']
  rfl

theorem calUnlockWrite_kept (mid : Mid) (v : Word) (s : State) : (calUnlockWrite mid v s).kept = s.kept := by
  unfold calUnlockWrite
  first
    | (simp only [kept_mk, kept_fold, ite_kept, ite_self, modCfg_kept]; done)
    | ((repeat' split) <;> simp only [kept_mk, kept_fold, ite_kept, ite_self, modCfg_kept]; done)
    | grind (splitImp := true) only [= kept_def, = modCfg_kept, foldl_kept]

theorem calDisarm_kept (mid : Mid) (s : State) : (calDisarm mid s).kept = s.kept := by
  unfold calDisarm
  first
    | (simp only [kept_mk, kept_fold, ite_kept, ite_self, modCfg_kept]; done)
    | ((repeat' split) <;> simp only [kept_mk, kept_fold, ite_kept, ite_self, modCfg_kept]; done)
    | grind (splitImp := true) only [= kept_def, = modCfg_kept, foldl_kept]

theorem checkResult_kept (slot : Bool) (reason : Nat) (s : State) : (checkResult slot reason s).kept = s.kept := by
  unfold checkResult
  first
    | (simp only [kept_mk, kept_fold, ite_kept, ite_self, modCfg_kept]; done)
    | ((repeat' split) <;> simp only [kept_mk, kept_fold, ite_kept, ite_self, modCfg_kept]; done)
    | grind (splitImp := true) only [= kept_def, = modCfg_kept, foldl_kept]

theorem confirmSlot_kept (s : State) : (confirmSlot s).kept = s.kept := by
  unfold confirmSlot
  split
  · exact modCfg_kept _ _ (writeRecord_store _ _ _ _) (writeRecord_prog _ _ _ _)
  · rfl

theorem recordPulsed_kept (s : State) : (recordPulsed s).kept = s.kept := modCfg_kept _ _ rfl rfl

theorem activateWrite_kept (v : Word) (s : State) : (activateWrite v s).kept = s.kept := by
  unfold activateWrite
  first
    | (simp only [kept_mk, kept_fold, ite_kept, ite_self, fset_kept, modCfg_kept, confirmSlot_kept]; done)
    | ((repeat' split) <;> simp only [kept_mk, kept_fold, ite_kept, ite_self, fset_kept, modCfg_kept, confirmSlot_kept]; done)
    | grind (splitImp := true) only [= kept_def, = fset_kept, = modCfg_kept, = confirmSlot_kept, foldl_kept]

theorem activateDone_kept (img : ImageDesc) (s : State) : (activateDone img s).kept = s.kept := by
  unfold activateDone
  split
  · rfl
  · split
    · rfl
    · have h2 : ∀ t : State, (t.modCfg (fun c => { c with act := none })).kept = t.kept := fun _ => rfl
      have h3 : ∀ (t : State) (a b : Bool), (t.modCfg (fun c =>
          let c' := writeRecord true a (if b then .pending else .confirmed) c
          { c' with trial := c.trial && (b || a != c.slot) })).kept = t.kept := by
        intro t a b
        exact modCfg_kept _ _ (writeRecord_store _ _ _ _) (writeRecord_prog _ _ _ _)
      dsimp only at h3 ⊢
      simp only [ite_kept, fset_kept, h2, h3, checkResult_kept, ite_self]

theorem loadStart_kept (s : State) : (loadStart s).kept = s.kept := by
  unfold loadStart
  split
  · rfl
  · dsimp only
    rw [modCfg_kept]
    all_goals
      try dsimp only
      repeat' split
      all_goals simp only [writeRecord_store, writeRecord_prog]

theorem noImage_kept (s : State) : (noImage s).kept = s.kept := by
  unfold noImage
  first
    | (simp only [kept_mk, kept_fold, ite_kept, ite_self, modCfg_kept, raiseFault_kept]; done)
    | ((repeat' split) <;> simp only [kept_mk, kept_fold, ite_kept, ite_self, modCfg_kept, raiseFault_kept]; done)
    | grind (splitImp := true) only [= kept_def, = modCfg_kept, = raiseFault_kept, foldl_kept]

theorem slotFails_kept (slot : Bool) (reason : Nat) (s : State) : (slotFails slot reason s).kept = s.kept := by
  unfold slotFails
  first
    | (simp only [kept_mk, kept_fold, ite_kept, ite_self, modCfg_kept, checkResult_kept, noImage_kept]; done)
    | ((repeat' split) <;> simp only [kept_mk, kept_fold, ite_kept, ite_self, modCfg_kept, checkResult_kept,
        noImage_kept]; done)
    | grind (splitImp := true) only [= kept_def, = modCfg_kept, = checkResult_kept, = noImage_kept, foldl_kept]

theorem loadHeader_kept (s : State) : (loadHeader s).kept = s.kept := by
  unfold loadHeader
  first
    | (simp only [kept_mk, kept_fold, ite_kept, ite_self, modCfg_kept, slotFails_kept]; done)
    | ((repeat' split) <;> simp only [kept_mk, kept_fold, ite_kept, ite_self, modCfg_kept, slotFails_kept]; done)
    | grind (splitImp := true) only [= kept_def, = modCfg_kept, = slotFails_kept, foldl_kept]

theorem loadStreamed_kept (img : ImageDesc) (s : State) : (loadStreamed img s).kept = s.kept := by
  unfold loadStreamed
  first
    | (simp only [kept_mk, kept_fold, ite_kept, ite_self, modCfg_kept, checkResult_kept, slotFails_kept]; done)
    | ((repeat' split) <;> simp only [kept_mk, kept_fold, ite_kept, ite_self, modCfg_kept, checkResult_kept,
        slotFails_kept]; done)
    | grind (splitImp := true) only [= kept_def, = modCfg_kept, = checkResult_kept, = slotFails_kept, foldl_kept]

theorem modLock_kept (k : Fin 256) (f : Lock → Lock) (s : State) : (modLock k f s).kept = s.kept := by
  rfl

theorem freeLock_kept (k : Fin 256) (abandon : Bool) (s : State) : (freeLock k abandon s).kept = s.kept := by
  unfold freeLock
  first
    | (simp only [kept_mk, kept_fold, ite_kept, ite_self, asyncChip_kept, modLock_kept]; done)
    | ((repeat' split) <;> simp only [kept_mk, kept_fold, ite_kept, ite_self, asyncChip_kept, modLock_kept]; done)
    | grind (splitImp := true) only [= kept_def, = asyncChip_kept, = modLock_kept, foldl_kept]

theorem abandonLock_kept (k : Fin 256) (s : State) : (abandonLock k s).kept = s.kept := by
  unfold abandonLock
  first
    | (simp only [kept_mk, kept_fold, ite_kept, ite_self, freeLock_kept, raiseFault_kept]; done)
    | ((repeat' split) <;> simp only [kept_mk, kept_fold, ite_kept, ite_self, freeLock_kept, raiseFault_kept]; done)
    | grind (splitImp := true) only [= kept_def, = freeLock_kept, = raiseFault_kept, foldl_kept]

theorem resetMaster_kept (mid : Mid) (s : State) : (resetMaster mid s).kept = s.kept := by
  unfold resetMaster
  first
    | (simp only [kept_mk, kept_fold, ite_kept, ite_self, abandonLock_kept, calDisarm_kept]; done)
    | ((repeat' split) <;> simp only [kept_mk, kept_fold, ite_kept, ite_self, abandonLock_kept, calDisarm_kept]; done)
    | grind (splitImp := true) only [= kept_def, = abandonLock_kept, = calDisarm_kept, foldl_kept]

theorem lockWrite_kept (mid : Mid) (k : Fin 256) (v : Word) (s : State) : (lockWrite mid k v s).kept = s.kept := by
  unfold lockWrite
  first
    | (simp only [kept_mk, kept_fold, ite_kept, ite_self, abandonLock_kept, freeLock_kept, regAccessError_kept]; done)
    | ((repeat' split) <;> simp only [kept_mk, kept_fold, ite_kept, ite_self, abandonLock_kept, freeLock_kept,
        regAccessError_kept]; done)
    | grind (splitImp := true) only [= kept_def, = abandonLock_kept, = freeLock_kept, = regAccessError_kept, foldl_kept]

theorem bindWrite_kept (mid : Mid) (v : Word) (s : State) : (bindWrite mid v s).kept = s.kept := by
  unfold bindWrite
  first
    | (simp only [kept_mk, kept_fold, ite_kept, ite_self, fset_kept]; done)
    | ((repeat' split) <;> simp only [kept_mk, kept_fold, ite_kept, ite_self, fset_kept]; done)
    | grind (splitImp := true) only [= kept_def, = fset_kept, foldl_kept]

theorem bindPorts_kept (s : State) : (bindPorts s).kept = s.kept := by
  unfold bindPorts
  first
    | (simp only [kept_mk, kept_fold, ite_kept, ite_self, resetL_kept]; done)
    | ((repeat' split) <;> simp only [kept_mk, kept_fold, ite_kept, ite_self, resetL_kept]; done)
    | grind (splitImp := true) only [= kept_def, = resetL_kept, foldl_kept]

theorem dbgWrite_kept (mid : Mid) (v : Word) (s : State) : (dbgWrite mid v s).kept = s.kept := by
  unfold dbgWrite
  first
    | (simp only [kept_mk, kept_fold, ite_kept, ite_self, dbgAdvance_kept, regAccessError_kept]; done)
    | ((repeat' split) <;> simp only [kept_mk, kept_fold, ite_kept, ite_self, dbgAdvance_kept, regAccessError_kept]; done)
    | grind (splitImp := true) only [= kept_def, = dbgAdvance_kept, = regAccessError_kept, foldl_kept]

theorem jtagLoad_kept (i : JtagInstr) (s : State) : (jtagLoad i s).kept = s.kept := by
  unfold jtagLoad
  first
    | (simp only [kept_mk, kept_fold, ite_kept, ite_self]; done)
    | ((repeat' split) <;> simp only [kept_mk, kept_fold, ite_kept, ite_self]; done)
    | grind (splitImp := true) only [= kept_def, foldl_kept]

theorem jtagSample_kept (s : State) : (jtagSample s).kept = s.kept := by
  unfold jtagSample
  first
    | (simp only [kept_mk, kept_fold, ite_kept, ite_self, tookFree_kept]; done)
    | ((repeat' split) <;> simp only [kept_mk, kept_fold, ite_kept, ite_self, tookFree_kept]; done)
    | grind (splitImp := true) only [= kept_def, = tookFree_kept, foldl_kept]

theorem jtagTlr_kept (s : State) : (jtagTlr s).kept = s.kept := by
  unfold jtagTlr
  first
    | (simp only [kept_mk, kept_fold, ite_kept, ite_self, jtagLoad_kept, resetMaster_kept]; done)
    | ((repeat' split) <;> simp only [kept_mk, kept_fold, ite_kept, ite_self, jtagLoad_kept, resetMaster_kept]; done)
    | grind (splitImp := true) only [= kept_def, = jtagLoad_kept, = resetMaster_kept, foldl_kept]

theorem jtagScan_kept (s : State) : (jtagScan s).kept = s.kept := by
  unfold jtagScan
  first
    | (simp only [kept_mk, kept_fold, ite_kept, ite_self, tookFree_kept, jtagLoad_kept]; done)
    | ((repeat' split) <;> simp only [kept_mk, kept_fold, ite_kept, ite_self, tookFree_kept, jtagLoad_kept]; done)
    | grind (splitImp := true) only [= kept_def, = tookFree_kept, = jtagLoad_kept, foldl_kept]

theorem funcStart_kept (h : HostPort) (s : State) : (funcStart h s).kept = s.kept := by
  unfold funcStart
  dsimp only
  have h : (funcUnclamp h s).kept = s.kept := by
    unfold funcUnclamp
    grind only [= kept_def]
  simp only [ite_kept, resetMaster_kept, refuseParked_kept, modHif_kept, h, ite_self]

theorem perstOn_kept (h : HostPort) (s : State) : (perstOn h s).kept = s.kept := by
  unfold perstOn
  first
    | (simp only [kept_mk, kept_fold, ite_kept, ite_self, modHif_kept, funcStart_kept, linkOff_kept]; done)
    | ((repeat' split) <;> simp only [kept_mk, kept_fold, ite_kept, ite_self, modHif_kept, funcStart_kept, linkOff_kept]; done)
    | grind (splitImp := true) only [= kept_def, = modHif_kept, = funcStart_kept, = linkOff_kept, foldl_kept]

theorem modRst_kept (s : State) (f : RstState → RstState) : (State.modRst s f).kept = s.kept := by
  rfl

theorem askReset_kept (kind : ResetKind) (target : Nat) (source : Nat) (mid : Mid) (s : State) :
    (askReset kind target source mid s).kept = s.kept := by
  unfold askReset
  first
    | (simp only [kept_mk, kept_fold, ite_kept, ite_self, modRst_kept]; done)
    | ((repeat' split) <;> simp only [kept_mk, kept_fold, ite_kept, ite_self, modRst_kept]; done)
    | grind (splitImp := true) only [= kept_def, = modRst_kept, foldl_kept]

theorem resetCommand_kept (mid : Mid) (v : Word) (s : State) : (resetCommand mid v s).kept = s.kept := by
  unfold resetCommand
  first
    | (simp only [kept_mk, kept_fold, ite_kept, ite_self, fset_kept, askReset_kept]; done)
    | ((repeat' split) <;> simp only [kept_mk, kept_fold, ite_kept, ite_self, fset_kept, askReset_kept]; done)
    | grind (splitImp := true) only [= kept_def, = fset_kept, = askReset_kept, foldl_kept]

theorem resetPin_kept (s : State) : (resetPin s).kept = s.kept := by
  unfold resetPin
  try dsimp only
  simp only [kept_mk, kept_fold, ite_kept, ite_self, askReset_kept, modRst_kept]

theorem locksC_kept (s : State) : (locksC s).kept = s.kept := by
  unfold locksC
  first
    | (simp only [kept_mk, kept_fold, ite_kept, ite_self, raiseFault_kept]; done)
    | ((repeat' split) <;> simp only [kept_mk, kept_fold, ite_kept, ite_self, raiseFault_kept]; done)
    | grind (splitImp := true) only [= kept_def, = raiseFault_kept, foldl_kept]

theorem coreCleared_kept (s : State) : (coreCleared s).kept = s.kept := by
  rfl

theorem holdT_kept (source : Nat) (mid : Mid) (s : State) : (holdT source mid s).kept = s.kept := by
  unfold holdT
  try dsimp only
  simp only [kept_mk, kept_fold, ite_kept, ite_self, foldl_kept, linkDepart_kept, sendLve_kept, abandonTx_kept,
      recordReset_kept, finc_kept, resetMaster_kept, restore_kept, modRst_kept, keepLines_kept, implies_true]

theorem releaseC_kept (s : State) : (releaseC s).kept = s.kept := by
  unfold releaseC
  try dsimp only
  simp only [kept_mk, kept_fold, ite_kept, ite_self, restore_kept, modPwr_kept, modRst_kept, startLanePlls_kept]

theorem releaseP_kept (s : State) : (releaseP s).kept = s.kept := by
  unfold releaseP
  first
    | (simp only [kept_mk, kept_fold, ite_kept, ite_self, modRst_kept, releaseC_kept]; done)
    | ((repeat' split) <;> simp only [kept_mk, kept_fold, ite_kept, ite_self, modRst_kept, releaseC_kept]; done)
    | grind (splitImp := true) only [= kept_def, = modRst_kept, = releaseC_kept, foldl_kept]

theorem unlocked_kept (blocks : List Nat) (s : State) : (unlocked blocks s).kept = s.kept := by
  unfold unlocked
  first
    | (simp only [kept_mk, kept_fold, ite_kept, ite_self, fset_kept, modRst_kept, raiseFault_kept]; done)
    | ((repeat' split) <;> simp only [kept_mk, kept_fold, ite_kept, ite_self, fset_kept, modRst_kept, raiseFault_kept]; done)
    | grind (splitImp := true) only [= kept_def, = fset_kept, = modRst_kept, = raiseFault_kept, foldl_kept]

theorem pllReleased_kept (pll : Pll) (locked : Bool) (s : State) : (pllReleased pll locked s).kept = s.kept := by
  unfold pllReleased
  dsimp only
  split <;> simp only [kept_mk, kept_fold, ite_kept, ite_self, modPwr_kept, modRst_kept, unlocked_kept, modLane_kept,
      startTraining_kept]

theorem sramTested_kept (ok : Bool) (s : State) : (sramTested ok s).kept = s.kept := by
  unfold sramTested
  first
    | (simp only [kept_mk, kept_fold, ite_kept, ite_self, modRst_kept, raiseFault_kept, startLanePlls_kept]; done)
    | ((repeat' split) <;> simp only [kept_mk, kept_fold, ite_kept, ite_self, modRst_kept, raiseFault_kept,
        startLanePlls_kept]; done)
    | grind (splitImp := true) only [= kept_def, = modRst_kept, = raiseFault_kept, = startLanePlls_kept, foldl_kept]

theorem sramCleared_kept (s : State) : (sramCleared s).kept = s.kept := by
  unfold sramCleared
  first
    | (simp only [kept_mk, kept_fold, ite_kept, ite_self, modRst_kept]; done)
    | ((repeat' split) <;> simp only [kept_mk, kept_fold, ite_kept, ite_self, modRst_kept]; done)
    | grind (splitImp := true) only [= kept_def, = modRst_kept, foldl_kept]

theorem releaseT_kept (s : State) : (releaseT s).kept = s.kept := by
  unfold releaseT
  first
    | (simp only [kept_mk, kept_fold, ite_kept, ite_self, modRst_kept, startTraining_kept]; done)
    | ((repeat' split) <;> simp only [kept_mk, kept_fold, ite_kept, ite_self, modRst_kept, startTraining_kept]; done)
    | grind (splitImp := true) only [= kept_def, = modRst_kept, = startTraining_kept, foldl_kept]

theorem wdogWrite_kept (v : Word) (s : State) : (wdogWrite v s).kept = s.kept := by
  unfold wdogWrite
  first
    | (simp only [kept_mk, kept_fold, ite_kept, ite_self, fset_kept, modRst_kept]; done)
    | ((repeat' split) <;> simp only [kept_mk, kept_fold, ite_kept, ite_self, fset_kept, modRst_kept]; done)
    | grind (splitImp := true) only [= kept_def, = fset_kept, = modRst_kept, foldl_kept]

theorem wdogExpire_kept (s : State) : (wdogExpire s).kept = s.kept := by
  unfold wdogExpire
  try dsimp only
  simp only [kept_mk, kept_fold, ite_kept, ite_self, askReset_kept, modRst_kept, finc_kept]

theorem idleTick_kept (s : State) : (idleTick s).kept = s.kept := by
  unfold idleTick
  first
    | (simp only [kept_mk, kept_fold, ite_kept, ite_self]; done)
    | ((repeat' split) <;> simp only [kept_mk, kept_fold, ite_kept, ite_self]; done)
    | grind (splitImp := true) only [= kept_def, foldl_kept]

theorem timStep_kept (now : Word) (s : State) : (timStep now s).kept = s.kept := by
  unfold timStep
  first
    | (simp only [kept_mk, kept_fold, ite_kept, ite_self, finc_kept]; done)
    | ((repeat' split) <;> simp only [kept_mk, kept_fold, ite_kept, ite_self, finc_kept]; done)
    | grind (splitImp := true) only [= kept_def, = finc_kept, foldl_kept]

theorem chooseParent_kept (s : State) : (chooseParent s).kept = s.kept := by
  unfold chooseParent
  first
    | (simp only [kept_mk, kept_fold, ite_kept, ite_self]; done)
    | ((repeat' split) <;> simp only [kept_mk, kept_fold, ite_kept, ite_self]; done)
    | grind (splitImp := true) only [= kept_def, foldl_kept]

theorem texSendGo_kept (p : NetPort) (s : State) : (texSendGo p s).kept = s.kept := by
  unfold texSendGo
  try dsimp only
  simp only [kept_mk, kept_fold, ite_kept, ite_self, withTimeSync_kept, modPort_kept, emit_kept, sendSet_kept, wakeTx_kept,
      chooseParent_kept, implies_true]

theorem servo_kept (offset : Int) (s : State) : (servo offset s).kept = s.kept := by
  unfold servo
  try dsimp only
  simp only [kept_mk, kept_fold, ite_kept, ite_self, raiseFault_kept, timStep_kept, tookFree_kept]

theorem texHeard_kept (p : NetPort) (set : Bytes) (s : State) : (texHeard p set s).kept = s.kept := by
  unfold texHeard
  split
  · rfl
  · split
    · simp only [crBad_kept]
    · dsimp only
      simp only [kept_mk, kept_fold, ite_kept, ite_self, modPort_kept, withTim_kept, withTimeSync_kept, servo_kept,
          tookFree_kept, implies_true]

theorem texIn_kept (p : NetPort) (set : Bytes) (s : State) : (texIn p set s).kept = s.kept := by
  unfold texIn setsIn
  simp only [ite_kept, texHeard_kept, columnErrors_kept, ite_self]

theorem timSetGo_kept (v : Word) (s : State) : (timSetGo v s).kept = s.kept := by
  unfold timSetGo
  try dsimp only
  simp only [kept_mk, kept_fold, ite_kept, ite_self, withTimeSync_kept, timStep_kept, implies_true]

theorem slowTick_kept (s : State) : (slowTick s).kept = s.kept := by
  unfold slowTick
  first
    | (simp only [kept_mk, kept_fold, ite_kept, ite_self]; done)
    | ((repeat' split) <;> simp only [kept_mk, kept_fold, ite_kept, ite_self]; done)
    | grind (splitImp := true) only [= kept_def, foldl_kept]

theorem startPfwSleep_kept (s : State) : (startPfwSleep s).kept = s.kept := by
  unfold startPfwSleep
  split
  · rfl
  · split
    · exact modPwr_kept _ _ rfl
    · rw [startEntry_kept, foldl_kept]
      intro t x
      simp only [ite_kept, funcStart_kept, linkOff_kept, ite_self]

theorem entryDone_kept (s : State) : (entryDone s).kept = s.kept := by
  unfold entryDone
  split
  · split
    · rfl
    · dsimp only
      simp only [kept_mk, kept_fold, ite_kept, ite_self, modPwr_kept, withTim_kept, withTimeSync_kept, startExit_kept,
          watchSupply_kept, watchRefclk_kept, enterState_kept, implies_true]
  · rfl

theorem requestLow_kept (target : PowerState) (s : State) : (requestLow target s).kept = s.kept := by
  unfold requestLow
  first
    | (simp only [kept_mk, kept_fold, ite_kept, ite_self, fset_kept, startEntry_kept, startPfwSleep_kept]; done)
    | ((repeat' split) <;> simp only [kept_mk, kept_fold, ite_kept, ite_self, fset_kept, startEntry_kept,
        startPfwSleep_kept]; done)
    | grind (splitImp := true) only [= kept_def, = fset_kept, = startEntry_kept, = startPfwSleep_kept, foldl_kept]

theorem requestPower_kept (mid : Mid) (target : PowerState) (s : State) : (requestPower mid target s).kept = s.kept := by
  unfold requestPower
  dsimp only
  simp only [ite_kept, fset_kept]
  split
  · rfl
  · split
    · rfl
    · split <;> simp only [kept_mk, kept_fold, ite_kept, ite_self, modPwr_kept, dozeWake_kept, requestLow_kept, startEntry_kept,
        wakeEvent_kept, enterState_kept, fset_kept]

theorem pwrCtlWrite_kept (mid : Mid) (v : Word) (s : State) : (pwrCtlWrite mid v s).kept = s.kept := by
  unfold pwrCtlWrite
  first
    | (simp only [kept_mk, kept_fold, ite_kept, ite_self, fset_kept, requestPower_kept]; done)
    | ((repeat' split) <;> simp only [kept_mk, kept_fold, ite_kept, ite_self, fset_kept, requestPower_kept]; done)
    | grind (splitImp := true) only [= kept_def, = fset_kept, = requestPower_kept, foldl_kept]

theorem saveExpiry_kept (s : State) : (saveExpiry s).kept = s.kept := by
  unfold saveExpiry
  first
    | (simp only [kept_mk, kept_fold, ite_kept, ite_self, startPfwSleep_kept]; done)
    | ((repeat' split) <;> simp only [kept_mk, kept_fold, ite_kept, ite_self, startPfwSleep_kept]; done)
    | grind (splitImp := true) only [= kept_def, = startPfwSleep_kept, foldl_kept]

theorem pwrgdOff_kept (s : State) : (pwrgdOff s).kept = s.kept := by
  unfold pwrgdOff
  try dsimp only
  simp only [kept_mk, kept_fold, ite_kept, ite_self, askReset_kept, startPfwSleep_kept, modPwr_kept]

theorem pwrgdOn_kept (s : State) : (pwrgdOn s).kept = s.kept := by
  unfold pwrgdOn
  try dsimp only
  simp only [kept_mk, kept_fold, ite_kept, ite_self, releaseC_kept, wakeEvent_kept, modPwr_kept]

theorem refclkLost_kept (s : State) : (refclkLost s).kept = s.kept := by
  unfold refclkLost
  try dsimp only
  simp only [kept_mk, kept_fold, ite_kept, ite_self, watchRefclk_kept, withTim_kept, withTimeSync_kept, modPwr_kept,
      implies_true]

theorem escalate_kept (s : State) : (escalate s).kept = s.kept := by
  unfold escalate
  first
    | (simp only [kept_mk, kept_fold, ite_kept, ite_self, askReset_kept]; done)
    | ((repeat' split) <;> simp only [kept_mk, kept_fold, ite_kept, ite_self, askReset_kept]; done)
    | grind (splitImp := true) only [= kept_def, = askReset_kept, foldl_kept]

theorem timCtlWrite_kept (v : Word) (s : State) : (timCtlWrite v s).kept = s.kept := by
  unfold timCtlWrite
  try dsimp only
  simp only [kept_mk, kept_fold, ite_kept, ite_self, withTim_kept, withTimeSync_kept, writePlain_kept, implies_true]

theorem chipWrite_kept (mid : Mid) (r : RegId) (i : Nat) (k : Nat) (v : Word) (s : State) :
    (chipWrite mid r i k v s).kept = s.kept := by
  unfold chipWrite
  first
    | (simp only [kept_mk, kept_fold, ite_kept, ite_self, capCiWrite_kept, capCtlWrite_kept, dbgHaltWrite_kept,
        dbgWrite_kept, debugLevelSet_kept, epochWrite_kept, lockWrite_kept, pmcCtlWrite_kept, pmcSnapWrite_kept,
        tableCommand_kept, writePlain_kept]; done)
    | ((repeat' split) <;> simp only [kept_mk, kept_fold, ite_kept, ite_self, capCiWrite_kept, capCtlWrite_kept,
        dbgHaltWrite_kept, dbgWrite_kept, debugLevelSet_kept, epochWrite_kept, lockWrite_kept, pmcCtlWrite_kept,
        pmcSnapWrite_kept, tableCommand_kept, writePlain_kept]; done)
    | grind (splitImp := true) only [= kept_def, = capCiWrite_kept, = capCtlWrite_kept, = dbgHaltWrite_kept, = dbgWrite_kept,
        = debugLevelSet_kept, = epochWrite_kept, = lockWrite_kept, = pmcCtlWrite_kept, = pmcSnapWrite_kept,
        = tableCommand_kept, = writePlain_kept, foldl_kept]

theorem smbAdvance_kept (s : State) : (smbAdvance s).kept = s.kept := by
  unfold smbAdvance
  first
    | (simp only [kept_mk, kept_fold, ite_kept, ite_self]; done)
    | ((repeat' split) <;> simp only [kept_mk, kept_fold, ite_kept, ite_self]; done)
    | grind (splitImp := true) only [= kept_def, foldl_kept]

theorem smbOffset_kept (bytes : Bytes) (s : State) : (smbOffset bytes s).kept = s.kept := by
  unfold smbOffset
  first
    | (simp only [kept_mk, kept_fold, ite_kept, ite_self]; done)
    | ((repeat' split) <;> simp only [kept_mk, kept_fold, ite_kept, ite_self]; done)
    | grind (splitImp := true) only [= kept_def, foldl_kept]

theorem smbSet_kept (st : Nat) (s : State) : (smbSet st s).kept = s.kept := by
  rfl

theorem smbAuto_kept (b : Byte) (s : State) : (smbAuto b s).kept = s.kept := by
  rfl

theorem smbTimeout_kept (s : State) : (smbTimeout s).kept = s.kept := by
  unfold smbTimeout
  first
    | (simp only [kept_mk, kept_fold, ite_kept, ite_self, resetMaster_kept]; done)
    | ((repeat' split) <;> simp only [kept_mk, kept_fold, ite_kept, ite_self, resetMaster_kept]; done)
    | grind (splitImp := true) only [= kept_def, = resetMaster_kept, foldl_kept]

end Sys2Proof.Laws
end

