-- ==== Sys2Proof/Laws/Memories.lean ====
section
/-! SUPPORT. The operations that change a memory keep it in order (R27, R39, R289): the store commands, the retention SRAM, the
resets that clear a command in progress, and the register accesses that reach them. -/

set_option linter.unusedSimpArgs false
set_option linter.unusedVariables false

namespace Sys2Proof.Laws

open Sys2Proof.Machine

/-- What is kept decides whether the memories are in order. -/
theorem memoriesOk_of_kept {s t : State} (h : t.kept = s.kept) : t.memoriesOk = s.memoriesOk := by
  simp only [kept_def, keptOf, Prod.mk.injEq] at h
  obtain ⟨-, -, h3, h4, h5⟩ := h
  simp only [State.memoriesOk, h3, h4, h5]

/-- An operation on what is not kept leaves the memories in order. -/
theorem memoriesOk_trans {s t : State} (h : t.kept = s.kept) (hs : s.memoriesOk = true) : t.memoriesOk = true := by
  rw [memoriesOk_of_kept h]; exact hs

theorem memoriesOk_def (s : State) : s.memoriesOk = true ↔
    Memory.wf 0x400000 s.cfg.store = true ∧ Memory.wf 0x40000 s.pwr.rsram = true ∧ s.cfg.prog.all ProgOp.inStore = true := by
  simp [State.memoriesOk, and_assoc]

theorem leBytes_length (n v : Nat) : (leBytes n v).length = n := by
  induction n generalizing v with
  | zero => rfl
  | succ n ih => simp only [leBytes, List.length_cons, ih]

/-- A block of the store's data registers is 64 bytes (R38). -/
theorem progData_length (s : State) : (progData s).length = 64 := by
  have : ∀ l : List Nat, (l.flatMap (fun k => leBytes 8 (s.regWord .CFG_PROG_DATA 0 k).toNat)).length = 8 * l.length := by
    intro l
    induction l with
    | nil => rfl
    | cons a l ih => simp only [List.flatMap_cons, List.length_append, leBytes_length, ih, List.length_cons]; omega
  unfold progData
  rw [this]
  rfl

/-- The address of a block within its region lies in the store (R27). -/
theorem storeRegion_bound (r b : Nat) (h : 64 * b < (storeRegion r).2) :
    (storeRegion r).1 + 64 * b + 64 ≤ 0x400000 := by
  unfold storeRegion at *
  split at h <;> simp only at h ⊢ <;> omega

/-- Storing a block of 64 bytes within the store keeps it in its canonical form. -/
theorem progDone_memoriesOk (s : State) (h : s.memoriesOk = true) : (progDone s).memoriesOk = true := by
  rw [memoriesOk_def] at h
  obtain ⟨h1, h2, h3⟩ := h
  unfold progDone
  split
  · rw [memoriesOk_def]; exact ⟨h1, h2, h3⟩
  · rename_i addr data inc heq
    rw [heq] at h3
    simp only [Option.all_some, ProgOp.inStore, Bool.and_eq_true, decide_eq_true_eq] at h3
    have key : ∀ t : State, (progAdvance inc t).kept = t.kept := by
      intro t; unfold progAdvance; split
      · exact fset_kept _ _ _ _ _
      · rfl
    rw [memoriesOk_of_kept (key _), memoriesOk_def]
    refine ⟨ramWrite_wf _ _ _ _ ?_ h1, h2, rfl⟩
    rw [h3.2]; exact h3.1
  · rename_i addr inc heq
    have key : ∀ t : State, (progAdvance inc t).kept = t.kept := by
      intro t; unfold progAdvance; split
      · exact fset_kept _ _ _ _ _
      · rfl
    dsimp only
    rw [memoriesOk_of_kept (key _), memoriesOk_of_kept (foldl_kept _ _ _ (fun t k => setWord_kept _ _ _ _ _)), memoriesOk_def]
    exact ⟨h1, h2, rfl⟩

theorem recordPulsed_memoriesOk (s : State) (h : s.memoriesOk = true) : (recordPulsed s).memoriesOk = true :=
  memoriesOk_trans (recordPulsed_kept s) h

theorem pulseDone_memoriesOk (s : State) (h : s.memoriesOk = true) : (pulseDone s).memoriesOk = true := by
  unfold pulseDone
  split
  · exact recordPulsed_memoriesOk s h
  · exact progDone_memoriesOk s h

theorem flatMap_length (g : Nat → Nat) : ∀ l : List Nat, (l.flatMap (fun k => leBytes 8 (g k))).length = 8 * l.length
  | [] => rfl
  | a :: l => by simp only [List.flatMap_cons, List.length_append, leBytes_length, flatMap_length g l, List.length_cons]; omega

/-- The loss of all supplies during a pulse leaves a block of the store free, and the store in order (R43). -/
theorem pulseLost_memoriesOk (s : State) (h : s.memoriesOk = true) : (pulseLost s).memoriesOk = true := by
  have hk : (copyLost s).kept = s.kept := by
    unfold copyLost
    split <;> rfl
  have hm := memoriesOk_trans hk h
  unfold pulseLost
  generalize copyLost s = x at hm
  unfold blockLost
  split
  · rename_i addr data inc heq
    rw [memoriesOk_def] at hm ⊢
    obtain ⟨h1, h2, h3⟩ := hm
    rw [heq] at h3
    simp only [Option.all_some, ProgOp.inStore, Bool.and_eq_true, decide_eq_true_eq] at h3
    have hl := flatMap_length (fun k => (Config.free64 (x.freeCount + k)).toNat) (List.range 8)
    rw [List.length_range] at hl
    dsimp only at hl ⊢
    generalize ((List.range 8).flatMap fun k => leBytes 8 (Config.free64 (x.freeCount + k)).toNat) = junk at hl ⊢
    refine ⟨ramWrite_wf _ _ _ _ ?_ h1, h2, rfl⟩
    rw [hl]
    exact h3.1
  · exact hm

/-- An accepted store command stays within the store. -/
theorem progCtlWrite_memoriesOk (mid : Mid) (v : Word) (s : State) (h : s.memoriesOk = true) :
    (progCtlWrite mid v s).memoriesOk = true := by
  have h0 : ((((s.fset F.CFG_PROG_CTL_BLOCK (fieldOf v 14 0)).fset F.CFG_PROG_CTL_REGION (fieldOf v 17 16)).fset
      F.CFG_PROG_CTL_AUTO_INC (fieldOf v 18 18))).kept = s.kept := rfl
  unfold progCtlWrite
  dsimp only
  split
  · exact memoriesOk_trans h0 h
  · have h1 : ∀ (t : State) (e : Nat), ((calDisarm mid t).fset F.CFG_PROG_CTL_ERR e).kept = t.kept := fun _ _ => rfl
    split
    · exact memoriesOk_trans ((h1 _ _).trans h0) h
    · rename_i hr
      have hr : progRefusal mid v s = 0 := by simpa using hr
      have hb : 64 * fieldOf v 14 0 < (storeRegion (fieldOf v 17 16)).2 := by
        unfold progRefusal at hr
        dsimp only at hr
        by_contra hc
        have hc : (storeRegion (fieldOf v 17 16)).2 ≤ 64 * fieldOf v 14 0 := by omega
        split_ifs at hr
      have ho := storeRegion_bound _ _ hb
      rw [memoriesOk_def] at h ⊢
      obtain ⟨g1, g2, -⟩ := h
      refine ⟨g1, g2, ?_⟩
      show (some _ : Option ProgOp).all ProgOp.inStore = true
      rw [Option.all_some]
      split
      · simp only [ProgOp.inStore, Bool.and_eq_true, decide_eq_true_eq]
        exact ⟨ho, progData_length _⟩
      · simp only [ProgOp.inStore, decide_eq_true_eq]
        exact ho

/-- An access of the retention SRAM keeps it in its canonical form. -/
theorem rsramAccess_memoriesOk (w : Option Word) (s : State) (h : s.memoriesOk = true) : (rsramAccess w s).1.memoriesOk = true := by
  have key : ∀ t : State, (if t.flag F.AON_RSRAM_ADDR_AUTO_INC then
      t.fset F.AON_RSRAM_ADDR_ADDR (t.fget F.AON_RSRAM_ADDR_ADDR + 1) else t).kept = t.kept := by
    intro t; split
    · exact fset_kept _ _ _ _ _
    · rfl
  unfold rsramAccess
  dsimp only
  rw [memoriesOk_of_kept (key _)]
  cases w with
  | none => exact h
  | some v =>
    rw [memoriesOk_def] at h ⊢
    obtain ⟨h1, h2, h3⟩ := h
    simp only [modPwr_cfg, modPwr_pwr]
    refine ⟨h1, ramWrite_wf _ _ _ _ ?_ h2, h3⟩
    have hb : s.fget F.AON_RSRAM_ADDR_ADDR < 2 ^ 15 := fieldOf_lt _ 17 3
    rw [leBytes_length]
    omega

/-- Clearing the block's working state keeps the store and drops the command in progress. -/
theorem cfgCleared_memoriesOk (s t : State) (h : s.memoriesOk = true) (h1 : t.cfg.store = s.cfg.store) (h2 : t.cfg.prog = none)
    (h3 : t.pwr.rsram = s.pwr.rsram) : t.memoriesOk = true := by
  rw [memoriesOk_def] at h ⊢
  rw [h1, h2, h3]
  exact ⟨h.1, h.2.1, rfl⟩

theorem holdC_memoriesOk (source : Nat) (mid : Mid) (deferred keepLocks : Bool) (s : State) (h : s.memoriesOk = true) :
    (holdC source mid deferred keepLocks s).memoriesOk = true := by
  unfold holdC
  dsimp only
  generalize hx : ((recordReset source 1 mid (if source = 3 then s else leaveAll 3 s)).finc F.RST_COUNT_C_COUNT 1).fset
    F.RST_STATUS_DEFERRED (b2n deferred) = x
  have hk : x.kept = s.kept := by
    rw [← hx, fset_kept, finc_kept, recordReset_kept, ite_kept, leaveAll_kept, ite_self]
  generalize hy : (if keepLocks then locksC x else { x with locks := Vector.replicate 256 lockReset }) = y
  have hk2 : y.kept = s.kept := by
    rw [← hy, ite_kept, locksC_kept]
    split
    · exact hk
    · exact hk
  have hm : y.memoriesOk = true := memoriesOk_trans hk2 h
  refine memoriesOk_trans (watchRefclk_kept _) (cfgCleared_memoriesOk y _ hm rfl rfl rfl)

theorem holdP_memoriesOk (s : State) (h : s.memoriesOk = true) : (holdP s).memoriesOk = true := by
  have hm : (if s.pwr.coreOk || s.pwr.pwrgd then recordPulsed (progDone s) else pulseLost s).memoriesOk = true := by
    split
    · exact recordPulsed_memoriesOk _ (progDone_memoriesOk s h)
    · exact pulseLost_memoriesOk s h
  unfold holdP
  dsimp only
  rw [memoriesOk_of_kept (fset_kept _ _ _ _ _)]
  generalize (if s.pwr.coreOk || s.pwr.pwrgd then recordPulsed (progDone s) else pulseLost s) = x at hm ⊢
  rw [memoriesOk_def] at hm ⊢
  exact ⟨hm.1, rfl, rfl⟩

theorem takeHold_memoriesOk (s : State) (h : s.memoriesOk = true) : (takeHold s).memoriesOk = true := by
  unfold takeHold
  split
  · exact h
  · rename_i q rest hq
    have h' : (s.modRst (fun r => { r with waiting := rest })).memoriesOk = true := memoriesOk_trans (modRst_kept _ _) h
    dsimp only
    split
    · split
      · exact h
      · split
        · exact h'
        · exact holdC_memoriesOk _ _ _ _ _ h'
    · split
      · exact h
      · split
        · exact h'
        · exact holdC_memoriesOk _ _ _ _ _ h'
    · exact memoriesOk_trans (holdT_kept _ _ _) h'
    · split
      · exact memoriesOk_trans (funcStart_kept _ _) h'
      · exact h'
    · split
      · exact memoriesOk_trans (resetL_kept _ _ _ _ _) h'
      · exact h'

theorem exitDone_memoriesOk (s : State) (h : s.memoriesOk = true) : (exitDone s).memoriesOk = true := by
  unfold exitDone
  split
  · split
    · refine memoriesOk_trans ((watchSupply_kept _).trans ((watchRefclk_kept _).trans (modPwr_kept _ _ rfl))) ?_
      exact h
    · exact memoriesOk_trans (watchSupply_kept _) (holdC_memoriesOk _ _ _ _ _ h)
  · dsimp only
    refine memoriesOk_trans (foldl_kept _ _ _ (fun t p => startTraining_kept _ _)) ?_
    exact memoriesOk_trans ((watchRefclk_kept _).trans ((modPwr_kept _ _ rfl).trans (enterState_kept _ _))) h
  · exact h

/-! ## Register accesses -/

theorem cfgWrite_memoriesOk (mid : Mid) (r : RegId) (k : Nat) (v : Word) (s : State) (h : s.memoriesOk = true) :
    (cfgWrite mid r k v s).memoriesOk = true := by
  have hc : (calDisarm mid s).memoriesOk = true := memoriesOk_trans (calDisarm_kept _ _) h
  unfold cfgWrite
  split
  · exact memoriesOk_trans (writePlain_kept _ _ _ _ _) h
  · exact progCtlWrite_memoriesOk _ _ _ h
  · exact memoriesOk_trans (calUnlockWrite_kept _ _ _) h
  · exact memoriesOk_trans (activateWrite_kept _ _) hc
  · exact memoriesOk_trans (flagWrite_kept _ _ _ _ _) hc
  · exact memoriesOk_trans (writePlain_kept _ _ _ _ _) hc

theorem aonWrite_memoriesOk (mid : Mid) (r : RegId) (k : Nat) (v : Word) (s : State) (h : s.memoriesOk = true) :
    (aonWrite mid r k v s).memoriesOk = true := by
  unfold aonWrite
  split
  · exact memoriesOk_trans (resetCommand_kept _ _ _) h
  · exact memoriesOk_trans (wdogWrite_kept _ _) h
  · exact memoriesOk_trans (pwrCtlWrite_kept _ _ _) h
  · split
    · exact h
    · exact h
  · exact rsramAccess_memoriesOk _ _ h
  · exact memoriesOk_trans (bindWrite_kept _ _ _) h
  · exact memoriesOk_trans (timCtlWrite_kept _ _) h
  · exact memoriesOk_trans (timSetGo_kept _ _) h
  · exact memoriesOk_trans (clearFaults_kept _ _) h
  · exact memoriesOk_trans (firstInfoWrite_kept _ _) h
  · exact memoriesOk_trans (injectFault_kept _ _ _) h
  · exact memoriesOk_trans (writePlain_kept _ _ _ _ _) h

theorem portWrite_kept (p : NetPort) (f : State → State) (s : State) (h : (f s).kept = s.kept) :
    (portWrite p f s).kept = s.kept := by
  unfold portWrite
  split
  · rfl
  · exact h

theorem writeAt_memoriesOk (mid : Mid) (off : Nat) (r : RegId) (i k : Nat) (v : Word) (s : State) (h : s.memoriesOk = true) :
    (writeAt mid off r i k v s).memoriesOk = true := by
  have hl : (whileLive mid off s).kept = s.kept := kept_of_still (whileLive_still _ _ _)
  unfold writeAt
  split
  · split
    · exact memoriesOk_trans (portWrite_kept _ _ _ hl) h
    · exact memoriesOk_trans hl h
  · split
    · exact cfgWrite_memoriesOk _ _ _ _ _ h
    all_goals first
      | with_reducible exact aonWrite_memoriesOk _ _ _ _ _ h
      | with_reducible exact memoriesOk_trans (nicWrite_kept _ _ _ _ _ _ _) h
      | with_reducible exact memoriesOk_trans (chipWrite_kept _ _ _ _ _ _) h
      | with_reducible exact memoriesOk_trans (portWrite_kept _ _ _ (netWrite_kept _ _ _ _ _)) h

theorem writeReg_memoriesOk (mid : Mid) (off : Nat) (v : Word) (s : State) (h : s.memoriesOk = true) :
    (writeReg mid off v s).memoriesOk = true := by
  unfold writeReg
  split
  · exact writeAt_memoriesOk _ _ _ _ _ _ _ h
  · exact h

theorem readAt_memoriesOk (mid : Mid) (r : RegId) (i k : Nat) (s : State) (h : s.memoriesOk = true) :
    (readAt mid r i k s).1.memoriesOk = true := by
  unfold readAt
  split
  · exact memoriesOk_trans (modLock_kept _ _ _) h
  · exact rsramAccess_memoriesOk _ _ h
  · exact memoriesOk_trans (dbgRead_kept _ _) h
  · dsimp only
    split
    · exact memoriesOk_trans (setWord_kept _ _ _ _ _) h
    · exact h

theorem readReg_memoriesOk (mid : Mid) (off : Nat) (s : State) (h : s.memoriesOk = true) :
    (readReg mid off s).1.memoriesOk = true := by
  unfold readReg
  split
  · exact readAt_memoriesOk _ _ _ _ _ h
  · exact h

theorem readOut_memoriesOk (mid : Mid) (off : Nat) (s : State) (h : s.memoriesOk = true) : (readOut mid off s).memoriesOk = true := by
  unfold readOut
  exact memoriesOk_trans (emit_kept _ _) (readReg_memoriesOk _ _ _ h)

theorem peekReg_memoriesOk (mid : Mid) (off : Nat) (s : State) (h : s.memoriesOk = true) : (peekReg mid off s).1.memoriesOk = true := by
  unfold peekReg
  split
  · exact h
  · exact h
  · dsimp only
    split
    · exact memoriesOk_trans (dbgRead_kept _ _) h
    · exact h
  · exact h
  · exact h

theorem writeForm_memoriesOk (mid : Mid) (off : Nat) (v : Word) (s : State) (h : s.memoriesOk = true) :
    (writeForm mid off v s).memoriesOk = true := by
  unfold writeForm
  split
  · exact memoriesOk_trans (msixWrite_kept _ _ _ _ _) h
  · split
    · exact writeReg_memoriesOk _ _ _ _ h
    · exact memoriesOk_trans (regAccessError_kept _ _ _ _) h

theorem readForm_memoriesOk (mid : Mid) (off len : Nat) (s : State) (h : s.memoriesOk = true) :
    (readForm mid off len s).memoriesOk = true := by
  unfold readForm
  split
  · exact memoriesOk_trans (emit_kept _ _) h
  · split
    · exact readOut_memoriesOk _ _ _ h
    · split
      · exact memoriesOk_trans (emit_kept _ _) (peekReg_memoriesOk _ _ _ h)
      · exact memoriesOk_trans (regAccessError_kept _ _ _ _) h

theorem applyPreset_memoriesOk (s : State) (e : Nat × Word) (h : s.memoriesOk = true) : (applyPreset s e).memoriesOk = true := by
  unfold applyPreset
  split
  · exact memoriesOk_trans (msixWrite_kept _ _ _ _ _) h
  · split
    · split
      · exact h
      · exact writeAt_memoriesOk _ _ _ _ _ _ _ h
    · exact h

theorem foldl_memoriesOk {α : Type} (f : State → α → State) (l : List α) (s : State)
    (hf : ∀ t x, t.memoriesOk = true → (f t x).memoriesOk = true) (h : s.memoriesOk = true) : (l.foldl f s).memoriesOk = true := by
  induction l generalizing s with
  | nil => exact h
  | cons a l ih => exact ih _ (hf _ _ h)

theorem commitImage_memoriesOk (s : State) (h : s.memoriesOk = true) : (commitImage s).memoriesOk = true := by
  unfold commitImage
  split
  · rename_i slot img heq
    split
    · exact h
    · dsimp only
      refine memoriesOk_trans (foldl_kept _ _ _ (fun t p => startTraining_kept _ _)) ?_
      generalize hx : (fuseRates s.impl.grade5 img).presets.foldl applyPreset _ = x
      have hm : x.memoriesOk = true := by
        rw [← hx]
        exact foldl_memoriesOk _ _ _ applyPreset_memoriesOk h
      split
      · exact memoriesOk_trans (asyncChip_kept _ _ _ _) hm
      · exact hm
  · exact h

theorem busWrite_memoriesOk (mid : Mid) (off : Nat) (v : Word) (s : State) (h : s.memoriesOk = true) :
    (busWrite mid off v s).memoriesOk = true := by
  unfold busWrite
  split
  · exact writeForm_memoriesOk _ _ _ _ h
  · exact h

theorem busRead_memoriesOk (mid : Mid) (off : Nat) (s : State) (h : s.memoriesOk = true) :
    (busRead mid off s).1.memoriesOk = true := by
  unfold busRead
  split
  · exact h
  · split
    · exact h
    · exact readReg_memoriesOk _ _ _ h

theorem agentServe_memoriesOk (p : Packet) (s : State) (h : s.memoriesOk = true) : (agentServe p s).memoriesOk = true := by
  have ha : ∀ (op st : Nat) (v : Word) (t : State), t.memoriesOk = true → (agentAnswer p op st v t).memoriesOk = true :=
    fun _ _ _ _ ht => memoriesOk_trans (agentAnswer_kept _ _ _ _ _) ht
  unfold agentServe
  dsimp only
  split
  · split
    · exact ha _ _ _ _ (memoriesOk_trans (tookFree_kept _) h)
    · exact ha _ _ _ _ (memoriesOk_trans (emit_kept _ _) (busRead_memoriesOk _ _ _ h))
  · split
    · exact ha _ _ _ _ (memoriesOk_trans (tookFree_kept _) h)
    · exact ha _ _ _ _ (memoriesOk_trans (tookFree_kept _) (busWrite_memoriesOk _ _ _ _ h))
  · exact h

theorem agentTake_memoriesOk (p : Packet) (s : State) (h : s.memoriesOk = true) : (agentTake p s).memoriesOk = true := by
  unfold agentTake
  split
  · exact agentServe_memoriesOk _ _ h
  · split
    · exact h
    · exact memoriesOk_trans ((agentAnswer_kept _ _ _ _ _).trans (tookFree_kept _)) h

theorem agentCycle_memoriesOk (s : State) (h : s.memoriesOk = true) : (agentCycle s).memoriesOk = true := by
  unfold agentCycle
  split
  · exact h
  · split
    · exact h
    · exact agentServe_memoriesOk _ _ h

theorem mgmtArrive_memoriesOk (write : Bool) (ip : IntPort) (s : State) (h : s.memoriesOk = true) :
    (mgmtArrive write ip s).memoriesOk = true := by
  unfold mgmtArrive
  split
  · exact h
  · split
    · exact h
    · dsimp only
      have ht := memoriesOk_trans (takeEject_kept ip ‹InPacket› s) h
      have hn : ∀ (n : Nat) (t : State), t.memoriesOk = true → (nicSlot n t).memoriesOk = true :=
        fun n t h => memoriesOk_trans (kept_of_still (nicSlot_still _ _)) h
      split
      · exact hn _ _ (memoriesOk_trans (pmcAdd_kept _ _ _ _) ht)
      · split
        · exact memoriesOk_trans (kept_of_still (discardPkt_still _ _)) ht
        · split
          · exact hn _ _ (memoriesOk_trans (kept_of_still (countMgmt_still _)) ht)
          · split
            · exact hn _ _ ht
            · exact agentTake_memoriesOk _ _ (hn _ _ ht)

theorem jtagAccess_memoriesOk (dr : BitVec 92) (s : State) (h : s.memoriesOk = true) : (jtagAccess dr s).memoriesOk = true := by
  unfold jtagAccess
  split
  · exact h
  · dsimp only
    split
    · exact busWrite_memoriesOk 1#8 _ _ _ h
    · exact busRead_memoriesOk 1#8 _ _ h

theorem smbWriteGo_memoriesOk (bytes : Bytes) (s : State) (h : s.memoriesOk = true) : (smbWriteGo bytes s).memoriesOk = true := by
  unfold smbWriteGo
  split
  · exact h
  · dsimp only
    split
    · exact h
    · exact memoriesOk_trans (smbAdvance_kept _) (memoriesOk_trans (smbSet_kept _ _) (busWrite_memoriesOk _ _ _ _ h))

theorem smbReadGo_memoriesOk (s : State) (h : s.memoriesOk = true) : (smbReadGo s).memoriesOk = true := by
  unfold smbReadGo
  dsimp only
  split
  · exact h
  · refine memoriesOk_trans (smbAdvance_kept _) (memoriesOk_trans (smbSet_kept _ _) ?_)
    exact busRead_memoriesOk _ _ _ h

end Sys2Proof.Laws
end

