-- ==== Sys2Proof/Laws/Store.lean ====
section
/-! SUPPORT. The bytes of the configuration store (R3, R39): every operation but the end of a store pulse, and the loss of VDD_AON
that finishes one, leaves them alone. -/

set_option linter.unusedSimpArgs false
set_option linter.unusedVariables false

namespace Sys2Proof.Laws

open Sys2Proof.Machine

variable {m : Memory}

/-- What is kept holds the store. -/
theorem store_trans {s t : State} (h : t.kept = s.kept) (hs : s.cfg.store = m) : t.cfg.store = m := by
  simp only [kept_def, keptOf, Prod.mk.injEq] at h
  rw [h.2.2.1]; exact hs

/-- A store command is accepted or refused before its pulse changes a byte. -/
theorem progCtlWrite_store (mid : Mid) (v : Word) (s : State) (h : s.cfg.store = m) :
    (progCtlWrite mid v s).cfg.store = m := by
  unfold progCtlWrite
  dsimp only
  split
  · exact h
  · split
    · exact h
    · exact h

theorem rsramAccess_store (w : Option Word) (s : State) (h : s.cfg.store = m) : (rsramAccess w s).1.cfg.store = m := by
  have key : ∀ t : State, (if t.flag F.AON_RSRAM_ADDR_AUTO_INC then
      t.fset F.AON_RSRAM_ADDR_ADDR (t.fget F.AON_RSRAM_ADDR_ADDR + 1) else t).kept = t.kept := by
    intro t; split
    · exact fset_kept _ _ _ _ _
    · rfl
  unfold rsramAccess
  dsimp only
  refine store_trans (key _) ?_
  cases w with
  | none => exact h
  | some v => exact h

theorem holdC_store (source : Nat) (mid : Mid) (deferred keepLocks : Bool) (s : State) (h : s.cfg.store = m) :
    (holdC source mid deferred keepLocks s).cfg.store = m := by
  unfold holdC
  dsimp only
  generalize hx : ((recordReset source 1 mid (if source = 3 then s else leaveAll 3 s)).finc F.RST_COUNT_C_COUNT 1).fset
    F.RST_STATUS_DEFERRED (b2n deferred) = x
  have hk : x.kept = s.kept := by
    rw [← hx, fset_kept, finc_kept, recordReset_kept, ite_kept, leaveAll_kept, ite_self]
  generalize hy : (if keepLocks then locksC x else { x with locks := Vector.replicate 256 lockReset }) = y
  have hk2 : y.kept = s.kept := by
    rw [← hy, ite_kept, locksC_kept]
    split
    · exact hk
    · exact hk
  have hm : y.cfg.store = m := store_trans hk2 h
  exact store_trans (watchRefclk_kept _) hm

theorem takeHold_store (s : State) (h : s.cfg.store = m) : (takeHold s).cfg.store = m := by
  unfold takeHold
  split
  · exact h
  · rename_i q rest hq
    have h' : (s.modRst (fun r => { r with waiting := rest })).cfg.store = m := store_trans (modRst_kept _ _) h
    dsimp only
    split
    · split
      · exact h
      · split
        · exact h'
        · exact holdC_store _ _ _ _ _ h'
    · split
      · exact h
      · split
        · exact h'
        · exact holdC_store _ _ _ _ _ h'
    · exact store_trans (holdT_kept _ _ _) h'
    · split
      · exact store_trans (funcStart_kept _ _) h'
      · exact h'
    · split
      · exact store_trans (resetL_kept _ _ _ _ _) h'
      · exact h'

theorem exitDone_store (s : State) (h : s.cfg.store = m) : (exitDone s).cfg.store = m := by
  unfold exitDone
  split
  · split
    · refine store_trans ((watchSupply_kept _).trans ((watchRefclk_kept _).trans (modPwr_kept _ _ rfl))) ?_
      exact h
    · exact store_trans (watchSupply_kept _) (holdC_store _ _ _ _ _ h)
  · dsimp only
    refine store_trans (foldl_kept _ _ _ (fun t p => startTraining_kept _ _)) ?_
    exact store_trans ((watchRefclk_kept _).trans ((modPwr_kept _ _ rfl).trans (enterState_kept _ _))) h
  · exact h

/-! ## Register accesses -/

theorem cfgWrite_store (mid : Mid) (r : RegId) (k : Nat) (v : Word) (s : State) (h : s.cfg.store = m) :
    (cfgWrite mid r k v s).cfg.store = m := by
  have hc : (calDisarm mid s).cfg.store = m := store_trans (calDisarm_kept _ _) h
  unfold cfgWrite
  split
  · exact store_trans (writePlain_kept _ _ _ _ _) h
  · exact progCtlWrite_store _ _ _ h
  · exact store_trans (calUnlockWrite_kept _ _ _) h
  · exact store_trans (activateWrite_kept _ _) hc
  · exact store_trans (flagWrite_kept _ _ _ _ _) hc
  · exact store_trans (writePlain_kept _ _ _ _ _) hc

theorem aonWrite_store (mid : Mid) (r : RegId) (k : Nat) (v : Word) (s : State) (h : s.cfg.store = m) :
    (aonWrite mid r k v s).cfg.store = m := by
  unfold aonWrite
  split
  · exact store_trans (resetCommand_kept _ _ _) h
  · exact store_trans (wdogWrite_kept _ _) h
  · exact store_trans (pwrCtlWrite_kept _ _ _) h
  · split
    · exact h
    · exact h
  · exact rsramAccess_store _ _ h
  · exact store_trans (bindWrite_kept _ _ _) h
  · exact store_trans (timCtlWrite_kept _ _) h
  · exact store_trans (timSetGo_kept _ _) h
  · exact store_trans (clearFaults_kept _ _) h
  · exact store_trans (firstInfoWrite_kept _ _) h
  · exact store_trans (injectFault_kept _ _ _) h
  · exact store_trans (writePlain_kept _ _ _ _ _) h

theorem writeAt_store (mid : Mid) (off : Nat) (r : RegId) (i k : Nat) (v : Word) (s : State) (h : s.cfg.store = m) :
    (writeAt mid off r i k v s).cfg.store = m := by
  have hl : (whileLive mid off s).kept = s.kept := kept_of_still (whileLive_still _ _ _)
  unfold writeAt
  split
  · split
    · exact store_trans (portWrite_kept _ _ _ hl) h
    · exact store_trans hl h
  · split
    · exact cfgWrite_store _ _ _ _ _ h
    all_goals first
      | with_reducible exact aonWrite_store _ _ _ _ _ h
      | with_reducible exact store_trans (nicWrite_kept _ _ _ _ _ _ _) h
      | with_reducible exact store_trans (chipWrite_kept _ _ _ _ _ _) h
      | with_reducible exact store_trans (portWrite_kept _ _ _ (netWrite_kept _ _ _ _ _)) h

theorem writeReg_store (mid : Mid) (off : Nat) (v : Word) (s : State) (h : s.cfg.store = m) :
    (writeReg mid off v s).cfg.store = m := by
  unfold writeReg
  split
  · exact writeAt_store _ _ _ _ _ _ _ h
  · exact h

theorem readAt_store (mid : Mid) (r : RegId) (i k : Nat) (s : State) (h : s.cfg.store = m) :
    (readAt mid r i k s).1.cfg.store = m := by
  unfold readAt
  split
  · exact store_trans (modLock_kept _ _ _) h
  · exact rsramAccess_store _ _ h
  · exact store_trans (dbgRead_kept _ _) h
  · dsimp only
    split
    · exact store_trans (setWord_kept _ _ _ _ _) h
    · exact h

theorem readReg_store (mid : Mid) (off : Nat) (s : State) (h : s.cfg.store = m) :
    (readReg mid off s).1.cfg.store = m := by
  unfold readReg
  split
  · exact readAt_store _ _ _ _ _ h
  · exact h

theorem readOut_store (mid : Mid) (off : Nat) (s : State) (h : s.cfg.store = m) : (readOut mid off s).cfg.store = m := by
  unfold readOut
  exact store_trans (emit_kept _ _) (readReg_store _ _ _ h)

theorem peekReg_store (mid : Mid) (off : Nat) (s : State) (h : s.cfg.store = m) : (peekReg mid off s).1.cfg.store = m := by
  unfold peekReg
  split
  · exact h
  · exact h
  · dsimp only
    split
    · exact store_trans (dbgRead_kept _ _) h
    · exact h
  · exact h
  · exact h

theorem writeForm_store (mid : Mid) (off : Nat) (v : Word) (s : State) (h : s.cfg.store = m) :
    (writeForm mid off v s).cfg.store = m := by
  unfold writeForm
  split
  · exact store_trans (msixWrite_kept _ _ _ _ _) h
  · split
    · exact writeReg_store _ _ _ _ h
    · exact store_trans (regAccessError_kept _ _ _ _) h

theorem readForm_store (mid : Mid) (off len : Nat) (s : State) (h : s.cfg.store = m) :
    (readForm mid off len s).cfg.store = m := by
  unfold readForm
  split
  · exact store_trans (emit_kept _ _) h
  · split
    · exact readOut_store _ _ _ h
    · split
      · exact store_trans (emit_kept _ _) (peekReg_store _ _ _ h)
      · exact store_trans (regAccessError_kept _ _ _ _) h

theorem applyPreset_store (s : State) (e : Nat × Word) (h : s.cfg.store = m) : (applyPreset s e).cfg.store = m := by
  unfold applyPreset
  split
  · exact store_trans (msixWrite_kept _ _ _ _ _) h
  · split
    · split
      · exact h
      · exact writeAt_store _ _ _ _ _ _ _ h
    · exact h

theorem foldl_store {α : Type} (f : State → α → State) (l : List α) (s : State)
    (hf : ∀ t x, t.cfg.store = m → (f t x).cfg.store = m) (h : s.cfg.store = m) : (l.foldl f s).cfg.store = m := by
  induction l generalizing s with
  | nil => exact h
  | cons a l ih => exact ih _ (hf _ _ h)

theorem commitImage_store (s : State) (h : s.cfg.store = m) : (commitImage s).cfg.store = m := by
  unfold commitImage
  split
  · rename_i slot img heq
    split
    · exact h
    · dsimp only
      refine store_trans (foldl_kept _ _ _ (fun t p => startTraining_kept _ _)) ?_
      generalize hx : (fuseRates s.impl.grade5 img).presets.foldl applyPreset _ = x
      have hm : x.cfg.store = m := by
        rw [← hx]
        exact foldl_store _ _ _ applyPreset_store h
      split
      · exact store_trans (asyncChip_kept _ _ _ _) hm
      · exact hm
  · exact h

theorem busWrite_store (mid : Mid) (off : Nat) (v : Word) (s : State) (h : s.cfg.store = m) :
    (busWrite mid off v s).cfg.store = m := by
  unfold busWrite
  split
  · exact writeForm_store _ _ _ _ h
  · exact h

theorem busRead_store (mid : Mid) (off : Nat) (s : State) (h : s.cfg.store = m) :
    (busRead mid off s).1.cfg.store = m := by
  unfold busRead
  split
  · exact h
  · split
    · exact h
    · exact readReg_store _ _ _ h

theorem agentServe_store (p : Packet) (s : State) (h : s.cfg.store = m) : (agentServe p s).cfg.store = m := by
  have ha : ∀ (op st : Nat) (v : Word) (t : State), t.cfg.store = m → (agentAnswer p op st v t).cfg.store = m :=
    fun _ _ _ _ ht => store_trans (agentAnswer_kept _ _ _ _ _) ht
  unfold agentServe
  dsimp only
  split
  · split
    · exact ha _ _ _ _ (store_trans (tookFree_kept _) h)
    · exact ha _ _ _ _ (store_trans (emit_kept _ _) (busRead_store _ _ _ h))
  · split
    · exact ha _ _ _ _ (store_trans (tookFree_kept _) h)
    · exact ha _ _ _ _ (store_trans (tookFree_kept _) (busWrite_store _ _ _ _ h))
  · exact h

theorem agentTake_store (p : Packet) (s : State) (h : s.cfg.store = m) : (agentTake p s).cfg.store = m := by
  unfold agentTake
  split
  · exact agentServe_store _ _ h
  · split
    · exact h
    · exact store_trans ((agentAnswer_kept _ _ _ _ _).trans (tookFree_kept _)) h

theorem agentCycle_store (s : State) (h : s.cfg.store = m) : (agentCycle s).cfg.store = m := by
  unfold agentCycle
  split
  · exact h
  · split
    · exact h
    · exact agentServe_store _ _ h

theorem mgmtArrive_store (write : Bool) (ip : IntPort) (s : State) (h : s.cfg.store = m) :
    (mgmtArrive write ip s).cfg.store = m := by
  unfold mgmtArrive
  split
  · exact h
  · split
    · exact h
    · dsimp only
      have ht := store_trans (takeEject_kept ip ‹InPacket› s) h
      have hn : ∀ (n : Nat) (t : State), t.cfg.store = m → (nicSlot n t).cfg.store = m :=
        fun n t h => store_trans (kept_of_still (nicSlot_still _ _)) h
      split
      · exact hn _ _ (store_trans (pmcAdd_kept _ _ _ _) ht)
      · split
        · exact store_trans (kept_of_still (discardPkt_still _ _)) ht
        · split
          · exact hn _ _ (store_trans (kept_of_still (countMgmt_still _)) ht)
          · split
            · exact hn _ _ ht
            · exact agentTake_store _ _ (hn _ _ ht)

theorem jtagAccess_store (dr : BitVec 92) (s : State) (h : s.cfg.store = m) : (jtagAccess dr s).cfg.store = m := by
  unfold jtagAccess
  split
  · exact h
  · dsimp only
    split
    · exact busWrite_store 1#8 _ _ _ h
    · exact busRead_store 1#8 _ _ h

theorem smbWriteGo_store (bytes : Bytes) (s : State) (h : s.cfg.store = m) : (smbWriteGo bytes s).cfg.store = m := by
  unfold smbWriteGo
  split
  · exact h
  · dsimp only
    split
    · exact h
    · exact store_trans (smbAdvance_kept _) (store_trans (smbSet_kept _ _) (busWrite_store _ _ _ _ h))

theorem smbReadGo_store (s : State) (h : s.cfg.store = m) : (smbReadGo s).cfg.store = m := by
  unfold smbReadGo
  dsimp only
  split
  · exact h
  · refine store_trans (smbAdvance_kept _) (store_trans (smbSet_kept _ _) ?_)
    exact busRead_store _ _ _ h

end Sys2Proof.Laws
end

