-- ==== Sys2Proof/Laws/Facts.lean ====
section
/-! SUPPORT. What the shared operations of several commands come to: folds, the reset of register fields, the report of a fatal
source, a packet taken from an ejection buffer, the reset of a master that holds nothing. -/

namespace Sys2Proof.Laws

open Sys2Proof.Machine

theorem foldl_keep {α β : Type} (g : State → β) (f : State → α → State) (h : ∀ t x, g (f t x) = g t) : ∀ (l : List α) (s : State), g (l.foldl f s) = g s := by
  intro l
  induction l with
  | nil => intro s; rfl
  | cons x l ih => intro s; rw [List.foldl_cons, ih, h]

theorem pmcCount_hosts (u ev amt : Nat) (ok : Word → Bool) (s : State) : (pmcCount u ev amt ok s).hosts = s.hosts := by
  unfold pmcCount
  split
  · refine foldl_keep (·.hosts) _ (fun t x => ?_) _ _
    dsimp only
    split <;> rfl
  · rfl

theorem abandonTx_hosts (p : NetPort) (s : State) : (abandonTx p s).hosts = s.hosts := by
  unfold abandonTx
  split
  · rfl
  · show (countSlots p _ true _).hosts = _
    unfold countSlots pmcClass
    rw [pmcCount_hosts]
    rfl

theorem sendLve_hosts (p : NetPort) (r : Nat) (s : State) : (sendLve p r s).hosts = s.hosts := by
  unfold sendLve
  dsimp only
  split
  · split <;> rfl
  · rfl

theorem leaveAll_hosts (reason : Nat) (s : State) : (leaveAll reason s).hosts = s.hosts := by
  unfold leaveAll
  split
  · exact foldl_keep (·.hosts) _ (fun t x => by rw [sendLve_hosts, abandonTx_hosts]) _ _
  · rfl

theorem leaveAll_low (reason : Nat) (s : State) : lowRegs (leaveAll reason s) = lowRegs s := by
  unfold leaveAll
  split
  · exact foldl_low _ _ _ (fun t p => by rw [sendLve_low, abandonTx_low])
  · rfl

/-- Putting values into some of the fields of a row list. -/
theorem put_other (g : FieldRow → Option Nat) (row : FieldRow) : ∀ (l : List FieldRow) (w : Word), apart l = true → (∀ q ∈ l, q.hi < row.lo ∨ row.hi < q.lo) →
    fieldOf (l.foldl (fun w row => (g row).elim w (putField w row.hi row.lo)) w) row.hi row.lo = fieldOf w row.hi row.lo := by
  intro l
  induction l with
  | nil => intro w _ _; rfl
  | cons q l ih =>
    intro w a d
    simp only [apart, Bool.and_eq_true, decide_eq_true_eq] at a
    rw [List.foldl_cons, ih _ a.2 (fun x m => d x (List.mem_cons_of_mem _ m))]
    cases g q with
    | none => rfl
    | some v =>
      rcases d q List.mem_cons_self with h | h
      · exact fieldOf_putField_above w _ _ _ _ _ a.1.1.1 a.1.1.2 h
      · exact fieldOf_putField_below w _ _ _ _ _ a.1.1.1 a.1.1.2 h

theorem put_field (g : FieldRow → Option Nat) (row : FieldRow) : ∀ (l : List FieldRow) (w : Word), apart l = true → row ∈ l →
    fieldOf (l.foldl (fun w row => (g row).elim w (putField w row.hi row.lo)) w) row.hi row.lo =
      (g row).elim (fieldOf w row.hi row.lo) (· % 2 ^ (row.hi + 1 - row.lo)) := by
  intro l
  induction l with
  | nil => intro w _ m; cases m
  | cons q l ih =>
    intro w a m
    simp only [apart, Bool.and_eq_true, decide_eq_true_eq, List.all_eq_true, Bool.or_eq_true] at a
    rw [List.foldl_cons]
    rcases List.mem_cons.mp m with rfl | m
    · rw [put_other g row l _ a.2 (fun x mx => (a.1.2 x mx).imp id id)]
      cases g row with
      | none => rfl
      | some v => exact fieldOf_putField w _ _ _ a.1.1.1 a.1.1.2
    · rw [ih _ a.2 m]
      have d := a.1.2 row m
      have : fieldOf ((g q).elim w (putField w q.hi q.lo)) row.hi row.lo = fieldOf w row.hi row.lo := by
        cases g q with
        | none => rfl
        | some v =>
          rcases d with h | h
          · exact fieldOf_putField_below w _ _ _ _ _ a.1.1.1 a.1.1.2 h
          · exact fieldOf_putField_above w _ _ _ _ _ a.1.1.1 a.1.1.2 h
      rw [this]

theorem resetWord_field (img : Option ImageDesc) (r : RegId) (i : Nat) (row : FieldRow) (m : row ∈ regFields r) :
    fieldOf (resetWord img r i) row.hi row.lo = resetField img r i row % 2 ^ (row.hi + 1 - row.lo) := by
  unfold resetWord packFields
  rw [List.foldl_map]
  exact put_field (fun row => some (resetField img r i row)) row _ 0#64 (fields_apart r) m

theorem tblGet_map {α : Type} (f : Nat → α → α) (k : Nat) : ∀ t : Tbl α, tblGet k (t.map (fun e => (e.1, f e.1 e.2))) = (tblGet k t).map (f k) := by
  intro t
  induction t with
  | nil => rfl
  | cons e t ih =>
    simp only [List.map_cons, tblGet]
    split
    · rename_i h; subst h; rfl
    · exact ih

theorem restore_fields (s : State) (kinds : List ResetKind) (sel : RegId → Nat → Bool) (r : RegId) (i k : Nat)
    (hr : regAt (regAddr r i k) = some (r, i, k)) (hs : sel r i = true) (row : FieldRow) (m : row ∈ regFields r)
    (c : (resetKinds row).any kinds.contains = true) :
    (s.restore kinds sel).fget ⟨r, row.hi, row.lo⟩ i k = resetField s.image r i row % 2 ^ (row.hi + 1 - row.lo) := by
  have e : (s.restore kinds sel).regs = s.regs.map (fun e => (e.1, (fun a w => match regAt a with
      | none => w
      | some (r, i, _) => if sel r i then (regFields r).foldl (fun w row =>
            if (resetKinds row).any kinds.contains then putField w row.hi row.lo (resetField s.image r i row) else w) w else w) e.1 e.2)) := by
    refine List.map_congr_left fun e _ => ?_
    dsimp only
    rcases regAt e.1 with _ | ⟨r, i, k⟩
    · rfl
    · dsimp only
      by_cases c : sel r i = true
      · rw [if_pos c, if_pos c]
      · rw [if_neg c, if_neg c]
  show fieldOf ((tblGet (regAddr r i k) (s.restore kinds sel).regs).getD (resetWord s.image r i)) _ _ = _
  rw [e]
  have tm := tblGet_map (fun a w => match regAt a with
      | none => w
      | some (r, i, _) => if sel r i then (regFields r).foldl (fun w row =>
            if (resetKinds row).any kinds.contains then putField w row.hi row.lo (resetField s.image r i row) else w) w else w) (regAddr r i k) s.regs
  rw [tm]
  rcases tblGet (regAddr r i k) s.regs with _ | w
  · exact resetWord_field _ _ _ _ m
  · simp only [Option.map_some, Option.getD_some, hr, hs, if_true]
    have f : ∀ w : Word, (regFields r).foldl (fun w row =>
        if (resetKinds row).any kinds.contains then putField w row.hi row.lo (resetField s.image r i row) else w) w =
        (regFields r).foldl (fun w row => ((if (resetKinds row).any kinds.contains then some (resetField s.image r i row) else none : Option Nat)).elim w (putField w row.hi row.lo)) w := by
      intro w
      congr 1
      funext w row
      split <;> rfl
    rw [f, put_field (fun row => if (resetKinds row).any kinds.contains then some (resetField s.image r i row) else none) row _ _ (fields_apart r) m, if_pos c]
    rfl

theorem tim_of_still {s t : State} (h : t.still = s.still) : t.tim = s.tim := congrArg (fun x => x.2.2.2.1) h
theorem cfg_of_still {s t : State} (h : t.still = s.still) : t.cfg = s.cfg := congrArg (fun x => x.2.2.1) h
theorem rsram_of_still {s t : State} (h : t.still = s.still) : t.pwr.rsram = s.pwr.rsram := congrArg (fun x => x.2.2.2.2.2.2.2.2.2.2.2.2) h
theorem locks_of_still {s t : State} (h : t.still = s.still) : t.locks = s.locks := congrArg (fun x => x.2.2.2.2.2.1) h

theorem status_of_raise (n : Nat) (mid : Mid) (acc : Nat) (addr : Word) (s : State) (c : s.actingClass n = 2)
   : raiseFaultBy n mid acc addr s = raiseCore n mid acc addr s := by
  unfold raiseFaultBy
  dsimp only
  rw [c]
  rfl

theorem enterMuzzle_facts (n : Nat) (hn : n < 64) (s : State) : (enterMuzzle n s).flt.muzzle = true ∧ (enterMuzzle n s).flt.lines = s.flt.lines ∧
    (enterMuzzle n s).fget F.FLT_STATUS_SRC = s.fget F.FLT_STATUS_SRC ∧ (enterMuzzle n s).still = s.still ∧
    (s.flt.muzzle = false → (enterMuzzle n s).fget F.FLT_MUZZLE_SOURCE = n) := by
  have st : ∀ x : State, (∀ h (y : State), (y.modHif h (fun x => { x with linkUp := false, rate := 0, width := 0, flit := false })).flt = y.flt) := fun _ _ _ => rfl
  refine ⟨?_, ?_, ?_, enterMuzzle_still _ _, ?_⟩
  · unfold enterMuzzle
    split
    · assumption
    · dsimp only; split <;> rfl
  · unfold enterMuzzle
    split
    · rfl
    · dsimp only; split <;> rfl
  · unfold enterMuzzle
    split
    · rfl
    · have : ((s.fset F.FLT_MUZZLE_SOURCE n).fset F.FLT_MUZZLE_TIME s.tim.now.toNat).fget F.FLT_STATUS_SRC = s.fget F.FLT_STATUS_SRC := by
        simp (disch := decide) only [fget_fset_other]
      dsimp only; split <;> exact this
  · intro m
    unfold enterMuzzle
    rw [if_neg (by rw [m]; decide)]
    have : ((s.fset F.FLT_MUZZLE_SOURCE n).fset F.FLT_MUZZLE_TIME s.tim.now.toNat).fget F.FLT_MUZZLE_SOURCE = n := by
      simp (disch := decide) only [fget_fset_apart, fget_fset]
      exact Nat.mod_eq_of_lt hn
    dsimp only; split <;> exact this

theorem firstError_flt (n mid acc addr) (s : State) : (firstError n mid acc addr s).flt = s.flt := by
  unfold firstError
  split
  · rfl
  · split <;> rfl

theorem raiseCore_fatal (n : Nat) (hn : n < 64) (mid : Mid) (acc : Nat) (addr : Word) (s : State) (np : noPromotion s) (c : faultClass n = 2) :
    (raiseCore n mid acc addr s).flt.muzzle = true ∧ (raiseCore n mid acc addr s).flt.lines = s.flt.lines ∧
    ((raiseCore n mid acc addr s).fget F.FLT_STATUS_SRC).testBit n = true ∧
    (s.flt.muzzle = false → (raiseCore n mid acc addr s).fget F.FLT_MUZZLE_SOURCE = n) := by
  unfold raiseCore
  dsimp only
  generalize hx : ({ (s.fset F.FLT_STATUS_SRC _) with flt := _ } : State) = x
  have np' : noPromotion x := by
    subst hx
    unfold noPromotion
    exact (fget_fset_other _ _ _ _ _ _ _ _ (by decide)).trans np
  have hb : (x.fget F.FLT_STATUS_SRC).testBit n = true := by
    subst hx
    show ((State.fset _ _ _).fget F.FLT_STATUS_SRC).testBit n = true
    rw [srcBit_fset _ _ _ hn]
    exact setBitTo_true_testBit _ _
  have hm : x.flt.muzzle = s.flt.muzzle ∧ x.flt.lines = s.flt.lines := by subst hx; exact ⟨rfl, rfl⟩
  rw [actingClass_plain np', if_pos c]
  obtain ⟨e1, e2, e3, -, e5⟩ := enterMuzzle_facts n hn (firstError n mid acc addr x)
  have fs : (firstError n mid acc addr x).fget F.FLT_STATUS_SRC = x.fget F.FLT_STATUS_SRC := fget_status_congr (firstError_status _ _ _ _ _)
  refine ⟨e1, ?_, ?_, fun m => e5 ?_⟩
  · rw [e2, firstError_flt]; exact hm.2
  · rw [e3, fs]; exact hb
  · rw [firstError_flt, hm.1]; exact m

theorem setWord_get (s : State) (r : RegId) (v : Word) (i k a : Nat) (h : a ≠ regAddr r i k) :
    tblGet a (s.setWord r v i k).regs = tblGet a s.regs := tblGet_set_other _ _ _ _ h

theorem regWord_of_get {s t : State} (e : t.image = s.image) (r : RegId) (i k : Nat) (h : tblGet (regAddr r i k) t.regs = tblGet (regAddr r i k) s.regs) :
    t.regWord r i k = s.regWord r i k := by unfold State.regWord; rw [h, e]

theorem takeEject_low (ip : IntPort) (e : InPacket) (s : State) : lowRegs (takeEject ip e s) = lowRegs s := by
  unfold takeEject
  dsimp only
  refine (show lowRegs (State.modInt _ _ _) = _ from ?_)
  exact (capture_low _ _).trans ((pmcClass_low _ _ _ _ _).trans (pmcClass_low _ _ _ _ _))

theorem lowWord {s t : State} (h : lowRegs t = lowRegs s) (e : t.image = s.image) (r : RegId) (i k : Nat) (l : regAddr r i k < 0x50000) :
    t.regWord r i k = s.regWord r i k := by
  unfold State.regWord
  rw [e]
  have := congrArg (tblGet (regAddr r i k)) h
  unfold lowRegs at this
  rw [tblGet_filter_low _ _ l, tblGet_filter_low _ _ l] at this
  rw [this]

theorem takeEject_image (ip : IntPort) (e : InPacket) (s : State) : (takeEject ip e s).image = s.image :=
  image_of_still (takeEject_still ip e s)

theorem resetMaster_quiet (mid : Mid) (s : State) (h : ∀ k : Fin 256, s.locks[k].held = true → s.locks[k].owner ≠ mid)
    (u : ¬ mid ∈ s.cfg.unlocked) : resetMaster mid s = s := by
  have c : calDisarm mid s = s := by
    unfold calDisarm State.modCfg
    have : s.cfg.unlocked.filter (fun m => m != mid) = s.cfg.unlocked := by
      rw [List.filter_eq_self]
      intro a m
      simp only [bne_iff_ne]
      rintro rfl; exact u m
    simp only [this]
  unfold resetMaster
  rw [c]
  generalize List.finRange 256 = l
  induction l with
  | nil => rfl
  | cons k l ih =>
    rw [List.foldl_cons, if_neg, ih]
    intro e
    simp only [Bool.and_eq_true, beq_iff_eq] at e
    exact h k e.1 e.2

end Sys2Proof.Laws
end

