-- ==== Sys2Proof/Laws/Cores.lean ====
section
/-! SUPPORT. What counting, capture and the link layer's handling of packets leave alone: power, the fault collector, the host ports,
the routing tables, parked packets and collective groups. -/

set_option linter.unusedSimpArgs false

namespace Sys2Proof.Laws

open Sys2Proof.Machine

/-- The parts that counting, capture and the movement of packets at a port leave alone. -/
def farParts (s : State) : PwrState × FltState × Vector HostState 2 × RtrState × List Parked × Tbl ColGroup × List Instr :=
  (s.pwr, s.flt, s.hosts, s.rtr, s.park, s.groups, s.pending)

theorem setWord_far (s : State) (r : RegId) (v : Word) (i k : Nat) (_ : True) : farParts (s.setWord r v i k) = farParts s := rfl
theorem fset_far (s : State) (f : RegField) (v i k : Nat) (_ : True) : farParts (s.fset f v i k) = farParts s := rfl
theorem finc_far (s : State) (f : RegField) (v i k : Nat) (_ : True) : farParts (s.finc f v i k) = farParts s := rfl

theorem foldl_far {α : Type} (f : State → α → State) (l : List α) (s : State) (h : ∀ t x, farParts (f t x) = farParts t) :
    farParts (l.foldl f s) = farParts s := by
  induction l generalizing s with
  | nil => rfl
  | cons a l ih => simp only [List.foldl_cons, ih, h]

theorem pmcCount_far (u ev amt : Nat) (ok : Word → Bool) (s : State) : farParts (pmcCount u ev amt ok s) = farParts s := by
  unfold pmcCount
  split
  · refine foldl_far _ _ _ (fun t i => ?_)
    dsimp only
    split
    · exact fset_far _ _ _ _ _ trivial
    · rfl
  · rfl

theorem pmcAdd_far (u ev amt : Nat) (s : State) : farParts (pmcAdd u ev amt s) = farParts s := pmcCount_far _ _ _ _ _
theorem pmcClass_far (u ev amt tc : Nat) (s : State) : farParts (pmcClass u ev amt tc s) = farParts s := pmcCount_far _ _ _ _ _

theorem capPlace_far (e : Bytes) (s : State) : farParts (capPlace e s) = farParts s := by
  unfold capPlace
  exact fset_far _ _ _ _ _ trivial

theorem capAppend_far (e : Bytes) (s : State) : farParts (capAppend e s) = farParts s := by
  unfold capAppend
  dsimp only
  split
  · exact capPlace_far _ _
  · split
    · rw [capPlace_far, fset_far _ _ _ _ _ trivial, finc_far _ _ _ _ _ trivial, fset_far _ _ _ _ _ trivial]
    · exact finc_far _ _ _ _ _ trivial

theorem capSelect_far (s : State) (e : CapEvent) : farParts (capSelect s e).1 = farParts s := by
  unfold capSelect
  have : ∀ (l : List Nat) (a : State × Option Nat), farParts (l.foldl (fun (acc : State × Option Nat) (k : Nat) =>
    if capMatches acc.1 k e then
      let c := acc.1.cap.matched.toList.getD k 0
      let t := { acc.1 with cap := { acc.1.cap with matched := acc.1.cap.matched.setIfInBounds k (c + 1) } }
      (t, if acc.2.isNone && c % 2 ^ acc.1.fget F.CAP_FILT_A_SAMPLE 0 k = 0 then some k else acc.2)
    else acc) a).1 = farParts a.1 := by
    intro l
    induction l with
    | nil => intro a; rfl
    | cons k l ih =>
      intro a
      rw [List.foldl_cons, ih]
      split <;> rfl
  exact this _ _

theorem capture_far (es : List CapEvent) (s : State) : farParts (capture es s) = farParts s := by
  unfold capture
  split
  · dsimp only
    rw [finc_far _ _ _ _ _ trivial]
    have h1 : ∀ (l : List CapEvent) (a : State × List (Nat × CapEvent)), farParts (l.foldl (fun acc e =>
      ((capSelect acc.1 e).1, match (capSelect acc.1 e).2 with | some k => acc.2 ++ [(k, e)] | none => acc.2)) a).1 = farParts a.1 := by
      intro l
      induction l with
      | nil => intro a; rfl
      | cons e l ih =>
        intro a
        rw [List.foldl_cons, ih]
        exact capSelect_far _ _
    rw [foldl_far _ _ _ (fun t x => by rw [pmcAdd_far, capAppend_far])]
    exact h1 _ _
  · rfl

theorem recordDiscard_far (x cause dwell : Nat) (pkt : Packet) (s : State) : farParts (recordDiscard x cause dwell pkt s) = farParts s := by
  unfold recordDiscard
  rw [capture_far, pmcClass_far]

theorem abandonTx_far (p : NetPort) (s : State) : farParts (abandonTx p s) = farParts s := by
  unfold abandonTx
  split
  · rfl
  · refine Eq.trans (b := farParts (countSlots p _ true _)) rfl ?_
    unfold countSlots
    rw [pmcClass_far]
    rfl

theorem abortOutput_far (o : NetPort) (x : XbarPort) (s : State) : farParts (abortOutput o x s) = farParts s := by
  unfold abortOutput
  dsimp only
  split
  · split
    · refine Eq.trans (b := farParts (abandonTx o _)) rfl ?_
      rw [abandonTx_far]
      split <;> split <;> rfl
    · split <;> rfl
  · split <;> rfl

theorem dropArriving_far (p : NetPort) (s : State) : farParts (dropArriving p s) = farParts s := by
  unfold dropArriving
  dsimp only
  split
  · exact abortOutput_far _ _ _
  · rfl

theorem releaseIn_far (p : NetPort) (tc : Nat) (pkt : Packet) (arrived : Nat) (s : State) :
    farParts (releaseIn p tc pkt arrived true false s) = farParts s := by
  unfold releaseIn leaveStaging
  dsimp only
  split
  · rw [if_pos rfl, returnCredits_free _ _ _ rfl, recordDiscard_far, capture_far, pmcClass_far, pmcClass_far]
  · split
    · rw [if_pos rfl, returnCredits_free _ _ _ rfl, recordDiscard_far, finc_far _ _ _ _ _ trivial, capture_far, pmcClass_far,
        pmcClass_far]
    · refine Eq.trans (b := farParts (capture _ _)) rfl ?_
      rw [capture_far, pmcClass_far, pmcClass_far]

theorem sendLve_far (p : NetPort) (reason : Nat) (s : State) : farParts (sendLve p reason s) = farParts s := by
  unfold sendLve
  dsimp only
  split
  · split <;> rfl
  · rfl


theorem takeEject_far (ip : IntPort) (e : InPacket) (s : State) : farParts (takeEject ip e s) = farParts s := by
  unfold takeEject
  dsimp only
  refine (show farParts (State.modInt _ _ _) = _ from ?_)
  exact (capture_far _ _).trans ((pmcClass_far _ _ _ _ _).trans (pmcClass_far _ _ _ _ _))

/-- Power and the state of Muzzle. -/
def coreParts (s : State) : PwrState × Bool := (s.pwr, s.flt.muzzle)

theorem core_of_far {s t : State} (h : farParts t = farParts s) : coreParts t = coreParts s := by
  simp only [farParts, Prod.mk.injEq] at h
  simp only [coreParts, h.1, h.2.1]

theorem core_of_report {s t : State} (h : reportOnly s t) : coreParts t = coreParts s := by rw [h.1]; rfl

theorem linkDepart_core (p : NetPort) (cause : Nat) (fresh : Bool) (s : State) (np : noPromotion s) :
    coreParts (linkDepart p cause fresh s) = coreParts s := by
  unfold linkDepart
  dsimp only
  generalize hx : dropArriving p (if decide ((s.port p).link.phase = .up) = true then abandonTx p s else s) = x
  have h2 : lowRegs x = lowRegs s := by
    rw [← hx, dropArriving_low]
    split
    · exact abandonTx_low _ _
    · rfl
  have h3 : x.image = s.image := by
    refine image_of_still ?_
    rw [← hx, dropArriving_still]
    split
    · exact abandonTx_still _ _
    · rfl
  have h4 : farParts x = farParts s := by
    rw [← hx, dropArriving_far]
    split
    · exact abandonTx_far _ _
    · rfl
  generalize hm : x.modPort p (fun q => _) = y
  have g2 : lowRegs y = lowRegs s := by rw [← hm]; exact h2
  have g3 : y.image = s.image := by rw [← hm]; exact h3
  have g4 : farParts y = farParts s := by rw [← hm]; exact h4
  generalize hz : List.foldl _ y _ = z
  have k2 : lowRegs z = lowRegs s := by
    rw [← hz, foldl_low _ _ _ (fun t x => releaseIn_low _ _ _ _ _)]; exact g2
  have k3 : z.image = s.image := by
    rw [← g3, ← hz]
    refine image_of_still ?_
    rw [foldl_still _ _ _ (fun t x => releaseIn_still _ _ _ _ _ _ _)]
  have k4 : farParts z = farParts s := by
    rw [← hz, foldl_far _ _ _ (fun t x => releaseIn_far _ _ _ _ _)]; exact g4
  split
  · have np' : noPromotion (((z.finc F.LNK_STATUS_LOST_ON_DOWN ((s.port p).link.replay.length + (s.port p).link.fifo.length) p.val).finc F.LNK_STATUS_DOWN_COUNT 1 p.val).fset
      F.LNK_STATUS_DOWN_CAUSE cause p.val) := by
      refine noPromotion_of_low (s := s) ?_ k3 np
      rw [fset_low _ _ _ _ _ (by decide), finc_low _ _ _ _ _ (by decide), finc_low _ _ _ _ _ (by decide)]
      exact k2
    exact (core_of_report (asyncChip_report _ _ _ _ np')).trans (core_of_far k4)
  · split
    · exact core_of_far k4
    · exact core_of_far k4

theorem resetL_core (p : NetPort) (reason cause : Nat) (fresh : Bool) (s : State) (np : noPromotion s) :
    coreParts (resetL p reason cause fresh s) = coreParts s := by
  unfold resetL
  split
  · rfl
  · dsimp only
    generalize hx : sendLve p reason (if (s.port p).link.phase = .up then abandonTx p s else s) = x
    have h2 : lowRegs x = lowRegs s := by
      rw [← hx, sendLve_low]
      split
      · exact abandonTx_low _ _
      · rfl
    have h3 : x.image = s.image := by
      refine image_of_still ?_
      rw [← hx, sendLve_still]
      split
      · exact abandonTx_still _ _
      · rfl
    have h4 : farParts x = farParts s := by
      rw [← hx, sendLve_far]
      split
      · exact abandonTx_far _ _
      · rfl
    exact (linkDepart_core p cause fresh x (noPromotion_of_low h2 h3 np)).trans (core_of_far h4)

theorem routerRuns_of {s t : State} (h1 : t.rst = s.rst) (h2 : coreParts t = coreParts s) : t.routerRuns = s.routerRuns := by
  simp only [coreParts, Prod.mk.injEq] at h2
  unfold State.routerRuns State.coreRuns
  rw [h1, h2.1, h2.2]

end Sys2Proof.Laws
end

