-- ==== Sys2Proof/Laws/Arriving.lean ====
section
/-! SUPPORT. Packets that arrive at the NIC. -/

set_option linter.unusedSimpArgs false

namespace Sys2Proof.Laws

open Sys2Proof.Machine

theorem head_cons {α : Type} {l : List α} {x : α} (h : l.head? = some x) : ∃ r, l = x :: r := by
  cases l with
  | nil => simp at h
  | cons a l => simp at h; exact ⟨l, by rw [h]⟩

theorem works_parts {s : State} (h : s.nicWorks = true) : s.nicRuns = true ∧ s.pwr.state = .active := by
  unfold State.nicWorks at h; simp at h; exact ⟨h.1.1.1, h.2⟩

/-- Any arrival of a working NIC. -/
theorem arrive_at {mine : Packet → Bool} {ip : IntPort} {s : State} {e : InPacket} {rest} (a : s.ints[ip].eject = e :: rest)
    (m : mine e.pkt = true) (w : s.nicWorks = true) :
    arrive mine ip s = match judge e.pkt (ejection e) none s with
      | (t, .later) => nicSlot 4 t
      | (t, .park w) => roomAgain (parkPkt e.pkt (ejection e) w (takeEject ip e t))
      | (t, v) => roomAgain (verdictSlot v (refuse e.pkt v (takeEject ip e t))) := by
  unfold arrive; rw [a]; dsimp only; rw [if_neg (by simp [m]), if_neg (by rw [(works_parts w).2]; simp), if_neg (by simp [w])] <;> rfl

/-- The pair's record and context are on chip: the check reads both and goes on with them. -/
theorem judgeEp_paired {s : State} {ip : IntPort} {e : InPacket} {h : HostPort} {c : EpCtx} {p : PairRec} (hp : headPaired s ip e h c p) :
    judgeEp h e.pkt s = (touchUnit (.ctx h (pktDstEp e.pkt)) s, .ok c) := by
  obtain ⟨⟨a1, a2, a3, a4⟩, b1, b2, b3, b4, b5, b6, b7, b8, b9, b10⟩ := hp
  have n : needCtx h (pktDstEp e.pkt) s = (touchUnit (.ctx h (pktDstEp e.pkt)) s, none) := by
    unfold needCtx; rw [b4]; dsimp only; rw [if_pos b8]
  unfold judgeEp; dsimp only
  rw [if_neg (by simp [b2]), b4]; dsimp only
  rw [if_neg (by simp [b3]), if_neg (by simp [b5]), if_neg (by simp [b6]), if_neg (by simp [b7])]
  unfold needBoth; rw [n]

theorem needPair_here {s : State} {h : HostPort} {k : Nat} {p : PairRec} (a : getPair s h k = some p) (b : p.onChip = true) :
    needPair h k s = (touchUnit (.pair h k) s, .ready) := by
  unfold needPair; rw [a]; dsimp only; rw [if_pos b]

theorem judge_paired {s : State} {ip : IntPort} {e : InPacket} {h : HostPort} {c : EpCtx} {p : PairRec} (hp : headPaired s ip e h c p) (o8 : pktOpcode e.pkt ≠ 8)
    (o9 : pktOpcode e.pkt ≠ 9) : judge e.pkt (ejection e) none s =
      judgeOrder h (arrivalKey e.pkt) c p e.pkt (arrivedAt e) none (pairSeen s h e.pkt) := by
  have j := judgeEp_paired hp
  obtain ⟨⟨a1, a2, a3, a4⟩, b1, b2, b3, b4, b5, b6, b7, b8, b9, b10⟩ := hp
  unfold judge; dsimp only; rw [b1, if_neg (by simp [a3]), if_neg (by simp [a4]), if_neg (by simp [o8, o9])]
  unfold judgeSeq
  rw [j]; dsimp only
  have e1 : getPair (touchUnit (.ctx h (pktDstEp e.pkt)) s) h (arrivalKey e.pkt) = some p := b9
  rw [needPair_here e1 b10]; dsimp only
  rw [show getPair (touchUnit (.pair h (arrivalKey e.pkt)) (touchUnit (.ctx h (pktDstEp e.pkt)) s)) h (arrivalKey e.pkt) = some p from b9]
  rfl

theorem ord_out {h : HostPort} {k : Nat} {c : EpCtx} {p : PairRec} {pkt : Packet} {t : Word} {kn : Option (Walk × WalkEnd)} {s : State}
    (d : seqOutside p (pktPseq pkt) = true) :
    judgeOrder h k c p pkt t kn s = ({ s with discards := { s.discards with window := s.discards.window + 1 } }, .drop) := by
  unfold judgeOrder; exact if_pos d

theorem ord_later {h : HostPort} {k : Nat} {c : EpCtx} {p : PairRec} {pkt : Packet} {t : Word} {kn : Option (Walk × WalkEnd)} {s : State}
    (d : seqOutside p (pktPseq pkt) = false) (r : readyHeld p ≠ []) : judgeOrder h k c p pkt t kn s = (s, .later) := by
  unfold judgeOrder; exact (if_neg (by simp [d])).trans (if_pos (by simpa using r))

theorem ord_dup {h : HostPort} {k : Nat} {c : EpCtx} {p : PairRec} {pkt : Packet} {t : Word} {kn : Option (Walk × WalkEnd)} {s : State}
    (d : seqOutside p (pktPseq pkt) = false) (r : readyHeld p = []) (f : seqNew p (pktPseq pkt) = false) (g : p.durable.contains (pktPseq pkt) = false) :
    judgeOrder h k c p pkt t kn s = (ackOut h k 0 (pktPseq pkt) t (pmcAdd 68 0x25 1 s), .drop) := by
  unfold judgeOrder; refine (if_neg (by simp [d])).trans ((if_neg (by simp [r])).trans ((if_neg (by simp [f])).trans ?_)); dsimp only; rw [g]; rfl

theorem ord_new {h : HostPort} {k : Nat} {c : EpCtx} {p : PairRec} {pkt : Packet} {t : Word} {kn : Option (Walk × WalkEnd)} {s : State}
    (d : seqOutside p (pktPseq pkt) = false) (r : readyHeld p = []) (f : seqNew p (pktPseq pkt) = true) :
    judgeOrder h k c p pkt t kn s = judgeNew h k c p pkt t kn s := by
  unfold judgeOrder; exact (if_neg (by simp [d])).trans ((if_neg (by simp [r])).trans (if_pos f))

theorem new_nop {h : HostPort} {k : Nat} {c : EpCtx} {p : PairRec} {pkt : Packet} {t : Word} {kn : Option (Walk × WalkEnd)} {s : State}
    (o : pktOpcode pkt = 0x0A) : judgeNew h k c p pkt t kn s = (consume h k pkt t s, .commit) := by
  unfold judgeNew; exact if_pos o

theorem new_win {h : HostPort} {k : Nat} {c : EpCtx} {p : PairRec} {pkt : Packet} {t : Word} {kn : Option (Walk × WalkEnd)} {s : State}
    (op : Nat) (o : pktOpcode pkt = op) (m : op ∈ [1, 0x21, 2, 0x22, 3, 4, 5, 0x40]) :
    judgeNew h k c p pkt t kn s = judgeWin h k c p pkt t kn s := by
  unfold judgeNew; dsimp only
  refine (if_neg ?_).trans ((if_neg ?_).trans (if_neg ?_)) <;> rw [o] <;> intro x <;> simp only [List.mem_cons, List.not_mem_nil, or_false] at m <;> omega

theorem ack_paired {s : State} {ip : IntPort} {e : InPacket} {h : HostPort} {c : EpCtx} {p : PairRec} (hp : headPaired s ip e h c p)
    (o : pktOpcode e.pkt = 8 ∨ pktOpcode e.pkt = 9) : judge e.pkt (ejection e) none s =
      (pumpPort h (if pktOpcode e.pkt = 8 then ackIn h (arrivalKey e.pkt) e.pkt (ejection e) (pairSeen s h e.pkt)
        else nackIn h (arrivalKey e.pkt) e.pkt (pairSeen s h e.pkt)), .commit) := by
  have j := judgeEp_paired hp
  obtain ⟨⟨a1, a2, a3, a4⟩, b1, b2, b3, b4, b5, b6, b7, b8, b9, b10⟩ := hp
  unfold judge; dsimp only; rw [b1, if_neg (by simp [a3]), if_neg (by simp [a4]), if_pos o]
  unfold judgeAck
  rw [j]; dsimp only
  have e1 : getPair (touchUnit (.ctx h (pktDstEp e.pkt)) s) h (arrivalKey e.pkt) = some p := b9
  rw [e1]; dsimp only
  rw [needPair_here e1 b10]
  rfl

theorem new_msg {h : HostPort} {k : Nat} {c : EpCtx} {p : PairRec} {pkt : Packet} {t : Word} {kn : Option (Walk × WalkEnd)} {s : State}
    (o : pktOpcode pkt = 6 ∨ pktOpcode pkt = 7 ∨ pktOpcode pkt = 0x24) : judgeNew h k c p pkt t kn s = match msgNew h k p pkt s with
      | (s, .commit) => (consume h k pkt t s, .commit)
      | r => r := by
  unfold judgeNew; dsimp only
  exact (if_neg (by omega)).trans ((if_neg (by omega)).trans (if_pos o))

theorem new_resp {h : HostPort} {k : Nat} {c : EpCtx} {p : PairRec} {pkt : Packet} {t : Word} {kn : Option (Walk × WalkEnd)} {s u : State}
    (o : pktOpcode pkt = 0x0B ∨ pktOpcode pkt = 0x23) (r : judgeResp h k p pkt t kn s = (u, .commit)) :
    judgeNew h k c p pkt t kn s = (pumpPort h u, .commit) := by
  unfold judgeNew; dsimp only
  refine (if_neg (by omega)).trans ((if_pos o).trans ?_); rw [r]

theorem takeEject_groups (ip : IntPort) (e : InPacket) (s : State) : (takeEject ip e s).groups = s.groups :=
  congrArg (fun x => x.2.2.2.2.2.1) (takeEject_far ip e s)

theorem takeEject_class (ip : IntPort) (e : InPacket) (s : State) (f : ClassUses → Nat) : (takeEject ip e s).useClass f = s.useClass f := by
  unfold State.useClass; rw [takeEject_image]

end Sys2Proof.Laws
end

