-- ==== Sys2Proof/Laws/Collector.lean ====
section
/-! SUPPORT. The fault collector: fatal sources, injection and ALERT_N. -/

set_option linter.unusedSimpArgs false

namespace Sys2Proof.Laws

open Sys2Proof.Machine

theorem setBitTo_false_testBit (v n k : Nat) : (setBitTo v n false).testBit k = (v.testBit k && decide (k ≠ n)) := by
  unfold setBitTo
  by_cases b : v.testBit n = true
  · simp only [b, Bool.true_eq_false, beq_iff_eq, if_false, Bool.false_eq_true]
    have e : v = (v - 2 ^ n) + 2 ^ n := by
      have := Nat.ge_two_pow_of_testBit b; omega
    have o : (v - 2 ^ n).testBit n = false := by
      by_contra c
      have c : (v - 2 ^ n).testBit n = true := by simpa using c
      rw [e, testBit_div, Nat.add_div_right _ (Nat.two_pow_pos n)] at b
      rw [testBit_div] at c
      have b := of_decide_eq_true b
      have c := of_decide_eq_true c
      omega
    have st : setBitTo (v - 2 ^ n) n true = v := by
      unfold setBitTo; rw [o]; simp; omega
    by_cases h : k = n
    · subst h; simp [o]
    · have := setBitTo_true_testBit_other (v - 2 ^ n) n k h
      rw [st] at this; simp [this, h]
  · have b' : v.testBit n = false := by simpa using b
    simp only [b', beq_self_eq_true, if_true]
    by_cases h : k = n
    · subst h; simp [b']
    · simp [h]

theorem clearFold (v : Word) (lines k : Nat) : ∀ (l : List Nat) (old : Nat),
    ((l.foldl (fun w n => if bitOf v n && !lines.testBit n then setBitTo w n false else w) old).testBit k = true ↔
      old.testBit k = true ∧ ¬ (k ∈ l ∧ bitOf v k = true ∧ lines.testBit k = false)) := by
  intro l
  induction l with
  | nil => intro old; simp
  | cons n l ih =>
    intro old
    rw [List.foldl_cons, ih]
    by_cases c : (bitOf v n && !lines.testBit n) = true
    · rw [if_pos c, setBitTo_false_testBit]
      simp only [Bool.and_eq_true, Bool.not_eq_true'] at c
      by_cases h : k = n
      · subst h; simp [c]
      · simp [h]
    · rw [if_neg c]
      by_cases h : k = n
      · subst h
        simp only [Bool.and_eq_true, Bool.not_eq_true'] at c
        constructor
        · rintro ⟨o, q⟩; exact ⟨o, fun z => c z.2⟩
        · rintro ⟨o, q⟩; exact ⟨o, fun z => c z.2⟩
      · simp [h]

theorem regAt_status : regAt (regAddr .FLT_STATUS 0 0) = some (.FLT_STATUS, 0, 0) := by decide +kernel

theorem and_bits (a b : Nat) (h : a < 2 ^ 64) : (a &&& b ≠ 0) ↔ ∃ k, k < 64 ∧ (a.testBit k && b.testBit k) = true := by
  constructor
  · intro n
    obtain ⟨k, hk⟩ := Nat.exists_testBit_of_ne_zero n
    rw [Nat.testBit_land] at hk
    refine ⟨k, ?_, hk⟩
    by_contra c
    have : a.testBit k = false := Nat.testBit_lt_two_pow (lt_of_lt_of_le h (Nat.pow_le_pow_right (by decide) (by omega)))
    rw [this] at hk; cases hk
  · rintro ⟨k, -, hk⟩ z
    rw [← Nat.testBit_land, z] at hk
    simp at hk

theorem src_lt (s : State) : s.fget F.FLT_STATUS_SRC < 2 ^ 64 := fieldOf_lt _ 63 0

end Sys2Proof.Laws
end

