-- ==== Sys2Proof/Laws/Crossing.lean ====
section
/-! SUPPORT. Internal ports and the router. -/

set_option linter.unusedSimpArgs false

namespace Sys2Proof.Laws

open Sys2Proof.Machine

def intParts (s : State) := (s.ints, s.ports)

theorem setWord_ip (s : State) (r : RegId) (v : Word) (i k : Nat) (_ : True) : intParts (s.setWord r v i k) = intParts s := rfl

theorem fset_ip (s : State) (f : RegField) (v i k : Nat) (_ : True) : intParts (s.fset f v i k) = intParts s := rfl

theorem finc_ip (s : State) (f : RegField) (v i k : Nat) (_ : True) : intParts (s.finc f v i k) = intParts s := rfl

theorem foldl_ip {α : Type} (f : State → α → State) (l : List α) (s : State) (h : ∀ t x, intParts (f t x) = intParts t) :
    intParts (l.foldl f s) = intParts s := by
  induction l generalizing s with
  | nil => rfl
  | cons a l ih => simp only [List.foldl_cons, ih, h]

theorem pmcCount_ip (u ev amt : Nat) (ok : Word → Bool) (s : State) : intParts (pmcCount u ev amt ok s) = intParts s := by
  unfold pmcCount
  split
  · refine foldl_ip _ _ _ (fun t i => ?_)
    dsimp only
    split
    · exact fset_ip _ _ _ _ _ trivial
    · rfl
  · rfl

theorem pmcAdd_ip (u ev amt : Nat) (s : State) : intParts (pmcAdd u ev amt s) = intParts s := pmcCount_ip _ _ _ _ _

theorem pmcClass_ip (u ev amt tc : Nat) (s : State) : intParts (pmcClass u ev amt tc s) = intParts s := pmcCount_ip _ _ _ _ _

theorem capPlace_ip (e : Bytes) (s : State) : intParts (capPlace e s) = intParts s := by
  unfold capPlace
  exact fset_ip _ _ _ _ _ trivial

theorem capAppend_ip (e : Bytes) (s : State) : intParts (capAppend e s) = intParts s := by
  unfold capAppend
  dsimp only
  split
  · exact capPlace_ip _ _
  · split
    · rw [capPlace_ip, fset_ip _ _ _ _ _ trivial, finc_ip _ _ _ _ _ trivial, fset_ip _ _ _ _ _ trivial]
    · exact finc_ip _ _ _ _ _ trivial

theorem capSelect_ip (s : State) (e : CapEvent) : intParts (capSelect s e).1 = intParts s := by
  unfold capSelect
  have : ∀ (l : List Nat) (a : State × Option Nat), intParts (l.foldl (fun (acc : State × Option Nat) (k : Nat) =>
    if capMatches acc.1 k e then
      let c := acc.1.cap.matched.toList.getD k 0
      let t := { acc.1 with cap := { acc.1.cap with matched := acc.1.cap.matched.setIfInBounds k (c + 1) } }
      (t, if acc.2.isNone && c % 2 ^ acc.1.fget F.CAP_FILT_A_SAMPLE 0 k = 0 then some k else acc.2)
    else acc) a).1 = intParts a.1 := by
    intro l
    induction l with
    | nil => intro a; rfl
    | cons k l ih =>
      intro a
      rw [List.foldl_cons, ih]
      split <;> rfl
  exact this _ _

theorem capture_ip (es : List CapEvent) (s : State) : intParts (capture es s) = intParts s := by
  unfold capture
  split
  · dsimp only
    rw [finc_ip _ _ _ _ _ trivial]
    have h1 : ∀ (l : List CapEvent) (a : State × List (Nat × CapEvent)), intParts (l.foldl (fun acc e =>
      ((capSelect acc.1 e).1, match (capSelect acc.1 e).2 with | some k => acc.2 ++ [(k, e)] | none => acc.2)) a).1 = intParts a.1 := by
      intro l
      induction l with
      | nil => intro a; rfl
      | cons e l ih =>
        intro a
        rw [List.foldl_cons, ih]
        exact capSelect_ip _ _
    rw [foldl_ip _ _ _ (fun t x => by rw [pmcAdd_ip, capAppend_ip])]
    exact h1 _ _
  · rfl

end Sys2Proof.Laws
end

