-- ==== Sys2Proof/Laws/Domains.lean ====
section
/-! SUPPORT. Supplies, the P reset and the power states. -/

set_option linter.unusedSimpArgs false

namespace Sys2Proof.Laws

open Sys2Proof.Machine

theorem progDone_keeps (s : State) : (progDone s).hosts = s.hosts ∧ (progDone s).modprs = s.modprs ∧ (progDone s).pending = s.pending ∧
    (progDone s).rst = s.rst ∧ (progDone s).pwr = s.pwr := by
  have key : ∀ (l : List Nat) (addr : Nat) (u : State), let r := l.foldl (fun (t : State) k => t.setWord .CFG_PROG_DATA (BitVec.ofNat 64 (leNat (ramRead t.cfg.store (addr + 8 * k) 8))) 0 k) u
      r.hosts = u.hosts ∧ r.modprs = u.modprs ∧ r.pending = u.pending ∧ r.rst = u.rst ∧ r.pwr = u.pwr := by
    intro l addr
    induction l with
    | nil => intro u; exact ⟨rfl, rfl, rfl, rfl, rfl⟩
    | cons k l ih => intro u; exact ih _
  unfold progDone
  split
  · exact ⟨rfl, rfl, rfl, rfl, rfl⟩
  · unfold progAdvance; split <;> exact ⟨rfl, rfl, rfl, rfl, rfl⟩
  · rename_i addr inc _
    have k := key (List.range 8) addr (s.modCfg (fun c => { c with prog := none }))
    unfold progAdvance
    dsimp only
    split <;> exact k

theorem raise_refclk (n : Nat) (c : faultClass n = 2) (mid : Mid) (acc : Nat) (addr : Word) (s : State) :
    (raiseFaultBy n mid acc addr s).pwr.refclk = s.pwr.refclk := by
  have a : s.actingClass n = 2 := by
    unfold State.actingClass
    split
    · rfl
    · exact c
  rw [status_of_raise n mid acc addr s a]
  have fe : ∀ u : State, (firstError n mid acc addr u).pwr = u.pwr := by
    intro u; unfold firstError; split
    · rfl
    · split <;> rfl
  have em : ∀ u : State, (enterMuzzle n u).pwr.refclk = u.pwr.refclk := by
    intro u; unfold enterMuzzle; split
    · rfl
    · dsimp only; split <;> rfl
  unfold raiseCore
  dsimp only
  generalize hx : ({ (s.fset F.FLT_STATUS_SRC (setBitTo (s.fget F.FLT_STATUS_SRC) n true)) with flt := _ } : State) = x
  have hp : x.pwr = s.pwr := by rw [← hx]; rfl
  by_cases q : x.actingClass n = 2
  · rw [if_pos q, em, fe, hp]
  · rw [if_neg q, fe, hp]

theorem raise_fatal (n : Nat) (hn : n < 64) (c : faultClass n = 2) (mid : Mid) (acc : Nat) (addr : Word) (s : State) (np : noPromotion s) :
    (raiseFaultBy n mid acc addr s).flt.muzzle = true ∧ (raiseFaultBy n mid acc addr s).flt.lines = s.flt.lines ∧
    ((raiseFaultBy n mid acc addr s).fget F.FLT_STATUS_SRC).testBit n = true := by
  have a : s.actingClass n = 2 := by
    unfold State.actingClass
    split
    · rfl
    · exact c
  rw [status_of_raise n mid acc addr s a]
  obtain ⟨x, y, z, -⟩ := raiseCore_fatal n hn mid acc addr s np c
  exact ⟨x, y, z⟩

theorem off_ports (target : PowerState) (s : State) (p : NetPort) :
    ((startEntry target s).port p).link.phase = .down ∧ ((startEntry target s).port p).lane.phase = .off := by
  unfold startEntry
  dsimp only
  have : ∀ (v : Vector Port 64) (f : Port → Port), (v.map f)[p] = f v[p] := by intro v f; simp
  constructor
  · show ((Vector.map portOff _)[p]).link.phase = _
    rw [this]; rfl
  · show ((Vector.map portOff _)[p]).lane.phase = _
    rw [this]; rfl

theorem pw_fget (s : State) (g : PwrState) (f : RegField) (i k : Nat) : ({ s with pwr := g } : State).fget f i k = s.fget f i k := rfl

theorem pw_flag (s : State) (g : PwrState) (f : RegField) (i k : Nat) : ({ s with pwr := g } : State).flag f i k = s.flag f i k := rfl

theorem rsram_write (s : State) (v : Word) : (rsramAccess (some v) s).1 =
    (if s.flag F.AON_RSRAM_ADDR_AUTO_INC then ({ s with pwr := { s.pwr with rsram := ramWrite s.pwr.rsram (8 * s.fget F.AON_RSRAM_ADDR_ADDR) (leBytes 8 v.toNat) } } : State).fset F.AON_RSRAM_ADDR_ADDR (s.fget F.AON_RSRAM_ADDR_ADDR + 1)
    else { s with pwr := { s.pwr with rsram := ramWrite s.pwr.rsram (8 * s.fget F.AON_RSRAM_ADDR_ADDR) (leBytes 8 v.toNat) } }) := by
  by_cases h : s.flag F.AON_RSRAM_ADDR_AUTO_INC = true
  · simp only [rsramAccess, State.modPwr, pw_fget, pw_flag, h, if_true]
  · have h' : s.flag F.AON_RSRAM_ADDR_AUTO_INC = false := by simpa using h
    simp only [rsramAccess, State.modPwr, pw_fget, pw_flag, h', if_false, Bool.false_eq_true]

end Sys2Proof.Laws
end

