-- ==== Sys2Proof/Laws/Leaving.lean ====
section
/-! SUPPORT. Lanes and links that leave UP. -/

set_option linter.unusedSimpArgs false

namespace Sys2Proof.Laws

open Sys2Proof.Machine

theorem training_iff (ph : LanePhase) : training ph = true ↔ (ph = .eq ∨ ph = .align ∨ ph = .exchange) := by
  cases ph <;> simp [training]

theorem linkDepart_more (p : NetPort) (cause : Nat) (fresh : Bool) (s : State) (np : noPromotion s) (hc : cause < 65536) :
    noPromotion (linkDepart p cause fresh s) ∧
    ((s.port p).link.phase = .up → ∀ h, ∃ d, asyncData (linkDepart p cause fresh s) h 2 = some d ∧ d.toNat % 65536 = cause) := by
  unfold linkDepart
  dsimp only
  generalize hx : dropArriving p (if decide ((s.port p).link.phase = .up) = true then abandonTx p s else s) = x
  have h2 : lowRegs x = lowRegs s := by
    rw [← hx, dropArriving_low]
    split
    · exact abandonTx_low _ _
    · rfl
  have h3 : x.image = s.image := by
    refine image_of_still ?_
    rw [← hx, dropArriving_still]
    split
    · exact abandonTx_still _ _
    · rfl
  generalize hm : x.modPort p (fun q => _) = y
  have g2 : lowRegs y = lowRegs s := by rw [← hm]; exact h2
  have g3 : y.image = s.image := by rw [← hm]; exact h3
  generalize hz : List.foldl _ y _ = z
  have k2 : lowRegs z = lowRegs s := by
    rw [← hz, foldl_low _ _ _ (fun t x => releaseIn_low _ _ _ _ _)]; exact g2
  have k3 : z.image = s.image := by
    rw [← g3, ← hz]
    refine image_of_still ?_
    rw [foldl_still _ _ _ (fun t x => releaseIn_still _ _ _ _ _ _ _)]
  by_cases u : (s.port p).link.phase = .up
  · rw [if_pos (by simp [u])]
    have np' : noPromotion (((z.finc F.LNK_STATUS_LOST_ON_DOWN ((s.port p).link.replay.length + (s.port p).link.fifo.length) p.val).finc F.LNK_STATUS_DOWN_COUNT 1 p.val).fset
      F.LNK_STATUS_DOWN_CAUSE cause p.val) := by
      refine noPromotion_of_low (s := s) ?_ k3 np
      rw [fset_low _ _ _ _ _ (by decide), finc_low _ _ _ _ _ (by decide), finc_low _ _ _ _ _ (by decide)]
      exact k2
    refine ⟨reportOnly_noPromotion (asyncChip_report _ _ _ _ np') np', fun _ h => ?_⟩
    refine ⟨_, asyncChip_data _ _ _ _ np' (by decide) h, ?_⟩
    rw [BitVec.toNat_ofNat]
    have : (65536 : Nat) ∣ 2 ^ 64 := by decide
    rw [Nat.mod_mod_of_dvd _ this]
    omega
  · rw [if_neg (by simp [u])]
    refine ⟨?_, fun h => absurd h u⟩
    split
    · exact noPromotion_of_low (s := s) ((fset_low _ _ _ _ _ (by decide)).trans k2) k3 np
    · exact noPromotion_of_low (s := s) k2 k3 np

theorem sendLve_hosts' (p : NetPort) (r : Nat) (s : State) : (sendLve p r s).hosts = s.hosts := sendLve_hosts p r s

theorem restore_np (s : State) (kinds : List ResetKind) (sel : RegId → Nat → Bool) (h : ∀ r i, sel r i = true → 0x50000 ≤ (regPlace r).base) (np : noPromotion s) :
    noPromotion (s.restore kinds sel) := by
  have e : (s.restore kinds sel).regWord .FLT_PROMOTE 0 0 = s.regWord .FLT_PROMOTE 0 0 := by
    unfold State.regWord
    show (tblGet _ (s.restore kinds sel).regs).getD (resetWord s.image _ _) = _
    congr 1
    show tblGet _ (s.regs.map _) = _
    have : ∀ (t : Tbl Word) (f : Nat × Word → Nat × Word), (∀ e, (f e).1 = e.1) → (∀ e, e.1 = regAddr .FLT_PROMOTE 0 0 → (f e).2 = e.2) →
        tblGet (regAddr .FLT_PROMOTE 0 0) (t.map f) = tblGet (regAddr .FLT_PROMOTE 0 0) t := by
      intro t f h1 h2
      induction t with
      | nil => rfl
      | cons e t ih =>
        simp only [List.map_cons, tblGet, h1, ih]
        split
        · rename_i hh; rw [h2 e hh]
        · rfl
    refine this _ _ (fun e => ?_) (fun e he => ?_)
    · split
      · rfl
      · split <;> rfl
    · split
      · rfl
      · rename_i r i k hr
        obtain ⟨h1, h2, h3⟩ := regAt_spec hr
        split
        · rename_i hs
          have h5 := regAddr_high r i k (h r i hs)
          rw [← h3, he] at h5
          exact absurd h5 (by decide)
        · rfl
  unfold noPromotion State.fget
  exact (congrArg (fun w => fieldOf w _ _) e).trans np

theorem resetL_more (p : NetPort) (reason cause : Nat) (fresh : Bool) (s : State) (np : noPromotion s) (hc : cause < 65536)
    (run : s.routerRuns = true) (role : s.role p ≠ .disabled) : noPromotion (resetL p reason cause fresh s) ∧
    ((s.port p).link.phase = .up → ∀ h, ∃ d, asyncData (resetL p reason cause fresh s) h 2 = some d ∧ d.toNat % 65536 = cause) := by
  unfold resetL
  rw [if_neg (by simp [run, role])]
  dsimp only
  generalize hx : sendLve p reason (if (s.port p).link.phase = .up then abandonTx p s else s) = x
  have h1 : ∀ q, portFaces x q = portFaces s q := by
    intro q
    rw [← hx, sendLve_faces]
    split
    · exact abandonTx_faces _ _ _
    · rfl
  have h2 : lowRegs x = lowRegs s := by
    rw [← hx, sendLve_low]
    split
    · exact abandonTx_low _ _
    · rfl
  have h3 : x.image = s.image := by
    refine image_of_still ?_
    rw [← hx, sendLve_still]
    split
    · exact abandonTx_still _ _
    · rfl
  obtain ⟨a, b⟩ := linkDepart_more p cause fresh x (noPromotion_of_low h2 h3 np) hc
  refine ⟨restore_np _ _ _ (fun r i h => ?_) a, fun u h => ?_⟩
  · simp only [Bool.and_eq_true, Bool.or_eq_true, beq_iff_eq] at h
    have := h.1
    cases r <;> first | (exfalso; revert this; decide) | decide
  · have : (x.port p).link.phase = .up := (congrArg Prod.snd (h1 p)).trans u
    exact b this h

theorem laneLeave_spec (p : NetPort) (cause : Nat) (s : State) (np : noPromotion s) (hc : cause < 65536) :
    laneFace ((laneLeave p cause s).port p).lane = laneFace (laneForget (s.port p).lane) ∧
      ((laneLeave p cause s).port p).link.phase = .down ∧ (∀ q, q ≠ p → portFaces (laneLeave p cause s) q = portFaces s q) ∧
      ((s.port p).link.phase = .up → ∀ h, ∃ d, asyncData (laneLeave p cause s) h 2 = some d ∧ d.toNat % 65536 = cause) ∧
      noPromotion (laneLeave p cause s) := by
  unfold laneLeave
  have f := linkDepart_faces p p cause false s np
  rw [if_pos rfl] at f
  obtain ⟨a, b⟩ := linkDepart_more p cause false s np hc
  refine ⟨?_, ?_, fun q hq => ?_, b, a⟩
  · rw [modLane_port_same]
    exact congrArg (fun x => laneForget x.1) f
  · rw [modLane_port_same]
    exact congrArg Prod.snd f
  · have g := linkDepart_faces p q cause false s np
    rw [if_neg hq] at g
    unfold portFaces at g ⊢
    rw [modLane_port_other _ _ _ _ hq]
    exact g

/-- A stopped lane depends on nothing but its face. -/
theorem laneFace_stop (l : LaneState) : laneFace (laneStop (retryPll l)) = laneStop (retryPll (laneFace l)) := by
  unfold retryPll
  show laneFace (laneStop (if l.pll = .unlocked then { l with pll := .starting } else l)) =
    laneStop (if l.pll = .unlocked then { laneFace l with pll := .starting } else laneFace l)
  split <;> rfl

/-- The L resets of a change of the binding take every UP port of a list down and leave the others' lanes and links. -/
theorem bind_fold (s : State) (ro : ∀ q, (s.port q).link.phase = .up → s.role q ≠ .disabled) :
    ∀ (l : List NetPort) (t : State), l.Nodup → noPromotion t → t.routerRuns = true → (∀ q, t.role q = s.role q) →
      (∀ q, q ∈ l → portFaces t q = portFaces s q) →
      ∀ q, portFaces (l.foldl (fun t p => if (t.port p).link.phase = .up then resetL p 2 4 false t else t) t) q =
        if q ∈ l ∧ (s.port q).link.phase = .up then (laneFace (laneStop (retryPll (s.port q).lane)), .down) else portFaces t q := by
  intro l
  induction l with
  | nil => intro t _ _ _ _ _ q; simp
  | cons p l ih =>
    intro t nd npt rt rot ft q
    rw [List.nodup_cons] at nd
    rw [List.foldl_cons]
    have fp := ft p List.mem_cons_self
    have fp1 : laneFace (t.port p).lane = laneFace (s.port p).lane := congrArg Prod.fst fp
    have fp2 : (t.port p).link.phase = (s.port p).link.phase := congrArg Prod.snd fp
    by_cases u : (s.port p).link.phase = .up
    · rw [if_pos (fp2.trans u)]
      have rod : t.role p ≠ .disabled := by rw [rot]; exact ro p u
      have fc := fun q => resetL_faces p q 2 4 false t npt rt rod
      have mr := resetL_more p 2 4 false t npt (by decide) rt rod
      have st := resetL_still p 2 4 false t
      have rt' : (resetL p 2 4 false t).routerRuns = true := by
        rw [routerRuns_of (rst_of_still st) (resetL_core p 2 4 false t npt)]; exact rt
      rw [ih _ nd.2 mr.1 rt' (fun q => by rw [← rot q]; unfold State.role; rw [image_of_still st]) (fun q hq => by
        rw [fc q, if_neg (by rintro rfl; exact nd.1 hq)]; exact ft q (List.mem_cons_of_mem _ hq))]
      by_cases e : q = p
      · subst e
        rw [if_neg (fun h => nd.1 h.1), fc q, if_pos rfl, if_pos ⟨List.mem_cons_self, u⟩, laneFace_stop, laneFace_stop, fp1]
      · rw [fc q, if_neg e]
        simp only [List.mem_cons, e, false_or]
    · rw [if_neg (by rw [fp2]; exact u)]
      rw [ih _ nd.2 npt rt rot (fun q hq => ft q (List.mem_cons_of_mem _ hq))]
      by_cases e : q = p
      · subst e
        rw [if_neg (fun h => nd.1 h.1), if_neg (fun h => u h.2)]
      · simp only [List.mem_cons, e, false_or]

theorem setBit_test (x g : Nat) (b : Bool) (hg : g < 8) (hx : x < 256) : (BitVec.ofNat 8 (setBitTo x g b)).toNat.testBit g = b := by
  rw [BitVec.toNat_ofNat, Nat.testBit_mod_two_pow]
  have : ∀ x, x < 256 → ∀ g, g < 8 → ∀ b, (decide (g < 8) && (setBitTo x g b).testBit g) = b := by decide +kernel
  exact this x hx g hg b

theorem modprs_of_still {s t : State} (h : t.still = s.still) : t.modprs = s.modprs := by
  simp only [still_def, stillOf, Prod.mk.injEq] at h; simp [h]

theorem absent_fold (s : State) : ∀ (l : List NetPort) (t : State), l.Nodup → noPromotion t → (∀ q, q ∈ l → portFaces t q = portFaces s q) →
    let r := l.foldl (fun t p => (if (t.port p).lane.phase = .up then laneLeave p 2 t else t).modLane p (fun l =>
        { laneForget l with phase := .noModule })) t
    r.modprs = t.modprs ∧ ∀ q, (q ∈ l → (r.port q).lane.phase = .noModule ∧ (r.port q).link.phase = if (s.port q).lane.phase = .up then .down else (s.port q).link.phase) ∧
      (q ∉ l → portFaces r q = portFaces t q) := by
  intro l
  induction l with
  | nil => intro t _ _ _; exact ⟨rfl, fun q => ⟨fun h => by simp at h, fun _ => rfl⟩⟩
  | cons p l ih =>
    intro t nd np hf
    rw [List.nodup_cons] at nd
    dsimp only
    rw [List.foldl_cons]
    have fp := hf p List.mem_cons_self
    have fp1 : (t.port p).lane.phase = (s.port p).lane.phase := congrArg (fun x => x.1.phase) fp
    have fp2 : (t.port p).link.phase = (s.port p).link.phase := congrArg Prod.snd fp
    generalize hw : (if (t.port p).lane.phase = .up then laneLeave p 2 t else t) = w
    have key : noPromotion w ∧ w.modprs = t.modprs ∧
        (w.port p).link.phase = (if (s.port p).lane.phase = .up then .down else (s.port p).link.phase) ∧
        (∀ q, q ≠ p → portFaces w q = portFaces t q) := by
      rw [← hw, fp1]
      by_cases u : (s.port p).lane.phase = .up
      · obtain ⟨x1, x2, x3, x4, x5⟩ := laneLeave_spec p 2 t np (by decide)
        rw [if_pos u, if_pos u]
        exact ⟨x5, modprs_of_still (laneLeave_still p 2 t), x2, x3⟩
      · rw [if_neg u, if_neg u]
        exact ⟨np, rfl, fp2, fun _ _ => rfl⟩
    obtain ⟨k1, k2, k3, k4⟩ := key
    have IH := ih (w.modLane p (fun l => { laneForget l with phase := .noModule })) nd.2 k1 (fun q hq => by
      have ne : q ≠ p := by rintro rfl; exact nd.1 hq
      unfold portFaces
      rw [modLane_port_other _ _ _ _ ne]
      exact (k4 q ne).trans (hf q (List.mem_cons_of_mem _ hq)))
    dsimp only at IH
    refine ⟨IH.1.trans k2, fun q => ⟨fun hq => ?_, fun hq => ?_⟩⟩
    · by_cases e : q = p
      · subst e
        have := (IH.2 q).2 nd.1
        have a1 := congrArg (fun x => x.1.phase) this
        have a2 := congrArg Prod.snd this
        simp only [portFaces, laneFace, modLane_port_same] at a1 a2
        exact ⟨a1, a2.trans k3⟩
      · rcases List.mem_cons.1 hq with h | h
        · exact absurd h e
        · exact (IH.2 q).1 h
    · have ne : q ≠ p := fun e => hq (e ▸ List.mem_cons_self)
      rw [(IH.2 q).2 (fun h => hq (List.mem_cons_of_mem _ h))]
      have := k4 q ne
      unfold portFaces at this ⊢
      rw [modLane_port_other _ _ _ _ ne]
      exact this

/-- What the start of a training leaves alone: all but its port and what goes out. -/
theorem startTraining_frame (p : NetPort) (s : State) : (startTraining p s).rst = s.rst ∧ (startTraining p s).regs = s.regs ∧
    (startTraining p s).image = s.image ∧ (startTraining p s).pwr = s.pwr ∧ (startTraining p s).modprs = s.modprs ∧
    (startTraining p s).flt = s.flt ∧ ∀ q, q ≠ p → (startTraining p s).port q = s.port q := by
  have g : ∀ q, q ≠ p → (startPattern p s).port q = s.port q := fun q hq => by
    unfold startPattern
    rw [modLane_port_other _ _ _ _ hq]
    rw [show ∀ (t : State) o, (t.emit o).port q = t.port q from fun _ _ => rfl, modLane_port_other _ _ _ _ hq]
  unfold startTraining
  dsimp only
  split
  · exact ⟨rfl, rfl, rfl, rfl, rfl, rfl, fun _ _ => rfl⟩
  split
  · exact ⟨rfl, rfl, rfl, rfl, rfl, rfl, fun q hq => modLane_port_other _ _ _ _ hq⟩
  split
  · exact ⟨rfl, rfl, rfl, rfl, rfl, rfl, fun q hq => modLane_port_other _ _ _ _ hq⟩
  split
  · exact ⟨rfl, rfl, rfl, rfl, rfl, rfl, fun q hq => modLane_port_other _ _ _ _ hq⟩
  · exact ⟨rfl, rfl, rfl, rfl, rfl, rfl, g⟩

theorem present_fold (s : State) : ∀ (l : List NetPort) (t : State), l.Nodup → (∀ q, q ∈ l → t.port q = s.port q) →
    t.rst = s.rst → t.regs = s.regs → t.image = s.image → (∀ q, q ∈ l → modulePresent t q = true) → s.routerRuns = true → t.pwr = s.pwr → t.flt = s.flt →
    let r := l.foldl (fun t p => if (t.port p).lane.phase = .noModule then startTraining p (t.modLane p (fun l => { l with phase := .off })) else t) t
    r.modprs = t.modprs ∧ ∀ q, (q ∈ l → (s.port q).lane.phase = .noModule → s.role q ≠ .disabled → (s.port q).lane.stopped = false →
          (s.port q).lane.pll = .running → s.fget F.LAN_CTL_MODE q.val = 0 → (r.port q).lane.phase = .waitClock) ∧
      (q ∉ l ∨ (s.port q).lane.phase ≠ .noModule → r.port q = t.port q) := by
  intro l
  induction l with
  | nil => intro t _ _ _ _ _ _ _ _ _; exact ⟨rfl, fun q => ⟨fun h => by simp at h, fun _ => rfl⟩⟩
  | cons p l ih =>
    intro t nd hf e1 e2 e3 hm rr e4 e5
    rw [List.nodup_cons] at nd
    dsimp only
    rw [List.foldl_cons]
    have fp := hf p List.mem_cons_self
    generalize hw : (if (t.port p).lane.phase = .noModule then startTraining p (t.modLane p (fun l => { l with phase := .off })) else t) = w
    have kw : w.rst = t.rst ∧ w.regs = t.regs ∧ w.image = t.image ∧ w.pwr = t.pwr ∧ w.modprs = t.modprs ∧ w.flt = t.flt ∧ (∀ q, q ≠ p → w.port q = t.port q) ∧
        ((s.port p).lane.phase ≠ .noModule → w.port p = t.port p) ∧ ((s.port p).lane.phase = .noModule → s.role p ≠ .disabled → (s.port p).lane.stopped = false →
          (s.port p).lane.pll = .running → s.fget F.LAN_CTL_MODE p.val = 0 → (w.port p).lane.phase = .waitClock) := by
      rw [← hw]
      by_cases u : (s.port p).lane.phase = .noModule
      · rw [if_pos (by rw [fp]; exact u)]
        obtain ⟨f1, f2, f3, f4, f5, f6, f7⟩ := startTraining_frame p (t.modLane p (fun l => { l with phase := .off }))
        refine ⟨f1, f2, f3, f4, f5, f6, fun q hq => (f7 q hq).trans (modLane_port_other _ _ _ _ hq), fun h => absurd u h, fun _ ro sp pl md => ?_⟩
        unfold startTraining
        dsimp only
        · have r1 : (t.modLane p (fun l => { l with phase := .off })).routerRuns = true := by
            unfold State.routerRuns State.coreRuns at rr ⊢
            simp only [modLane_rst, modLane_pwr, modLane_flt, e1, e4, e5]
            exact rr
          have r2 : (t.modLane p (fun l => { l with phase := .off })).role p ≠ .disabled := by
            show t.role p ≠ _
            unfold State.role at ro ⊢; rw [e3]; exact ro
          have r3 : modulePresent (t.modLane p (fun l => { l with phase := .off })) p = true := hm p List.mem_cons_self
          have r4 : (t.modLane p (fun l => { l with phase := .off })).fget F.LAN_CTL_MODE p.val = 0 := by
            show t.fget _ _ = _
            unfold State.fget State.regWord at md ⊢; rw [e2, e3]; exact md
          simp only [r1, r2, r3, r4, modLane_port_same, fp, sp, pl]
          simp
      · rw [if_neg (by rw [fp]; exact u)]
        exact ⟨rfl, rfl, rfl, rfl, rfl, rfl, fun _ _ => rfl, fun _ => rfl, fun h => absurd h u⟩
    obtain ⟨k1, k2, k3, k4, k5, k9, k6, k7, k8⟩ := kw
    have IH := ih w nd.2 (fun q hq => by
      have ne : q ≠ p := by rintro rfl; exact nd.1 hq
      rw [k6 q ne]; exact hf q (List.mem_cons_of_mem _ hq)) (k1.trans e1) (k2.trans e2) (k3.trans e3) (fun q hq => by
        have := hm q (List.mem_cons_of_mem _ hq)
        unfold modulePresent at this ⊢; rw [k5]; exact this) rr (k4.trans e4) (k9.trans e5)
    dsimp only at IH
    refine ⟨IH.1.trans k5, fun q => ⟨fun hq => ?_, fun hq => ?_⟩⟩
    · by_cases e : q = p
      · subst e
        rw [(IH.2 q).2 (.inl nd.1)]
        exact k8
      · rcases List.mem_cons.1 hq with h | h
        · exact absurd h e
        · exact (IH.2 q).1 h
    · by_cases e : q = p
      · subst e
        rw [(IH.2 q).2 (.inl nd.1)]
        rcases hq with h | h
        · exact absurd List.mem_cons_self h
        · exact k7 h
      · rw [(IH.2 q).2 (hq.imp (fun h1 h2 => h1 (List.mem_cons_of_mem _ h2)) id), k6 q e]

end Sys2Proof.Laws
end

