-- ==== Sys2Proof/Laws/Linking.lean ====
section
/-! SUPPORT. Frames and admissions. -/

set_option linter.unusedSimpArgs false

namespace Sys2Proof.Laws

open Sys2Proof.Machine

/-- Without an error in any lane nothing is counted. -/
theorem clean (p : NetPort) (errs : List (Nat × Nat)) (s : State) (h : errs.any (fun e => e.2 ≠ 0) = false) : codeErrors p errs s = s := by
  have e : errs.filter (fun e => e.2 ≠ 0) = [] := List.filter_eq_nil_iff.mpr fun x hx => by
    simpa using (List.any_eq_false.mp h) x hx
  unfold codeErrors
  rw [e, h]
  rfl

theorem frame_go (p : NetPort) (bytes : Bytes) (errs : List (Nat × Nat)) (tail : Bool) (s : State) (h : errs.any (fun e => e.2 ≠ 0) = false)
    (d : (s.port p).lane.deaf = false) (c : crc16 (bytes.take 6) = leAt bytes 6 2) (ty : leAt bytes 0 2 / 4096 = 1) :
    frameIn p bytes errs tail s = packetFrame p bytes false tail s := by
  unfold frameIn
  dsimp only
  rw [clean p errs s h, h, d, if_neg (by simpa using c), ty]
  rfl

theorem modLink_same (s : State) (p : NetPort) (f : LinkState → LinkState) : ((s.modLink p f).port p).link = f (s.port p).link :=
  congrArg Port.link (modPort_port_same s p (fun q => { q with link := f q.link }))

theorem init_go (p : NetPort) (bytes : Bytes) (errs : List (Nat × Nat)) (s : State) (a : errs.any (fun e => e.2 ≠ 0) = false)
    (b : (s.port p).lane.deaf = false) (c : crc16 (bytes.take 6) = leAt bytes 6 2) (d : leAt bytes 0 2 / 4096 = 2) (e : leAt bytes 2 2 % 8192 = 64)
    (f : crc32 (bytes.take 72) = leAt bytes 72 4) :
    frameIn p bytes errs true s = initRecordIn p (padTo 64 ((bytes.drop 8).take 64)) s := by
  unfold frameIn
  dsimp only
  rw [clean p errs s a, a, b, if_neg (by simpa using c), d]
  try dsimp only
  rw [if_pos rfl]
  unfold initFrameIn
  rw [if_neg (by rw [e, f]; simp)]
  rfl

def linkUp0 (p : NetPort) (s : State) (restricted : Bool) : State :=
  let init := (s.port p).link.peer.getD []
  let adv := advertised s p
  s.modLink p (fun l => { l with
    phase := .up, refuse := 0, advCapped := adv.2, restricted := restricted, txAcked := 0, txNext := 0, replay := [],
    rxNext := 0, held := [], named := [], fifo := [], tx := none,
    credits := Vector.ofFn (fun c : Fin 8 =>
      let w := leAt init (16 + 4 * c.val) 4
      let own := adv.1.getD c.val ⟨0, 0⟩
      { creditReset with hdrAdv := w % 4096, dataAdv := w / 4096 % 2048, hdrOwn := own.hdr, dataOwn := own.data }) })

theorem admit_up (p : NetPort) (s : State) (r : Bool) (h : admission s p ((s.port p).link.peer.getD []) = (0, r)) :
    admitLink p s = asyncChip 0x01 p.val (linkUpData ((s.port p).link.peer.getD [])) (linkUp0 p s r) := by
  unfold admitLink; dsimp only; rw [h]; rfl

theorem admit_no (p : NetPort) (s : State) (why : Nat) (r : Bool) (n : why ≠ 0) (h : admission s p ((s.port p).link.peer.getD []) = (why, r)) :
    admitLink p s = asyncChip 0x03 p.val (linkRefusedData why ((s.port p).link.peer.getD [])) (s.modLink p (fun l => { l with phase := .refused, refuse := why })) := by
  unfold admitLink; dsimp only; rw [h]
  cases why with
  | zero => exact absurd rfl n
  | succ k => rfl

end Sys2Proof.Laws
end

