-- ==== Sys2Proof/Laws/Locks.lean ====
section
/-! SUPPORT. Locks, counters and the in-band agent: the small steps of their operations. -/

set_option linter.unusedSimpArgs false

namespace Sys2Proof.Laws

open Sys2Proof.Machine

theorem freed_eq (k : Fin 256) (ab : Bool) (s : State) : modLock k (fun _ => { held := false, abandoned := s.locks[k].abandoned || ab, waiter := false, owner := 0#8 }) s =
   { s with locks := s.locks.set k { held := false, abandoned := s.locks[k].abandoned || ab, waiter := false, owner := 0#8 } } := rfl

theorem freeLock_rep (k : Fin 256) (ab : Bool) (s : State) (np : noPromotion s) :
    let f : State := { s with locks := s.locks.set k { held := false, abandoned := s.locks[k].abandoned || ab, waiter := false, owner := 0#8 } }
    reportOnly f (freeLock k ab s) ∧ (s.locks[k].waiter = false → freeLock k ab s = f) ∧ 
    (s.locks[k].waiter = true → ∀ h, asyncData (freeLock k ab s) h 0x0A = some (BitVec.ofNat 64 (k.val + 256 * b2n (s.locks[k].abandoned || ab)))) := by
  intro f
  have nf : noPromotion f := np
  refine ⟨?_, fun w => ?_, fun w h => ?_⟩
  · unfold freeLock
    dsimp only
    split
    · exact asyncChip_report _ _ _ _ nf
    · exact reportOnly_refl _
  · unfold freeLock
    dsimp only
    rw [w]; rfl
  · unfold freeLock
    dsimp only
    rw [if_pos w]
    exact asyncChip_data _ _ _ _ nf (by decide) h

theorem rae (mid : Mid) (a off : Nat) (s : State) (np : noPromotion s) : reportOnly s (regAccessError mid a off s) ∧ ((regAccessError mid a off s).fget F.FLT_STATUS_SRC).testBit 10 = true :=
  ⟨regAccessError_report _ _ _ _ np, raiseFaultBy_bit _ _ _ _ _ np (by decide) (by decide)⟩

theorem fold_regs {α : Type} (f : State → α → State) (h : ∀ t x, f t x = { t with regs := (f t x).regs }) :
    ∀ (l : List α) (s : State), l.foldl f s = { s with regs := (l.foldl f s).regs } := by
  intro l
  induction l with
  | nil => intro s; rfl
  | cons x l ih =>
    intro s
    rw [List.foldl_cons]
    have := ih (f s x)
    rw [this, h s x]

theorem pmc_addr : (∀ u i, regAddr .PMC_CNT u i = 0x60050 + 0x100 * u + 8 * i) ∧ (∀ u i, regAddr .PMC_SHD_CNT u i = 0x60098 + 0x100 * u + 8 * i) ∧
   (∀ u, regAddr .PMC_SHD_CYC u 0 = 0x60090 + 0x100 * u) ∧ (∀ u, regAddr .PMC_CYC u 0 = 0x60008 + 0x100 * u) ∧ (∀ u, regAddr .PMC_CTL u 0 = 0x60000 + 0x100 * u)
   ∧ (∀ u i, regAddr .PMC_EVSEL u i = 0x60010 + 0x100 * u + 8 * i) ∧ regAddr .PMC_SNAP 0 0 = 0x68000 ∧ regAddr .PMC_SNAP_TIME 0 0 = 0x68008 := by
  refine ⟨?_, ?_, ?_, ?_, ?_, ?_, ?_, ?_⟩ <;> intros <;> simp only [regAddr, regPlace] <;> omega

theorem snapUnit_other (t : State) (u a : Nat) (h : a < 0x60090 + 0x100 * u ∨ 0x600D8 + 0x100 * u ≤ a) : tblGet a (snapUnit t u).regs = tblGet a t.regs := by
  obtain ⟨a1, a2, a3, -⟩ := pmc_addr
  unfold snapUnit
  have : (List.range 8) = [0,1,2,3,4,5,6,7] := by decide
  rw [this]
  simp only [List.foldl_cons, List.foldl_nil]
  repeat rw [setWord_get _ _ _ _ _ _ (by simp only [a2, a3]; omega)]

theorem snapUnit_regs (t : State) (u : Nat) : snapUnit t u = { t with regs := (snapUnit t u).regs } :=
  fold_regs _ (fun _ _ => rfl) _ (t.setWord .PMC_SHD_CYC (t.regWord .PMC_CYC u 0) u 0)

theorem snapUnit_get (t : State) (u : Nat) : (snapUnit t u).regWord .PMC_SHD_CYC u 0 = t.regWord .PMC_CYC u 0 ∧
    ∀ i, i < 8 → (snapUnit t u).regWord .PMC_SHD_CNT u i = t.regWord .PMC_CNT u i := by
  obtain ⟨a1, a2, a3, -⟩ := pmc_addr
  unfold snapUnit
  have : (List.range 8) = [0,1,2,3,4,5,6,7] := by decide
  rw [this]
  simp only [List.foldl_cons, List.foldl_nil]
  have sw : ∀ (t : State) v u i k r', regAddr r' u i ≠ regAddr .PMC_SHD_CNT u k → (t.setWord .PMC_SHD_CNT v u k).regWord r' u i = t.regWord r' u i := by
    intro t v u i k r' h
    exact regWord_setWord_other _ _ _ _ _ _ _ _ h
  have sc : ∀ (t : State) v u i k, i < 8 → (t.setWord .PMC_SHD_CNT v u k).regWord .PMC_CNT u i = t.regWord .PMC_CNT u i := by
    intro t v u i k h; apply sw; simp only [a1, a2]; omega
  have sy : ∀ (t : State) v u i, i < 8 → (t.setWord .PMC_SHD_CYC v u 0).regWord .PMC_CNT u i = t.regWord .PMC_CNT u i := by
    intro t v u i h; apply regWord_setWord_other; simp only [a1, a3]; omega
  simp (disch := omega) only [sc, sy]
  refine ⟨?_, fun i hi => ?_⟩
  · repeat rw [sw _ _ _ _ _ _ (by simp only [a2, a3]; omega)]
    simp
  · rcases (by omega : i = 0 ∨ i = 1 ∨ i = 2 ∨ i = 3 ∨ i = 4 ∨ i = 5 ∨ i = 6 ∨ i = 7) with rfl | rfl | rfl | rfl | rfl | rfl | rfl | rfl
    all_goals
      repeat rw [sw _ _ _ _ _ _ (by simp only [a2]; omega)]
      simp only [regWord_setWord]

theorem snapAll : ∀ (n : Nat) (s : State),
    let t := (List.range n).foldl snapUnit s
    t = { s with regs := t.regs } ∧ (∀ a, a < 0x60090 ∨ 0x60000 + 0x100 * n ≤ a ∨ a % 256 < 0x90 → tblGet a t.regs = tblGet a s.regs) ∧
    ∀ u, u < n → t.regWord .PMC_SHD_CYC u 0 = s.regWord .PMC_CYC u 0 ∧ ∀ i, i < 8 → t.regWord .PMC_SHD_CNT u i = s.regWord .PMC_CNT u i := by
  obtain ⟨a1, a2, a3, a4, -⟩ := pmc_addr
  intro n s
  induction n with
  | zero => exact ⟨rfl, fun _ _ => rfl, fun u h => absurd h (by omega)⟩
  | succ n ih =>
    dsimp only at ih ⊢
    rw [List.range_succ, List.foldl_append, List.foldl_cons, List.foldl_nil]
    generalize (List.range n).foldl snapUnit s = t at ih
    obtain ⟨e, f, g⟩ := ih
    refine ⟨?_, fun a h => ?_, fun u h => ?_⟩
    · have := snapUnit_regs t n
      rw [this, e]
    · rw [snapUnit_other t n a (by omega)]
      exact f a (by omega)
    · have im : (snapUnit t n).image = t.image := by rw [snapUnit_regs]
      have im' : t.image = s.image := by rw [e]
      by_cases c : u = n
      · subst c
        refine ⟨(snapUnit_get t u).1.trans (regWord_of_get im' _ _ _ (f _ (by rw [a4]; omega))), fun i hi => ?_⟩
        exact ((snapUnit_get t u).2 i hi).trans (regWord_of_get im' _ _ _ (f _ (by rw [a1]; omega)))
      · refine ⟨?_, fun i hi => ?_⟩
        · exact (regWord_of_get im _ _ _ (snapUnit_other t n _ (by rw [a3]; omega))).trans (g u (by omega)).1
        · exact (regWord_of_get im _ _ _ (snapUnit_other t n _ (by rw [a2]; omega))).trans ((g u (by omega)).2 i hi)

theorem clearAll (u : Nat) : ∀ (n : Nat) (s : State), let t := (List.range n).foldl (fun t i => t.setWord .PMC_CNT 0#64 u i) s
    t = { s with regs := t.regs } ∧ (∀ a, a < 0x60050 + 0x100 * u ∨ 0x60050 + 0x100 * u + 8 * n ≤ a ∨ (a - (0x60050 + 0x100 * u)) % 8 ≠ 0 → tblGet a t.regs = tblGet a s.regs) ∧
    ∀ i, i < n → t.regWord .PMC_CNT u i = 0#64 := by
  obtain ⟨a1, -⟩ := pmc_addr
  intro n s
  induction n with
  | zero => exact ⟨rfl, fun _ _ => rfl, fun u h => absurd h (by omega)⟩
  | succ n ih =>
    dsimp only at ih ⊢
    rw [List.range_succ, List.foldl_append, List.foldl_cons, List.foldl_nil]
    generalize (List.range n).foldl _ s = t at ih
    obtain ⟨e, f, g⟩ := ih
    refine ⟨?_, fun a h => ?_, fun i h => ?_⟩
    · have e' : ∀ r, ({ t with regs := r } : State) = { s with regs := r } := fun r => by rw [e]
      exact e' _
    · rw [setWord_get _ _ _ _ _ _ (by rw [a1]; omega)]
      exact f a (by omega)
    · by_cases c : i = n
      · subst c; exact regWord_setWord _ _ _ _ _
      · rw [regWord_setWord_other _ _ _ _ _ _ _ _ (by rw [a1, a1]; omega)]
        exact g i (by omega)

theorem serve1 (p : Packet) (s : State) (o : pktAt p 19 1 = 1) : agentServe p s = if agentRefuses s false (pktSrcChip p) then agentAnswer p 3 2 s.freeValue s.tookFree
    else agentAnswer p 3 0 (busRead 2#8 (pktAt p 22 3) s).2 ((busRead 2#8 (pktAt p 22 3) s).1.emit (.regRead 2#8 (BitVec.ofNat 24 (pktAt p 22 3)) (busRead 2#8 (pktAt p 22 3) s).2)) := by
  unfold agentServe
  rw [o]
  rfl

theorem serve2 (p : Packet) (s : State) (o : pktAt p 19 1 = 2) : agentServe p s = if agentRefuses s true (pktSrcChip p) then agentAnswer p 4 2 s.freeValue s.tookFree
    else agentAnswer p 4 0 (busWrite 2#8 (pktAt p 22 3) (BitVec.ofNat 64 (pktAt p 32 8)) s).freeValue (busWrite 2#8 (pktAt p 22 3) (BitVec.ofNat 64 (pktAt p 32 8)) s).tookFree := by
  unfold agentServe
  rw [o]
  rfl

theorem locks_take (ip : IntPort) (e : InPacket) (s : State) : (takeEject ip e s).locks = s.locks :=
  locks_of_still (takeEject_still ip e s)

theorem far_take (ip : IntPort) (e : InPacket) (s : State) : farParts (takeEject ip e s) = farParts s := by
  unfold takeEject
  dsimp only
  exact (show farParts (State.modInt _ _ _) = _ from (capture_far _ _).trans ((pmcClass_far _ _ _ _ _).trans (pmcClass_far _ _ _ _ _)))

theorem svc_take (ip : IntPort) (e : InPacket) (s : State) : (takeEject ip e s).svcRuns = s.svcRuns := by
  have f := far_take ip e s
  have p : (takeEject ip e s).pwr = s.pwr := congrArg (fun x => x.1) f
  have q : (takeEject ip e s).flt = s.flt := congrArg (fun x => x.2.1) f
  unfold State.svcRuns State.coreRuns
  rw [rst_of_still (takeEject_still ip e s), p, q]

theorem lockWord (a b c d : Bool) (o : Mid) :
    let w := packFields [(0, 0, b2n a), (1, 1, b2n b), (2, 2, b2n c), (3, 3, b2n d), (15, 8, o.toNat)]
    fieldOf w 0 0 = b2n a ∧ fieldOf w 1 1 = b2n b ∧ fieldOf w 2 2 = b2n c ∧ fieldOf w 15 8 = o.toNat := by
  have hb : ∀ b : Bool, b2n b % 2 = b2n b := by decide
  dsimp only
  simp (disch := decide) only [packFields, List.foldl_cons, List.foldl_nil, fieldOf_putField, fieldOf_putField_below, fieldOf_putField_above]
  refine ⟨hb _, hb _, hb _, Nat.mod_eq_of_lt o.isLt⟩

theorem lr_free (mid : Mid) (l : Lock) (h : l.held = false) : lockRead mid l = (packFields [(0, 0, b2n true), (1, 1, b2n true), (2, 2, b2n l.abandoned),
    (3, 3, b2n l.waiter), (15, 8, mid.toNat)], { l with held := true, owner := mid, abandoned := false }) := by
  simp [lockRead, h]

theorem lr_own (mid : Mid) (l : Lock) (h : l.held = true) (o : l.owner = mid) : lockRead mid l = (packFields [(0, 0, b2n true), (1, 1, b2n true), (2, 2, b2n l.abandoned),
    (3, 3, b2n l.waiter), (15, 8, l.owner.toNat)], l) := by
  simp [lockRead, h, o]

theorem lr_other (mid : Mid) (l : Lock) (h : l.held = true) (o : l.owner ≠ mid) : lockRead mid l = (packFields [(0, 0, b2n false), (1, 1, b2n true), (2, 2, b2n l.abandoned),
    (3, 3, b2n true), (15, 8, l.owner.toNat)], { l with waiter := true }) := by
  simp [lockRead, h, o]

theorem lock_off : ∀ k : Fin 256, regAddr .SEM_LOCK 0 k.val = 0x50000 + 8 * k.val := fun _ => rfl

theorem acq (mid : Mid) (k : Fin 256) (s : State) :
    let lock := s.locks[k]
    let w := (lockRead mid lock).1
    let locks := (modLock k (fun _ => (lockRead mid lock).2) s).locks
    (lock.held = false → locks = s.locks.set k { lock with held := true, owner := mid, abandoned := false } ∧
        fieldOf w 0 0 = 1 ∧ fieldOf w 1 1 = 1 ∧ fieldOf w 2 2 = b2n lock.abandoned ∧ fieldOf w 15 8 = mid.toNat) ∧
      (lock.held = true → lock.owner = mid → locks = s.locks ∧ fieldOf w 0 0 = 1 ∧ fieldOf w 15 8 = mid.toNat) ∧
      (lock.held = true → lock.owner ≠ mid → locks = s.locks.set k { lock with waiter := true } ∧
        fieldOf w 0 0 = 0 ∧ fieldOf w 15 8 = lock.owner.toNat) := by
  dsimp only
  refine ⟨fun h => ?_, fun h o => ?_, fun h o => ?_⟩
  · rw [lr_free mid _ h]
    obtain ⟨h1, h2, h3, h4⟩ := lockWord true true s.locks[k].abandoned s.locks[k].waiter mid
    exact ⟨rfl, h1, h2, h3, h4⟩
  · rw [lr_own mid _ h o]
    obtain ⟨h1, h2, h3, h4⟩ := lockWord true true s.locks[k].abandoned s.locks[k].waiter s.locks[k].owner
    refine ⟨?_, h1, by rw [h4, o]⟩
    simp [modLock, vecMod]
  · rw [lr_other mid _ h o]
    obtain ⟨h1, h2, h3, h4⟩ := lockWord false true s.locks[k].abandoned true s.locks[k].owner
    exact ⟨rfl, h1, h4⟩

end Sys2Proof.Laws
end

