-- ==== Sys2Proof/Laws/Queues.lean ====
section
/-! SUPPORT. Doorbells, admin commands, event queues, walks and operations. -/

set_option linter.unusedSimpArgs false

namespace Sys2Proof.Laws

open Sys2Proof.Machine

theorem doze_no (k : Nat) (s : State) (h : s.pwr.state ≠ .doze) : dozeWake k s = s := if_neg (by simp [h])

theorem leNat_leBytes8 (v : Word) : leNat (leBytes 8 v.toNat) = v.toNat := by
  have g : ∀ n v, v < 256 ^ n → leNat (leBytes n v) = v := by
    intro n
    induction n with
    | zero => intro v h; simp at h; subst h; rfl
    | succ n ih =>
      intro v h
      show (BitVec.ofNat 8 (v % 256)).toNat + 256 * leNat (leBytes n (v / 256)) = v
      rw [ih _ (by rw [pow_succ] at h; omega)]
      have : (BitVec.ofNat 8 (v % 256)).toNat = v % 256 := by simp
      omega
  exact g 8 _ (by have := v.isLt; norm_num at this ⊢; omega)

theorem run_at (h : HostPort) (op : Nat) (check : Bytes → Nat) (act : Nat → Bytes → State → State) (s : State) (i : Nat) (c : Bytes)
    (a : admCur s h op = some (i, c)) : admRun h op check act s = if check c = 0 then act i c s else admDone h i (check c) 0 s := by
  unfold admRun; rw [a]

theorem run_none (h : HostPort) (op : Nat) (check : Bytes → Nat) (act : Nat → Bytes → State → State) (s : State)
    (a : admCur s h op = none) : admRun h op check act s = s := by
  unfold admRun; rw [a]

theorem fc_f (b : Bool) (k : Nat) (l) (h : b = false) : firstCode ((b, k) :: l) = firstCode l := by subst h; rfl

theorem fc_t (b : Bool) (k : Nat) (l) (h : b = true) : firstCode ((b, k) :: l) = k := by subst h; rfl

theorem fc0 : firstCode [] = 0 := rfl

theorem modEq_get (h : HostPort) (e : Nat) (f : EventQueue → EventQueue) (s : State) (q : EventQueue)
    (a : tblGet e (s.host h).eqs = some q) : tblGet e ((modEq h e f s).host h).eqs = some (f q) := by
  unfold modEq; rw [modHost_host_same]; simp only [tblGet_mod, a]; rfl

theorem walk_ok {s : State} {h : HostPort} {tag id : Nat} {d : Bytes} (a : reqOf s h tag = some (.walk id)) (b : (reqEnd h tag true s).hostLive h = true) :
    walkDoneIn h tag (some d) s = match (walkRead h id (some d) (reqEnd h tag true s)).2 with
      | none => (walkRead h id (some d) (reqEnd h tag true s)).1
      | some (w, e) => walkOver h w e (walkRead h id (some d) (reqEnd h tag true s)).1 := by
  unfold walkDoneIn; rw [a]; dsimp only [Option.isSome_some]; rw [b]; rfl

theorem done1 {s : State} {h : HostPort} {wq tag i : Nat} {again : Bool} {q : WorkQueue} {d : Bytes} (a : tblGet wq (s.host h).wqs = some q)
    (b : descReqs s h wq = [(tag, i, 1, again)]) (ul : (reqEnd h tag true s).hostLive h = true) (il : i < 2 * ringSize q.logSize) (dl : d.length = 64) :
    descsDone h wq (some d) s =
      checkStore h wq (takeDescs h wq (if again then q.reread.elim 0 (fun x => x.2 + 1) else 0) [(i, d)] (reqEnd h tag true s)) := by
  unfold descsDone; rw [b, a]
  refine (if_neg (by show ¬ (!(reqEnd h tag true s).hostLive h) = true; simp [ul])).trans ?_
  show checkStore h wq (takeDescs h wq _ [(((if ringCount q.logSize i q.fetch < ringCount q.logSize i q.fetch then i else i) + 0) % (2 * ringSize q.logSize), padTo 64 (d.drop (64 * 0)))] _) = _
  have e0 : ((if ringCount q.logSize i q.fetch < ringCount q.logSize i q.fetch then i else i) + 0) % (2 * ringSize q.logSize) = i := by
    rw [ite_self, Nat.add_zero, Nat.mod_eq_of_lt il]
  rw [e0]
  have e : padTo 64 (d.drop (64 * 0)) = d := by simp [padTo, dl]
  rw [e]; rfl

theorem begin_at {codes : List Nat} {h : HostPort} {wq idx : Nat} {s : State} {q : WorkQueue} {op : OpState} (a : tblGet wq (s.host h).wqs = some q)
    (b : tblGet idx q.ops = some op) (c : op.begun = false) (d : s.hostLive h = true) (e : s.nicWorks = true) (f : codes.contains (dOp (opFirst op)) = true) :
    beginOf codes h wq idx s = beginOp h wq idx s := by
  unfold beginOf; rw [a]; simp only [Option.bind_some]; rw [b]; dsimp only; rw [if_pos (by rw [f, c, d, e]; rfl)]

theorem begin_not {codes : List Nat} {h : HostPort} {wq idx : Nat} {s : State} {q : WorkQueue} {op : OpState} (a : tblGet wq (s.host h).wqs = some q)
    (b : tblGet idx q.ops = some op) (f : codes.contains (dOp (opFirst op)) = false) :
    beginOf codes h wq idx s = s := by
  unfold beginOf; rw [a]; simp only [Option.bind_some]; rw [b]; dsimp only; rw [if_neg (by rw [f]; simp)]

end Sys2Proof.Laws
end

