-- ==== Sys2Proof/Laws/Reading.lean ====
section
/-! SUPPORT. Register reads, debug accesses and the masters of the buses. -/

set_option linter.unusedSimpArgs false

namespace Sys2Proof.Laws

open Sys2Proof.Machine

theorem ssi (P : Prop) (h : P) : P := h

/-- The first-error record is held. -/
def held (acc : Nat) (t : State) : Prop := t.flag F.FLT_FIRST_INFO_VALID = true ∧ t.fget F.FLT_FIRST_INFO_ACCESS = acc

theorem held_congr {acc : Nat} {s t : State} (h : held acc s) (e : t.regWord .FLT_FIRST_INFO 0 0 = s.regWord .FLT_FIRST_INFO 0 0) : held acc t := by
  have : ∀ f : RegField, f.reg = .FLT_FIRST_INFO → t.fget f = s.fget f := by
    intro f hf
    unfold State.fget
    rw [hf, e]
  exact ⟨by unfold State.flag; rw [this _ rfl]; exact h.1, by rw [this _ rfl]; exact h.2⟩

theorem held_firstError {acc : Nat} {s : State} (n mid acc' addr) (h : held acc s) : held acc (firstError n mid acc' addr s) := by
  unfold firstError
  split
  · exact h
  · rw [if_pos h.1]
    unfold held State.flag
    simp (disch := decide) only [fget_fset_apart]
    exact h

theorem held_raiseCore {acc : Nat} {s : State} (n mid acc' addr) (np : noPromotion s) (c : faultClass n ≠ 2) (h : held acc s) : held acc (raiseCore n mid acc' addr s) := by
  unfold raiseCore
  dsimp only
  generalize hx : ({ (s.fset F.FLT_STATUS_SRC _) with flt := _ } : State) = x
  have np' : noPromotion x := by
    subst hx
    unfold noPromotion
    exact (fget_fset_other _ _ _ _ _ _ _ _ (by decide)).trans np
  rw [if_neg (by rw [actingClass_plain np']; exact c)]
  apply held_firstError
  subst hx
  exact held_congr h (regWord_fset_other _ _ _ _ _ _ _ _ (by decide))

theorem held_asyncMerge {acc : Nat} {s : State} (p code src data) (h : held acc s) : held acc (asyncMerge p code src data s) := h

theorem held_asyncPost {acc : Nat} {s : State} (p : HostPort) (code src data) (np : noPromotion s) (h : held acc s) : held acc (asyncPost p code src data s) := by
  unfold asyncPost
  dsimp only
  have h1 := held_asyncMerge p code src data h
  have np1 : noPromotion (asyncMerge p code src data s) := np
  generalize asyncMerge p code src data s = u at h1 np1
  split
  · split
    · unfold eqOverflow
      dsimp only
      apply held_asyncMerge
      have hp : ∀ x : Fin 2, regAddr .FLT_FIRST_INFO 0 0 ≠ regAddr .EQ_OVF x.val 0 := by decide
      have hp' : ∀ x : Fin 2, regAddr .FLT_PROMOTE 0 0 ≠ regAddr .EQ_OVF x.val 0 := by decide
      have np2 : ∀ (t : State) f v, f.reg = .EQ_OVF → noPromotion t → noPromotion (t.fset f v p.val) := by
        intro t f v e n
        exact (fget_fset_other _ _ _ _ _ _ _ _ (by rw [e]; exact hp' p)).trans n
      have h2 : ∀ (t : State) f v, f.reg = .EQ_OVF → held acc t → held acc (t.fset f v p.val) := by
        intro t f v e n
        exact held_congr n (regWord_fset_other _ _ _ _ _ _ _ _ (by rw [e]; exact hp p))
      apply held_raiseCore
      · apply np2 _ _ _ rfl
        split
        · exact np1
        · exact np2 _ _ _ rfl (np2 _ _ _ rfl np1)
      · decide
      · apply h2 _ _ _ rfl
        split
        · exact h1
        · exact h2 _ _ _ rfl (h2 _ _ _ rfl h1)
    · exact h1
  · exact h1

theorem raise_access (n : Nat) (mid : Mid) (acc : Nat) (addr : Word) (s : State) (hacc : acc < 8) (np : noPromotion s) (c : faultClass n = 1)
   (v : s.flag F.FLT_FIRST_INFO_VALID = false) : (raiseFaultBy n mid acc addr s).fget F.FLT_FIRST_INFO_ACCESS = acc := by
  have ac : ∀ u : State, noPromotion u → u.actingClass n = 1 := fun u h => by rw [actingClass_plain h, c]
  have core : held acc (raiseCore n mid acc addr s) := by
    unfold raiseCore
    dsimp only
    generalize hx : ({ (s.fset F.FLT_STATUS_SRC _) with flt := _ } : State) = x
    have np' : noPromotion x := by
      subst hx
      unfold noPromotion
      exact (fget_fset_other _ _ _ _ _ _ _ _ (by decide)).trans np
    have v' : x.flag F.FLT_FIRST_INFO_VALID = false := by
      subst hx
      rw [← v]
      unfold State.flag
      exact congrArg (· != 0) (fget_fset_other _ _ _ _ _ _ _ _ (by decide))
    rw [ac x np', if_neg (by decide)]
    unfold firstError
    rw [if_neg (by simp [State.recordable, ac x np']), if_neg (by rw [v']; decide)]
    dsimp only
    generalize hw : packFields _ = w
    have key : (((x.setWord RegId.FLT_FIRST_INFO w 0 0).setWord RegId.FLT_FIRST_ADDR addr 0 0).setWord RegId.FLT_FIRST_TIME x.tim.now 0 0).regWord .FLT_FIRST_INFO 0 0 = w := by
      rw [regWord_setWord_other _ _ _ _ _ _ _ _ (by decide), regWord_setWord_other _ _ _ _ _ _ _ _ (by decide), regWord_setWord]
    unfold held State.flag State.fget
    refine ⟨?_, ?_⟩
    · show (fieldOf (State.regWord _ .FLT_FIRST_INFO 0 0) 0 0 != 0) = true
      rw [key, ← hw]
      simp (disch := decide) only [packFields, List.foldl_cons, List.foldl_nil, fieldOf_putField, fieldOf_putField_below, fieldOf_putField_above]
      rfl
    · show fieldOf (State.regWord _ .FLT_FIRST_INFO 0 0) 26 24 = acc
      rw [key, ← hw]
      simp (disch := decide) only [packFields, List.foldl_cons, List.foldl_nil, fieldOf_putField, fieldOf_putField_below, fieldOf_putField_above]
      exact Nat.mod_eq_of_lt hacc
  have np1 := reportOnly_noPromotion (raiseCore_report n mid acc addr s np (by rw [c]; decide)) np
  unfold raiseFaultBy
  dsimp only
  generalize raiseCore n mid acc addr s = u at core np1
  split
  · unfold asyncChip
    have : allHosts = [0, 1] := by decide
    rw [this]
    simp only [List.foldl_cons, List.foldl_nil]
    exact (held_asyncPost 1 _ _ _ (reportOnly_noPromotion (asyncPost_report _ _ _ _ _ np1) np1) (held_asyncPost 0 _ _ _ np1 core)).2
  · exact core.2

theorem bw : ∀ (s : State) mid (off : Offset) v, exec (.registerWrite mid off v) s = .next (writeForm mid off.toNat v s) := fun _ _ _ _ => rfl

theorem br (s : State) : ∀ (mid : Mid) (off : Offset), offsetAnswers s off.toNat = true → exec (.registerReadClear mid off 8) s =
      .next ((busRead mid off.toNat s).1.emit (.regRead mid off (busRead mid off.toNat s).2)) := by
    intro mid off a
    show Host.Outcome.next (readForm mid off.toNat 8 s) = _
    refine congrArg _ ?_
    have al : off.toNat % 8 = 0 := by
      unfold offsetAnswers at a
      simp only [Bool.and_eq_true, beq_iff_eq] at a
      exact a.1
    have hb : busRead mid off.toNat s = match msixHere s off.toNat with
        | some (h, table, x) => (s, msixRead s h table x)
        | none => readReg mid off.toNat s := by
      unfold busRead
      rw [if_neg (by rw [a]; decide)]
      unfold msixHere
      unfold offsetAnswers at a
      rcases e : msixAt off.toNat with _ | ⟨h, t, x⟩
      · rfl
      · rw [e] at a
        simp only [Bool.and_eq_true] at a
        simp only [Option.filter_some, a.2, if_true]
    rw [hb]
    unfold readForm
    rcases e : msixHere s off.toNat with _ | ⟨h, t, x⟩
    · dsimp only
      have c : 8 = 8 ∧ off.toNat % 8 = 0 := ⟨rfl, al⟩
      rw [if_pos c]
      unfold readOut
      simp only [BitVec.ofNat_toNat, BitVec.setWidth_eq]
    · dsimp only
      have hx : x % 8 = 0 := by
        have e := (Option.filter_eq_some_iff.mp e).1
        unfold msixAt at e
        dsimp only at e
        split at e
        · cases e
        · split at e
          · cases e; omega
          · split at e
            · cases e; omega
            · cases e
      have : BitVec.ofNat 64 ((msixRead s h t x).toNat / 2 ^ (8 * (x % 8)) % 2 ^ (8 * 8)) = msixRead s h t x := by
        rw [hx]
        apply BitVec.eq_of_toNat_eq
        have := (msixRead s h t x).isLt
        simp
        omega
      rw [this]
      simp only [BitVec.ofNat_toNat, BitVec.setWidth_eq]

end Sys2Proof.Laws
end

