-- ==== Sys2Proof/Laws/Resets.lean ====
section
/-! SUPPORT. What the reset kinds clear and restore. -/

set_option linter.unusedSimpArgs false

namespace Sys2Proof.Laws

open Sys2Proof.Machine

theorem tblGet_aon (k : Nat) (t : Tbl Word) (h : k < 0x50000) : tblGet k (t.filter (fun e => aonAddr e.1)) = tblGet k t := tblGet_filter_low k t h

theorem tblGet_core (k : Nat) (t : Tbl Word) (h : 0x50000 ≤ k) : tblGet k (t.filter (fun e => aonAddr e.1)) = none := by
  induction t with
  | nil => rfl
  | cons e t ih =>
    rw [List.filter_cons]
    split
    · rename_i c
      simp only [tblGet]
      rw [if_neg, ih]
      unfold aonAddr at c
      simp only [decide_eq_true_eq] at c
      omega
    · exact ih

end Sys2Proof.Laws
end

