-- ==== Sys2Proof/Laws/Steps.lean ====
section
/-! SUPPORT. What every command leaves of the state at rest and of the memories. -/

set_option linter.unusedSimpArgs false

namespace Sys2Proof.Laws

open Sys2Proof.Machine

theorem wr_still {mid : Mid} {off : Nat} {v : Word} {s : State} {r : RegId} {i k : Nat} (e : regAt off = some (r, i, k))
    (h : (writeAt mid off r i k v s).still = s.still) : (writeReg mid off v s).still = s.still := by
  simp only [writeReg, regHere, e]
  split
  · rename_i x y z w; split at w
    · cases w; exact h
    · cases w
  · rfl

theorem mem_of_still {s t : State} (h : t.still = s.still) (hs : s.memoriesOk = true) : t.memoriesOk = true :=
  memoriesOk_trans (kept_of_still h) hs

theorem rd_dbg (mid : Mid) (s : State) : (readOut mid (regAddr .DBG_MEM_DATA 0 0) s).still = s.still := by
  unfold readOut
  simp only [emit_still]
  simp only [readReg, regHere, regAt_dbg_mem]
  split
  · rename_i x y z w; split at w
    · cases w; exact dbgRead_still _ _
    · cases w
  · rfl

theorem ex_mem (c : Instr) (s : State) (hm : s.memoriesOk = true) : ∃ t, exec c s = .next t ∧ t.memoriesOk = true := by
  cases c with
  | registerWrite mid off v => refine ⟨_, rfl, ?_⟩; apply writeForm_memoriesOk; exact hm
  | registerWrite32bit mid off bytes => refine ⟨_, rfl, ?_⟩; refine mem_of_still ?_ hm; simp only [partialWrite_still]
  | registerReadClear mid off len => refine ⟨_, rfl, ?_⟩; apply readForm_memoriesOk; exact hm
  | progWrite mid v => refine ⟨_, rfl, ?_⟩; exact writeReg_memoriesOk _ _ _ _ hm
  | progRead mid v => refine ⟨_, rfl, ?_⟩; exact writeReg_memoriesOk _ _ _ _ hm
  | progPulseDone => refine ⟨_, rfl, ?_⟩; apply pulseDone_memoriesOk; exact hm
  | calUnlock mid v => refine ⟨_, rfl, ?_⟩; exact writeReg_memoriesOk _ _ _ _ hm
  | go mid v => refine ⟨_, rfl, ?_⟩; exact writeReg_memoriesOk _ _ _ _ hm
  | activateCheckDone img => refine ⟨_, rfl, ?_⟩; exact memoriesOk_trans (by simp only [activateDone_kept]) hm
  | confirm mid v => refine ⟨_, rfl, ?_⟩; exact writeReg_memoriesOk _ _ _ _ hm
  | imageLoadStart => refine ⟨_, rfl, ?_⟩; exact memoriesOk_trans (by simp only [loadStart_kept]) hm
  | imageHeaderCheck => refine ⟨_, rfl, ?_⟩; exact memoriesOk_trans (by simp only [loadHeader_kept]) hm
  | imageStreamDone img => refine ⟨_, rfl, ?_⟩; exact memoriesOk_trans (by simp only [loadStreamed_kept]) hm
  | imageCommit => refine ⟨_, rfl, ?_⟩; apply commitImage_memoriesOk; exact hm
  | partnerClockCheck p khz => refine ⟨_, rfl, ?_⟩; refine mem_of_still ?_ hm; simp only [clockCheck_still]
  | trainingComplete p res => refine ⟨_, rfl, ?_⟩; refine mem_of_still ?_ hm; simp only [trainStep_still]
  | trainingFail p cause => refine ⟨_, rfl, ?_⟩; refine mem_of_still ?_ hm; simp only [trainFail_still]
  | retryIdleExpiry p => refine ⟨_, rfl, ?_⟩; refine mem_of_still ?_ hm; simp only [retryEnds_still]
  | modulePresenceChange g absent => refine ⟨_, rfl, ?_⟩; exact memoriesOk_trans (by simp only [presenceChange_kept]) hm
  | widthChange p => refine ⟨_, rfl, ?_⟩; refine mem_of_still ?_ hm; simp only [widthBoundary_still]
  | wchReceived p votes => refine ⟨_, rfl, ?_⟩; refine mem_of_still ?_ hm; simp only [wchIn_still]
  | laneSleep p => refine ⟨_, rfl, ?_⟩; refine mem_of_still ?_ hm; simp only [sleepDue_still]
  | slpReceived p => refine ⟨_, rfl, ?_⟩; refine mem_of_still ?_ hm; simp only [slpIn_still]
  | wakeRequest p => refine ⟨_, rfl, ?_⟩; refine mem_of_still ?_ hm; simp only [wakeAsked_still]
  | wakReceived p count => refine ⟨_, rfl, ?_⟩; refine mem_of_still ?_ hm; simp only [wakIn_still]
  | lcLoss p => refine ⟨_, rfl, ?_⟩; refine mem_of_still ?_ hm; simp only [lcLost_still]
  | lveReceived p reason => refine ⟨_, rfl, ?_⟩; refine mem_of_still ?_ hm; simp only [lveIn_still]
  | tsWhileUp p => refine ⟨_, rfl, ?_⟩; refine mem_of_still ?_ hm; simp only [tsIn_still]
  | retrain mid p v => refine ⟨_, rfl, ?_⟩; exact writeReg_memoriesOk _ _ _ _ hm
  | prbsSync x => refine ⟨_, rfl, ?_⟩; refine mem_of_still ?_ hm; simp only [prbsSyncIn_still]
  | frameReceived p turned cols tail => refine ⟨_, rfl, ?_⟩; refine mem_of_still ?_ hm; simp only [frameColsIn_still]
  | nakRepeat p fseq => refine ⟨_, rfl, ?_⟩; refine mem_of_still ?_ hm; simp only [nakAgain_still]
  | abtReceived p => refine ⟨_, rfl, ?_⟩; refine mem_of_still ?_ hm; simp only [abtIn_still]
  | cutThroughClose p ok => refine ⟨_, rfl, ?_⟩; refine mem_of_still ?_ hm; simp only [closeArriving_still]
  | ackSetReceived p set => refine ⟨_, rfl, ?_⟩; refine mem_of_still ?_ hm; simp only [crReceived_still]
  | nakSetReceived p set => refine ⟨_, rfl, ?_⟩; refine mem_of_still ?_ hm; simp only [wakeToResend_still, crReceived_still]
  | creditSetReceived p set => refine ⟨_, rfl, ?_⟩; refine mem_of_still ?_ hm; simp only [crReceived_still]
  | replayTimeout p => refine ⟨_, rfl, ?_⟩; refine mem_of_still ?_ hm; simp only [replayLate_still]
  | creditRefresh p => refine ⟨_, rfl, ?_⟩; refine mem_of_still ?_ hm; simp only [refreshDue_still]
  | errorWindowExpiry p => refine ⟨_, rfl, ?_⟩; refine mem_of_still ?_ hm; simp only [windowEnds_still]
  | errorWindowLimit p => refine ⟨_, rfl, ?_⟩; refine mem_of_still ?_ hm; simp only [windowLimit_still]
  | initFrameSend p => refine ⟨_, rfl, ?_⟩; refine mem_of_still ?_ hm; simp only [initSend_still]
  | initFrameReceived p frame => refine ⟨_, rfl, ?_⟩; refine mem_of_still ?_ hm; simp only [frameColsIn_still]
  | initTimeout p => refine ⟨_, rfl, ?_⟩; refine mem_of_still ?_ hm; simp only [initLate_still]
  | admissionCheck p => refine ⟨_, rfl, ?_⟩; refine mem_of_still ?_ hm; simp only [admissionDue_still]
  | readmit mid p v => refine ⟨_, rfl, ?_⟩; exact writeReg_memoriesOk _ _ _ _ hm
  | allocatorCycle => refine ⟨_, rfl, ?_⟩; exact mem_of_still (engineSlots_still _) (agentCycle_memoriesOk _ (mem_of_still (coreCycle_still _) hm))
  | dwellDiscard x => refine ⟨_, rfl, ?_⟩; refine mem_of_still ?_ hm; simp only [dwellEvent_still]
  | ageDiscard x => refine ⟨_, rfl, ?_⟩; refine mem_of_still ?_ hm; simp only [ageEvent_still]
  | ejectWaitBounce ip => refine ⟨_, rfl, ?_⟩; refine mem_of_still ?_ hm; simp only [bounce_still]
  | tableWrite mid v => refine ⟨_, rfl, ?_⟩; exact writeReg_memoriesOk _ _ _ _ hm
  | tableRead mid v => refine ⟨_, rfl, ?_⟩; exact writeReg_memoriesOk _ _ _ _ hm
  | tableWriteDone => refine ⟨_, rfl, ?_⟩; refine mem_of_still ?_ hm; simp only [tableDone_still]
  | epochSet mid v => refine ⟨_, rfl, ?_⟩; exact writeReg_memoriesOk _ _ _ _ hm
  | copy mid v => refine ⟨_, rfl, ?_⟩; exact writeReg_memoriesOk _ _ _ _ hm
  | copyDone => refine ⟨_, rfl, ?_⟩; refine mem_of_still ?_ hm; simp only [copyEnd_still]
  | indexDoorbell h wq v => refine ⟨_, rfl, ?_⟩; refine mem_of_still ?_ hm; simp only [bell_still]
  | inlineDoorbell h wq desc => refine ⟨_, rfl, ?_⟩; refine mem_of_still ?_ hm; simp only [inlineWrite_still]
  | dbBad h off size => refine ⟨_, rfl, ?_⟩; refine mem_of_still ?_ hm; simp only [badBell_still]
  | adminEnable mid h v => refine ⟨_, rfl, ?_⟩; exact writeReg_memoriesOk _ _ _ _ hm
  | adminDoorbell mid h v => refine ⟨_, rfl, ?_⟩; exact writeReg_memoriesOk _ _ _ _ hm
  | adminCommandReadDone h data => refine ⟨_, rfl, ?_⟩; refine mem_of_still ?_ hm; simp only [tagFreed_still, admRead_still]
  | createWq h => refine ⟨_, rfl, ?_⟩; refine mem_of_still ?_ hm; simp only [admCreateWq_still]
  | destroyWq h => refine ⟨_, rfl, ?_⟩; refine mem_of_still ?_ hm; simp only [admDestroyWq_still]
  | destroyWqDone h wq => refine ⟨_, rfl, ?_⟩; refine mem_of_still ?_ hm; simp only [admDestroyWqDone_still]
  | createEq h => refine ⟨_, rfl, ?_⟩; refine mem_of_still ?_ hm; simp only [admCreateEq_still]
  | destroyEq h => refine ⟨_, rfl, ?_⟩; refine mem_of_still ?_ hm; simp only [admDestroyEq_still]
  | createPd h => refine ⟨_, rfl, ?_⟩; refine mem_of_still ?_ hm; simp only [admCreatePd_still]
  | destroyPd h => refine ⟨_, rfl, ?_⟩; refine mem_of_still ?_ hm; simp only [admDestroyPd_still]
  | createEp h => refine ⟨_, rfl, ?_⟩; refine mem_of_still ?_ hm; simp only [admCreateEp_still]
  | destroyEp h => refine ⟨_, rfl, ?_⟩; refine mem_of_still ?_ hm; simp only [admDestroyEp_still]
  | destroyEpDone h ep => refine ⟨_, rfl, ?_⟩; refine mem_of_still ?_ hm; simp only [roomAgain_still, admDestroyEpDone_still]
  | openWindow h => refine ⟨_, rfl, ?_⟩; refine mem_of_still ?_ hm; simp only [admOpenWindow_still]
  | revokeWindow h => refine ⟨_, rfl, ?_⟩; refine mem_of_still ?_ hm; simp only [admRevokeWindow_still]
  | revokeDone h win => refine ⟨_, rfl, ?_⟩; refine mem_of_still ?_ hm; simp only [admRevokeDone_still]
  | invalidate h => refine ⟨_, rfl, ?_⟩; refine mem_of_still ?_ hm; simp only [admInvalidate_still]
  | xltInvGo mid h v => refine ⟨_, rfl, ?_⟩; exact writeReg_memoriesOk _ _ _ _ hm
  | invalidateDone h path => refine ⟨_, rfl, ?_⟩; refine mem_of_still ?_ hm; simp only [invalidationEnds_still]
  | setShaper h => refine ⟨_, rfl, ?_⟩; refine mem_of_still ?_ hm; simp only [admSetShaper_still]
  | armGroup h => refine ⟨_, rfl, ?_⟩; refine mem_of_still ?_ hm; simp only [admArmGroup_still]
  | treeDescriptorReadDone h data => refine ⟨_, rfl, ?_⟩; refine mem_of_still ?_ hm; simp only [tagFreed_still, admTreeDone_still]
  | disarmGroup h => refine ⟨_, rfl, ?_⟩; refine mem_of_still ?_ hm; simp only [admDisarmGroup_still]
  | disarmDone group => refine ⟨_, rfl, ?_⟩; refine mem_of_still ?_ hm; simp only [admDisarmDone_still]
  | adminNop h => refine ⟨_, rfl, ?_⟩; refine mem_of_still ?_ hm; simp only [admNopCmd_still]
  | descriptorFetch h wq => refine ⟨_, rfl, ?_⟩; refine mem_of_still ?_ hm; simp only [fetchDescs_still]
  | descriptorFetchDone h wq data => refine ⟨_, rfl, ?_⟩; refine mem_of_still ?_ hm; simp only [tagFreed_still, descsDone_still]
  | phaseReread h wq => refine ⟨_, rfl, ?_⟩; refine mem_of_still ?_ hm; simp only [rereadDesc_still]
  | operationStart h wq => refine ⟨_, rfl, ?_⟩; refine mem_of_still ?_ hm; simp only [startOp_still]
  | putDescriptor h wq idx => refine ⟨_, rfl, ?_⟩; refine mem_of_still ?_ hm; simp only [roomAgain_still, beginOf_still]
  | putDurableDescriptor h wq idx => refine ⟨_, rfl, ?_⟩; refine mem_of_still ?_ hm; simp only [roomAgain_still, beginOf_still]
  | get h wq idx => refine ⟨_, rfl, ?_⟩; refine mem_of_still ?_ hm; simp only [roomAgain_still, beginOf_still]
  | atomicDescriptor h wq idx => refine ⟨_, rfl, ?_⟩; refine mem_of_still ?_ hm; simp only [roomAgain_still, beginOf_still]
  | atomicFetchDescriptor h wq idx => refine ⟨_, rfl, ?_⟩; refine mem_of_still ?_ hm; simp only [roomAgain_still, beginOf_still]
  | send h wq idx => refine ⟨_, rfl, ?_⟩; refine mem_of_still ?_ hm; simp only [roomAgain_still, beginOf_still]
  | recv h wq idx => refine ⟨_, rfl, ?_⟩; refine mem_of_still ?_ hm; simp only [recvBegin_still]
  | vpWrite h wq idx => refine ⟨_, rfl, ?_⟩; refine mem_of_still ?_ hm; simp only [roomAgain_still, beginOf_still]
  | collective h wq idx => refine ⟨_, rfl, ?_⟩; refine mem_of_still ?_ hm; simp only [roomAgain_still, collectiveBegin_still]
  | nopDescriptor h wq idx => refine ⟨_, rfl, ?_⟩; refine mem_of_still ?_ hm; simp only [roomAgain_still, beginOf_still]
  | localReadDone h tag data => refine ⟨_, rfl, ?_⟩; refine mem_of_still ?_ hm; simp only [localReadEnd_still]
  | headIndexWrite h wq => refine ⟨_, rfl, ?_⟩; refine mem_of_still ?_ hm; simp only [writeHead_still]
  | hostRequestTimeout h tag => refine ⟨_, rfl, ?_⟩; refine mem_of_still ?_ hm; simp only [reqTimeout_still]
  | functionLevelReset h => refine ⟨_, rfl, ?_⟩; (split; exact memoriesOk_trans (funcStart_kept _ _) hm; exact hm)
  | perstAssert h => refine ⟨_, rfl, ?_⟩; exact memoriesOk_trans (by simp only [perstOn_kept]) hm
  | perstRelease h => refine ⟨_, rfl, ?_⟩; refine mem_of_still ?_ hm; simp only [perstOff_still]
  | functionResetDone h => refine ⟨_, rfl, ?_⟩; refine mem_of_still ?_ hm; simp only [roomAgain_still, funcDone_still]
  | hostLinkDown h => refine ⟨_, rfl, ?_⟩; refine mem_of_still ?_ hm; simp only [hostDown_still]
  | eqCiUpdate mid h eq v => refine ⟨_, rfl, ?_⟩; exact writeReg_memoriesOk _ _ _ _ hm
  | eqArm mid h eq v => refine ⟨_, rfl, ?_⟩; exact writeReg_memoriesOk _ _ _ _ hm
  | eventWrite h eq => refine ⟨_, rfl, ?_⟩; refine mem_of_still ?_ hm; simp only [slotsFreed_still, eventWrite_still]
  | stashDrain h eq => refine ⟨_, rfl, ?_⟩; refine mem_of_still ?_ hm; simp only [slotsFreed_still, stashDrainN_still]
  | asyncPendingWrite h => refine ⟨_, rfl, ?_⟩; refine mem_of_still ?_ hm; simp only [asyncWrite_still]
  | walkReadDone h tag data => refine ⟨_, rfl, ?_⟩; refine mem_of_still ?_ hm; simp only [tagFreed_still, walkDoneIn_still]
  | pageRequestResponse h tag ok => refine ⟨_, rfl, ?_⟩; refine mem_of_still ?_ hm; simp only [pageAnswer_still]
  | pageRequestTimeout h tag => refine ⟨_, rfl, ?_⟩; refine mem_of_still ?_ hm; simp only [pageFail_still]
  | failHoldExpiry h tag => refine ⟨_, rfl, ?_⟩; refine mem_of_still ?_ hm; simp only [failHoldEnds_still]
  | fetchDone h tag ok => refine ⟨_, rfl, ?_⟩; refine mem_of_still ?_ hm; simp only [tagFreed_still, fetchDoneIn_still]
  | pairReset mid h v => refine ⟨_, rfl, ?_⟩; exact writeReg_memoriesOk _ _ _ _ hm
  | pairResetDone h => refine ⟨_, rfl, ?_⟩; refine mem_of_still ?_ hm; simp only [portGoesOn_still, pairResetEnd_still]
  | pairQuietExpiry h ep peer => refine ⟨_, rfl, ?_⟩; refine mem_of_still ?_ hm; simp only [quietOver_still]
  | putShort ip => refine ⟨_, rfl, ?_⟩; refine mem_of_still ?_ hm; simp only [arrive_still]
  | put ip => refine ⟨_, rfl, ?_⟩; refine mem_of_still ?_ hm; simp only [arrive_still]
  | putShortDurable ip => refine ⟨_, rfl, ?_⟩; refine mem_of_still ?_ hm; simp only [arrive_still]
  | putDurable ip => refine ⟨_, rfl, ?_⟩; refine mem_of_still ?_ hm; simp only [arrive_still]
  | getReq ip => refine ⟨_, rfl, ?_⟩; refine mem_of_still ?_ hm; simp only [arrive_still]
  | atomic ip => refine ⟨_, rfl, ?_⟩; refine mem_of_still ?_ hm; simp only [arrive_still]
  | atomicFetch ip => refine ⟨_, rfl, ?_⟩; refine mem_of_still ?_ hm; simp only [arrive_still]
  | vpDirectWrite ip => refine ⟨_, rfl, ?_⟩; refine mem_of_still ?_ hm; simp only [arrive_still]
  | msgShort ip => refine ⟨_, rfl, ?_⟩; refine mem_of_still ?_ hm; simp only [arrive_still]
  | msgEager ip => refine ⟨_, rfl, ?_⟩; refine mem_of_still ?_ hm; simp only [arrive_still]
  | rndvReq ip => refine ⟨_, rfl, ?_⟩; refine mem_of_still ?_ hm; simp only [arrive_still]
  | nop ip => refine ⟨_, rfl, ?_⟩; refine mem_of_still ?_ hm; simp only [arrive_still]
  | ack ip => refine ⟨_, rfl, ?_⟩; refine mem_of_still ?_ hm; simp only [arrive_still]
  | nack ip => refine ⟨_, rfl, ?_⟩; refine mem_of_still ?_ hm; simp only [nackArrive_still]
  | getResp ip => refine ⟨_, rfl, ?_⟩; refine mem_of_still ?_ hm; simp only [arrive_still]
  | atomicResp ip => refine ⟨_, rfl, ?_⟩; refine mem_of_still ?_ hm; simp only [arrive_still]
  | ackCoalesceTimeout h ep peer => refine ⟨_, rfl, ?_⟩; refine mem_of_still ?_ hm; simp only [coalesced_still]
  | e2eTimeout h ep peer pseq => refine ⟨_, rfl, ?_⟩; refine mem_of_still ?_ hm; simp only [portGoesOn_still, e2eTimeoutIn_still]
  | refusalRetry h ep peer pseq => refine ⟨_, rfl, ?_⟩; refine mem_of_still ?_ hm; simp only [portGoesOn_still, refusalRetryIn_still]
  | getReadDone h tag data => refine ⟨_, rfl, ?_⟩; refine mem_of_still ?_ hm; simp only [getReadEnd_still]
  | atomicReadDone h tag data => refine ⟨_, rfl, ?_⟩; refine mem_of_still ?_ hm; simp only [atomicReadEnd_still]
  | flushDone h tag ok => refine ⟨_, rfl, ?_⟩; refine mem_of_still ?_ hm; simp only [flushReadEnd_still]
  | matchRecordReadDone h tag ok => refine ⟨_, rfl, ?_⟩; refine mem_of_still ?_ hm; simp only [recordReadEnd_still]
  | kennelBlockReadDone h tag ok => refine ⟨_, rfl, ?_⟩; refine mem_of_still ?_ hm; simp only [blockReadEnd_still]
  | dataSlotReadDone h tag data => refine ⟨_, rfl, ?_⟩; refine mem_of_still ?_ hm; simp only [slotReadEnd_still]
  | autoGetStart h => refine ⟨_, rfl, ?_⟩; refine mem_of_still ?_ hm; simp only [roomAgain_still, autoStart_still]
  | col ip => refine ⟨_, rfl, ?_⟩; refine mem_of_still ?_ hm; simp only [colArrive_still]
  | colData ip => refine ⟨_, rfl, ?_⟩; refine mem_of_still ?_ hm; simp only [colArrive_still]
  | colRetransmit group slot edge => refine ⟨_, rfl, ?_⟩; refine mem_of_still ?_ hm; simp only [roomAgain_still, colRetry_still]
  | armWaitExpiry group edge => refine ⟨_, rfl, ?_⟩; refine mem_of_still ?_ hm; simp only [roomAgain_still, armWaitOver_still]
  | leashRefill h => refine ⟨_, rfl, ?_⟩; refine mem_of_still ?_ hm; simp only [leashTick_still]
  | sampleTick h => refine ⟨_, rfl, ?_⟩; refine mem_of_still ?_ hm; simp only [sampleAll_still]
  | ccPairQuery mid h v => refine ⟨_, rfl, ?_⟩; exact writeReg_memoriesOk _ _ _ _ hm
  | ccPairQueryDone h => refine ⟨_, rfl, ?_⟩; refine mem_of_still ?_ hm; simp only [ccQueryEnd_still]
  | pllRelease pll locked => refine ⟨_, rfl, ?_⟩; exact memoriesOk_trans (by simp only [pllReleased_kept]) hm
  | refclkLoss => refine ⟨_, rfl, ?_⟩; exact memoriesOk_trans (by simp only [refclkLost_kept]) hm
  | texSend p => refine ⟨_, rfl, ?_⟩; exact memoriesOk_trans (by simp only [texSendGo_kept]) hm
  | texReceived p set => refine ⟨_, rfl, ?_⟩; exact memoriesOk_trans (by simp only [texIn_kept]) hm
  | timSet mid v => refine ⟨_, rfl, ?_⟩; exact writeReg_memoriesOk _ _ _ _ hm
  | slow32Tick => refine ⟨_, rfl, ?_⟩; exact memoriesOk_trans (by simp only [slowTick_kept]) hm
  | vddAonLow => refine ⟨_, rfl, ?_⟩; apply holdP_memoriesOk; exact hm
  | vddAonRise => refine ⟨_, rfl, ?_⟩; refine mem_of_still ?_ hm; rfl
  | pResetRelease => refine ⟨_, rfl, ?_⟩; exact memoriesOk_trans (by simp only [releaseP_kept]) hm
  | supplyCoreLow => refine ⟨_, rfl, ?_⟩; refine mem_of_still ?_ hm; simp only [supplyLow_still]
  | pwrgdFall => refine ⟨_, rfl, ?_⟩; exact memoriesOk_trans (by simp only [pwrgdOff_kept]) hm
  | pwrgdRise => refine ⟨_, rfl, ?_⟩; exact memoriesOk_trans (by simp only [pwrgdOn_kept]) hm
  | powerFail => refine ⟨_, rfl, ?_⟩; refine mem_of_still ?_ hm; simp only [pfwOn_still]
  | pfwDeassert => refine ⟨_, rfl, ?_⟩; refine mem_of_still ?_ hm; simp only [pfwOff_still]
  | saveWindowExpiry => refine ⟨_, rfl, ?_⟩; exact memoriesOk_trans (by simp only [saveExpiry_kept]) hm
  | tempSample t => refine ⟨_, rfl, ?_⟩; refine mem_of_still ?_ hm; simp only [tempSampled_still]
  | requestActive mid v => refine ⟨_, rfl, ?_⟩; exact writeReg_memoriesOk _ _ _ _ hm
  | requestDoze mid v => refine ⟨_, rfl, ?_⟩; exact writeReg_memoriesOk _ _ _ _ hm
  | requestStandby mid v => refine ⟨_, rfl, ?_⟩; exact writeReg_memoriesOk _ _ _ _ hm
  | requestSleep mid v => refine ⟨_, rfl, ?_⟩; exact writeReg_memoriesOk _ _ _ _ hm
  | powerEntryDone => refine ⟨_, rfl, ?_⟩; exact memoriesOk_trans (by simp only [entryDone_kept]) hm
  | autoDoze => refine ⟨_, rfl, ?_⟩; refine mem_of_still ?_ hm; simp only [autoDozeGo_still]
  | nicReady => refine ⟨_, rfl, ?_⟩; refine mem_of_still ?_ hm; simp only [nicReadyGo_still]
  | wakeN => refine ⟨_, rfl, ?_⟩; refine mem_of_still ?_ hm; simp only [wakeEvent_still]
  | aonTimer => refine ⟨_, rfl, ?_⟩; refine mem_of_still ?_ hm; simp only [timerDone_still]
  | whistle => refine ⟨_, rfl, ?_⟩; refine mem_of_still ?_ hm; simp only [whistleGo_still]
  | whistleIdle => refine ⟨_, rfl, ?_⟩; refine mem_of_still ?_ hm; simp only [whistleOff_still]
  | wakeExitDone => refine ⟨_, rfl, ?_⟩; apply exitDone_memoriesOk; exact hm
  | rsramDataAccess mid write => refine ⟨_, rfl, ?_⟩; (cases write; exact readOut_memoriesOk _ _ _ hm; exact writeReg_memoriesOk _ _ _ _ hm)
  | resetNAssert => refine ⟨_, rfl, ?_⟩; exact memoriesOk_trans (by simp only [resetPin_kept]) hm
  | resetNRelease => refine ⟨_, rfl, ?_⟩; exact hm
  | rstCmdC mid v => refine ⟨_, rfl, ?_⟩; exact writeReg_memoriesOk _ _ _ _ hm
  | rstCmdT mid v => refine ⟨_, rfl, ?_⟩; exact writeReg_memoriesOk _ _ _ _ hm
  | rstCmdF mid v => refine ⟨_, rfl, ?_⟩; exact writeReg_memoriesOk _ _ _ _ hm
  | rstCmdL mid v => refine ⟨_, rfl, ?_⟩; exact writeReg_memoriesOk _ _ _ _ hm
  | resetTakeHold => refine ⟨_, rfl, ?_⟩; apply takeHold_memoriesOk; exact hm
  | cResetRelease => refine ⟨_, rfl, ?_⟩; exact memoriesOk_trans (by simp only [releaseC_kept]) hm
  | sramClearDone => refine ⟨_, rfl, ?_⟩; exact memoriesOk_trans (by simp only [sramCleared_kept]) hm
  | sramTestDone ok => refine ⟨_, rfl, ?_⟩; exact memoriesOk_trans (by simp only [sramTested_kept]) hm
  | tResetRelease => refine ⟨_, rfl, ?_⟩; exact memoriesOk_trans (by simp only [releaseT_kept]) hm
  | lResetRelease p => refine ⟨_, rfl, ?_⟩; exact mem_of_still (by simp only [laneRestart_still]) hm
  | watchdogExpiry => refine ⟨_, rfl, ?_⟩; exact memoriesOk_trans (by simp only [wdogExpire_kept]) hm
  | kick mid v => refine ⟨_, rfl, ?_⟩; exact writeReg_memoriesOk _ _ _ _ hm
  | faultSourceRise src mid access addr tgt => refine ⟨_, rfl, ?_⟩; refine mem_of_still ?_ hm; simp only [lineRises_still]
  | escalation => refine ⟨_, rfl, ?_⟩; exact memoriesOk_trans (by simp only [escalate_kept]) hm
  | fltInject mid v => refine ⟨_, rfl, ?_⟩; exact writeReg_memoriesOk _ _ _ _ hm
  | alertResponse => refine ⟨_, rfl, ?_⟩; refine mem_of_still ?_ hm; simp only [alertAnswered_still]
  | lockAcquire mid k => refine ⟨_, rfl, ?_⟩; exact readOut_memoriesOk _ _ _ hm
  | release mid k v => refine ⟨_, rfl, ?_⟩; exact writeReg_memoriesOk _ _ _ _ hm
  | force mid k v => refine ⟨_, rfl, ?_⟩; exact writeReg_memoriesOk _ _ _ _ hm
  | bindStateWrite mid v => refine ⟨_, rfl, ?_⟩; exact writeReg_memoriesOk _ _ _ _ hm
  | bindingPortReset => refine ⟨_, rfl, ?_⟩; exact memoriesOk_trans (by simp only [bindPorts_kept]) hm
  | mgmtRead ip => refine ⟨_, rfl, ?_⟩; apply mgmtArrive_memoriesOk; exact hm
  | mgmtWrite ip => refine ⟨_, rfl, ?_⟩; apply mgmtArrive_memoriesOk; exact hm
  | extest => refine ⟨_, rfl, ?_⟩; exact memoriesOk_trans (by simp only [jtagLoad_kept]) hm
  | idcode => refine ⟨_, rfl, ?_⟩; exact memoriesOk_trans (by simp only [jtagLoad_kept]) hm
  | samplePreload => refine ⟨_, rfl, ?_⟩; exact memoriesOk_trans (by simp only [jtagSample_kept]) hm
  | clamp => refine ⟨_, rfl, ?_⟩; exact memoriesOk_trans (by simp only [jtagLoad_kept]) hm
  | highz => refine ⟨_, rfl, ?_⟩; exact memoriesOk_trans (by simp only [jtagLoad_kept]) hm
  | regAccess dr => refine ⟨_, rfl, ?_⟩; apply jtagAccess_memoriesOk; exact hm
  | scan => refine ⟨_, rfl, ?_⟩; exact memoriesOk_trans (by simp only [jtagScan_kept]) hm
  | bypass => refine ⟨_, rfl, ?_⟩; exact memoriesOk_trans (by simp only [jtagLoad_kept]) hm
  | testLogicReset => refine ⟨_, rfl, ?_⟩; exact memoriesOk_trans (by simp only [jtagTlr_kept]) hm
  | debugLevelWrite mid v => refine ⟨_, rfl, ?_⟩; exact writeReg_memoriesOk _ _ _ _ hm
  | dbgMemRead mid => refine ⟨_, rfl, ?_⟩; exact readOut_memoriesOk _ _ _ hm
  | dbgMemWrite mid v => refine ⟨_, rfl, ?_⟩; exact writeReg_memoriesOk _ _ _ _ hm
  | dbgHalt mid v => refine ⟨_, rfl, ?_⟩; exact writeReg_memoriesOk _ _ _ _ hm
  | step mid v => refine ⟨_, rfl, ?_⟩; exact writeReg_memoriesOk _ _ _ _ hm
  | offset bytes => refine ⟨_, rfl, ?_⟩; (unfold smbRun; split; refine mem_of_still (whistleEnd_still _) ?_; exact memoriesOk_trans (by simp only [smbOffset_kept]) hm; exact hm)
  | smbWrite bytes => refine ⟨_, rfl, ?_⟩; (unfold smbRun; split; refine mem_of_still (whistleEnd_still _) ?_; apply smbWriteGo_memoriesOk; exact hm; exact hm)
  | smbRead => refine ⟨_, rfl, ?_⟩; (unfold smbRun; split; refine mem_of_still (whistleEnd_still _) ?_; apply smbReadGo_memoriesOk; exact hm; exact hm)
  | auto b => refine ⟨_, rfl, ?_⟩; (unfold smbRun; split; refine mem_of_still (whistleEnd_still _) ?_; exact memoriesOk_trans (by simp only [smbAuto_kept]) hm; exact hm)
  | last => refine ⟨_, rfl, ?_⟩; refine mem_of_still ?_ hm; show (smbRun smbLast s).still = _; unfold smbRun; split <;> simp only [whistleEnd_still, smbLast_still]
  | smbusTimeout => refine ⟨_, rfl, ?_⟩; exact memoriesOk_trans (by simp only [smbTimeout_kept]) hm
  | clear mid unit v => refine ⟨_, rfl, ?_⟩; exact writeReg_memoriesOk _ _ _ _ hm
  | snapshot mid v => refine ⟨_, rfl, ?_⟩; exact writeReg_memoriesOk _ _ _ _ hm
  | captureEnable mid v => refine ⟨_, rfl, ?_⟩; exact writeReg_memoriesOk _ _ _ _ hm
  | capCiWrite mid v => refine ⟨_, rfl, ?_⟩; exact writeReg_memoriesOk _ _ _ _ hm
  | telemetryFlush => refine ⟨_, rfl, ?_⟩; refine mem_of_still ?_ hm; simp only [telemetrySend_still]
  | telemetry ip => refine ⟨_, rfl, ?_⟩; refine mem_of_still ?_ hm; simp only [telemetryArrive_still]
  | codeErrorOutsideFrame p e => refine ⟨_, rfl, ?_⟩; refine mem_of_still ?_ hm; simp only [codeErrorIn_still]
  | errorFreeIdlSets p n => refine ⟨_, rfl, ?_⟩; refine mem_of_still ?_ hm; simp only [idlSetsIn_still]
  | prbsByteError p bytes => refine ⟨_, rfl, ?_⟩; refine mem_of_still ?_ hm; simp only [prbsColumn_still]
  | errorLineFall src => refine ⟨_, rfl, ?_⟩; refine mem_of_still ?_ hm; simp only [lineFalls_still]
  | leaveHold mid p v => refine ⟨_, rfl, ?_⟩; exact writeReg_memoriesOk _ _ _ _ hm
  | unlistedOpcode ip => refine ⟨_, rfl, ?_⟩; refine mem_of_still ?_ hm; simp only [arrive_still]
  | hostLinkTrained h width rate flit => refine ⟨_, rfl, ?_⟩; refine mem_of_still ?_ hm; simp only [hostTrained_still]
  | configurationRequest h req => refine ⟨_, rfl, ?_⟩; refine mem_of_still ?_ hm; simp only [configWrite_still]

theorem store_of_still {m : Memory} {s t : State} (h : t.still = s.still) (hs : s.cfg.store = m) : t.cfg.store = m :=
  store_trans (kept_of_still h) hs

theorem ex_store (c : Instr) (s : State) (h1 : c ≠ .progPulseDone) (h2 : c ≠ .vddAonLow) :
    ∃ t, exec c s = .next t ∧ t.cfg.store = s.cfg.store := by
  have hm : s.cfg.store = s.cfg.store := rfl
  cases c with
  | registerWrite mid off v => refine ⟨_, rfl, ?_⟩; apply writeForm_store; exact hm
  | registerWrite32bit mid off bytes => refine ⟨_, rfl, ?_⟩; refine store_of_still ?_ hm; simp only [partialWrite_still]
  | registerReadClear mid off len => refine ⟨_, rfl, ?_⟩; apply readForm_store; exact hm
  | progWrite mid v => refine ⟨_, rfl, ?_⟩; exact writeReg_store _ _ _ _ hm
  | progRead mid v => refine ⟨_, rfl, ?_⟩; exact writeReg_store _ _ _ _ hm
  | progPulseDone => exact absurd rfl h1
  | calUnlock mid v => refine ⟨_, rfl, ?_⟩; exact writeReg_store _ _ _ _ hm
  | go mid v => refine ⟨_, rfl, ?_⟩; exact writeReg_store _ _ _ _ hm
  | activateCheckDone img => refine ⟨_, rfl, ?_⟩; exact store_trans (by simp only [activateDone_kept]) hm
  | confirm mid v => refine ⟨_, rfl, ?_⟩; exact writeReg_store _ _ _ _ hm
  | imageLoadStart => refine ⟨_, rfl, ?_⟩; exact store_trans (by simp only [loadStart_kept]) hm
  | imageHeaderCheck => refine ⟨_, rfl, ?_⟩; exact store_trans (by simp only [loadHeader_kept]) hm
  | imageStreamDone img => refine ⟨_, rfl, ?_⟩; exact store_trans (by simp only [loadStreamed_kept]) hm
  | imageCommit => refine ⟨_, rfl, ?_⟩; apply commitImage_store; exact hm
  | partnerClockCheck p khz => refine ⟨_, rfl, ?_⟩; refine store_of_still ?_ hm; simp only [clockCheck_still]
  | trainingComplete p res => refine ⟨_, rfl, ?_⟩; refine store_of_still ?_ hm; simp only [trainStep_still]
  | trainingFail p cause => refine ⟨_, rfl, ?_⟩; refine store_of_still ?_ hm; simp only [trainFail_still]
  | retryIdleExpiry p => refine ⟨_, rfl, ?_⟩; refine store_of_still ?_ hm; simp only [retryEnds_still]
  | modulePresenceChange g absent => refine ⟨_, rfl, ?_⟩; exact store_trans (by simp only [presenceChange_kept]) hm
  | widthChange p => refine ⟨_, rfl, ?_⟩; refine store_of_still ?_ hm; simp only [widthBoundary_still]
  | wchReceived p votes => refine ⟨_, rfl, ?_⟩; refine store_of_still ?_ hm; simp only [wchIn_still]
  | laneSleep p => refine ⟨_, rfl, ?_⟩; refine store_of_still ?_ hm; simp only [sleepDue_still]
  | slpReceived p => refine ⟨_, rfl, ?_⟩; refine store_of_still ?_ hm; simp only [slpIn_still]
  | wakeRequest p => refine ⟨_, rfl, ?_⟩; refine store_of_still ?_ hm; simp only [wakeAsked_still]
  | wakReceived p count => refine ⟨_, rfl, ?_⟩; refine store_of_still ?_ hm; simp only [wakIn_still]
  | lcLoss p => refine ⟨_, rfl, ?_⟩; refine store_of_still ?_ hm; simp only [lcLost_still]
  | lveReceived p reason => refine ⟨_, rfl, ?_⟩; refine store_of_still ?_ hm; simp only [lveIn_still]
  | tsWhileUp p => refine ⟨_, rfl, ?_⟩; refine store_of_still ?_ hm; simp only [tsIn_still]
  | retrain mid p v => refine ⟨_, rfl, ?_⟩; exact writeReg_store _ _ _ _ hm
  | prbsSync x => refine ⟨_, rfl, ?_⟩; refine store_of_still ?_ hm; simp only [prbsSyncIn_still]
  | frameReceived p turned cols tail => refine ⟨_, rfl, ?_⟩; refine store_of_still ?_ hm; simp only [frameColsIn_still]
  | nakRepeat p fseq => refine ⟨_, rfl, ?_⟩; refine store_of_still ?_ hm; simp only [nakAgain_still]
  | abtReceived p => refine ⟨_, rfl, ?_⟩; refine store_of_still ?_ hm; simp only [abtIn_still]
  | cutThroughClose p ok => refine ⟨_, rfl, ?_⟩; refine store_of_still ?_ hm; simp only [closeArriving_still]
  | ackSetReceived p set => refine ⟨_, rfl, ?_⟩; refine store_of_still ?_ hm; simp only [crReceived_still]
  | nakSetReceived p set => refine ⟨_, rfl, ?_⟩; refine store_of_still ?_ hm; simp only [wakeToResend_still, crReceived_still]
  | creditSetReceived p set => refine ⟨_, rfl, ?_⟩; refine store_of_still ?_ hm; simp only [crReceived_still]
  | replayTimeout p => refine ⟨_, rfl, ?_⟩; refine store_of_still ?_ hm; simp only [replayLate_still]
  | creditRefresh p => refine ⟨_, rfl, ?_⟩; refine store_of_still ?_ hm; simp only [refreshDue_still]
  | errorWindowExpiry p => refine ⟨_, rfl, ?_⟩; refine store_of_still ?_ hm; simp only [windowEnds_still]
  | errorWindowLimit p => refine ⟨_, rfl, ?_⟩; refine store_of_still ?_ hm; simp only [windowLimit_still]
  | initFrameSend p => refine ⟨_, rfl, ?_⟩; refine store_of_still ?_ hm; simp only [initSend_still]
  | initFrameReceived p frame => refine ⟨_, rfl, ?_⟩; refine store_of_still ?_ hm; simp only [frameColsIn_still]
  | initTimeout p => refine ⟨_, rfl, ?_⟩; refine store_of_still ?_ hm; simp only [initLate_still]
  | admissionCheck p => refine ⟨_, rfl, ?_⟩; refine store_of_still ?_ hm; simp only [admissionDue_still]
  | readmit mid p v => refine ⟨_, rfl, ?_⟩; exact writeReg_store _ _ _ _ hm
  | allocatorCycle => refine ⟨_, rfl, ?_⟩; exact store_of_still (engineSlots_still _) (agentCycle_store _ (store_of_still (coreCycle_still _) hm))
  | dwellDiscard x => refine ⟨_, rfl, ?_⟩; refine store_of_still ?_ hm; simp only [dwellEvent_still]
  | ageDiscard x => refine ⟨_, rfl, ?_⟩; refine store_of_still ?_ hm; simp only [ageEvent_still]
  | ejectWaitBounce ip => refine ⟨_, rfl, ?_⟩; refine store_of_still ?_ hm; simp only [bounce_still]
  | tableWrite mid v => refine ⟨_, rfl, ?_⟩; exact writeReg_store _ _ _ _ hm
  | tableRead mid v => refine ⟨_, rfl, ?_⟩; exact writeReg_store _ _ _ _ hm
  | tableWriteDone => refine ⟨_, rfl, ?_⟩; refine store_of_still ?_ hm; simp only [tableDone_still]
  | epochSet mid v => refine ⟨_, rfl, ?_⟩; exact writeReg_store _ _ _ _ hm
  | copy mid v => refine ⟨_, rfl, ?_⟩; exact writeReg_store _ _ _ _ hm
  | copyDone => refine ⟨_, rfl, ?_⟩; refine store_of_still ?_ hm; simp only [copyEnd_still]
  | indexDoorbell h wq v => refine ⟨_, rfl, ?_⟩; refine store_of_still ?_ hm; simp only [bell_still]
  | inlineDoorbell h wq desc => refine ⟨_, rfl, ?_⟩; refine store_of_still ?_ hm; simp only [inlineWrite_still]
  | dbBad h off size => refine ⟨_, rfl, ?_⟩; refine store_of_still ?_ hm; simp only [badBell_still]
  | adminEnable mid h v => refine ⟨_, rfl, ?_⟩; exact writeReg_store _ _ _ _ hm
  | adminDoorbell mid h v => refine ⟨_, rfl, ?_⟩; exact writeReg_store _ _ _ _ hm
  | adminCommandReadDone h data => refine ⟨_, rfl, ?_⟩; refine store_of_still ?_ hm; simp only [tagFreed_still, admRead_still]
  | createWq h => refine ⟨_, rfl, ?_⟩; refine store_of_still ?_ hm; simp only [admCreateWq_still]
  | destroyWq h => refine ⟨_, rfl, ?_⟩; refine store_of_still ?_ hm; simp only [admDestroyWq_still]
  | destroyWqDone h wq => refine ⟨_, rfl, ?_⟩; refine store_of_still ?_ hm; simp only [admDestroyWqDone_still]
  | createEq h => refine ⟨_, rfl, ?_⟩; refine store_of_still ?_ hm; simp only [admCreateEq_still]
  | destroyEq h => refine ⟨_, rfl, ?_⟩; refine store_of_still ?_ hm; simp only [admDestroyEq_still]
  | createPd h => refine ⟨_, rfl, ?_⟩; refine store_of_still ?_ hm; simp only [admCreatePd_still]
  | destroyPd h => refine ⟨_, rfl, ?_⟩; refine store_of_still ?_ hm; simp only [admDestroyPd_still]
  | createEp h => refine ⟨_, rfl, ?_⟩; refine store_of_still ?_ hm; simp only [admCreateEp_still]
  | destroyEp h => refine ⟨_, rfl, ?_⟩; refine store_of_still ?_ hm; simp only [admDestroyEp_still]
  | destroyEpDone h ep => refine ⟨_, rfl, ?_⟩; refine store_of_still ?_ hm; simp only [roomAgain_still, admDestroyEpDone_still]
  | openWindow h => refine ⟨_, rfl, ?_⟩; refine store_of_still ?_ hm; simp only [admOpenWindow_still]
  | revokeWindow h => refine ⟨_, rfl, ?_⟩; refine store_of_still ?_ hm; simp only [admRevokeWindow_still]
  | revokeDone h win => refine ⟨_, rfl, ?_⟩; refine store_of_still ?_ hm; simp only [admRevokeDone_still]
  | invalidate h => refine ⟨_, rfl, ?_⟩; refine store_of_still ?_ hm; simp only [admInvalidate_still]
  | xltInvGo mid h v => refine ⟨_, rfl, ?_⟩; exact writeReg_store _ _ _ _ hm
  | invalidateDone h path => refine ⟨_, rfl, ?_⟩; refine store_of_still ?_ hm; simp only [invalidationEnds_still]
  | setShaper h => refine ⟨_, rfl, ?_⟩; refine store_of_still ?_ hm; simp only [admSetShaper_still]
  | armGroup h => refine ⟨_, rfl, ?_⟩; refine store_of_still ?_ hm; simp only [admArmGroup_still]
  | treeDescriptorReadDone h data => refine ⟨_, rfl, ?_⟩; refine store_of_still ?_ hm; simp only [tagFreed_still, admTreeDone_still]
  | disarmGroup h => refine ⟨_, rfl, ?_⟩; refine store_of_still ?_ hm; simp only [admDisarmGroup_still]
  | disarmDone group => refine ⟨_, rfl, ?_⟩; refine store_of_still ?_ hm; simp only [admDisarmDone_still]
  | adminNop h => refine ⟨_, rfl, ?_⟩; refine store_of_still ?_ hm; simp only [admNopCmd_still]
  | descriptorFetch h wq => refine ⟨_, rfl, ?_⟩; refine store_of_still ?_ hm; simp only [fetchDescs_still]
  | descriptorFetchDone h wq data => refine ⟨_, rfl, ?_⟩; refine store_of_still ?_ hm; simp only [tagFreed_still, descsDone_still]
  | phaseReread h wq => refine ⟨_, rfl, ?_⟩; refine store_of_still ?_ hm; simp only [rereadDesc_still]
  | operationStart h wq => refine ⟨_, rfl, ?_⟩; refine store_of_still ?_ hm; simp only [startOp_still]
  | putDescriptor h wq idx => refine ⟨_, rfl, ?_⟩; refine store_of_still ?_ hm; simp only [roomAgain_still, beginOf_still]
  | putDurableDescriptor h wq idx => refine ⟨_, rfl, ?_⟩; refine store_of_still ?_ hm; simp only [roomAgain_still, beginOf_still]
  | get h wq idx => refine ⟨_, rfl, ?_⟩; refine store_of_still ?_ hm; simp only [roomAgain_still, beginOf_still]
  | atomicDescriptor h wq idx => refine ⟨_, rfl, ?_⟩; refine store_of_still ?_ hm; simp only [roomAgain_still, beginOf_still]
  | atomicFetchDescriptor h wq idx => refine ⟨_, rfl, ?_⟩; refine store_of_still ?_ hm; simp only [roomAgain_still, beginOf_still]
  | send h wq idx => refine ⟨_, rfl, ?_⟩; refine store_of_still ?_ hm; simp only [roomAgain_still, beginOf_still]
  | recv h wq idx => refine ⟨_, rfl, ?_⟩; refine store_of_still ?_ hm; simp only [recvBegin_still]
  | vpWrite h wq idx => refine ⟨_, rfl, ?_⟩; refine store_of_still ?_ hm; simp only [roomAgain_still, beginOf_still]
  | collective h wq idx => refine ⟨_, rfl, ?_⟩; refine store_of_still ?_ hm; simp only [roomAgain_still, collectiveBegin_still]
  | nopDescriptor h wq idx => refine ⟨_, rfl, ?_⟩; refine store_of_still ?_ hm; simp only [roomAgain_still, beginOf_still]
  | localReadDone h tag data => refine ⟨_, rfl, ?_⟩; refine store_of_still ?_ hm; simp only [localReadEnd_still]
  | headIndexWrite h wq => refine ⟨_, rfl, ?_⟩; refine store_of_still ?_ hm; simp only [writeHead_still]
  | hostRequestTimeout h tag => refine ⟨_, rfl, ?_⟩; refine store_of_still ?_ hm; simp only [reqTimeout_still]
  | functionLevelReset h => refine ⟨_, rfl, ?_⟩; (split; exact store_trans (funcStart_kept _ _) hm; exact hm)
  | perstAssert h => refine ⟨_, rfl, ?_⟩; exact store_trans (by simp only [perstOn_kept]) hm
  | perstRelease h => refine ⟨_, rfl, ?_⟩; refine store_of_still ?_ hm; simp only [perstOff_still]
  | functionResetDone h => refine ⟨_, rfl, ?_⟩; refine store_of_still ?_ hm; simp only [roomAgain_still, funcDone_still]
  | hostLinkDown h => refine ⟨_, rfl, ?_⟩; refine store_of_still ?_ hm; simp only [hostDown_still]
  | eqCiUpdate mid h eq v => refine ⟨_, rfl, ?_⟩; exact writeReg_store _ _ _ _ hm
  | eqArm mid h eq v => refine ⟨_, rfl, ?_⟩; exact writeReg_store _ _ _ _ hm
  | eventWrite h eq => refine ⟨_, rfl, ?_⟩; refine store_of_still ?_ hm; simp only [slotsFreed_still, eventWrite_still]
  | stashDrain h eq => refine ⟨_, rfl, ?_⟩; refine store_of_still ?_ hm; simp only [slotsFreed_still, stashDrainN_still]
  | asyncPendingWrite h => refine ⟨_, rfl, ?_⟩; refine store_of_still ?_ hm; simp only [asyncWrite_still]
  | walkReadDone h tag data => refine ⟨_, rfl, ?_⟩; refine store_of_still ?_ hm; simp only [tagFreed_still, walkDoneIn_still]
  | pageRequestResponse h tag ok => refine ⟨_, rfl, ?_⟩; refine store_of_still ?_ hm; simp only [pageAnswer_still]
  | pageRequestTimeout h tag => refine ⟨_, rfl, ?_⟩; refine store_of_still ?_ hm; simp only [pageFail_still]
  | failHoldExpiry h tag => refine ⟨_, rfl, ?_⟩; refine store_of_still ?_ hm; simp only [failHoldEnds_still]
  | fetchDone h tag ok => refine ⟨_, rfl, ?_⟩; refine store_of_still ?_ hm; simp only [tagFreed_still, fetchDoneIn_still]
  | pairReset mid h v => refine ⟨_, rfl, ?_⟩; exact writeReg_store _ _ _ _ hm
  | pairResetDone h => refine ⟨_, rfl, ?_⟩; refine store_of_still ?_ hm; simp only [portGoesOn_still, pairResetEnd_still]
  | pairQuietExpiry h ep peer => refine ⟨_, rfl, ?_⟩; refine store_of_still ?_ hm; simp only [quietOver_still]
  | putShort ip => refine ⟨_, rfl, ?_⟩; refine store_of_still ?_ hm; simp only [arrive_still]
  | put ip => refine ⟨_, rfl, ?_⟩; refine store_of_still ?_ hm; simp only [arrive_still]
  | putShortDurable ip => refine ⟨_, rfl, ?_⟩; refine store_of_still ?_ hm; simp only [arrive_still]
  | putDurable ip => refine ⟨_, rfl, ?_⟩; refine store_of_still ?_ hm; simp only [arrive_still]
  | getReq ip => refine ⟨_, rfl, ?_⟩; refine store_of_still ?_ hm; simp only [arrive_still]
  | atomic ip => refine ⟨_, rfl, ?_⟩; refine store_of_still ?_ hm; simp only [arrive_still]
  | atomicFetch ip => refine ⟨_, rfl, ?_⟩; refine store_of_still ?_ hm; simp only [arrive_still]
  | vpDirectWrite ip => refine ⟨_, rfl, ?_⟩; refine store_of_still ?_ hm; simp only [arrive_still]
  | msgShort ip => refine ⟨_, rfl, ?_⟩; refine store_of_still ?_ hm; simp only [arrive_still]
  | msgEager ip => refine ⟨_, rfl, ?_⟩; refine store_of_still ?_ hm; simp only [arrive_still]
  | rndvReq ip => refine ⟨_, rfl, ?_⟩; refine store_of_still ?_ hm; simp only [arrive_still]
  | nop ip => refine ⟨_, rfl, ?_⟩; refine store_of_still ?_ hm; simp only [arrive_still]
  | ack ip => refine ⟨_, rfl, ?_⟩; refine store_of_still ?_ hm; simp only [arrive_still]
  | nack ip => refine ⟨_, rfl, ?_⟩; refine store_of_still ?_ hm; simp only [nackArrive_still]
  | getResp ip => refine ⟨_, rfl, ?_⟩; refine store_of_still ?_ hm; simp only [arrive_still]
  | atomicResp ip => refine ⟨_, rfl, ?_⟩; refine store_of_still ?_ hm; simp only [arrive_still]
  | ackCoalesceTimeout h ep peer => refine ⟨_, rfl, ?_⟩; refine store_of_still ?_ hm; simp only [coalesced_still]
  | e2eTimeout h ep peer pseq => refine ⟨_, rfl, ?_⟩; refine store_of_still ?_ hm; simp only [portGoesOn_still, e2eTimeoutIn_still]
  | refusalRetry h ep peer pseq => refine ⟨_, rfl, ?_⟩; refine store_of_still ?_ hm; simp only [portGoesOn_still, refusalRetryIn_still]
  | getReadDone h tag data => refine ⟨_, rfl, ?_⟩; refine store_of_still ?_ hm; simp only [getReadEnd_still]
  | atomicReadDone h tag data => refine ⟨_, rfl, ?_⟩; refine store_of_still ?_ hm; simp only [atomicReadEnd_still]
  | flushDone h tag ok => refine ⟨_, rfl, ?_⟩; refine store_of_still ?_ hm; simp only [flushReadEnd_still]
  | matchRecordReadDone h tag ok => refine ⟨_, rfl, ?_⟩; refine store_of_still ?_ hm; simp only [recordReadEnd_still]
  | kennelBlockReadDone h tag ok => refine ⟨_, rfl, ?_⟩; refine store_of_still ?_ hm; simp only [blockReadEnd_still]
  | dataSlotReadDone h tag data => refine ⟨_, rfl, ?_⟩; refine store_of_still ?_ hm; simp only [slotReadEnd_still]
  | autoGetStart h => refine ⟨_, rfl, ?_⟩; refine store_of_still ?_ hm; simp only [roomAgain_still, autoStart_still]
  | col ip => refine ⟨_, rfl, ?_⟩; refine store_of_still ?_ hm; simp only [colArrive_still]
  | colData ip => refine ⟨_, rfl, ?_⟩; refine store_of_still ?_ hm; simp only [colArrive_still]
  | colRetransmit group slot edge => refine ⟨_, rfl, ?_⟩; refine store_of_still ?_ hm; simp only [roomAgain_still, colRetry_still]
  | armWaitExpiry group edge => refine ⟨_, rfl, ?_⟩; refine store_of_still ?_ hm; simp only [roomAgain_still, armWaitOver_still]
  | leashRefill h => refine ⟨_, rfl, ?_⟩; refine store_of_still ?_ hm; simp only [leashTick_still]
  | sampleTick h => refine ⟨_, rfl, ?_⟩; refine store_of_still ?_ hm; simp only [sampleAll_still]
  | ccPairQuery mid h v => refine ⟨_, rfl, ?_⟩; exact writeReg_store _ _ _ _ hm
  | ccPairQueryDone h => refine ⟨_, rfl, ?_⟩; refine store_of_still ?_ hm; simp only [ccQueryEnd_still]
  | pllRelease pll locked => refine ⟨_, rfl, ?_⟩; exact store_trans (by simp only [pllReleased_kept]) hm
  | refclkLoss => refine ⟨_, rfl, ?_⟩; exact store_trans (by simp only [refclkLost_kept]) hm
  | texSend p => refine ⟨_, rfl, ?_⟩; exact store_trans (by simp only [texSendGo_kept]) hm
  | texReceived p set => refine ⟨_, rfl, ?_⟩; exact store_trans (by simp only [texIn_kept]) hm
  | timSet mid v => refine ⟨_, rfl, ?_⟩; exact writeReg_store _ _ _ _ hm
  | slow32Tick => refine ⟨_, rfl, ?_⟩; exact store_trans (by simp only [slowTick_kept]) hm
  | vddAonLow => exact absurd rfl h2
  | vddAonRise => refine ⟨_, rfl, ?_⟩; refine store_of_still ?_ hm; rfl
  | pResetRelease => refine ⟨_, rfl, ?_⟩; exact store_trans (by simp only [releaseP_kept]) hm
  | supplyCoreLow => refine ⟨_, rfl, ?_⟩; refine store_of_still ?_ hm; simp only [supplyLow_still]
  | pwrgdFall => refine ⟨_, rfl, ?_⟩; exact store_trans (by simp only [pwrgdOff_kept]) hm
  | pwrgdRise => refine ⟨_, rfl, ?_⟩; exact store_trans (by simp only [pwrgdOn_kept]) hm
  | powerFail => refine ⟨_, rfl, ?_⟩; refine store_of_still ?_ hm; simp only [pfwOn_still]
  | pfwDeassert => refine ⟨_, rfl, ?_⟩; refine store_of_still ?_ hm; simp only [pfwOff_still]
  | saveWindowExpiry => refine ⟨_, rfl, ?_⟩; exact store_trans (by simp only [saveExpiry_kept]) hm
  | tempSample t => refine ⟨_, rfl, ?_⟩; refine store_of_still ?_ hm; simp only [tempSampled_still]
  | requestActive mid v => refine ⟨_, rfl, ?_⟩; exact writeReg_store _ _ _ _ hm
  | requestDoze mid v => refine ⟨_, rfl, ?_⟩; exact writeReg_store _ _ _ _ hm
  | requestStandby mid v => refine ⟨_, rfl, ?_⟩; exact writeReg_store _ _ _ _ hm
  | requestSleep mid v => refine ⟨_, rfl, ?_⟩; exact writeReg_store _ _ _ _ hm
  | powerEntryDone => refine ⟨_, rfl, ?_⟩; exact store_trans (by simp only [entryDone_kept]) hm
  | autoDoze => refine ⟨_, rfl, ?_⟩; refine store_of_still ?_ hm; simp only [autoDozeGo_still]
  | nicReady => refine ⟨_, rfl, ?_⟩; refine store_of_still ?_ hm; simp only [nicReadyGo_still]
  | wakeN => refine ⟨_, rfl, ?_⟩; refine store_of_still ?_ hm; simp only [wakeEvent_still]
  | aonTimer => refine ⟨_, rfl, ?_⟩; refine store_of_still ?_ hm; simp only [timerDone_still]
  | whistle => refine ⟨_, rfl, ?_⟩; refine store_of_still ?_ hm; simp only [whistleGo_still]
  | whistleIdle => refine ⟨_, rfl, ?_⟩; refine store_of_still ?_ hm; simp only [whistleOff_still]
  | wakeExitDone => refine ⟨_, rfl, ?_⟩; apply exitDone_store; exact hm
  | rsramDataAccess mid write => refine ⟨_, rfl, ?_⟩; (cases write; exact readOut_store _ _ _ hm; exact writeReg_store _ _ _ _ hm)
  | resetNAssert => refine ⟨_, rfl, ?_⟩; exact store_trans (by simp only [resetPin_kept]) hm
  | resetNRelease => refine ⟨_, rfl, ?_⟩; exact hm
  | rstCmdC mid v => refine ⟨_, rfl, ?_⟩; exact writeReg_store _ _ _ _ hm
  | rstCmdT mid v => refine ⟨_, rfl, ?_⟩; exact writeReg_store _ _ _ _ hm
  | rstCmdF mid v => refine ⟨_, rfl, ?_⟩; exact writeReg_store _ _ _ _ hm
  | rstCmdL mid v => refine ⟨_, rfl, ?_⟩; exact writeReg_store _ _ _ _ hm
  | resetTakeHold => refine ⟨_, rfl, ?_⟩; apply takeHold_store; exact hm
  | cResetRelease => refine ⟨_, rfl, ?_⟩; exact store_trans (by simp only [releaseC_kept]) hm
  | sramClearDone => refine ⟨_, rfl, ?_⟩; exact store_trans (by simp only [sramCleared_kept]) hm
  | sramTestDone ok => refine ⟨_, rfl, ?_⟩; exact store_trans (by simp only [sramTested_kept]) hm
  | tResetRelease => refine ⟨_, rfl, ?_⟩; exact store_trans (by simp only [releaseT_kept]) hm
  | lResetRelease p => refine ⟨_, rfl, ?_⟩; exact store_of_still (by simp only [laneRestart_still]) hm
  | watchdogExpiry => refine ⟨_, rfl, ?_⟩; exact store_trans (by simp only [wdogExpire_kept]) hm
  | kick mid v => refine ⟨_, rfl, ?_⟩; exact writeReg_store _ _ _ _ hm
  | faultSourceRise src mid access addr tgt => refine ⟨_, rfl, ?_⟩; refine store_of_still ?_ hm; simp only [lineRises_still]
  | escalation => refine ⟨_, rfl, ?_⟩; exact store_trans (by simp only [escalate_kept]) hm
  | fltInject mid v => refine ⟨_, rfl, ?_⟩; exact writeReg_store _ _ _ _ hm
  | alertResponse => refine ⟨_, rfl, ?_⟩; refine store_of_still ?_ hm; simp only [alertAnswered_still]
  | lockAcquire mid k => refine ⟨_, rfl, ?_⟩; exact readOut_store _ _ _ hm
  | release mid k v => refine ⟨_, rfl, ?_⟩; exact writeReg_store _ _ _ _ hm
  | force mid k v => refine ⟨_, rfl, ?_⟩; exact writeReg_store _ _ _ _ hm
  | bindStateWrite mid v => refine ⟨_, rfl, ?_⟩; exact writeReg_store _ _ _ _ hm
  | bindingPortReset => refine ⟨_, rfl, ?_⟩; exact store_trans (by simp only [bindPorts_kept]) hm
  | mgmtRead ip => refine ⟨_, rfl, ?_⟩; apply mgmtArrive_store; exact hm
  | mgmtWrite ip => refine ⟨_, rfl, ?_⟩; apply mgmtArrive_store; exact hm
  | extest => refine ⟨_, rfl, ?_⟩; exact store_trans (by simp only [jtagLoad_kept]) hm
  | idcode => refine ⟨_, rfl, ?_⟩; exact store_trans (by simp only [jtagLoad_kept]) hm
  | samplePreload => refine ⟨_, rfl, ?_⟩; exact store_trans (by simp only [jtagSample_kept]) hm
  | clamp => refine ⟨_, rfl, ?_⟩; exact store_trans (by simp only [jtagLoad_kept]) hm
  | highz => refine ⟨_, rfl, ?_⟩; exact store_trans (by simp only [jtagLoad_kept]) hm
  | regAccess dr => refine ⟨_, rfl, ?_⟩; apply jtagAccess_store; exact hm
  | scan => refine ⟨_, rfl, ?_⟩; exact store_trans (by simp only [jtagScan_kept]) hm
  | bypass => refine ⟨_, rfl, ?_⟩; exact store_trans (by simp only [jtagLoad_kept]) hm
  | testLogicReset => refine ⟨_, rfl, ?_⟩; exact store_trans (by simp only [jtagTlr_kept]) hm
  | debugLevelWrite mid v => refine ⟨_, rfl, ?_⟩; exact writeReg_store _ _ _ _ hm
  | dbgMemRead mid => refine ⟨_, rfl, ?_⟩; exact readOut_store _ _ _ hm
  | dbgMemWrite mid v => refine ⟨_, rfl, ?_⟩; exact writeReg_store _ _ _ _ hm
  | dbgHalt mid v => refine ⟨_, rfl, ?_⟩; exact writeReg_store _ _ _ _ hm
  | step mid v => refine ⟨_, rfl, ?_⟩; exact writeReg_store _ _ _ _ hm
  | offset bytes => refine ⟨_, rfl, ?_⟩; (unfold smbRun; split; refine store_of_still (whistleEnd_still _) ?_; exact store_trans (by simp only [smbOffset_kept]) hm; exact hm)
  | smbWrite bytes => refine ⟨_, rfl, ?_⟩; (unfold smbRun; split; refine store_of_still (whistleEnd_still _) ?_; apply smbWriteGo_store; exact hm; exact hm)
  | smbRead => refine ⟨_, rfl, ?_⟩; (unfold smbRun; split; refine store_of_still (whistleEnd_still _) ?_; apply smbReadGo_store; exact hm; exact hm)
  | auto b => refine ⟨_, rfl, ?_⟩; (unfold smbRun; split; refine store_of_still (whistleEnd_still _) ?_; exact store_trans (by simp only [smbAuto_kept]) hm; exact hm)
  | last => refine ⟨_, rfl, ?_⟩; refine store_of_still ?_ hm; show (smbRun smbLast s).still = _; unfold smbRun; split <;> simp only [whistleEnd_still, smbLast_still]
  | smbusTimeout => refine ⟨_, rfl, ?_⟩; exact store_trans (by simp only [smbTimeout_kept]) hm
  | clear mid unit v => refine ⟨_, rfl, ?_⟩; exact writeReg_store _ _ _ _ hm
  | snapshot mid v => refine ⟨_, rfl, ?_⟩; exact writeReg_store _ _ _ _ hm
  | captureEnable mid v => refine ⟨_, rfl, ?_⟩; exact writeReg_store _ _ _ _ hm
  | capCiWrite mid v => refine ⟨_, rfl, ?_⟩; exact writeReg_store _ _ _ _ hm
  | telemetryFlush => refine ⟨_, rfl, ?_⟩; refine store_of_still ?_ hm; simp only [telemetrySend_still]
  | telemetry ip => refine ⟨_, rfl, ?_⟩; refine store_of_still ?_ hm; simp only [telemetryArrive_still]
  | codeErrorOutsideFrame p e => refine ⟨_, rfl, ?_⟩; refine store_of_still ?_ hm; simp only [codeErrorIn_still]
  | errorFreeIdlSets p n => refine ⟨_, rfl, ?_⟩; refine store_of_still ?_ hm; simp only [idlSetsIn_still]
  | prbsByteError p bytes => refine ⟨_, rfl, ?_⟩; refine store_of_still ?_ hm; simp only [prbsColumn_still]
  | errorLineFall src => refine ⟨_, rfl, ?_⟩; refine store_of_still ?_ hm; simp only [lineFalls_still]
  | leaveHold mid p v => refine ⟨_, rfl, ?_⟩; exact writeReg_store _ _ _ _ hm
  | unlistedOpcode ip => refine ⟨_, rfl, ?_⟩; refine store_of_still ?_ hm; simp only [arrive_still]
  | hostLinkTrained h width rate flit => refine ⟨_, rfl, ?_⟩; refine store_of_still ?_ hm; simp only [hostTrained_still]
  | configurationRequest h req => refine ⟨_, rfl, ?_⟩; refine store_of_still ?_ hm; simp only [configWrite_still]

end Sys2Proof.Laws
end

