-- ==== Sys2Proof/Machine/BallOps.lean ====
section
/-! DEFINITION. The ball array (R380 to R384): what each of the 94 by 94 balls carries, and where a lane's balls lie. -/

namespace Sys2Proof.Machine

/-- What a ball carries (R382 to R384). A network lane of `none` is LC. -/
inductive Ball
  | net (p : NetPort) (lane : Option (Fin 16)) (tx positive : Bool)
  | host (h : HostPort) (lane : Fin 16) (tx positive : Bool)
  | hostClock (h : HostPort) (positive : Bool)
  | side (signal : String)
  | supply (rail : String)
  | vss
  | reserved
deriving DecidableEq, Repr

/-- The region of a package row and column: its first port, local row and local column (R381). -/
def ballRegion (row col : Nat) : Option (Nat × Nat × Nat) :=
  if 1 ≤ row ∧ row ≤ 34 ∧ 1 ≤ col ∧ col ≤ 48 then some (0, row, col)
  else if 1 ≤ row ∧ row ≤ 48 ∧ 61 ≤ col ∧ col ≤ 94 then some (16, 95 - col, row)
  else if 61 ≤ row ∧ row ≤ 94 ∧ 47 ≤ col ∧ col ≤ 94 then some (32, 95 - row, 95 - col)
  else if 47 ≤ row ∧ row ≤ 94 ∧ 1 ≤ col ∧ col ≤ 34 then some (48, col, 95 - row)
  else none

/-- The lane of a row of a port's block, counted from 0: L0 to L7, LC, L8 to L15 (R382). -/
def blockLane (r : Nat) : Option (Fin 16) :=
  if r = 8 then none else some (Fin.ofNat 16 (if r < 8 then r else r - 1))

/-- The pair member in a column of a lane block, counted from 0: transmit or receive, positive or negative; none is VSS (R382, R383). -/
def blockPair (c : Nat) : Option (Bool × Bool) :=
  match c with
  | 0 => some (true, true)
  | 1 => some (true, false)
  | 3 => some (false, true)
  | 4 => some (false, false)
  | _ => none

/-- A ball of a network lane region (R382). -/
def netBall (first lr lc : Nat) : Ball :=
  let t := (lc - 1) / 6 + (if lr ≤ 17 then 0 else 8)
  match blockPair ((lc - 1) % 6) with
  | some (tx, pos) => .net (Fin.ofNat 64 (first + t)) (blockLane ((lr - 1) % 17)) tx pos
  | none => .vss

/-- A ball of a host lane block, its row and column counted from 0 (R383). -/
def hostBall (h : HostPort) (r c : Nat) : Ball :=
  if r = 16 then (if c = 0 then .hostClock h true else if c = 1 then .hostClock h false else .vss)
  else match blockPair c with
  | some (tx, pos) => .host h (Fin.ofNat 16 r) tx pos
  | none => .vss

/-- The signals of row 35 from column 1 on (R384). -/
def sideRow35 : List String :=
  ["XTAL_IN", "XTAL_OUT", "REFCLK_P", "REFCLK_N", "PWRGD", "PFW_N", "RESET_N", "WAKE_N", "FAULT_N", "ALERT_N", "SCL", "SDA",
   "TCK", "TMS", "TDI", "TDO", "PERST#[0]", "PERST#[1]", "STRAP_SMB[0]", "STRAP_SMB[1]", "STRAP_SMB[2]", "STRAP_HP1",
   "STRAP_BOARD[0]", "STRAP_BOARD[1]", "STRAP_BOARD[2]", "STRAP_BOARD[3]", "CORE_SENSE_P", "CORE_SENSE_N"]

/-- The signals of row 36 from column 1 on (R384). -/
def sideRow36 : List String :=
  (List.range 8).map (fun k => "TXDIS[" ++ toString k ++ "]") ++ (List.range 8).map (fun k => "MODPRS_N[" ++ toString k ++ "]") ++
    (List.range 16).map (fun k => "GPIO[" ++ toString k ++ "]")

/-- A ball of rows 35 and 36, columns 1 to 34; one without a signal must be left open (R384). -/
def sideBall (row col : Nat) : Ball :=
  match (if row = 35 then sideRow35 else sideRow36)[col - 1]? with
  | some n => .side n
  | none => .reserved

/-- The supply rail of a ball outside the lane, host and sideband blocks; none is VSS (R383). -/
def railAt (row col : Nat) : Option String :=
  if row ≤ 34 then
    (if 18 ≤ row ∧ row ≤ 21 then some "VDD_HIF" else if (row = 22 ∨ row = 23) ∧ col ≤ 56 then some "VDDH_HIF" else none)
  else if col ≤ 34 then
    (if row = 37 then (if col ≤ 8 then some "VDD_AON" else if col ≤ 24 then some "VDD_IO" else none)
     else if row ≤ 42 ∧ col ≤ 32 then some "VDDH_LANE" else none)
  else if 61 ≤ col then some (if col ≤ 84 then "VDDA_LANE" else "VDD_CORE")
  else if row ≤ 60 ∧ (row = 47 ∨ row = 48) then none
  else some "VDD_CORE"

/-- What the ball at a row and a column, each from 1 to 94, carries (R380 to R384). -/
def ballAt (row col : Nat) : Ball :=
  match ballRegion row col with
  | some (first, lr, lc) => netBall first lr lc
  | none =>
    if row ≤ 17 ∧ 49 ≤ col ∧ col ≤ 54 then hostBall 0 (row - 1) (col - 49)
    else if row ≤ 17 ∧ 55 ≤ col ∧ col ≤ 60 then hostBall 1 (row - 1) (col - 55)
    else if (row = 35 ∨ row = 36) ∧ col ≤ 34 then sideBall row col
    else match railAt row col with
    | some r => .supply r
    | none => .vss

/-- The block row of a lane, counted from 0 (R382). -/
def laneRow (lane : Option (Fin 16)) : Nat :=
  match lane with
  | none => 8
  | some l => if l.val < 8 then l.val else l.val + 1

/-- The package row and column of a network port's ball (R381, R382). -/
def netBallPlace (p : NetPort) (lane : Option (Fin 16)) (tx positive : Bool) : Nat × Nat :=
  let t := p.val % 16
  let lr := laneRow lane + 1 + (if t < 8 then 0 else 17)
  let lc := 6 * (t % 8) + 1 + (if tx then 0 else 3) + (if positive then 0 else 1)
  match p.val / 16 with
  | 0 => (lr, lc)
  | 1 => (lc, 95 - lr)
  | 2 => (95 - lr, 95 - lc)
  | _ => (95 - lc, lr)

end Sys2Proof.Machine
end

