-- ==== Sys2Proof/WellFormed.lean ====
section
/-! DEFINITION. The well-formed commands: operands within the ranges the spec gives them, and the value of a register row
with the bit or field that makes the write that row's command. exec is defined on every command; a value outside these ranges
names another write of the same register, or nothing. -/

namespace Sys2Proof

/-- The code groups of at most 16 lanes, as many on each lane. -/
def sameColumns (groups : List (List (BitVec 10))) : Bool :=
  decide (groups ≠ [] ∧ groups.length ≤ 16) && groups.all (fun g => decide (g.length = (groups.headD []).length))

/-- The operands of a command lie in the ranges of its row. -/
def Instr.wf (i : Instr) : Bool :=
  match i with
  | .registerWrite _ off _ => decide (off.toNat % 8 = 0)
  | .registerWrite32bit _ _ bytes => decide (0 < bytes.length ∧ bytes.length ≤ 4096)
  | .registerReadClear _ _ len => decide (0 < len ∧ len ≤ 4096)
  | .progWrite _ v => decide (v.toNat.testBit 24)
  | .progRead _ v => decide (v.toNat.testBit 25 ∧ ¬v.toNat.testBit 24)
  | .progPulseDone => true
  | .calUnlock _ _ => true
  | .go _ v => decide (v.toNat.testBit 8)
  | .activateCheckDone img => decide (img.ports.length ≤ 64)
  | .confirm _ v => decide (v.toNat.testBit 9)
  | .imageLoadStart => true
  | .imageHeaderCheck => true
  | .imageStreamDone img => decide (img.ports.length ≤ 64)
  | .imageCommit => true
  | .partnerClockCheck _ _ => true
  | .trainingComplete _ res => (match res with
    | .deskewed lanes => decide (lanes.length = 16)
    | _ => true)
  | .trainingFail _ _ => true
  | .retryIdleExpiry _ => true
  | .modulePresenceChange g _ => decide (g < 8)
  | .widthChange _ => true
  | .wchReceived _ votes => decide (votes ≠ [] ∧ votes.length ≤ 32)
  | .laneSleep _ => true
  | .slpReceived _ => true
  | .wakeRequest _ => true
  | .wakReceived _ _ => true
  | .lcLoss _ => true
  | .lveReceived _ reason => decide (reason < 8)
  | .tsWhileUp _ => true
  | .retrain _ _ v => decide (v.toNat.testBit 32)
  | .prbsSync x => decide (x.history.length = 16)
  | .frameReceived _ _ groups _ => sameColumns groups
  | .nakRepeat _ _ => true
  | .abtReceived _ => true
  | .cutThroughClose _ _ => true
  | .ackSetReceived _ set => decide (set ≠ [] ∧ set.length % 12 = 0)
  | .nakSetReceived _ set => decide (set ≠ [] ∧ set.length % 12 = 0)
  | .creditSetReceived _ set => decide (set ≠ [] ∧ set.length % 12 = 0)
  | .replayTimeout _ => true
  | .creditRefresh _ => true
  | .errorWindowExpiry _ => true
  | .errorWindowLimit _ => true
  | .initFrameSend _ => true
  | .initFrameReceived _ frame => sameColumns frame.groups
  | .initTimeout _ => true
  | .admissionCheck _ => true
  | .readmit _ _ v => decide (v.toNat.testBit 16)
  | .allocatorCycle => true
  | .dwellDiscard _ => true
  | .ageDiscard _ => true
  | .ejectWaitBounce _ => true
  | .tableWrite _ v => decide (v.toNat.testBit 24)
  | .tableRead _ v => decide (v.toNat.testBit 25)
  | .tableWriteDone => true
  | .epochSet _ _ => true
  | .copy _ v => decide (v.toNat.testBit 3)
  | .copyDone => true
  | .indexDoorbell _ wq _ => decide (wq < 16384)
  | .inlineDoorbell _ wq desc => decide (wq < 16384 ∧ desc.length = 64)
  | .dbBad _ off size => decide (off < 1048576 ∧ ¬(off % 64 = 0 ∧ (size = 8 ∨ size = 64)))
  | .adminEnable _ _ v => decide (v.toNat.testBit 0)
  | .adminDoorbell _ _ _ => true
  | .adminCommandReadDone _ _ => true
  | .createWq _ => true
  | .destroyWq _ => true
  | .destroyWqDone _ wq => decide (wq < 16384)
  | .createEq _ => true
  | .destroyEq _ => true
  | .createPd _ => true
  | .destroyPd _ => true
  | .createEp _ => true
  | .destroyEp _ => true
  | .destroyEpDone _ ep => decide (ep < 16777216)
  | .openWindow _ => true
  | .revokeWindow _ => true
  | .revokeDone _ win => decide (win < 524288)
  | .invalidate _ => true
  | .xltInvGo _ _ v => decide (v.toNat.testBit 16)
  | .invalidateDone _ _ => true
  | .setShaper _ => true
  | .armGroup _ => true
  | .treeDescriptorReadDone _ _ => true
  | .disarmGroup _ => true
  | .disarmDone group => decide (group < 4096)
  | .adminNop _ => true
  | .descriptorFetch _ wq => decide (wq < 16384)
  | .descriptorFetchDone _ wq _ => decide (wq < 16384)
  | .phaseReread _ wq => decide (wq < 16384)
  | .operationStart _ wq => decide (wq < 16384)
  | .putDescriptor _ wq idx => decide (wq < 16384 ∧ idx < 131072)
  | .putDurableDescriptor _ wq idx => decide (wq < 16384 ∧ idx < 131072)
  | .get _ wq idx => decide (wq < 16384 ∧ idx < 131072)
  | .atomicDescriptor _ wq idx => decide (wq < 16384 ∧ idx < 131072)
  | .atomicFetchDescriptor _ wq idx => decide (wq < 16384 ∧ idx < 131072)
  | .send _ wq idx => decide (wq < 16384 ∧ idx < 131072)
  | .recv _ wq idx => decide (wq < 16384 ∧ idx < 131072)
  | .vpWrite _ wq idx => decide (wq < 16384 ∧ idx < 131072)
  | .collective _ wq idx => decide (wq < 16384 ∧ idx < 131072)
  | .nopDescriptor _ wq idx => decide (wq < 16384 ∧ idx < 131072)
  | .localReadDone _ tag _ => decide (tag < 16384)
  | .headIndexWrite _ wq => decide (wq < 16384)
  | .hostRequestTimeout _ tag => decide (tag < 16384)
  | .functionLevelReset _ => true
  | .perstAssert _ => true
  | .perstRelease _ => true
  | .functionResetDone _ => true
  | .hostLinkDown _ => true
  | .eqCiUpdate _ _ _ _ => true
  | .eqArm _ _ _ v => decide (v.toNat.testBit 31)
  | .eventWrite _ eq => decide (eq < 4096)
  | .stashDrain _ eq => decide (eq < 4096)
  | .asyncPendingWrite _ => true
  | .walkReadDone _ tag _ => decide (tag < 16384)
  | .pageRequestResponse _ tag _ => decide (tag < 16384)
  | .pageRequestTimeout _ tag => decide (tag < 16384)
  | .failHoldExpiry _ tag => decide (tag < 16384)
  | .fetchDone _ tag _ => decide (tag < 16384)
  | .pairReset _ _ v => decide (v.toNat.testBit 24)
  | .pairResetDone _ => true
  | .pairQuietExpiry _ ep peer => decide (ep < 16777216 ∧ peer < 4398046511104)
  | .putShort _ => true
  | .put _ => true
  | .putShortDurable _ => true
  | .putDurable _ => true
  | .getReq _ => true
  | .atomic _ => true
  | .atomicFetch _ => true
  | .vpDirectWrite _ => true
  | .msgShort _ => true
  | .msgEager _ => true
  | .rndvReq _ => true
  | .nop _ => true
  | .ack _ => true
  | .nack _ => true
  | .getResp _ => true
  | .atomicResp _ => true
  | .ackCoalesceTimeout _ ep peer => decide (ep < 16777216 ∧ peer < 4398046511104)
  | .e2eTimeout _ ep peer pseq => decide (ep < 16777216 ∧ peer < 4398046511104 ∧ pseq < 16777216)
  | .refusalRetry _ ep peer pseq => decide (ep < 16777216 ∧ peer < 4398046511104 ∧ pseq < 16777216)
  | .getReadDone _ tag _ => decide (tag < 16384)
  | .atomicReadDone _ tag _ => decide (tag < 16384)
  | .flushDone _ tag _ => decide (tag < 16384)
  | .matchRecordReadDone _ tag _ => decide (tag < 16384)
  | .kennelBlockReadDone _ tag _ => decide (tag < 16384)
  | .dataSlotReadDone _ tag _ => decide (tag < 16384)
  | .autoGetStart _ => true
  | .col _ => true
  | .colData _ => true
  | .colRetransmit group slot edge => decide (group < 4096 ∧ slot < 16 ∧ edge ≤ 64)
  | .armWaitExpiry group edge => decide (group < 4096 ∧ edge ≤ 64)
  | .leashRefill _ => true
  | .sampleTick _ => true
  | .ccPairQuery _ _ v => decide (v.toNat.testBit 24)
  | .ccPairQueryDone _ => true
  | .pllRelease _ _ => true
  | .refclkLoss => true
  | .texSend _ => true
  | .texReceived _ set => decide (set ≠ [])
  | .timSet _ _ => true
  | .slow32Tick => true
  | .vddAonLow => true
  | .vddAonRise => true
  | .pResetRelease => true
  | .supplyCoreLow => true
  | .pwrgdFall => true
  | .pwrgdRise => true
  | .powerFail => true
  | .pfwDeassert => true
  | .saveWindowExpiry => true
  | .tempSample t => decide (t < 4096)
  | .requestActive _ v => decide (v.toNat % 4 = 0)
  | .requestDoze _ v => decide (v.toNat % 4 = 1)
  | .requestStandby _ v => decide (v.toNat % 4 = 2)
  | .requestSleep _ v => decide (v.toNat % 4 = 3)
  | .powerEntryDone => true
  | .autoDoze => true
  | .nicReady => true
  | .wakeN => true
  | .aonTimer => true
  | .whistle => true
  | .whistleIdle => true
  | .wakeExitDone => true
  | .rsramDataAccess _ _ => true
  | .resetNAssert => true
  | .resetNRelease => true
  | .rstCmdC _ v => decide (v.toNat % 8 = 1)
  | .rstCmdT _ v => decide (v.toNat % 8 = 2)
  | .rstCmdF _ v => decide (v.toNat % 8 = 3)
  | .rstCmdL _ v => decide (v.toNat % 8 = 4)
  | .resetTakeHold => true
  | .cResetRelease => true
  | .sramClearDone => true
  | .sramTestDone _ => true
  | .tResetRelease => true
  | .lResetRelease _ => true
  | .watchdogExpiry => true
  | .kick _ v => decide (v.toNat.testBit 32)
  | .faultSourceRise _ _ _ _ _ => true
  | .escalation => true
  | .fltInject _ _ => true
  | .alertResponse => true
  | .lockAcquire _ _ => true
  | .release _ _ v => decide (v.toNat.testBit 32)
  | .force _ _ v => decide (v.toNat.testBit 33)
  | .bindStateWrite _ _ => true
  | .bindingPortReset => true
  | .mgmtRead _ => true
  | .mgmtWrite _ => true
  | .extest => true
  | .idcode => true
  | .samplePreload => true
  | .clamp => true
  | .highz => true
  | .regAccess _ => true
  | .scan => true
  | .bypass => true
  | .testLogicReset => true
  | .debugLevelWrite _ _ => true
  | .dbgMemRead _ => true
  | .dbgMemWrite _ _ => true
  | .dbgHalt _ _ => true
  | .step _ v => decide (v.toNat.testBit 8)
  | .offset bytes => decide (bytes.length = 3)
  | .smbWrite bytes => decide (bytes.length = 8)
  | .smbRead => true
  | .auto _ => true
  | .last => true
  | .smbusTimeout => true
  | .clear _ _ v => decide (v.toNat.testBit 1)
  | .snapshot _ v => decide (v.toNat.testBit 0)
  | .captureEnable _ v => decide (v.toNat.testBit 0)
  | .capCiWrite _ _ => true
  | .telemetryFlush => true
  | .telemetry _ => true
  | .codeErrorOutsideFrame _ _ => true
  | .errorFreeIdlSets _ _ => true
  | .prbsByteError _ bytes => decide (bytes.length = 16)
  | .errorLineFall _ => true
  | .leaveHold _ _ _ => true
  | .unlistedOpcode _ => true
  | .hostLinkTrained _ width rate _ => decide (width < 3 ∧ 1 ≤ rate ∧ rate ≤ 6)
  | .configurationRequest _ _ => true

end Sys2Proof
end

