-- ==== Sys2Proof/Tests/Slice0.lean ====
section
/-! SUPPORT. The model's own tests: ill-formed commands are refused, small results the spec states, and for every statement
with hypotheses a state and operands that meet them, clause by clause. -/

set_option maxRecDepth 4000
-- The kernel decisions of this file wait for one another: one after the other, each holds no thread while it waits.
set_option Elab.async false

namespace Sys2Proof.Tests

open Sys2Proof.Machine

/-! ## Ill-formed commands -/

/-- One of these commands is well-formed. -/
def anyWf (cs : List Instr) : Bool := cs.any Instr.wf

theorem test_wf_registers : anyWf [.registerWrite 0 4 0, .registerWrite32bit 0 0 [], .registerReadClear 0 0 0,
    .progWrite 0 0, .progRead 0 0x3000000, .go 0 0x200, .confirm 0 0x100, .retrain 0 0 0, .readmit 0 0 0, .tableWrite 0 0x2000000,
    .tableRead 0 0, .copy 0 7, .adminEnable 0 0 2, .xltInvGo 0 0 0, .eqArm 0 0 0 0, .pairReset 0 0 0, .ccPairQuery 0 0 0] = false := by
  decide +kernel

theorem test_wf_commands : anyWf [.requestActive 0 1, .requestDoze 0 0, .requestStandby 0 3, .requestSleep 0 2, .rstCmdC 0 0,
    .rstCmdT 0 1, .rstCmdF 0 4, .rstCmdL 0 3, .kick 0 1, .release 0 0 0, .force 0 0 0x100000000, .step 0 1, .clear 0 0 1,
    .snapshot 0 2, .captureEnable 0 2, .offset [0, 0], .smbWrite [0], .tempSample 4096, .texReceived 0 []] = false := by
  decide +kernel

theorem test_wf_ports : anyWf [.modulePresenceChange 8 true, .wchReceived 0 [], .wchReceived 0 (List.replicate 33 0),
    .lveReceived 0 8, .trainingComplete 0 (.deskewed []), .frameReceived 0 0 [] true, .frameReceived 0 0 (List.replicate 17 [0]) true,
    .frameReceived 0 0 [[0], []] true, .initFrameReceived 0 ⟨0, []⟩, .prbsSync ⟨0, []⟩, .prbsByteError 0 [0], .ackSetReceived 0 [],
    .nakSetReceived 0 [0], .creditSetReceived 0 (List.replicate 11 0), .hostLinkTrained 0 3 1 true, .hostLinkTrained 0 0 7 true] = false := by
  decide +kernel

theorem test_wf_queues : anyWf [.indexDoorbell 0 16384 0, .inlineDoorbell 0 0 [0], .dbBad 0 1048576 1, .dbBad 0 64 8,
    .destroyWqDone 0 16384, .destroyEpDone 0 16777216, .revokeDone 0 524288, .disarmDone 4096, .descriptorFetch 0 16384,
    .descriptorFetchDone 0 16384 none, .phaseReread 0 16384, .operationStart 0 16384, .headIndexWrite 0 16384,
    .localReadDone 0 16384 none, .hostRequestTimeout 0 16384, .eventWrite 0 4096, .stashDrain 0 4096] = false := by
  decide +kernel

theorem test_wf_operations : anyWf [.putDescriptor 0 16384 0, .putDurableDescriptor 0 0 131072, .get 0 16384 0,
    .atomicDescriptor 0 0 131072, .atomicFetchDescriptor 0 16384 0, .send 0 0 131072, .recv 0 16384 0, .vpWrite 0 0 131072,
    .collective 0 16384 0, .nopDescriptor 0 0 131072] = false := by
  decide +kernel

theorem test_wf_completions : anyWf [.walkReadDone 0 16384 none, .pageRequestResponse 0 16384 true, .pageRequestTimeout 0 16384,
    .failHoldExpiry 0 16384, .fetchDone 0 16384 true, .pairQuietExpiry 0 16777216 0, .ackCoalesceTimeout 0 0 4398046511104,
    .e2eTimeout 0 0 0 16777216, .refusalRetry 0 16777216 0 0, .getReadDone 0 16384 none, .atomicReadDone 0 16384 none,
    .flushDone 0 16384 true, .matchRecordReadDone 0 16384 true, .kennelBlockReadDone 0 16384 true, .dataSlotReadDone 0 16384 none,
    .colRetransmit 4096 0 0, .colRetransmit 0 16 0, .armWaitExpiry 0 65] = false := by
  decide +kernel

/-! ## A small chip that runs

Chip 0 of a fabric of two chips: NP0 and NP1 are network ports, NP0 is UP; both host ports run. -/

def pic : ImageDesc :=
  { ports := [⟨.network, 0, 0⟩, ⟨.network, 0, 0⟩], sizes := [2], coords := [0], dimPorts := [(0, 1, 0)]
    part := { tableA := 1048576, tableB := 1048576, matching := 8388608, epcCache := 8388608, sheepdog := 4194304,
              staging := 16777216, replay := 16777216, capture := 1048576, park := 1048576, misc := 8388608, posted := 65536,
              unexp := 65536 }
    pools := [⟨16, 16, 16, false⟩, ⟨16, 16, 16, false⟩], classes := List.replicate 8 ⟨64, 512⟩, uses := ⟨0, 1, 2, 3, 4, 5, [6, 7]⟩
    laneSetup := [], tableA := [(0, 2, 9#64)], presets := [] }

def upPort : Port :=
  { portReset with
    lane := { laneReset with phase := .up, pll := .running, rxMask := 0xFFFF, partnerMask := 0xFFFF }
    link := { linkReset with phase := .up, peerSeen := true } }

def runHost : HostState := { hostReset with hif := { hifReset with linkUp := true, perst := false } }

def live : State :=
  { State.reset with
    image := some pic
    cfg := { cfgReset with state := .loaded }
    pwr := { pwrReset with coreOk := true, pwrgd := true, coreOn := true, corePll := .running, hostPll := Vector.replicate 2 .running }
    rst := { rstReset with phase := .running, cHeld := false, coreRel := true, hifRel := true, clearing := false, cold := false }
    ports := (Vector.replicate 64 portReset).set 0 upPort
    rtr := imageTables pic
    hosts := Vector.replicate 2 runHost }

/-- `live` with its NP0 changed. -/
def withPort (f : Port → Port) : State := live.modPort 0 f
def withLane (f : LaneState → LaneState) : State := live.modLane 0 f
def withLink (f : LinkState → LinkState) : State := live.modLink 0 f
def withHost (f : HostState → HostState) : State := live.modHost 0 f
def withPwr (f : PwrState → PwrState) : State := live.modPwr f
def withRst (f : RstState → RstState) : State := live.modRst f
/-- `live` with lock 5 of a master, or free. -/
def withLock (l : Lock) : State := { live with locks := live.locks.set 5 l }

theorem test_wf_images : anyWf [.activateCheckDone { pic with ports := List.replicate 65 ⟨.network, 0, 0⟩ },
    .imageStreamDone { pic with ports := List.replicate 65 ⟨.network, 0, 0⟩ }] = false := by
  decide +kernel

theorem test_live_runs : live.svcRuns = true ∧ live.routerRuns = true ∧ live.nicWorks = true ∧ live.memoriesOk = true := by
  decide +kernel

/-! ## Witnesses: the queue, the memories, locks and binding -/

theorem witness_EmptyQueueIdles : live.pending = [] ∧ live.fabricRuns = true ∧ live.tim.ratePpm = 0 ∧ 0 ≤ live.tim.rateAcc ∧
    live.tim.rateAcc < 1000000 ∧ live.wdogRuns = false ∧ (withPwr (fun p => { p with refclk := false })).fabricRuns = false ∧
    (live.fset F.RST_WDOG_EN 1).wdogRuns = true ∧
    ({ live with tim := { live.tim with rateAcc := 999999 } } : State).tim.rateAcc < 1000000 := by
  decide +kernel

theorem witness_StepKeepsMemories : live.memoriesOk = true ∧ ∃ t, step live = .next t := by
  exact ⟨by decide +kernel, _, rfl⟩

theorem witness_TrafficLeavesStanding : changesStanding (.sampleTick 1) = false ∧ changesStanding (.frameReceived 0 0 [] true) = false ∧
    changesStanding (.ack 3) = false ∧ (coreCycle live).agent.length ≤ 1 := by
  decide +kernel

theorem witness_StoreChangesOnlyAtPulseEnd : Instr.progWrite 0 0 ≠ .progPulseDone ∧ Instr.vddAonRise ≠ .vddAonLow := by
  decide +kernel

theorem witness_LockAcquire : live.svcRuns = true ∧ live.locks[5].held = false ∧
    (withLock ⟨true, false, false, 1⟩).locks[(5 : Fin 256)].held = true ∧ (withLock ⟨true, false, false, 1⟩).locks[(5 : Fin 256)].owner = 1#8 ∧
    (withLock ⟨true, false, false, 1⟩).locks[(5 : Fin 256)].owner ≠ 0#8 ∧ (withLock ⟨true, false, false, 1⟩).svcRuns = true ∧
    bitOf (0x100000000 : Word) 32 = true ∧ bitOf (0x100000000 : Word) 33 = false := by
  decide +kernel

theorem witness_LockWrites : live.svcRuns = true ∧ live.fget F.FLT_PROMOTE_PROMOTE = 0 ∧ live.locks[(5 : Fin 256)].held = false ∧
    bitOf (0x100000000 : Word) 32 = true ∧ bitOf (0x100000000 : Word) 33 = false ∧ bitOf (0xA50200000000 : Word) 32 = false ∧
    bitOf (0xA50200000000 : Word) 33 = true ∧ fieldOf (0xA50200000000 : Word) 47 40 = 0xA5 ∧ fieldOf (0x200000000 : Word) 47 40 ≠ 0xA5 ∧
    bitOf (0x200000000 : Word) 33 = true ∧ (withLock ⟨true, true, true, 7⟩).locks[(5 : Fin 256)].owner = 7#8 ∧
    (withLock ⟨true, true, true, 7⟩).locks[(5 : Fin 256)].waiter = true ∧ (withLock ⟨true, false, false, 7⟩).locks[(5 : Fin 256)].waiter = false ∧
    ¬ (live.locks[(5 : Fin 256)].held = true ∧ live.locks[(5 : Fin 256)].owner = 7#8) := by
  decide +kernel

/-- `live` under a binding state. -/
def bindIn (n : Nat) : State := live.fset F.AON_BIND_STATE n

theorem witness_BindingState : live.rst.pHeld = false ∧
    ((bindIn 2).fget F.AON_BIND_STATE = 2 ∧ fieldOf (1 : Word) 1 0 ≠ 2 ∧ (2 : Mid) ≠ 0#8 ∧ (2 : Mid) ≠ 1#8) ∧
    ((live.fget F.AON_BIND_STATE ≠ 2) ∧ fieldOf (1 : Word) 1 0 = 1 ∧ (live.fset F.DBG_LEVEL_LEVEL 2).fget F.DBG_LEVEL_LEVEL = 2) ∧
    (fieldOf (3 : Word) 1 0 = 3 ∧ live.fget F.DBG_LEVEL_LEVEL ≠ 2) ∧
    (fieldOf (0 : Word) 1 0 = live.fget F.AON_BIND_STATE) ∧
    (fieldOf (1 : Word) 1 0 ≠ live.fget F.AON_BIND_STATE ∧ (State.reset.port 0).link.phase ≠ .up ∧ (live.port 0).link.phase = .up ∧
      ∀ p, (State.reset.port p).link.phase ≠ .up) := by
  decide +kernel

/-! ## Witnesses: the TAP, debug, registers, the buses and the agent -/

/-- `live` at a debug level. -/
def debugAt (n : Nat) : State := live.fset F.DBG_LEVEL_LEVEL n

def sampled : State := jtagSample live

theorem witness_TapInstructions : live.pwr.vddAon = true ∧ (∀ k : Fin 256, live.locks[k].held = true → live.locks[k].owner ≠ 1#8) ∧
    ¬ (1#8 ∈ live.cfg.unlocked) ∧ (bindIn 1).fget F.AON_BIND_STATE = 1 ∧ (withPwr (fun p => { p with state := .sleep })).pwr.state = .sleep ∧
    live.fget F.AON_BIND_STATE ≠ 1 ∧ live.pwr.state ≠ .sleep ∧ sampled.jtag.boundary.isSome = true ∧
    (jtagLoad .extest sampled).jtag.instr = .extest ∧ (jtagLoad .highz sampled).jtag.instr = .highz ∧
    live.fget F.DBG_LEVEL_LEVEL ≠ 2 ∧ State.reset.svcRuns = false ∧ (debugAt 2).svcRuns = true ∧ (debugAt 2).fget F.DBG_LEVEL_LEVEL = 2 := by
  decide +kernel

theorem witness_DebugAccess : live.svcRuns = true ∧ live.fget F.FLT_PROMOTE_PROMOTE = 0 ∧
    (fieldOf (2 : Word) 1 0 = 2 ∧ (bindIn 1).fget F.AON_BIND_STATE = 1 ∧ live.fget F.AON_BIND_STATE ≠ 1) ∧
    (fieldOf (2 : Word) 15 8 ≠ 0xA5 ∧ fieldOf (0xA502 : Word) 15 8 = 0xA5 ∧ fieldOf (0xA502 : Word) 1 0 = 2) ∧
    fieldOf (1 : Word) 1 0 < 2 ∧ (debugAt 1).fget F.DBG_LEVEL_LEVEL ≠ 0 ∧ live.fget F.DBG_LEVEL_LEVEL = 0 ∧
    tblGet (8 * (debugAt 1).fget F.DBG_MEM_ADDR_ADDR) (tblSet 0 (7 : Word) []) = some 7 ∧
    (debugAt 1).fget F.DBG_LEVEL_LEVEL ≠ 2 ∧ (debugAt 2).fget F.DBG_LEVEL_LEVEL = 2 ∧ bitOf (1 : Word) 8 = false ∧
    bitOf (0x101 : Word) 8 = true ∧ bitOf (0x101 : Word) 0 = true ∧ (debugAt 2).routerRuns = true := by
  decide +kernel

theorem witness_RegisterWrite :
    (msixHere live 0x20 = none ∧ regAt 0x20 = some (.SYS_SCRATCH, 0, 0) ∧ live.answers (regPlace .SYS_SCRATCH).block 0 = true ∧
      plainWritten .SYS_SCRATCH = true ∧ ofPort .SYS_SCRATCH = false) ∧
    (let off := regAddr .LAN_CMP_ERR 1 0;
      msixHere live off = none ∧ regAt off = some (.LAN_CMP_ERR, 1, 0) ∧ live.answers (regPlace .LAN_CMP_ERR).block 1 = true ∧ off % 8 = 0 ∧
      plainWritten .LAN_CMP_ERR = true ∧ live.role (portIx 1) ≠ .disabled) ∧
    (let off := regAddr .LAN_CFG 0 0;
      msixHere live off = none ∧ regAt off = some (.LAN_CFG, 0, 0) ∧ live.answers (regPlace .LAN_CFG).block 0 = true ∧ off % 8 = 0 ∧
      holdsStatic .LAN_CFG = true ∧ live.role (portIx 0) ≠ .disabled ∧ live.flag F.CFG_WHILE_LIVE_FLAG = false) ∧
    (let off := regAddr .LAN_CFG 63 0;
      msixHere live off = none ∧ regAt off = some (.LAN_CFG, 63, 0) ∧ live.answers (regPlace .LAN_CFG).block 63 = true ∧ off % 8 = 0 ∧
      ofPort .LAN_CFG = true ∧ live.role (portIx 63) = .disabled) ∧
    (msixHere live 0x2000 = none ∧ regHere live 0x2000 = none) ∧
    (msixHere live 0xFFFFFF = none ∧ 0xFFFFFF % 8 ≠ 0 ∧ live.fget F.FLT_PROMOTE_PROMOTE = 0) := by
  decide +kernel

theorem witness_RegisterRead :
    (let off := regAddr .LAN_CMP_ERR 1 0;
      msixHere live off = none ∧ regAt off = some (.LAN_CMP_ERR, 1, 0) ∧ live.answers (regPlace .LAN_CMP_ERR).block 1 = true ∧ off % 8 = 0 ∧
      [RegId.SEM_LOCK, .AON_RSRAM_DATA, .DBG_MEM_DATA].contains .LAN_CMP_ERR = false) ∧
    (msixHere live 0x2000 = none ∧ regHere live 0x2000 = none) ∧
    (¬ (7 = 8 ∧ 0x20 % 8 = 0) ∧ ¬ (7 = 4 ∧ 0x20 % 4 = 0)) ∧ (¬ (4 = 8 ∧ 0x22 % 8 = 0) ∧ ¬ (4 = 4 ∧ 0x22 % 4 = 0)) ∧
    live.fget F.FLT_PROMOTE_PROMOTE = 0 ∧ live.flag F.FLT_FIRST_INFO_VALID = false := by
  decide +kernel

/-- The shift register of REG_ACCESS: an offset and whether it writes. -/
def drOf (write : Bool) (off : Nat) : BitVec 92 := BitVec.ofNat 92 (off * 2 ^ 64 + b2n write * 2 ^ 88)

theorem witness_TapRegisterAccess : live.pwr.vddAon = true ∧
    ((drOf true 0x20).toNat.testBit 88 = true ∧ offsetAnswers live ((drOf true 0x20).extractLsb' 64 24).toNat = true) ∧
    ((drOf true 0xFFFFFF).toNat.testBit 88 = true ∧ offsetAnswers live ((drOf true 0xFFFFFF).extractLsb' 64 24).toNat = false) ∧
    ((drOf false 0x20).toNat.testBit 88 = false ∧ offsetAnswers live ((drOf false 0x20).extractLsb' 64 24).toNat = true) ∧
    ((drOf false 0x2000).toNat.testBit 88 = false ∧ offsetAnswers live ((drOf false 0x2000).extractLsb' 64 24).toNat = false) := by
  decide +kernel

/-- `live` with the management-bus target's offset set. -/
def smbAt (off : Nat) : State := { live with smb := { live.smb with offset := BitVec.ofNat 24 off } }

theorem witness_BusAccesses : smbServes live = true ∧
    ((smbAt 0x21).smb.offset.toNat % 8 ≠ 0 ∧ smbServes (smbAt 0x21) = true) ∧
    ((smbAt 0x2000).smb.offset.toNat % 8 = 0 ∧ offsetAnswers (smbAt 0x2000) (smbAt 0x2000).smb.offset.toNat = false ∧
      smbServes (smbAt 0x2000) = true) ∧
    (offsetAnswers (smbAt 0x20) (smbAt 0x20).smb.offset.toNat = true ∧ smbServes (smbAt 0x20) = true) ∧
    (List.replicate 8 0xFF#8).length = 8 ∧ ([1, 2, 3] : Bytes).length = 3 ∧
    ((∀ k : Fin 256, live.locks[k].held = true → live.locks[k].owner ≠ 0#8) ∧ ¬ (0#8 ∈ live.cfg.unlocked)) ∧
    State.reset.rst.pHeld = false ∧ ({ live with rst := { live.rst with pHeld := true } } : State).rst.pHeld = true := by
  decide +kernel

/-- A packet as an ejection buffer holds it. -/
def ejected (p : Packet) : InPacket :=
  { pkt := p, tc := pktTc p, arrived := 0, fabric := 0, fixes := 0, whole := true, dwell := 0, bounced := false, owed := false }

/-- A packet at the head of IP0's ejection buffer. -/
def ejects (p : Packet) (s : State) : State :=
  s.modInt 0 (fun x => { x with eject := [ejected p] })

/-- A request to the management agent from chip 1. -/
def mgmtPkt (op off : Nat) : Packet :=
  mkPkt (newW0 1 0 0 1) (newW1 0 0 0x0D true true false)
    (leBytes 3 5 ++ leBytes 1 op ++ leBytes 2 0 ++ leBytes 3 off ++ leBytes 31 0 ++ leBytes 8 0)

theorem witness_LockAcquire_agent :
    (let p := mgmtPkt 1 (regAddr .SEM_LOCK 0 5); let s := ejects p live;
      s.svcRuns = true ∧ s.ints[(0 : IntPort)].eject = [ejected p] ∧ s.agentWorks = true ∧ pktOpcode p = 0x0D ∧ pcrcOk p = true ∧ pktTc p = 0 ∧
      pktFmt p = 1 ∧ pktLenOk p = true ∧ pktAt p 19 1 = 1 ∧ pktAt p 22 3 = regAddr .SEM_LOCK 0 5 ∧ s.agent = [] ∧ s.binding = 0) := by
  decide +kernel

/-- `live` bound, with chip `mgr` in AON_MGR. -/
def managedBy (mgr : Nat) : State := (bindIn 1).setWord .AON_MGR (BitVec.ofNat 64 (mgr + 2 ^ 18)) 0 3

theorem witness_ManagementAgent :
    (let p := mgmtPkt 1 0x20;
      ((ejects p live).ints[(0 : IntPort)].eject.head?.map (·.pkt)) = some p ∧ (ejects p live).agentWorks = true ∧ pktOpcode p = 0x0D ∧
      pcrcOk p = true ∧ pktTc p = 0 ∧ pktFmt p = 1 ∧ pktLenOk p = true ∧ pktAt p 19 1 = 1 ∧ pktAt p 22 3 = 0x20 ∧
      (ejects p live).binding = 0 ∧ (ejects p (bindIn 1)).binding = 1 ∧ (ejects p (bindIn 2)).binding = 2 ∧
      (ejects p (bindIn 2)).agentWorks = true) ∧
    (let p := mgmtPkt 2 0x20;
      (ejects p live).agentWorks = true ∧ pktOpcode p = 0x0D ∧ pcrcOk p = true ∧ pktTc p = 0 ∧ pktFmt p = 1 ∧ pktLenOk p = true ∧
      pktAt p 19 1 = 2 ∧ pktSrcChip p = 1 ∧ live.binding = 0 ∧
      ((managedBy 1).binding = 1 ∧ bitOf ((managedBy 1).regWord .AON_MGR 0 3) 18 = true ∧
        fieldOf ((managedBy 1).regWord .AON_MGR 0 3) 17 0 = 1) ∧
      ((bindIn 1).binding = 1 ∧ ∀ k, k < 4 → bitOf ((bindIn 1).regWord .AON_MGR 0 k) 18 = false) ∧
      ((managedBy 2).binding = 1 ∧ bitOf ((managedBy 2).regWord .AON_MGR 0 3) 18 = true ∧
        ∀ k, k < 4 → ¬ (bitOf ((managedBy 2).regWord .AON_MGR 0 k) 18 = true ∧ fieldOf ((managedBy 2).regWord .AON_MGR 0 k) 17 0 = 1))) ∧
    live.agent = [] ∧ (List.replicate 15 (mgmtPkt 1 0)).length < 16 ∧ 16 ≤ (List.replicate 16 (mgmtPkt 1 0)).length := by
  decide +kernel

theorem witness_CounterCommands : live.svcRuns = true ∧ bitOf (2 : Word) 1 = true ∧ bitOf (1 : Word) 0 = true ∧ bitOf (2 : Word) 0 = false := by
  decide +kernel

/-- `live` with the capture ring of 2 ^ 6 entries, DEST 1 and PI at `pi`. -/
def ringAt (dest : Bool) (pi : Nat) : State :=
  ({ live with cap := { live.cap with logSize := 6, dest := dest } } : State).fset F.CAP_PI_PI pi

def telemetryPkt : Packet :=
  mkPkt (newW0 2 0 0 1) (newW1 0 0 0x26 true true false) (longBody (leBytes 2 0 ++ leBytes 1 1 ++ leBytes 2 64) (List.replicate 64 0))

theorem witness_CaptureRing : live.svcRuns = true ∧ (bitOf (0x18 + 1 : Word) 0 = true ∧ live.flag F.CAP_CTL_EN = false ∧ 6 ≤ fieldOf (0x19 : Word) 5 2) ∧
    (capLog (ringAt false 64) = 6 ∧ (ringAt false 64).cap.dest = false ∧
      ((ringAt false 64).fget F.CAP_PI_PI + 2 * 64 - 0 % (2 * 64)) % (2 * 64) ≤ 64) ∧
    (64 < ((ringAt false 65).fget F.CAP_PI_PI + 2 * 64 - 0 % (2 * 64)) % (2 * 64) ∧ (ringAt true 0).cap.dest = true) ∧
    ((ringAt true 64).svcRuns = true ∧ 0 < capCount (ringAt true 64) ∧ capCount (ringAt true 0) = 0) ∧
    (let p := telemetryPkt;
      (ejects p live).agentWorks = true ∧ pktOpcode p = 0x26 ∧ pcrcOk p = true ∧ pktFmt p = 2 ∧ pktLenOk p = true ∧
      (takeEject 0 (ejected p) (ejects p live)).flag F.CAP_CTL_COLLECT = false ∧
      (takeEject 0 (ejected p) ((ejects p live).fset F.CAP_CTL_COLLECT 1)).flag F.CAP_CTL_COLLECT = true) := by
  decide +kernel

/-! ## Witnesses: errors, resets and the start -/

/-- `live` with error lines high. -/
def withLines (n : Nat) (s : State) : State := { s with flt := { s.flt with lines := n } }
def muzzled (s : State) : State := { s with flt := { s.flt with muzzle := true } }

theorem witness_ErrorLines : live.fget F.FLT_PROMOTE_PROMOTE = 0 ∧
    (lineReaches live 10 = true ∧ live.flt.lines.testBit 10 = false ∧ faultClass 10 ≠ 2 ∧ faultClass 63 ≠ 2 ∧ lineReaches live 63 = true) ∧
    (lineReaches live 0 = true ∧ live.flt.lines.testBit 0 = false ∧ faultClass 0 = 2 ∧ live.flt.muzzle = false ∧ faultClass 7 = 2) ∧
    (lineReaches State.reset 12 = false ∧ (withLines 1 live).flt.lines.testBit 0 = true) ∧
    (lineReaches live 12 = true ∧ live.flt.lines.testBit 12 = false) ∧
    (let s := muzzled (live.fset F.FLT_CTL_ESC_RESET 1);
      s.flt.muzzle = true ∧ s.flag F.FLT_CTL_ESC_RESET = true ∧ fatalLow s = true ∧ s.pwr.state ≠ .standby ∧ s.pwr.state ≠ .sleep ∧
      (∀ q ∈ s.rst.waiting, q.source ≠ 8)) := by
  decide +kernel

theorem witness_FaultInjection : live.rst.pHeld = false ∧ live.fget F.FLT_PROMOTE_PROMOTE = 0 ∧ fieldOf (0 : Word) 23 16 ≠ 0xA5 ∧
    fieldOf (0xA50000 : Word) 23 16 = 0xA5 ∧ (withLines 1 live).flt.lines.testBit 0 = true ∧ (withLines 1 live).rst.pHeld = false ∧
    (fieldOf (0xA5003F : Word) 23 16 = 0xA5 ∧ live.flt.lines.testBit (fieldOf (0xA5003F : Word) 5 0) = false ∧
      faultClass (fieldOf (0xA5003F : Word) 5 0) ≠ 2) ∧
    (fieldOf (0xA50007 : Word) 23 16 = 0xA5 ∧ live.flt.lines.testBit (fieldOf (0xA50007 : Word) 5 0) = false ∧
      faultClass (fieldOf (0xA50007 : Word) 5 0) = 2) := by
  decide +kernel

/-- `live` with bit 10 of FLT_STATUS set and enabled for the alert. -/
def alerting : State := (live.fset F.FLT_STATUS_SRC 0x400).fset F.FLT_ALERT_EN_EN 0x400

theorem witness_AlertLine : live.flt.alertAck = false ∧ alerting.flt.alertAck = false ∧
    (∀ k, k < 64 → ((alerting.fget F.FLT_STATUS_SRC).testBit k && (alerting.fget F.FLT_ALERT_EN_EN).testBit k) = true →
      bitOf (0x400 : Word) k = true ∧ alerting.flt.lines.testBit k = false) ∧ alerting.rst.pHeld = false ∧ alerting.alertN = true := by
  decide +kernel

theorem witness_ResetRequests : live.rst.resetN = false ∧ live.rst.pHeld = false ∧
    fieldOf (0xA50001 : Word) 23 16 = 0xA5 ∧ fieldOf (0xA50001 : Word) 2 0 = 1 ∧ fieldOf (0xA50002 : Word) 2 0 = 2 ∧
    (fieldOf (0xA50003 : Word) 2 0 = 3 ∧ fieldOf (0xA50003 : Word) 9 4 ≤ 1 ∧ live.hostPresent 0 = true) ∧
    (fieldOf (0xA50004 : Word) 2 0 = 4 ∧ live.role (BitVec.ofNat 6 (fieldOf (0xA50004 : Word) 9 4)).toFin ≠ .disabled) ∧
    (4 < fieldOf (0xA50007 : Word) 2 0 ∧ fieldOf (0xA50000 : Word) 2 0 = 0 ∧ fieldOf (0xA50023 : Word) 2 0 = 3 ∧ 1 < fieldOf (0xA50023 : Word) 9 4) ∧
    (fieldOf (0xA503F4 : Word) 2 0 = 4 ∧ live.role (BitVec.ofNat 6 (fieldOf (0xA503F4 : Word) 9 4)).toFin = .disabled) ∧
    fieldOf (1 : Word) 23 16 ≠ 0xA5 ∧ bitOf (0x100000000 : Word) 32 = true ∧
    ((live.fset F.RST_WDOG_EN 1).flag F.RST_WDOG_EN = true ∧ (live.fset F.RST_WDOG_EN 1).pwr.state = .active) ∧
    live.flag F.RST_WDOG_EN = false := by
  decide +kernel

/-- `live` with a reset waiting. -/
def waitsReset (k : ResetKind) (tgt : Nat) : State := withRst (fun r => { r with waiting := [⟨k, tgt, 5, 0#8, false⟩] })

theorem witness_ResetTakesHold : live.fget F.FLT_PROMOTE_PROMOTE = 0 ∧
    ((waitsReset .C 0).rst.waiting = [⟨.C, 0, 5, 0#8, false⟩] ∧ (waitsReset .C 0).rst.pHeld = false ∧ (waitsReset .C 0).cfg.prog = none) ∧
    (({ waitsReset .C 0 with cfg := { live.cfg with prog := some (.write 0 [] false) } } : State).cfg.prog = some (.write 0 [] false)) ∧
    (waitsReset .T 0).coreRuns = true ∧
    ((waitsReset .F 1).rst.waiting = [⟨.F, (1 : HostPort).val, 5, 0#8, false⟩]) ∧
    ((waitsReset .L 1).rst.waiting = [⟨.L, (1 : NetPort).val, 5, 0#8, false⟩] ∧ (waitsReset .L 1).routerRuns = true ∧
      (waitsReset .L 1).role 1 ≠ .disabled) := by
  decide +kernel

theorem witness_StartUp :
    (let s := withPwr (fun p => { p with pwrgd := true });
      let u : State := { s with rst := { s.rst with cHeld := true } };
      u.rst.cHeld = true ∧ u.rst.pHeld = false ∧ u.rst.resetN = false ∧ u.pwr.pwrgd = true ∧ u.flt.muzzle = false ∧ u.rst.cold = false) ∧
    State.reset.rst.cold = true ∧ live.rst.cHeld = false ∧
    (withPwr (fun p => { p with corePll := .starting })).pwr.corePll = .starting ∧
    (withPwr (fun p => { p with hostPll := Vector.replicate 2 .starting })).pwr.hostPll[(1 : HostPort)] = .starting ∧
    live.fget F.FLT_PROMOTE_PROMOTE = 0 ∧
    ((withLane (fun l => { l with pll := .starting })).port 0).lane.pll = .starting ∧
    ((withRst (fun r => { r with cold := true, phase := .sramTest })).rst.cold = true ∧
      (withRst (fun r => { r with cold := true, phase := .sramTest })).rst.phase = .sramTest ∧
      (withRst (fun r => { r with cold := true, phase := .sramTest })).flt.muzzle = false) ∧
    (withRst (fun r => { r with phase := .sramClear })).rst.phase = .sramClear ∧
    (withRst (fun r => { r with tHeld := true })).rst.tHeld = true ∧
    ((withLane (fun l => { l with stopped := true })).port 0).lane.stopped = true ∧ (live.port 0).lane.stopped = false := by
  decide +kernel

/-! ## Witnesses: lanes and links -/

/-- NP0 of `live` in a phase of its lanes. -/
def inPhase (ph : LanePhase) : State := withLane (fun l => { l with phase := ph })

/-- What the receiver finds on lane `k` of a port that trains: the first K28.5 at RD−, in its place and in time. -/
def lane0 (k : Nat) : LaneCheck := { comma := 0b0011111010, reversed := false, number := k, skew := 1250 }

/-- R50, R51: K28.5 at RD− is 0011111010; reversed lanes take the group inverted, and a lane in another place or out of the skew limit is no good. -/
theorem test_lane_checks : laneGood 3 (lane0 3) = true ∧ laneGood 3 (lane0 4) = false ∧ laneGood 3 { lane0 3 with skew := -1251 } = false ∧
    laneGood 3 { lane0 3 with comma := ~~~0b0011111010, reversed := true } = true := by
  decide +kernel

theorem witness_Training :
    ((inPhase .waitClock).port 0).lane.phase = .waitClock ∧
    ((max (2 * 15640624) 31250000 - min (2 * 15640624) 31250000) * 1000 ≤ 31250000) ∧
    (31250000 < (max (2 * 15640626) 31250000 - min (2 * 15640626) 31250000) * 1000) ∧
    (max (2 * 15609375) 31250000 - min (2 * 15609375) 31250000) * 1000 ≤ 31250000 ∧
    ((inPhase .exchange).port 0).lane.phase = .exchange ∧
    ¬ ((live.port 0).lane.phase = .eq ∨ (live.port 0).lane.phase = .align ∨ (live.port 0).lane.phase = .exchange) ∧
    ((inPhase .retry).port 0).lane.phase = .retry ∧ ((inPhase .align).port 0).lane.phase = .align ∧ trainRate (inPhase .waitClock) 0 = 0 ∧
    ((List.range 16).map lane0)[15]? = some (lane0 15) ∧
    chooseGroup (0xFFFF#16).toNat ((inPhase .eq).fget F.LAN_CTL_WIDTH 0) ((inPhase .eq).fget F.LAN_CTL_GROUP 0) = some (0, 0) ∧
    chooseGroup (0xF000#16).toNat ((inPhase .eq).fget F.LAN_CTL_WIDTH 0) ((inPhase .eq).fget F.LAN_CTL_GROUP 0) = some (2, 3) ∧
    chooseGroup (0x7FF7#16).toNat ((inPhase .eq).fget F.LAN_CTL_WIDTH 0) ((inPhase .eq).fget F.LAN_CTL_GROUP 0) = some (2, 1) ∧
    chooseGroup (0xEEEE#16).toNat ((inPhase .eq).fget F.LAN_CTL_WIDTH 0) ((inPhase .eq).fget F.LAN_CTL_GROUP 0) = none ∧
    (let s := (withLane (fun l => { l with phase := .off, pll := .running })).fset F.LAN_CTL_MODE 2 0;
      s.routerRuns = true ∧ s.role 0 ≠ .disabled ∧ s.fget F.LAN_CTL_MODE (0 : NetPort).val = 2 ∧ fieldOf (0 : Word) 7 6 = 0 ∧
      bitOf (0 : Word) 32 = false ∧ (s.port 0).lane.phase = .off ∧ (s.port 0).lane.stopped = false ∧ (s.port 0).lane.pll = .running ∧
      s.modprs.toNat.testBit ((0 : NetPort).val / 8) = false) := by
  decide +kernel

/-- NP0 of `live` asleep in both directions, after failed wakes. -/
def asleep (fails : Nat) : State := withLane (fun l => { l with txAsleep := true, rxAsleep := true, wakeFails := fails })

/-- NP0 of `live` after a failed wake. -/
def deafened : State := withLane (fun l => { l with deaf := true })

theorem witness_LaneSleepAndWake : live.routerRuns = true ∧ (live.port 0).lane.phase = .up ∧
    (let s := live.fset F.LAN_CTL_SLEEP_IDLE 1 0;
      (s.port 0).lane.txAsleep = false ∧ (s.port 0).lane.waking = 0 ∧ (s.port 0).lane.adding = 0 ∧ s.fget F.LAN_CTL_SLEEP_IDLE (0 : NetPort).val ≠ 0 ∧
      txIdle s 0 = true ∧ creditsAwaited s 0 = false) ∧
    (live.fset F.LAN_CTL_SLEEP_IDLE 0 0).fget F.LAN_CTL_SLEEP_IDLE (0 : NetPort).val = 0 ∧
    (let l := (live.port 0).lane; l.rxAsleep = false ∧ l.deaf = false) ∧
    ((deafened.port 0).lane.rxAsleep = false ∧ (deafened.port 0).lane.deaf = true ∧ deafened.routerRuns = true ∧ (deafened.port 0).lane.phase = .up) ∧
    ((asleep 0).port 0).lane.txAsleep = true ∧ ((asleep 0).port 0).lane.widthDue = false ∧ (asleep 0).routerRuns = true ∧
    ([(0xFF00, none), (0xFFFF, some (1, 0))].all (fun x =>
      let s := (withLane (fun l => { l with txAsleep := true, widthDue := true, partnerMask := x.1 })).fset F.LAN_CTL_WIDTH 1 0
      decide ((s.port 0).lane.txAsleep = true ∧ (s.port 0).lane.widthDue = true ∧
        usableGroup (s.port 0).lane.partnerMask (s.fget F.LAN_CTL_WIDTH 0) (s.fget F.LAN_CTL_GROUP 0) = x.2))) = true ∧
    (((asleep 1).port 0).lane.rxAsleep = true ∧ ((asleep 1).port 0).lane.wakeFails < 2) ∧
    (((asleep 2).port 0).lane.rxAsleep = true ∧ 2 ≤ ((asleep 2).port 0).lane.wakeFails ∧ (asleep 2).role 0 ≠ .disabled ∧
      (asleep 2).fget F.FLT_PROMOTE_PROMOTE = 0) := by
  decide +kernel

theorem witness_LaneErrors : laneHears live 0 15 = true ∧ laneHears live 1 0 = false ∧ live.fget F.FLT_PROMOTE_PROMOTE = 0 ∧
    (heardError (decodeGroup false 0) = true ∧ (heardChar (decodeGroup false 0b1011101000)).any misplaced = true ∧
      heardError (decodeGroup false 0b0011111010) = false ∧ (heardChar (decodeGroup false 0b0011111010)).any misplaced = false ∧
      (live.port 0).lane.deaf = false ∧ (deafened.port 0).lane.deaf = true) ∧
    ((inPhase .compliance).port 0).lane.phase = .compliance ∧ (inPhase .compliance).fget F.LAN_CTL_PATTERN (0 : NetPort).val = 0 ∧
    ((withLane (fun l => { l with phase := .compliance, cmpSync := true })).port 0).lane.cmpSync = true ∧
    ¬ ((live.port 0).lane.phase = .compliance ∧ live.fget F.LAN_CTL_PATTERN (0 : NetPort).val = 0) ∧
    ¬ ((live.port 0).lane.phase = .compliance ∧ (live.port 0).lane.cmpSync = true) := by
  decide +kernel

theorem witness_PortsLeave : live.routerRuns = true ∧ live.role 0 ≠ .disabled ∧ live.fget F.FLT_PROMOTE_PROMOTE = 0 ∧
    (live.port 0).lane.phase = .up ∧ (live.port 0).link.phase = .up ∧ (live.port 0).lane.rxAsleep = false ∧ (live.port 0).lane.deaf = false ∧
    ((deafened.port 0).lane.phase = .up ∧ (deafened.port 0).lane.rxAsleep = false ∧ (deafened.port 0).lane.deaf = true) ∧ bitOf (0x100000000 : Word) 32 = true ∧
    ((withLink (fun l => { l with phase := .init })).port 0).link.phase = .init ∧
    (let s := (withLink (fun l => { l with winCount := 64 })).fset F.LNK_ERRWIN_LIMIT 64 0;
      s.fget F.LNK_ERRWIN_LIMIT (0 : NetPort).val ≠ 0 ∧ s.fget F.LNK_ERRWIN_LIMIT (0 : NetPort).val ≤ (s.port 0).link.winCount) ∧
    (let s := withRst (fun r => { r with bindDue := true });
      s.rst.bindDue = true ∧ ∀ q, (s.port q).link.phase = .up → s.role q ≠ .disabled) := by
  decide +kernel

/-- NP0 of `live` with a change to eight lanes waiting: the partner's mask, the width in use, and the lanes being woken. -/
def widening (mask width adding wait : Nat) : State :=
  (withLane (fun l => { l with widthDue := true, partnerMask := mask, txWidth := width, adding := adding, addWait := wait })).fset F.LAN_CTL_WIDTH 1 0
/-- The group that NP0 is asked to use, and the lanes it would add. -/
def asked0 (s : State) : Option (Nat × Nat) :=
  usableGroup (s.port 0).lane.partnerMask (s.fget F.LAN_CTL_WIDTH (0 : NetPort).val) (s.fget F.LAN_CTL_GROUP (0 : NetPort).val)
def added0 (s : State) : Nat := (groupMask 1 0 ||| txLanes (s.port 0).lane) - txLanes (s.port 0).lane

theorem witness_PresenceAndWidth : live.fget F.FLT_PROMOTE_PROMOTE = 0 ∧ live.routerRuns = true ∧ hears live 0 = true ∧
    (0 : NetPort).val / 8 = 0 ∧ (8 : NetPort).val / 8 ≠ 0 ∧
    (let s := withLane (fun l => { l with phase := .noModule, pll := .running });
      (s.port 0).lane.phase = .noModule ∧ s.role 0 ≠ .disabled ∧ (s.port 0).lane.stopped = false ∧
      (s.port 0).lane.pll = .running ∧ s.fget F.LAN_CTL_MODE (0 : NetPort).val = 0) ∧
    ((live.port 0).lane.phase = .up ∧ (live.port 0).lane.widthDue = false ∧ ((asleep 0).port 0).lane.txAsleep = true) ∧
    (let l := (widening 0xFF00 0 0 0).port 0; l.lane.phase = .up ∧ l.lane.txAsleep = false ∧ l.link.tx = none ∧ l.lane.widthDue = true) ∧
    asked0 (widening 0xFF00 0 0 0) = none ∧
    (asked0 (widening 0xFFFF 0 0 0) = some (1, 0) ∧ added0 (widening 0xFFFF 0 0 0) = 0) ∧
    (let s := widening 0xFFFF 2 0 0; asked0 s = some (1, 0) ∧ added0 s = 0xF0 ∧ (s.port 0).lane.adding &&& 0xF0 ≠ 0xF0) ∧
    (let s := widening 0xFFFF 2 0xF0 1; added0 s = 0xF0 ∧ (s.port 0).lane.adding &&& 0xF0 = 0xF0 ∧ (s.port 0).lane.addWait ≠ 0) ∧
    (let s := widening 0xFFFF 2 0xF0 0; added0 s = 0xF0 ∧ (s.port 0).lane.adding &&& 0xF0 = 0xF0 ∧ (s.port 0).lane.addWait = 0) ∧
    (majority ([1, 5, 1].map (· % 16)) = some 1 ∧ 1 % 4 ≠ 3) ∧ majority ([1, 5].map (· % 16)) = none ∧ majority ([3, 3].map (· % 16)) = some 3 ∧
    (receives deafened 0 = true ∧ (deafened.port 0).lane.deaf = true) ∧ receives live 1 = false := by
  decide +kernel

/-! ## Witnesses: supplies and power -/

/-- `live` in a P reset. -/
def inPReset : State := withRst (fun r => { r with pHeld := true })
/-- `live` in a power state. -/
def inPower (p : PowerState) : State := withPwr (fun x => { x with state := p })

theorem witness_Supplies :
    (inPReset.rst.pHeld = true ∧ inPReset.pwr.vddAon = true ∧ inPReset.pwr.refclk = true ∧ inPReset.pwr.pwrgd = true) ∧
    (let s : State := { inPReset with pwr := { inPReset.pwr with pwrgd := false } };
      s.rst.pHeld = true ∧ s.pwr.vddAon = true ∧ s.pwr.refclk = true ∧ s.pwr.pwrgd = false) ∧
    (live.pwr.coreOk = true ∧ State.reset.pwr.coreOk = false ∧ State.reset.pwr.pwrgd = false) ∧
    (let s := withPwr (fun p => { p with state := .standby });
      s.timeSync = false ∧ s.rst.pHeld = false ∧ (inPReset.timeSync = false ∧ inPReset.rst.pHeld = true) ∧
      (withLines 4 live).flt.lines.testBit 2 = true) ∧
    live.rst.pHeld = false ∧ (inPower .sleep).pwr.state = .sleep ∧ live.pwr.state = .active ∧ live.flt.lines.testBit 0 = false ∧
    live.flt.lines.testBit 2 = false ∧ live.fget F.FLT_PROMOTE_PROMOTE = 0 ∧
    (withPwr (fun p => { p with pfwActive := true })).pwr.pfwActive = true ∧ live.pwr.pfwActive = false ∧ live.rst.cHeld = false ∧
    State.reset.rst.cHeld = true ∧ State.reset.rst.cold = true ∧
    ((inPower .standby).pwr.state = .standby ∧ (inPower .standby).timeSync = false) := by
  decide +kernel

theorem witness_PowerFailSequence : live.rst.pHeld = false ∧ live.fget F.FLT_PROMOTE_PROMOTE = 0 ∧
    (let v := (BitVec.ofNat 12 0).toInt;
      tempOver live.pwr.tempCrit v (signedOf 12 (live.fget F.AON_TEMP_LIM_CRIT)) = false ∧
      tempOver live.pwr.tempWarn v (signedOf 12 (live.fget F.AON_TEMP_LIM_WARN)) = false) ∧
    (withPwr (fun p => { p with pfw := true })).pwr.pfw = true ∧ live.pwr.pfw = false ∧ live.pwr.state ≠ .sleep ∧
    (inPower .sleep).pwr.state = .sleep ∧ (∀ h, (live.host h).rem.unflushed = []) ∧
    (let s := (withPwr (fun p => { p with pfwActive := true })).fset F.PWR_PFW_SLEEP_ON_PFW 1;
      s.pwr.pfwActive = true ∧ s.flag F.PWR_PFW_SLEEP_ON_PFW = true ∧ s.pwr.transition = none ∧ s.pwr.state ≠ .sleep) ∧
    (let s := (withPwr (fun p => { p with pfwActive := true, transition := some (.entry .standby none) })).fset F.PWR_PFW_SLEEP_ON_PFW 1;
      s.pwr.pfwActive = true ∧ s.flag F.PWR_PFW_SLEEP_ON_PFW = true ∧ s.pwr.transition = some (.entry .standby none) ∧ s.pwr.state ≠ .sleep) ∧
    live.pwr.pfwActive = false := by
  decide +kernel

/-- `live` with both host links down. -/
def hostsOff : State := { live with hosts := Vector.replicate 2 hostReset }

theorem witness_PowerRequests : live.rst.pHeld = false ∧
    (withPwr (fun p => { p with transition := some (.entry .sleep none) })).pwr.transition.isSome = true ∧
    ((withPwr (fun p => { p with pfwActive := true })).pwr.pfwActive = true ∧ (withPwr (fun p => { p with pfwActive := true })).pwr.transition = none ∧
      fieldOf (2 : Word) 1 0 ≠ 3) ∧
    (live.pwr.transition = none ∧ live.pwr.pfwActive = false ∧ live.pwr.state = .active ∧ (inPower .doze).pwr.state = .doze ∧
      (inPower .standby).pwr.state = .standby ∧ (inPower .sleep).pwr.state = .sleep) ∧
    fieldOf (0 : Word) 1 0 = 0 ∧ fieldOf (1 : Word) 1 0 = 1 ∧ fieldOf (2 : Word) 1 0 = 2 ∧ fieldOf (3 : Word) 1 0 = 3 ∧
    ¬ ((2 : Mid) = 0#8 ∨ (2 : Mid) = 1#8) ∧ hostsDown hostsOff = true ∧ hostsOff.pwr.state = .active ∧ hostsDown live = false ∧
    (let s := live.fset F.PWR_CTL_AUTO_DOZE 1;
      s.flag F.PWR_CTL_AUTO_DOZE = true ∧ s.nicRuns = true ∧ s.pwr.state = .active ∧ s.pwr.transition = none ∧ s.pwr.nicWaking = false) ∧
    live.flag F.PWR_CTL_AUTO_DOZE = false ∧ (withPwr (fun p => { p with nicWaking := true })).pwr.nicWaking = true := by
  decide +kernel

/-- `live` in a transition. -/
def moving (t : Transition) : State := withPwr (fun p => { p with transition := some t })

theorem witness_WakeAndWhistle :
    (pulsing live.cfg = false ∧ live.pwr.coreOk = true ∧ live.rst.pHeld = false ∧ live.pwr.refclk = true ∧ live.flt.lines.testBit 2 = false) ∧
    (moving (.entry .standby none)).pwr.transition = some (.entry .standby none) ∧
    (moving (.entry .standby (some 3))).pwr.transition = some (.entry .standby (some 3)) ∧
    ([Transition.entry .sleep none, .entry .sleep (some 3)].all (fun x =>
      let s := (moving x).modPwr (fun p => { p with state := .standby }); decide (s.pwr.transition = some x) && !s.timeSync && !pulsing s.cfg)) = true ∧
    pulsing { live.cfg with recPulse := some (false, true) } = true ∧ live.pwr.transition = none ∧
    (moving (.exit .standby true)).pwr.transition = some (.exit .standby true) ∧
    ((moving (.exit .standby false)).modPwr (fun p => { p with refclk := false })).pwr.refclk = false ∧
    ((moving (.exit .sleep false)).pwr.transition = some (.exit .sleep false) ∧ (moving (.exit .sleep false)).flt.muzzle = false) ∧
    (let s := muzzled ((moving (.exit .sleep false)).fset F.FLT_CTL_ESC_RESET 1);
      s.pwr.transition = some (.exit .sleep false) ∧ s.flt.muzzle = true ∧ s.flag F.FLT_CTL_ESC_RESET = true ∧ s.pwr.refclk = true ∧
      s.pwr.coreOk = true) ∧
    (let s := ((inPower .sleep).fset F.PWR_WAKE_EN_EN 5).fset F.AON_TIMER_TICKS 1;
      s.rst.pHeld = false ∧ s.pwr.state = .sleep ∧ s.pwr.transition = none ∧ (s.fget F.PWR_WAKE_EN_EN).testBit 0 = true ∧
      (s.fget F.PWR_WAKE_EN_EN).testBit 2 = true ∧ s.fget F.AON_TIMER_TICKS ≠ 0) ∧
    (let s := (inPower .standby).fset F.PWR_WAKE_EN_EN 1; s.pwr.state = .standby ∧ (s.fget F.PWR_WAKE_EN_EN).testBit 0 = true ∧ s.flt.muzzle = false) ∧
    ((live.fset F.PWR_WAKE_EN_EN 0).fget F.PWR_WAKE_EN_EN).testBit 0 = false ∧
    ((live.fset F.PWR_WAKE_EN_EN 0).fget F.PWR_WAKE_EN_EN).testBit 2 = false ∧ live.fget F.AON_TIMER_TICKS = 0 ∧ live.pwr.state = .active ∧
    ((inPower .sleep).pwr.refclk = true ∧ (withPwr (fun p => { p with state := .sleep, refclk := false })).pwr.refclk = false) := by
  decide +kernel

/-! ## Witnesses: frames, control sets, admission -/

/-- A packet that bears its whole header: a PROBE-like short packet of no operation. -/
def shortPkt : Packet := mkPkt (newW0 1 0 0 1) (newW1 0 0 0x01 true true false) (shortBody 0 0 0 0 0 [] [])

/-- NP0 of `live` with room for packets of class 0 in its staging. -/
def roomy : State := withLink (fun l => { l with credits := l.credits.set 0 { creditReset with hdrOwn := 64, dataOwn := 64 } })

/-- NP0 of `live` with frames 5 and 6 outstanding. -/
def replaying : State := withLink (fun l => { l with
  txAcked := 5, txNext := 7, replay := [⟨5, 0, shortPkt, false⟩, ⟨6, 0, shortPkt, false⟩] })

/-- The code groups of a frame on 16 lanes at RD−: with EOF, or as far as it has arrived. -/
def coded (bytes : Bytes) (tail : Bool) : List (List (BitVec 10)) :=
  (List.range 16).map (fun i => (encodeLane false ((frameChars 16 i bytes false).take ((bytes.length + 15) / 16 + 1 + b2n tail))).1)
/-- What NP0 of a state reads of such a frame. -/
def heard (s : State) (bytes : Bytes) (tail : Bool) : FrameRead := readFrame (s.port 0).lane 0 (coded bytes tail) tail
/-- What a clause on an arriving frame needs of its bytes, its number and its state. -/
def frameAt (s : State) (bytes : Bytes) (d : Nat) (tail : Bool) : Bool :=
  let r := heard s bytes tail
  let u := codeErrors 0 r.errs (s.modLane 0 (fun l => { l with rxRd := r.rd }))
  let l := (u.port 0).link
  decide (receives s 0 = true ∧ (s.port 0).lane.deaf = false ∧ r.errs.any (fun e => e.2 ≠ 0) = false ∧ crc16 (r.bytes.take 6) = leAt r.bytes 6 2 ∧
    leAt r.bytes 0 2 / 4096 = 1 ∧ l.phase = .up ∧ seqDist (BitVec.ofNat 12 (leAt r.bytes 0 2)) l.rxNext = d ∧
    (leAt r.bytes 4 2).testBit 12 = true ∧ seqDist (BitVec.ofNat 12 (leAt r.bytes 4 2)) l.txAcked = 0 ∧
    leAt r.bytes 2 2 % 8192 = 64 ∧ leAt r.bytes 2 2 / 8192 = 0 ∧ tblGet (leAt r.bytes 0 2 % 4096) l.held = none)

/-- NP0 of `live` with a packet of which the tail has not arrived, that the router has dropped or that streams to NP1. -/
def arriving (cut dropped : Bool) : State := withPort (fun q => { q with
  inp := { q.inp with presented := if dropped then none else some { ejected shortPkt with whole := false, owed := true }, cutTo := if cut then some 1 else none }
  link := { q.link with arriving := some { tc := 0, pkt := shortPkt, dropped := dropped } } })

/-- R51 to R54, R69: a frame of 76 bytes fills five columns between SOF and EOF on 16 lanes; read back it is its bytes and four 0x00, without
an error, and a code group that differs in one bit counts one on its lane. -/
theorem test_frame_codes :
    (let b := frameBytes 5 0 shortPkt 0 false; let g := coded b true; let r := heard live b true;
      g.length = 16 ∧ (g.headD []).length = 7 ∧ r.bytes = b ++ [0, 0, 0, 0] ∧ r.errs.all (fun e => e.2 == 0) = true ∧
      ((readFrame (live.port 0).lane 0 (g.set 3 ((g.getD 3 []).set 2 (((g.getD 3 []).getD 2 0) ^^^ 1#10))) true).errs.filter (fun e => e.2 ≠ 0)).map (·.1) = [3]) := by
  decide +kernel

/-- R51: D.17.7 at RD− takes A7, and K28.5, D21.5 and D10.2 are as tabled. -/
theorem test_line_code :
    encodeChar false ⟨false, 17, 7⟩ = 0b1000110111 ∧ encodeChar true ⟨false, 11, 7⟩ = 0b1101001000 ∧ encodeChar false (kChar 28 5) = 0b0011111010 ∧
    encodeChar false ⟨false, 21, 5⟩ = 0b1010101010 ∧ encodeChar true ⟨false, 10, 2⟩ = 0b0101010101 := by
  decide +kernel

theorem witness_FramesArrive :
    (let b := (frameBytes 3 0 shortPkt 0 false).set 2 0xFF; let r := heard live b true;
      receives live 0 = true ∧ (live.port 0).lane.deaf = false ∧ crc16 (r.bytes.take 6) ≠ leAt r.bytes 6 2) ∧
    [1024, 3072, 3073].all (fun d => frameAt live (frameBytes (BitVec.ofNat 12 d) 0 shortPkt 0 false) d true) = true ∧
    (frameAt live (frameBytes 1023 0 shortPkt 0 false) 1023 true = true ∧ crc32 ((frameBytes 1023 0 shortPkt 0 false).take 72) = leAt (frameBytes 1023 0 shortPkt 0 false) 72 4 ∧
      stageRoom (pktOfBytes (((frameBytes 1023 0 shortPkt 0 false).drop 8).take 64)) 0 (live.port 0).link = false) ∧
    (let b := frameBytes 0 0 shortPkt 0 false; let x := b.set 20 0xFF;
      frameAt roomy b 0 true = true ∧ stageRoom (pktOfBytes ((b.drop 8).take 64)) 0 (roomy.port 0).link = true ∧ crc32 (b.take 72) = leAt b 72 4 ∧
      frameAt roomy x 0 true = true ∧ crc32 (x.take 72) ≠ leAt x 72 4) ∧
    (frameAt roomy (frameBytes 2 0 shortPkt 0 false) 2 true = true ∧
      ((withLink (fun l => { l with held := [(2, (0, shortPkt, 0))] })).port 0).link.held = [(2, (0, shortPkt, 0))]) := by
  decide +kernel

theorem witness_FramesArrive_others :
    (let b := (frameBytes 0 0 shortPkt 0 false).take 72;
      frameAt roomy b 0 false = true ∧ stageRoom (pktOfBytes ((b.drop 8).take 64)) 0 (roomy.port 0).link = true ∧ (roomy.port 0).link.arriving = none ∧
      frameAt live b 0 false = true ∧ stageRoom (pktOfBytes ((b.drop 8).take 64)) 0 (live.port 0).link = false) ∧
    (let s := withLink (fun l => { l with named := [1] });
      portUp s 0 = true ∧ (s.port 0).link.named.contains (1#12).toNat = true ∧ tblGet (1#12).toNat (s.port 0).link.held = none ∧
      seqDist 1 (s.port 0).link.rxNext < 1024) ∧
    (live.port 0).link.named.contains (1#12).toNat = false ∧ receives live 1 = false ∧
    ([(false, false), (false, true), (true, false)].all (fun x => let s := arriving x.1 x.2;
      decide ((s.port 0).link.arriving = some ⟨0, shortPkt, x.2⟩ ∧ (s.port 0).inp.cutTo = (if x.1 then some 1 else none) ∧ hears s 0 = true))) = true ∧
    (live.port 0).link.arriving = none ∧ hears live 0 = true ∧ (receives deafened 0 = true ∧ (deafened.port 0).lane.deaf = true) := by
  decide +kernel

theorem witness_ControlSets : (receives deafened 0 = true ∧ (deafened.port 0).lane.deaf = true) ∧ hears replaying 0 = true ∧ (replaying.port 0).link.phase = .up ∧ outstanding (replaying.port 0).link = 2 ∧
    crGood (List.replicate 12 0xFF#8) = none ∧
    (let c := crBytes (leBytes 1 2 ++ leBytes 2 7);
      crGood (List.replicate 12 0xFF#8 ++ c) = some c ∧ leAt c 0 1 % 16 = 2 ∧ seqDist (BitVec.ofNat 12 (leAt c 1 2)) 5 = 2) ∧
    (let c := crBytes (leBytes 1 2 ++ leBytes 2 8);
      crGood c = some c ∧ 2 < seqDist (BitVec.ofNat 12 (leAt c 1 2)) 5 ∧ 1024 < seqDist 5 (BitVec.ofNat 12 (leAt c 1 2))) ∧
    (let c := crBytes (leBytes 1 2 ++ leBytes 2 4);
      crGood c = some c ∧ 2 < seqDist (BitVec.ofNat 12 (leAt c 1 2)) 5 ∧ seqDist 5 (BitVec.ofNat 12 (leAt c 1 2)) ≤ 1024) ∧
    (let c := crBytes (leBytes 1 3 ++ leBytes 2 6 ++ leBytes 2 1 ++ leBytes 2 6);
      crGood c = some c ∧ leAt c 0 1 % 16 = 3 ∧ seqDist (BitVec.ofNat 12 (leAt c 5 2)) 5 ≤ 2) ∧
    (let l := (withLink (fun l => { l with credits := l.credits.set 0 { creditReset with hdrUsed := 3 } })).port 0;
      let c := crBytes (leBytes 1 1 ++ leBytes 1 16 ++ leBytes 2 3); let d := crBytes (leBytes 1 1 ++ leBytes 1 16 ++ leBytes 2 4);
      crGood c = some c ∧ leAt c 0 1 % 16 = 1 ∧ (creditEntry (leAt c 1 1) (leAt c 2 2) l.link).isSome = true ∧
      ((creditEntry (leAt c 1 1) (leAt c 2 2) l.link).bind (creditEntry (leAt c 4 1) (leAt c 5 2))).isSome = true ∧
      crGood d = some d ∧ creditEntry (leAt d 1 1) (leAt d 2 2) l.link = none) ∧
    (portUp replaying 0 = true ∧ 0 < outstanding (replaying.port 0).link) ∧ outstanding (live.port 0).link = 0 ∧
    (portUp live 0 = true ∧ (live.port 0).lane.rxAsleep = false ∧ (live.port 0).lane.txAsleep = false ∧
      ((withLane (fun l => { l with txAsleep := true })).port 0).lane.txAsleep = true) := by
  decide +kernel

/-- An INIT record of chip 1 port 0. -/
def record1 (seen : Bool) (chip hdr : Nat) : Bytes :=
  padTo 64 (leBytes 4 (chip + 2 ^ 26 * b2n seen) ++ leBytes 4 0 ++ leBytes 8 0 ++ leBytes 4 hdr)
def init1 (seen : Bool) : Bytes :=
  let h := leBytes 2 0x2000 ++ leBytes 2 64 ++ leBytes 2 0
  let b := h ++ leBytes 2 (crc16 h) ++ record1 seen 1 64
  b ++ leBytes 4 (crc32 b)
/-- NP0 of `live` in a phase of its link, with a partner's record. -/
def linkIn (ph : LinkPhase) (rec : Bytes) : State := withLink (fun l => { l with phase := ph, peer := some rec })

theorem witness_LinkAdmission :
    (let s := linkIn .init [];
      s.routerRuns = true ∧ (s.port 0).lane.phase = .up ∧ (s.port 0).lane.txAsleep = false ∧ (s.port 0).link.phase = .init) ∧
    (live.port 0).link.phase = .up ∧ receives live 0 = true ∧ (live.port 0).lane.deaf = false ∧
    ([true, false].all (fun seen => let r := heard live (init1 seen) true; let b := r.bytes;
      decide (crc16 (b.take 6) = leAt b 6 2 ∧ leAt b 0 2 / 4096 = 2 ∧ leAt b 2 2 % 8192 = 64 ∧ crc32 (b.take 72) = leAt b 72 4 ∧
        r.errs.any (fun e => e.2 ≠ 0) = false ∧ (leAt (padTo 64 ((b.drop 8).take 64)) 0 4).testBit 26 = seen))) = true ∧
    (let r := heard live ((init1 true).set 20 0xFF) true; let b := r.bytes;
      crc16 (b.take 6) = leAt b 6 2 ∧ leAt b 0 2 / 4096 = 2 ∧ crc32 (b.take 72) ≠ leAt b 72 4) ∧
    ((linkIn .refused []).port 0).link.phase = .refused ∧ live.fget F.FLT_PROMOTE_PROMOTE = 0 ∧
    (let s := linkIn .check (record1 true 1 64); (s.port 0).link.phase = .check ∧ admission s 0 ((s.port 0).link.peer.getD []) = (0, true)) ∧
    (let s := linkIn .check (record1 true 0 64); (s.port 0).link.phase = .check ∧ admission s 0 ((s.port 0).link.peer.getD []) = (1, false)) ∧
    (let s := linkIn .check (record1 true 1 2049); (s.port 0).link.phase = .check ∧ admission s 0 ((s.port 0).link.peer.getD []) = (4, false)) ∧
    (live.role 0 ≠ .disabled ∧ bitOf (0x10000 : Word) 16 = true) := by
  decide +kernel

/-! ## Witnesses: the router -/

/-- `live` with a transit packet presented at NP0. -/
def transit (age dwell : Nat) : State := withPort (fun q => { q with inp := { q.inp with
  presented := some { ejected (pktSetAge shortPkt age) with dwell := dwell, owed := true } } })

def offClocks : State := withRst (fun r => { r with coreRel := false })

theorem witness_RouterCycles :
    (offClocks.nicRuns = false ∧ offClocks.routerRuns = false ∧ (countCycles offClocks).nicRuns = false ∧ (countCycles offClocks).routerRuns = false) ∧
    (countCycles live).nicRuns = true ∧
    (let u := countCycles live; let v : State := { u with hosts := u.hosts.map (fun h => { h with xlt := { h.xlt with lfsr := lfsrStep h.xlt.lfsr } }) };
      v.routerRuns = true) ∧
    (let s := transit 0 (dwellMax live);
      (presentedCand s 0).any (fun c => decide (c.fresh = false ∧ c.item.whole = true ∧ dwellMax s ≤ c.item.dwell ∧
            freeOf s (rtrHalted s) [] c ((List.range 64).filter (roleIn s)) = [])) = true) ∧
    (let s := transit 0 (dwellMax live - 1);
      (presentedCand s 0).any (fun c => decide (c.fresh = false ∧ c.item.dwell < dwellMax s)) = true) ∧
    (let s := transit (ageLimit live + 1) 0;
      (presentedCand s 0).any (fun c => decide (c.fresh = false ∧ ageLimit s < inAge s c.item)) = true) ∧
    (let s := transit (ageLimit live) 0;
      (presentedCand s 0).any (fun c => decide (c.fresh = false ∧ inAge s c.item ≤ ageLimit s)) = true) ∧
    (let s : State := { live with agent := [mgmtPkt 1 0, mgmtPkt 2 0] };
      s.agentWorks = true ∧ s.agent = [mgmtPkt 1 0, mgmtPkt 2 0] ∧ ({ live with agent := [mgmtPkt 1 0] } : State).agent = [mgmtPkt 1 0]) ∧
    (presentedCand live 0).isNone = true ∧ live.ints[(0 : IntPort)].eject = [] ∧
    (ejects shortPkt live).ints[(0 : IntPort)].eject = [ejected shortPkt] := by
  decide +kernel

/-- `live` with a table command or a copy in progress. -/
def tabling (c : Option (Nat × Nat × Option Word × Bool)) (k : Option Nat) : State :=
  { live with rtr := { live.rtr with command := c, copying := k } }

theorem witness_TablesAndEpochs : live.routerRuns = true ∧ bitOf (0x1000000 : Word) 24 = true ∧
    tableBusy (tabling (some (0, 0, none, true)) none) = true ∧ tableBusy live = false ∧
    2 ≤ fieldOf (0x1200000 : Word) 21 20 ∧ (fieldOf (0x1020000 : Word) 21 20 < 2 ∧
      indexIn live (fieldOf (0x1020000 : Word) 21 20) (fieldOf (0x1020000 : Word) 17 0) = false) ∧
    (fieldOf (0x101FFFF : Word) 21 20 < 2 ∧ indexIn live (fieldOf (0x101FFFF : Word) 21 20) (fieldOf (0x101FFFF : Word) 17 0) = true) ∧
    (bitOf (0x2000000 : Word) 24 = false ∧ bitOf (0x2000000 : Word) 25 = true ∧ fieldOf (0x2300000 : Word) 21 20 = 3 ∧
      fieldOf (0x2200001 : Word) 21 20 < 3 ∧ indexIn live (fieldOf (0x2200001 : Word) 21 20) (fieldOf (0x2200001 : Word) 17 0) = true) := by
  decide +kernel

theorem witness_TablesAndEpochs_ends :
    (tabling (some (0, 1, some 9, false)) none).rtr.command = some (0, 1, some 9, false) ∧
    (tabling (some (0, 1, some 9, true)) none).rtr.command = some (0, 1, some 9, true) ∧ live.rtr.command = none ∧
    (let stays (s : State) (v : Word) (ver : Nat) : Bool := bitOf v (1 + ver) && decide (s.rtr.copying ≠ some (1 - ver));
      stays live 0 (fieldOf (0 : Word) 0 0) = false ∧ stays (tabling none (some 1)) 2 0 = false ∧
      (stays live 2 (fieldOf (2 : Word) 0 0) = true ∧ bitOf (2 : Word) 3 = false) ∧
      (stays live 0xE (fieldOf (0xE : Word) 0 0) = true ∧ bitOf (0xE : Word) 3 = true ∧ stays live 0xE (1 - fieldOf (0xE : Word) 0 0) = true) ∧
      (stays live 0xA (fieldOf (0xA : Word) 0 0) = true ∧ bitOf (0xA : Word) 3 = true ∧ stays live 0xA (1 - fieldOf (0xA : Word) 0 0) = false ∧
        live.rtr.copying = none) ∧
      (stays (tabling none (some 0)) 0xA (fieldOf (0xA : Word) 0 0) = true ∧ (tabling none (some 0)).rtr.copying.isSome = true)) ∧
    (tabling none (some 0)).rtr.copying = some 0 ∧ (tabling none (some 1)).rtr.copying = some 1 := by
  decide +kernel

/-! ## Witnesses: host ports, queues and the admin queue -/

def wq0 : WorkQueue :=
  { closing := false, logSize := 6, prefetch := 4, tc := 6, eq := 2, ep := 7, pd := 3, ring := 0x100000, headAddr := 0x5000, pi := 2,
    fetch := 0, next := 0, head := 0, store := [], reread := none, side := [], ops := [], completed := [], waitEvents := [],
    headDue := false, headAfter := 0, bells := [], leash := none }
def eq0 : EventQueue :=
  { logSize := 6, vecEn := true, tphEn := false, vector := 5, st := 0, ring := 0x200000, pi := 0, ci := 0, armed := false, decided := [],
    stash := [], decidedNo := 0, writtenNo := 0, due := [] }
def ep0 : EpCtx :=
  { pd := 3, rto := 0, closing := false, lost := false, gone := false, onChip := true, posted := [], unexp := [], search := none }
def win0 : Window := { closedWin true with isOpen := true, pd := 3, access := 0x1F, eq := 2, va := 0x7000, len := 0x10000 }
def cong0 : CongState := { w := 65536, base := none, baseT := 0, tCut := none, lastRtt := 0, inflight := 0, carry := 0 }
def pair0 : PairRec :=
  { next := 0, out := [], gets := [], broken := false, quiet := false, exp := 0, consumed := [], durable := [], unacked := 0, trig := none,
    held := [], cong := cong0, onChip := true, slot := 0 }

/-- Host port 0 of `live` with its objects: domain 3, event queue 2, endpoint 7, work queue 4 and window 1. -/
def peopled : State := withHost (fun x => { x with
  pds := [(3, 0x40000)], eqs := [(2, eq0)], eps := [(7, ep0)], wqs := [(4, wq0)], wins := [(1, win0)] })
/-- `peopled` with its work queue, its event queue or its host state changed. -/
def withWq (f : WorkQueue → WorkQueue) : State := peopled.modHost 0 (fun x => { x with wqs := [(4, f wq0)] })
def withEq (f : EventQueue → EventQueue) : State := peopled.modHost 0 (fun x => { x with eqs := [(2, f eq0)] })
def withPort0 (f : HostState → HostState) : State := peopled.modHost 0 f

theorem witness_Doorbells : live.hifRuns (0 : HostPort).val = true ∧ (live.host 0).hif.linkUp = true ∧ live.coreRuns = true ∧
    (let s := withPwr (fun p => { p with nicWaking := true }); s.pwr.nicWaking = true ∧ s.pwr.state ≠ .doze ∧ s.hifRuns 0 = true) ∧
    ((inPower .doze).pwr.state = .doze ∧ (inPower .doze).pwr.transition = none ∧ (inPower .doze).hifRuns 0 = true ∧ (inPower .doze).coreRuns = true) ∧
    (live.pwr.nicWaking = false ∧ live.pwr.state = .active ∧ live.hostLive 0 = true ∧ tblGet 4 (live.host 0).wqs = none) ∧
    tblGet 4 (peopled.host 0).wqs = some wq0 ∧ tblGet 4 ((withWq (fun q => { q with closing := true })).host 0).wqs = some { wq0 with closing := true } ∧
    ringSize 6 < ringCount 6 (bellIndex 6 (65 : Word)) 0 ∧ ringCount 6 (bellIndex 6 (64 : Word)) 0 ≤ ringSize 6 ∧ bellIndex 6 (64 : Word) ≠ wq0.pi ∧
    bellIndex 6 (2 : Word) = wq0.pi ∧ (List.replicate 64 0#8).length = 64 ∧ ringSize 6 ≤ ringCount 6 64 0 ∧
    (ringCount 6 wq0.pi wq0.head < ringSize 6 ∧ b2n (dFlag (List.replicate 64 0xFF#8) 0) ≠ wrapBit 6 wq0.pi ∧
      b2n (dFlag (List.replicate 64 0#8) 0) = wrapBit 6 wq0.pi) ∧
    (List.replicate 63 0#8).length ≠ 64 ∧ (live.host 0).hif.inReset = false ∧ 8 % 64 ≠ 0 ∧ 0 % 64 = 0 ∧ (4 : Nat) ≠ 8 ∧ (4 : Nat) ≠ 64 := by
  decide +kernel

/-- A host request of 64 bytes, under no translation. -/
def asked (k : ReqKind) : HostReq := { kind := k, addr := 0, len := 64, noSnoop := false, under := none, invs := [] }

/-- A command of the admin queue: its bytes, each field at its offset. -/
def adminCmd (op : Nat) (fields : List (Nat × Nat × Nat)) : Bytes :=
  fields.foldl (fun b f => patchBytes b f.1 (leBytes f.2.1 f.2.2)) (patchBytes (List.replicate 64 0#8) 0 (leBytes 1 op))
/-- `peopled` with a command in progress at index 0. -/
def doing (c : Bytes) : State := withPort0 (fun x => { x with adm := { x.adm with cur := some (0, c) } })
/-- `peopled` with an admin command read outstanding, read again `n` times. -/
def readsAdmin (n : Nat) : State := (withPort0 (fun x => { x with
  adm := { x.adm with logSize := 6 }, hif := { x.hif with reqs := [(0, asked (.admin 0 n))] } }))

theorem witness_AdminQueue : live.nicRuns = true ∧ live.hostPresent (0 : HostPort).val = true ∧
    live.flag F.WQ_ADM_CFG_ENABLE (0 : HostPort).val = false ∧ bitOf (1 : Word) 0 = true ∧
    (let s := live.fset F.WQ_ADM_CFG_ENABLE 1 0;
      s.flag F.WQ_ADM_CFG_ENABLE (0 : HostPort).val = true ∧ s.hostLive 0 = true ∧ s.pwr.state = .active ∧
      ringSize (s.host 0).adm.logSize < ringCount (s.host 0).adm.logSize (bellIndex (s.host 0).adm.logSize (ringSize (s.host 0).adm.logSize + 1 : Nat)) 0 ∧
      ringCount (s.host 0).adm.logSize (bellIndex (s.host 0).adm.logSize (ringSize (s.host 0).adm.logSize : Nat)) 0 ≤ ringSize (s.host 0).adm.logSize) ∧
    admReq (readsAdmin 2) 0 = some (0, 0, 2) ∧ admReq (readsAdmin 3) 0 = some (0, 0, 3) ∧ ([true, false].all (fun ok => (reqEnd 0 0 ok (readsAdmin 3)).hostLive 0)) = true ∧
    (b2n (dFlag (padTo 64 [1, 1]) 0) ≠ wrapBit 6 0 ∧ b2n (dFlag (padTo 64 [16]) 0) = wrapBit 6 0) ∧
    dOp (padTo 64 [0]) = 0 ∧ 15 < dOp (padTo 64 [16]) ∧ (1 ≤ dOp (padTo 64 [15, 2]) ∧ dOp (padTo 64 [15, 2]) ≤ 15 ∧
      adminHeadOk (padTo 64 [15, 2]) = false ∧ adminHeadOk (padTo 64 [15]) = true) ∧
    admCur (doing (adminCmd 15 [])) 0 15 = some (0, adminCmd 15 []) ∧ admCur live 0 15 = none := by
  decide +kernel

def wqCmd (n ep pd : Nat) : Bytes := adminCmd 1 [(8, 2, n), (10, 1, 6), (12, 1, 6), (14, 2, 2), (16, 4, ep), (20, 2, pd), (24, 8, 0x300000), (32, 8, 0x5000)]
def eqCmd (n log : Nat) : Bytes := adminCmd 3 [(8, 2, n), (10, 1, log), (16, 8, 0x201000)]
def pdCmd (n root : Nat) : Bytes := adminCmd 5 [(8, 2, n), (16, 8, root)]
def epCmd (n pd : Nat) : Bytes := adminCmd 7 [(8, 3, n), (12, 2, pd)]
/-- The state with the Kennel's context area of 2 ^ 12 slots at host port 0. -/
def kennelled (s : State) : State := s.fset F.EPC_KENNEL_CTX_LOG 12 0

theorem witness_CreateCommands :
    (let s := doing (wqCmd 5 7 3); admCur s 0 1 = some (0, wqCmd 5 7 3) ∧ createWqCode s 0 (wqCmd 5 7 3) = 0 ∧
      aAt (wqCmd 5 7 3) 8 2 < s.fget F.WQ_POOL_WQ_COUNT 0 ∧ aAt (wqCmd 5 7 3) 24 8 % 4096 = 0 ∧ s.requestClass (aAt (wqCmd 5 7 3) 12 1) = true ∧
      zeroBytes (wqCmd 5 7 3) [(22, 23), (40, 55)] = true ∧ tblGet 5 (s.host 0).wqs = none ∧ (tblGet 2 (s.host 0).eqs).isSome = true ∧
      (tblGet 3 (s.host 0).pds).isSome = true ∧ epPort 7 = 0 ∧ liveEp s 0 7 = some ep0 ∧ ep0.pd = aAt (wqCmd 5 7 3) 20 2 ∧
      (tblGet 2 (live.host 0).eqs).isNone = true) ∧
    (let s := doing (wqCmd 4 7 3); createWqCode s 0 (wqCmd 4 7 3) ≠ 0 ∧ tblGet 4 (s.host 0).wqs = some wq0) := by
  decide +kernel

theorem witness_CreateCommands_others :
    (let c := eqCmd 3 6; let s := doing c; admCur s 0 3 = some (0, c) ∧ aAt c 8 2 < s.fget F.EQ_POOL_EQ_COUNT 0 ∧ 6 ≤ aAt c 10 1 ∧ aAt c 10 1 ≤ 16 ∧
      aAt c 16 8 % 4096 = 0 ∧ zeroBytes c [(24, 55)] = true ∧ tblGet 3 (s.host 0).eqs = none) ∧
    (let c := eqCmd 2 16; let s := doing c; admCur s 0 3 = some (0, c) ∧ aAt c 10 1 ≤ 16 ∧ (tblGet 2 (s.host 0).eqs).isSome = true) ∧
    (admCur (doing (eqCmd 3 5)) 0 3 = some (0, eqCmd 3 5) ∧ ¬ 6 ≤ aAt (eqCmd 3 5) 10 1) ∧
    (let c := pdCmd 4095 0x50000; let s := doing c; admCur s 0 5 = some (0, c) ∧ aAt c 8 2 ≤ 4095 ∧ aAt c 16 8 % 4096 = 0 ∧
      zeroBytes c [(10, 15), (24, 55)] = true ∧ tblGet 4095 (s.host 0).pds = none ∧
      (s.host 0).pds.length < s.image.elim 0 (fun m => (imgPool m (0 : HostPort).val).pds)) ∧
    (let s : State := (doing (pdCmd 30 0)).modHost 0 (fun x => { x with pds := (List.range 16).map (fun k => (k, 0)) });
      admCur s 0 5 = some (0, pdCmd 30 0) ∧ tblGet 30 (s.host 0).pds = none ∧
      s.image.elim 0 (fun m => (imgPool m (0 : HostPort).val).pds) ≤ (s.host 0).pds.length) ∧
    (admCur (doing (pdCmd 3 0)) 0 5 = some (0, pdCmd 3 0) ∧ (tblGet 3 ((doing (pdCmd 3 0)).host 0).pds).isSome = true ∧ ¬ aAt (pdCmd 9 8) 16 8 % 4096 = 0) ∧
    (let c := epCmd 4095 3; let s := kennelled (doing c); admCur s 0 7 = some (0, c) ∧ zeroBytes c [(11, 11), (16, 55)] = true ∧ aAt c 12 2 ≤ 4095 ∧
      epPort (aAt c 8 3) = 0 ∧ ctxLog s 0 ≠ 0 ∧ aAt c 8 3 % 8388608 < ringSize (ctxLog s 0) ∧ liveEp s 0 4095 = none ∧
      (tblGet (aAt c 12 2) (s.host 0).pds).isSome = true ∧ (makeRoom 1 1 s).isSome = true ∧ ctxLog (doing c) 0 = 0) ∧
    (liveEp (kennelled (doing (epCmd 7 3))) 0 7 = some ep0 ∧ tblGet 9 ((kennelled (doing (epCmd 8 9))).host 0).pds = none ∧
      epPort (aAt (epCmd 8388608 3) 8 3) ≠ 0) ∧
    (let s : State := { kennelled (doing (epCmd 8 3)) with image := some { pic with part := { pic.part with epcCache := 0 } } };
      admCur s 0 7 = some (0, epCmd 8 3) ∧ ctxLog s 0 ≠ 0 ∧ (makeRoom 1 1 s).isNone = true) ∧ admCur live 0 1 = none := by
  and_intros <;> decide +kernel

/-- `peopled` without what refers to a queue, a domain or an endpoint. -/
def unused (s : State) : State := s.modHost 0 (fun x => { x with wqs := [], wins := [], eps := [] })
/-- A state with a late command at host port 0. -/
def owes (k : LateKind) (s : State) : State := s.modHost 0 (fun x => { x with adm := { x.adm with late := [(0, k)] } })

theorem witness_DestroyCommands :
    (let c := adminCmd 2 [(8, 2, 4)]; admCur (doing c) 0 2 = some (0, c) ∧ aAt c 8 2 < (doing c).fget F.WQ_POOL_WQ_COUNT 0 ∧
      tblGet 4 ((doing c).host 0).wqs = some wq0 ∧ wq0.closing = false ∧ tblGet 4 ((unused (doing c)).host 0).wqs = none) ∧
    (let s := owes (.destroyWq 4) (withWq (fun q => { q with closing := true, head := 2 }));
      tblGet 4 (s.host 0).wqs = some { wq0 with closing := true, head := 2 } ∧ lateOf s 0 (fun k => decide (k = .destroyWq 4)) = some 0 ∧
      s.hostLive 0 = true ∧ ({ wq0 with head := 2 } : WorkQueue).head = wq0.pi ∧ wq0.head ≠ wq0.pi ∧ wq0.headDue = false) ∧
    ([(0, true), (1, false)].all (fun x => let q := { wq0 with closing := true, head := 2, headDue := true, headAfter := x.1 };
      headReady (owes (.destroyWq 4) (withWq (fun _ => q))) 0 q == x.2)) = true ∧
    (let c := adminCmd 4 [(8, 2, 2)]; let s := (unused (doing c)).fset F.EQ_ASYNC_EQ 1 0;
      admCur s 0 4 = some (0, c) ∧ aAt c 8 2 < s.fget F.EQ_POOL_EQ_COUNT 0 ∧ tblGet 2 (s.host 0).eqs = some eq0 ∧
      ((s.host 0).wqs.any (fun q => decide (q.2.eq = 2)) || (s.host 0).wins.any (fun w => w.2.isOpen && w.2.access.testBit 4 && decide (w.2.eq = 2)) ||
        decide (s.fget F.EQ_ASYNC_EQ 0 = 2) || !eq0.stash.isEmpty) = false ∧ (doing c).hostLive 0 = true ∧
      ((doing c).host 0).wqs.any (fun q => decide (q.2.eq = 2)) = true) ∧
    (let c := adminCmd 6 [(8, 2, 3)]; let s := unused (doing c); admCur s 0 6 = some (0, c) ∧ zeroBytes c [(10, 15), (24, 55)] = true ∧ zeroBytes (adminCmd 6 [(8, 2, 3), (10, 1, 1)]) [(10, 15), (24, 55)] = false ∧
      (tblGet 3 (s.host 0).pds).isSome = true ∧
      ((s.host 0).wqs.any (fun q => decide (q.2.pd = 3)) || (s.host 0).eps.any (fun e => decide (e.2.pd = 3) && !e.2.gone) ||
        (s.host 0).wins.any (fun w => w.2.isOpen && decide (w.2.pd = 3))) = false ∧ ((doing c).host 0).wqs.any (fun q => decide (q.2.pd = 3)) = true) ∧
    (let c := adminCmd 8 [(8, 3, 7)]; let s := kennelled (doing c); let u := s.modHost 0 (fun x => { x with wqs := [] });
      admCur s 0 8 = some (0, c) ∧ zeroBytes c [(11, 11), (16, 55)] = true ∧ epPort (aAt c 8 3) = 0 ∧ aAt c 8 3 % 8388608 < ringSize (ctxLog s 0) ∧
      ringSize (ctxLog s 0) ≤ aAt (adminCmd 8 [(8, 3, 4096)]) 8 3 % 8388608 ∧ liveEp s 0 7 = some ep0 ∧ ep0.closing = false ∧ (s.host 0).wqs.any (fun q => decide (q.2.ep = 7)) = true ∧
      (u.host 0).wqs.any (fun q => decide (q.2.ep = 7)) = false ∧ liveEp u 0 7 = some ep0) ∧
    (let s := owes (.destroyEp 7) (withPort0 (fun x => { x with eps := [(7, { ep0 with closing := true })] }));
      liveEp s 0 7 = some { ep0 with closing := true } ∧ lateOf s 0 (fun k => decide (k = .destroyEp 7)) = some 0 ∧ s.hostLive 0 = true ∧
      ((s.host 0).rem.resvs.any (fun r => decide (keyEp r.2.pair = 7)) || (s.host 0).mte.deliveries.any (fun d => d.2.isGet && decide (d.2.ep = 7))) = false) := by
  decide +kernel

def winCmd (op idx pd len : Nat) : Bytes := adminCmd op [(8, 3, idx), (12, 2, pd), (14, 1, if op = 9 then 31 else 0), (16, 2, if op = 9 then 2 else 0),
  (24, 8, if op = 9 then 0x8000 else 0), (32, 8, if op = 9 then len else 0)]

/-- A state whose port 0 keeps its windows in host memory. -/
def hostWins (s : State) : State :=
  { s with image := some { pic with pools := [⟨16, 16, 16, true⟩, ⟨16, 16, 16, false⟩] } }

theorem witness_WindowsAndInvalidations_windows :
    (let c := winCmd 9 2 3 0x10; let s := doing c; admCur s 0 9 = some (0, c) ∧ winIndexBad s 0 c = false ∧ aAt c 12 2 ≤ 4095 ∧ aAt c 14 1 ≤ 31 ∧
      aAt c 16 2 ≤ 4095 ∧ aAt c 24 8 < 281474976710656 ∧ aAt c 32 8 ≠ 0 ∧ aAt c 24 8 + aAt c 32 8 ≤ 281474976710656 ∧
      zeroBytes c [(11, 11), (15, 15), (18, 23), (40, 55)] = true ∧ rndvIndex s 0 (winIndex c) = false ∧ winRevoking s 0 (winIndex c) = false ∧
      (tblGet (aAt c 12 2) (s.host 0).pds).isSome = true ∧ (tblGet (aAt c 16 2) (s.host 0).eqs).isSome = true ∧ (needWin 0 2 s).2 = none ∧ (needWin 0 2 (hostWins s)).2.isSome = true ∧
      (winOf s 0 2).isOpen = false ∧ (winOf s 0 1).isOpen = true ∧ winRevoking (owes (.revoke 2) s) 0 2 = true ∧
      rndvIndex ((s.fset F.MTE_RNDV_BASE 2 0).fset F.MTE_RNDV_COUNT 1 0) 0 2 = true ∧ tblGet 3 (live.host 0).pds = none) ∧
    (admCur (doing (winCmd 9 2 3 0)) 0 9 = some (0, winCmd 9 2 3 0) ∧ ¬ aAt (winCmd 9 2 3 0) 32 8 ≠ 0) ∧
    (let c := winCmd 10 1 0 0; let s := doing c; admCur s 0 10 = some (0, c) ∧ winIndexBad s 0 c = false ∧ aAt c 12 2 ≤ 4095 ∧
      zeroBytes c [(11, 11), (15, 15), (18, 23), (40, 55)] = true ∧ rndvIndex s 0 (winIndex c) = false ∧ (needWin 0 1 s).2 = none ∧ (needWin 0 1 (hostWins (s.modHost 0 (fun x => { x with wins := [] })))).2.isSome = true ∧ (winOf s 0 (winIndex c)).isOpen = true ∧
      (winOf s 0 (winIndex c)).gen = aAt c 12 2 ∧ (winOf s 0 (winIndex c)).gen ≠ 1) ∧
    (let s := owes (.revoke 1) peopled; lateOf s 0 (fun k => decide (k = .revoke 1)) = some 0 ∧ s.hostLive 0 = true ∧
      (winHeld s 0 1 || (s.host 0).rem.atomics.any (fun a => decide (a.2.win = 1))) = false) := by
  decide +kernel

def invCmd (pd scope va pages : Nat) : Bytes := adminCmd 11 [(8, 2, pd), (10, 1, scope), (16, 8, va), (24, 8, pages)]
def invGo (scope : Nat) : Word := BitVec.ofNat 64 (0x10000 + 4096 * scope)

theorem witness_WindowsAndInvalidations :
    (let c := invCmd 3 0 0x1000 1; admCur (doing c) 0 11 = some (0, c) ∧ zeroBytes c [(11, 15), (32, 55)] = true ∧ aAt c 10 1 = 0 ∧ aAt c 8 2 ≤ 4095 ∧
      aAt c 16 8 % 4096 = 0 ∧ aAt c 16 8 < 281474976710656 ∧ aAt c 24 8 ≠ 0 ∧ aAt c 24 8 ≤ 68719476736 ∧
      aAt c 16 8 + 4096 * aAt c 24 8 ≤ 281474976710656 ∧ (tblGet (aAt c 8 2) ((doing c).host 0).pds).isSome = true) ∧
    (2 < aAt (invCmd 3 3 0 0) 10 1 ∧ 4095 < aAt (invCmd 4096 1 0 0) 8 2 ∧ aAt (invCmd 3 1 0 0) 10 1 = 1 ∧ aAt (invCmd 3 2 0 0) 10 1 = 2 ∧
      tblGet 9 (peopled.host 0).pds = none) ∧
    (peopled.nicRuns = true ∧ peopled.hostPresent 0 = true ∧ bitOf (invGo 2) 16 = true ∧ (peopled.host 0).xlt.inv = none ∧
      (writePlain .XLT_INV_CTL 0 0 (invGo 2) peopled).fget F.XLT_INV_CTL_SCOPE 0 = 2 ∧ (writePlain .XLT_INV_CTL 0 0 (invGo 3) peopled).fget F.XLT_INV_CTL_SCOPE 0 = 3) ∧
    (let s := withPort0 (fun x => { x with xlt := { x.xlt with inv := some 4 } }); (s.host 0).xlt.inv = some 4 ∧ invSettled s 0 4 = true ∧
      invSettled (s.modHif 0 (fun x => { x with reqs := [(4, { asked .tree with invs := [4] })] })) 0 4 = false) ∧
    ((owes (.invalidate 3 4) peopled).host 0).adm.late = [(0, .invalidate 3 4)] ∧ invSettled (owes (.invalidate 3 4) peopled) 0 4 = true := by
  and_intros <;> decide +kernel

def grp0 : ColGroup :=
  { status := .armed, owner := 0, treeId := 9, parent := 1, parentIdx := 0, root := false, children := [], ops := 1, win := 1, logSeg := 8, retries := 16,
    rto := 16, armWait := 100, next := 0, cause := 0, detail := 0, units := 1, slots := [] }
/-- A state with a group 5. -/
def grouped (g : ColGroup) (s : State) : State := { s with groups := [(5, g)] }
def leash0 : Leash := { rate := 0, burst := 0, overhead := 0, chargeGet := false, tokens := 0, waiting := none }
def shaperCmd : Bytes := adminCmd 12 [(8, 2, 4), (12, 4, 1048575), (16, 4, 256)]
def armCmd (ops : Nat) : Bytes := adminCmd 13 [(8, 2, 5), (10, 1, ops), (11, 1, 1), (12, 1, 8), (16, 8, 0x9000)]
/-- A state with the read of a tree descriptor outstanding. -/
def readsTree (s : State) : State := s.modHif 0 (fun x => { x with reqs := [(0, asked .tree)] })
/-- Tree descriptors: this chip a leaf under chip 1, and one that names this chip as its own parent. -/
def tree1 : Bytes := padTo 272 (leBytes 4 9 ++ leBytes 3 1 ++ leBytes 1 0 ++ leBytes 1 0)
def tree2 : Bytes := padTo 272 (leBytes 4 9 ++ leBytes 3 0 ++ leBytes 1 0 ++ leBytes 1 0)

theorem witness_GroupCommands :
    (let c := shaperCmd; let s := doing c; admCur s 0 12 = some (0, c) ∧ aAt c 8 2 < s.fget F.WQ_POOL_WQ_COUNT 0 ∧ aAt c 12 4 ≤ 1048575 ∧ 256 ≤ aAt c 16 4 ∧
      aAt c 16 4 ≤ 16777215 ∧ aAt c 21 1 ≤ 3 ∧ zeroBytes c [(10, 11), (22, 55)] = true ∧ tblGet 4 (s.host 0).wqs = some wq0 ∧ wq0.leash = none ∧
      tblGet 4 ((unused s).host 0).wqs = none ∧ ({ wq0 with leash := some leash0 } : WorkQueue).leash.isSome = true) ∧
    (let c := armCmd 1; let s := doing c; admCur s 0 13 = some (0, c) ∧ aAt c 8 2 ≤ 4095 ∧ 1 ≤ aAt c 10 1 ∧ aAt c 10 1 ≤ 16 ∧ 1 ≤ aAt c 11 1 ∧
      aAt c 11 1 ≤ 16 ∧ 8 ≤ aAt c 12 1 ∧ aAt c 12 1 ≤ 12 ∧ aAt c 16 8 % 64 = 0 ∧ zeroBytes c [(26, 55)] = true ∧ tblGet 5 s.groups = none ∧
      (s.host 0).hif.reqs.any (fun r => decide (r.2.kind = .tree)) = false ∧ (s.host 0).hif.reqWait.any (fun r => decide (r.kind = .tree)) = false ∧ tblGet 5 (grouped grp0 s).groups = some grp0 ∧ ¬ aAt (armCmd 17) 10 1 ≤ 16) ∧
    (let c := armCmd 1; let s := readsTree (doing c); let u := reqEnd 0 0 true s;
      (s.host 0).hif.reqs.find? (fun r => decide (r.2.kind = .tree)) = some (0, asked .tree) ∧ admCur (reqEnd 0 0 false s) 0 13 = some (0, c) ∧
      admCur u 0 13 = some (0, c) ∧ badTree u (newGroup 0 c tree1) tree1 = false ∧ badTree u (newGroup 0 c tree2) tree2 = true ∧ tblGet 5 u.groups = none ∧
      tblGet 5 (reqEnd 0 0 true (grouped grp0 s)).groups = some grp0 ∧
      colUnits u + (newGroup 0 c tree1).units ≤ u.fget F.COL_PART_UNITS ∧
      (u.fset F.COL_PART_UNITS 0).fget F.COL_PART_UNITS < colUnits u + (newGroup 0 c tree1).units) ∧
    (let c := adminCmd 14 [(8, 2, 5)]; let s := grouped grp0 (doing c); admCur s 0 14 = some (0, c) ∧ aAt c 8 2 ≤ 4095 ∧ zeroBytes c [(26, 55)] = true ∧
      tblGet 5 s.groups = some grp0 ∧ grp0.owner = 0 ∧ grp0.status ≠ .disarming ∧ tblGet 5 peopled.groups = none) ∧
    (let g := { grp0 with status := .disarming }; let s := owes (.disarm 5) (grouped g peopled); tblGet 5 s.groups = some g ∧
      lateOf s g.owner (fun k => decide (k = .disarm 5)) = some 0 ∧ s.hostLive g.owner = true ∧ g.slots.all (fun o => o.2.edges.all (fun e => !e.2.abort)) = true) := by
  and_intros <;> decide +kernel

theorem witness_HostLinks : hostReaches live 0 = true ∧ hostReaches State.reset 0 = false ∧ live.hifRuns (0 : HostPort).val = true ∧
    (live.host 0).hif.perst = false ∧ (0 : Nat) ≤ 2 ∧ (withHost (fun x => { x with hif := { x.hif with perst := true } })).hostPresent 0 = true ∧
    (live.host 0).hif.linkUp = true ∧ (hostsOff.host 0).hif.linkUp = false := by
  decide +kernel

/-- `live` with host port 0 in its F reset. -/
def resetting : State := withHost (fun x => { x with hif := { x.hif with inReset := true } })

theorem witness_FunctionResets : (funcReady live 0 = true ∧ live.rst.clamped.testBit (2 + (0 : HostPort).val) = false ∧ hostReaches live 0 = true) ∧
    ((live.host 0).hif.perst = false ∧ live.hostPresent 0 = true ∧ (live.host 0).hif.inReset = false) ∧
    ((resetting.host 0).hif.inReset = true ∧ funcReady resetting 0 = true ∧ (resetting.host 0).hif.perst = false ∧ resetting.rst.coreRel = true) ∧
    (let s := withHost (fun x => { x with hif := { x.hif with perst := true } }); (s.host 0).hif.perst = true ∧ s.hostPresent 0 = true) := by
  decide +kernel

/-- `peopled` with a host request outstanding under tag 3. -/
def asks (k : ReqKind) : State := withPort0 (fun x => { x with hif := { x.hif with reqs := [(3, asked k)] } })

theorem witness_RequestEnds : reqOf live 0 3 = none ∧ reqOf (asks (.local 4 0 64)) 0 3 = some (.local 4 0 64) ∧ (reqEnd 0 3 true (asks (.local 4 0 64))).hostLive 0 = true ∧
    reqOf (asks (.colRead 5 0 0 64)) 0 3 = some (.colRead 5 0 0 64) ∧ reqOf (asks (.getRead 0 0 64)) 0 3 = some (.getRead 0 0 64) ∧
    reqOf (asks (.atomicRead 0)) 0 3 = some (.atomicRead 0) ∧ reqOf (asks (.flush 0)) 0 3 = some (.flush 0) ∧
    reqOf (asks (.record 0)) 0 3 = some (.record 0) ∧ reqOf (asks (.dataSlot 0)) 0 3 = some (.dataSlot 0) ∧
    reqOf (asks (.kennelBlock 7)) 0 3 = some (.kennelBlock 7) ∧ reqOf (asks (.walk 0)) 0 3 = some (.walk 0) ∧
    reqOf (asks (.context 7)) 0 3 = some (.context 7) ∧ reqOf (asks (.desc 4 0 1 false)) 0 3 = some (.desc 4 0 1 false) ∧
    reqOf (asks (.admin 0 0)) 0 3 = some (.admin 0 0) ∧ reqOf (asks .tree) 0 3 = some .tree := by
  decide +kernel

def event0 : Bytes := List.replicate 64 0#8
/-- `peopled` with an ASYNC entry that waits, and the queue for such entries on or off. -/
def notifies (on mask : Nat) : State :=
  (((withPort0 (fun x => { x with async := [(2, ⟨1, 0, 0, 0⟩)] })).fset F.EQ_ASYNC_EQ 2 0).fset F.EQ_ASYNC_ENABLE on 0).fset F.EQ_ASYNC_MASK mask 0

theorem witness_EventQueues : tblGet (2 : Fin 4096).val (peopled.host 0).eqs = some eq0 ∧ peopled.nicRuns = true ∧ peopled.hostPresent 0 = true ∧
    peopled.hostLive 0 = true ∧ resetting.hostLive 0 = false ∧ ringSize 6 < ringCount 6 eq0.pi (bellIndex 6 (1 : Word)) ∧
    ringCount 6 eq0.pi (bellIndex 6 (0 : Word)) ≤ ringSize 6 ∧ ringCount 6 eq0.pi (bellIndex 6 (64 : Word)) ≤ ringSize 6 ∧
    bitOf (0 : Word) 31 = false ∧ bitOf (0x80000000 : Word) 31 = true ∧ eq0.vecEn = true ∧ eq0.pi = bellIndex 6 (0x80000000 : Word) ∧
    eq0.pi ≠ bellIndex 6 (0x80000040 : Word) ∧ (eq0.due = [] ∧ eq0.decidedNo ≤ eq0.writtenNo ∧
      ({ eq0 with decidedNo := 1, decided := [event0] } : EventQueue).writtenNo < 1) ∧
    ([({ eq0 with decided := [event0] }, true, 0), ({ eq0 with decided := [event0], pi := 64 }, false, 0),
      ({ eq0 with decided := [event0], stash := [event0] }, true, 1), ({ eq0 with decided := [event0], stash := List.replicate 64 event0 }, true, 64)].all (fun x =>
      decide (tblGet 2 ((withEq (fun _ => x.1)).host 0).eqs = some x.1 ∧ x.1.decided = [event0] ∧
        decide (ringCount 6 x.1.pi x.1.ci < ringSize 6) = x.2.1 ∧ x.1.stash.length = x.2.2))) = true ∧
    (let q := { eq0 with stash := [event0], pi := 64 }; tblGet 2 ((withEq (fun _ => q)).host 0).eqs = some q ∧ ¬ ringCount 6 q.pi q.ci < ringSize 6) ∧
    (let s := notifies 1 0; s.fget F.EQ_ASYNC_EQ 0 = (2 : Fin 4096).val ∧ (s.host 0).async = [(2, ⟨1, 0, 0, 0⟩)] ∧ s.flag F.EQ_ASYNC_ENABLE 0 = true ∧
      s.hostLive 0 = true ∧ (s.fget F.EQ_ASYNC_MASK 0).testBit 2 = false ∧ tblGet 2 (s.host 0).eqs = some eq0 ∧ eq0.decided = [] ∧ eq0.stash = []) ∧
    (notifies 0 0).flag F.EQ_ASYNC_ENABLE 0 = false ∧ ((notifies 1 4).fget F.EQ_ASYNC_MASK 0).testBit 2 = true := by
  decide +kernel

def walk0 (level : Nat) : Walk := { pd := 3, va := 0x7000, kind := .demand, level := level, table := 0x40000, invs := [], waiters := [] }
/-- `peopled` walking, with the table's range declared. -/
def walks (level : Nat) : State :=
  ((withPort0 (fun x => { x with hif := { x.hif with reqs := [(3, asked (.walk 0))] }, xlt := { x.xlt with walks := [(0, walk0 level)] } })).setWord
    .XLT_WPR_LIMIT 0xFFFFFFF000 0 0).setWord .XLT_WPR_BASE 1 0 0
def pages (failed : Bool) : State := withPort0 (fun x => { x with rem := { x.rem with pages := [(3, ⟨3, 7, true, failed⟩)] } })

/-- A state whose image gives the endpoint cache no room. -/
def cacheless (s : State) : State := { s with image := some { pic with part := { pic.part with epcCache := 0 } } }

theorem witness_WalksAndPages :
    (let s := walks 3; let u := reqEnd 0 3 true s; reqOf s 0 3 = some (.walk 0) ∧ u.hostLive 0 = true ∧ tblGet 0 (u.host 0).xlt.walks = some (walk0 3) ∧
      (match walkPte u 0 (walk0 3) 0x1001 with | .ok t => decide (t = 0x1000) | .error _ => false) = true ∧
      walkCheck u 0 (walkEntry 0x1000 0x7000 2) = none ∧ tagFree u 0 = true ∧
      (match walkPte u 0 (walk0 3) 0xFFFFFFFFFF001 with | .ok t => (walkCheck u 0 (walkEntry t 0x7000 2)).isSome | .error _ => false) = true ∧
      (match walkPte u 0 (walk0 3) 0x0 with | .ok _ => false | .error _ => true) = true ∧
      bitOf (0 : Word) 0 = false ∧ bitOf (0x8000000000000001 : Word) 63 = true) ∧
    (let s := walks 3; let f := reqEnd 0 3 false s; f.hostLive 0 = true ∧ tblGet 0 ((reqFail 0 f).host 0).xlt.walks = some (walk0 3)) ∧
    (let s := asks (.context 7); let u := reqEnd 0 3 true s; reqOf s 0 3 = some (.context 7) ∧ u.hostLive 0 = true ∧ (makeRoom 1 1 u).isSome = true ∧
      (reqEnd 0 3 false s).hostLive 0 = true ∧ (makeRoom 1 1 (reqEnd 0 3 true (cacheless s))).isNone = true) ∧
    (let s := asks (.pair 9); let u := reqEnd 0 3 true s; reqOf s 0 3 = some (.pair 9) ∧ u.hostLive 0 = true ∧ (makeRoom 3 3 u).isSome = true ∧
      (makeRoom 3 3 (reqEnd 0 3 true (cacheless s))).isNone = true) ∧
    tblGet 3 ((pages false).host 0).rem.pages = some ⟨3, 7, true, false⟩ ∧ tblGet 3 ((pages true).host 0).rem.pages = some ⟨3, 7, true, true⟩ ∧
    tblGet 3 (peopled.host 0).rem.pages = none ∧ (pages false).hostLive 0 = true ∧
    ((pages false).modHif 0 (fun x => { x with inReset := true })).hostLive 0 = false := by
  and_intros <;> decide +kernel

/-- `peopled` with endpoint 7's pair to endpoint 5 of chip 1, as changed. -/
def paired (f : PairRec → PairRec) : State := withPort0 (fun x => { x with pairs := [(pairKey 7 1 5, f pair0)] })
/-- A pair selected by the registers. -/
def selects (s : State) (side : Nat) : State :=
  ((s.fset F.EPC_PAIR_SEL_LOCAL_EP 7 0).fset F.EPC_PAIR_SEL_PEER_CHIP 1 0).fset F.EPC_PAIR_SEL_SIDE side 0

theorem witness_PairsAndCongestion : peopled.nicRuns = true ∧ peopled.hostPresent (0 : HostPort).val = true ∧ bitOf (5 : Word) 24 = false ∧
    bitOf (0x1000005 : Word) 24 = true ∧
    (let s := selects (paired id) 3; (s.host 0).rem.pairReset = none ∧ (s.host 0).rem.ccQuery = none ∧
      liveEp s 0 (s.fget F.EPC_PAIR_SEL_LOCAL_EP 0) = some ep0 ∧ s.fget F.EPC_PAIR_SEL_SIDE 0 ≠ 0 ∧
      selectedPair s 0 (fieldOf (0x1000005 : Word) 23 0) = pairKey 7 1 5 ∧ (getPair s 0 (pairKey 7 1 5)).isSome = true) ∧
    (selects peopled 0).fget F.EPC_PAIR_SEL_SIDE 0 = 0 ∧ getPair peopled 0 (pairKey 7 1 5) = none ∧ liveEp live 0 7 = none ∧
    (let s := (paired id).modHost 0 (fun x => { x with rem := { x.rem with pairReset := some (pairKey 7 1 5, 3), ccQuery := some (pairKey 7 1 5) } });
      (s.host 0).rem.pairReset = some (pairKey 7 1 5, 3) ∧ fetching s 0 (.pair (pairKey 7 1 5)) = false ∧
      (s.host 0).rem.ccQuery = some (pairKey 7 1 5) ∧ getPair s 0 (pairKey 7 1 5) = some pair0 ∧ pair0.onChip = true) ∧
    (pairNamed 7 (2 ^ 24 + 5) = pairKey 7 1 5 ∧ getPair (paired (fun p => { p with quiet := true })) 0 (pairKey 7 1 5) = some { pair0 with quiet := true }) ∧
    peopled.hostLive 0 = true ∧ resetting.hostLive 0 = false ∧
    (let s := peopled.fset F.SHP_CTL_SAMPLE_US 1 0; s.fget F.SHP_CTL_SAMPLE_US 0 ≠ 0 ∧ ∀ k, k < 16 → s.flag F.SHP_SAMPLE_SEL_EN 0 k = false) ∧
    (peopled.fset F.SHP_CTL_SAMPLE_US 0 0).fget F.SHP_CTL_SAMPLE_US 0 = 0 := by
  decide +kernel

/-- A descriptor of an operation, with its flags. -/
def descOf (op flags : Nat) (fields : List (Nat × Nat × Nat)) : Bytes := adminCmd op ((1, 1, flags) :: fields)
/-- `peopled` reading descriptor 0 of its queue. -/
def readsDesc (again : Bool) (f : WorkQueue → WorkQueue) : State :=
  (withWq f).modHif 0 (fun x => { x with reqs := [(3, asked (.desc 4 0 1 again))] })

theorem witness_Descriptors : tblGet 4 (peopled.host 0).wqs = some wq0 ∧ peopled.hostLive 0 = true ∧
    (descReqs peopled 0 4 = [] ∧ descWaiting peopled 0 4 = false ∧ wq0.reread = none ∧ fetchLen wq0 = 2 ∧ unstarted wq0 < wq0.prefetch ∧
      storeUsed peopled 0 + 2 ≤ 1024 ∧ min 2 (ringSize 6 - 0 % ringSize 6) = 2) ∧
    (let q := { wq0 with fetch := 63, pi := 65, head := 63 }; fetchLen q = 2 ∧ min 2 (ringSize 6 - q.fetch % ringSize 6) < 2 ∧ unstarted q < q.prefetch ∧
      storeUsed (withWq (fun _ => q)) 0 + 2 ≤ 1024) ∧
    fetchLen { wq0 with pi := 0 } = 0 ∧
    (let q := { wq0 with reread := some (0, 2) }; tblGet 4 ((withWq (fun _ => q)).host 0).wqs = some q) ∧
    (let s := readsDesc false id; let u := reqEnd 0 3 true s; (reqEnd 0 3 false s).hostLive 0 = true ∧ descReqs s 0 4 = [(3, 0, 1, false)] ∧ u.hostLive 0 = true ∧
      tblGet 4 (u.host 0).wqs = some wq0 ∧ 0 < 2 * ringSize 6 ∧ (descOf 10 0 []).length = 64 ∧ b2n (dFlag (descOf 10 0 []) 0) = wrapBit 6 0 ∧
      b2n (dFlag (descOf 10 1 []) 0) ≠ wrapBit 6 0) ∧
    (let q := { wq0 with reread := some (0, 2) }; let s := readsDesc true (fun _ => q);
      descReqs s 0 4 = [(3, 0, 1, true)] ∧ 3 ≤ q.reread.elim 0 (fun x => x.2 + 1) ∧ tblGet 4 ((reqEnd 0 3 true s).host 0).wqs = some q) ∧
    (peopled.nicWorks = true ∧ wq0.side.length < 16 ∧ wq0.waitEvents = [] ∧ nextOp wq0 = none) ∧
    (let q := { wq0 with store := [(0, descOf 10 6 [])], fetch := 1 }; nextOp q = some (0, [descOf 10 6 []]) ∧ dFlag (descOf 10 6 []) 4 = false) ∧
    (let q := { wq0 with store := [(1, descOf 10 0x16 [])], next := 1, fetch := 2 }; nextOp q = some (1, [descOf 10 0x16 []]) ∧
      dFlag (descOf 10 0x16 []) 4 = true ∧ q.head ≠ 1) ∧
    16 ≤ ({ wq0 with side := List.range 16 } : WorkQueue).side.length ∧ wq0.headDue = false ∧ 
    ([(0, true), (1, false)].all (fun x => headReady peopled 0 { wq0 with headDue := true, headAfter := x.1 } == x.2)) = true := by
  and_intros <;> decide +kernel

/-! ## Witnesses: operations, arrivals and responses -/

/-- An operation as its start leaves it. -/
def opOf (d : Bytes) : OpState := newOp peopled 0 [d]

/-- `peopled` with an operation at index 0 of its queue that has not begun. -/
def starts (d : Bytes) (q : WorkQueue) : State := withWq (fun _ => { q with ops := [(0, opOf d)], next := 1, fetch := 1, pi := 1 })
/-- A descriptor of one packet for endpoint 5 of chip 1. -/
def opDesc (op : Nat) : Bytes := descOf op 6 [(8, 4, 1), (12, 3, 5), (16, 8, 0x7000), (24, 8, if op = 5 then 0x7000 else 64), (32, 4, 64), (36, 4, 1)]
/-- A SEND of 8,192 bytes. -/
def sendDesc : Bytes := descOf 6 6 [(8, 4, 1), (12, 3, 5), (16, 8, 0x7000), (24, 4, 0x20000), (32, 4, 0x20000)]
/-- The state with `n` rendezvous windows from index 0 at host port 0. -/
def rndvs (n : Nat) (s : State) : State := (s.fset F.MTE_RNDV_BASE 0 0).fset F.MTE_RNDV_COUNT n 0
def colDesc (op : Nat) : Bytes := descOf 9 6 [(36, 2, 5), (38, 1, op)]
/-- The slot of the group's next operation is at work. -/
def busySlot : ColOp :=
  { opseq := 0, started := true, owner := some (4, 9), clash := false, cop := 1, dtype := 0, rop := 0, len := 0, lenOpen := false, src := 0, dst := 0, rdSeg := 0,
    rdGot := [], reading := false, acc := [], result := [], written := 0, work := [], edges := [], failed := false }

theorem witness_OperationsBegin :
    (let s := starts (opDesc 1) wq0; let q := { wq0 with ops := [(0, opOf (opDesc 1))], next := 1, fetch := 1, pi := 1 };
      tblGet 4 (s.host 0).wqs = some q ∧ tblGet 0 q.ops = some (opOf (opDesc 1)) ∧ (opOf (opDesc 1)).begun = false ∧ s.hostLive 0 = true ∧
      s.nicWorks = true ∧ earlierOpen q 0 (opOf (opDesc 1)) = false ∧ (opOf (opDesc 1)).rndv = false) ∧
    ([1, 2, 3, 4, 5, 6, 7, 8, 9, 10].all (fun k => dOp (opFirst (opOf (opDesc k))) == k)) = true ∧
    (let q := { wq0 with ops := [(0, opOf (opDesc 1)), (1, opOf (opDesc 1))], next := 2, fetch := 2 }; earlierOpen q 1 (opOf (opDesc 1)) = true) ∧
    (let s := rndvs 1 (starts sendDesc wq0); dOp sendDesc = 6 ∧ (opOf sendDesc).rndv = true ∧ s.fget F.MTE_RNDV_COUNT 0 ≠ 0 ∧ freeRndv s 0 = some 0 ∧
      (needWin 0 0 s).2 = none ∧ (needWin 0 0 (hostWins (s.modHost 0 (fun x => { x with wins := [] })))).2.isSome = true ∧
      (starts sendDesc wq0).fget F.MTE_RNDV_COUNT 0 = 0) ∧
    (let s := (rndvs 1 (starts sendDesc wq0)).modHost 0 (fun x => { x with wins := [(0, win0)] }); freeRndv s 0 = none) ∧
    tblGet (dGroup (colDesc 1)) peopled.groups = none ∧ tblGet (dGroup (colDesc 1)) (grouped grp0 peopled).groups = some grp0 ∧ grp0.owner = 0 ∧
    grp0.status = .armed ∧ colBadParams grp0 (colDesc 1) = false ∧ colBadParams grp0 (colDesc 0) = true ∧ colBusy (grouped grp0 peopled) 5 = false ∧
    colBusy (grouped { grp0 with slots := [(0, busySlot)] } peopled) 5 = true := by
  and_intros <;> decide +kernel

/-- `peopled` with the pair of endpoint 7 to endpoint 5 of chip 1, and the page at 0x7000 in its ATC. -/
def world (f : PairRec → PairRec) : State := (paired f).modHost 0 (fun x => { x with
  xlt := { x.xlt with atc := [(0, { pd := 3, page := 0x7000, size := 4096, base := 0x90000, r := true, w := true, noSnoop := false })] } })
/-- A short packet from endpoint 5 of chip 1 to endpoint `ep`. -/
def shortOf (op tc ep pseq b19 aux wkey : Nat) (d : Bytes) : Packet :=
  mkPkt (newW0 1 tc 0 1) (newW1 ep 5 op true true false) (shortBody pseq b19 aux 0 wkey d [])
/-- A long packet of `n` bytes. -/
def longOf (op tc pseq n : Nat) (more : Bytes) : Packet :=
  mkPkt (newW0 2 tc 0 1) (newW1 7 5 op true true false) (longBody (leBytes 3 pseq ++ leBytes 2 n ++ more) (List.replicate n 0))
/-- A Velpen write of 8 bytes with NOTIFY to VP_KEY 0. -/
def velpen : Packet := mkPkt (newW0 3 6 0 1) (newW1 7 5 0x40 true true false)
  (padTo 24 (leBytes 3 0 ++ leBytes 5 0 ++ [0x21, 1] ++ leBytes 2 0 ++ leBytes 2 8) ++ List.replicate 16 0 ++ leBytes 8 0)

/-- The hypotheses `headSound`, as a test. -/
def soundAt (s : State) (p : Packet) : Bool :=
  ((s.ints[(0 : IntPort)].eject.head?.map (fun e => e.pkt)) == some p) && s.nicWorks && pcrcOk p && !malformed s p
/-- The hypotheses `headPaired`, as a test, for host port 0 and endpoint 7. -/
def pairedAt (s : State) (p : Packet) (f : PairRec → PairRec) : Bool :=
  soundAt s p && decide (epPort (pktDstEp p) = 0 ∧ pktDstEp p = 7 ∧ arrivalKey p = pairKey 7 1 5 ∧ getPair s 0 (arrivalKey p) = some (f pair0) ∧
    tblGet 7 (s.host 0).eps = some ep0 ∧ (f pair0).onChip = true) && s.hostPresent 0 && s.hostLive 0

/-- The rows of `ArrivalChecks`, one packet each. -/
def arrivals : List Packet :=
  [shortOf 0x01 6 7 0 8 0 1 [], longOf 0x21 6 0 8 [], shortOf 0x02 6 7 0 8 0 1 [], longOf 0x22 6 0 8 [], shortOf 0x03 6 7 0 0 0 1 [64],
    shortOf 0x04 6 7 0 0 0x100 1 [], shortOf 0x05 6 7 0 0 0x100 1 [], velpen, shortOf 0x0A 6 7 0 0 0 0 [],
    shortOf 0x08 (live.useClass (·.control)) 7 0 0 0 0 [], longOf 0x23 (live.useClass (·.response)) 0 8 [],
    shortOf 0x0B (live.useClass (·.response)) 7 0 0 0 0 [], shortOf 0x06 6 7 0 8 0 0 [], longOf 0x24 6 0 8 [], shortOf 0x07 6 7 0 0 0 0 [64]]

theorem test_arrivals_paired : arrivals.all (fun p => pairedAt (ejects p (world id)) p id) = true := by decide +kernel

theorem test_arrivals_opcodes : arrivals.map pktOpcode = [0x01, 0x21, 0x02, 0x22, 0x03, 0x04, 0x05, 0x40, 0x0A, 0x08, 0x23, 0x0B, 0x06, 0x24, 0x07] := by
  decide +kernel

def recv0 : Recv :=
  { id := 0, mtch := 0, ignore := 0, comm := 0, srcEp := 5, srcChip := 1, anySrc := true, segs := [⟨0x7000, 64⟩], length := 64, userTag := 0,
    wq := 4, index := 0, eq := 2, pd := 3, tc := 6, entry := some 0, slot := some 0 }
def msg0 : Msg :=
  { kind := .rndv, mtch := 0, comm := 0, srcEp := 5, srcChip := 1, length := 64, pseq := 0, data := [], slot := none, wkey := 1, kennel := false, entry := 0, cont := none }
/-- The pair with a message held that has become ready. -/
def holds5 (p : PairRec) : PairRec := { p with held := [(5, msg0)], exp := 6 }

/-- R230: the entry of the first of two receives, byte by byte. -/
theorem test_posted_entry :
    let r : Recv := { recv0 with mtch := 0x0102030405060708, ignore := 0xFF, comm := 0x1234, entry := some 3, slot := some 9 }
    (postedBytes 1 [r, { recv0 with entry := some 7 }]).head? = some (3, ([8, 7, 6, 5, 4, 3, 2, 1, 0xFF, 0, 0, 0, 0, 0, 0, 0, 0x34, 0x12,
      5, 0, 0, 1, 0, 0x0C, 7, 0, 0, 9, 0, 0, 1, 0] : Bytes)) := by
  decide +kernel

theorem witness_ArrivalChecks :
    live.ints[(0 : IntPort)].eject = [] ∧ pktOpcode (arrivals.headD shortPkt) ≠ 0x21 ∧
    ((ejects velpen (inPower .doze)).nicRuns = true ∧ (ejects velpen (inPower .doze)).pwr.state = .doze) ∧
    ((ejects velpen (live.fset F.DBG_HALT_NIC 1)).nicWorks = false ∧ live.pwr.state ≠ .doze) ∧
    (let p : Packet := { velpen with w0 := velpen.w0 ^^^ 1#64 }; (ejects p live).nicWorks = true ∧ pktOpcode p = 0x40 ∧ pcrcOk p = false) ∧
    (let p := shortOf 0x01 6 7 0 17 0 1 []; (ejects p live).nicWorks = true ∧ pcrcOk p = true ∧ malformed (ejects p live) p = true) ∧
    (let p := shortOf 0x01 6 9 0 16 0 1 []; soundAt (ejects p peopled) p = true ∧ peopled.hostPresent (epPort (pktDstEp p)).val = true ∧
      tblGet (pktDstEp p) (peopled.host (epPort (pktDstEp p))).eps = none) ∧
    (let p := shortOf 0x01 6 7 4096 8 0 1 []; pairedAt (ejects p (world id)) p id = true ∧ seqOutside pair0 (pktPseq p) = true) ∧
    (let p := shortOf 0x01 6 7 16777215 8 0 1 []; pairedAt (ejects p (world id)) p id = true ∧ seqOutside pair0 (pktPseq p) = false ∧
      seqNew pair0 (pktPseq p) = false ∧ pair0.durable.contains (pktPseq p) = false ∧ readyHeld pair0 = []) ∧
    (let p := shortOf 0x01 6 7 6 8 0 1 [];
      pairedAt (ejects p (world holds5)) p holds5 = true ∧ seqOutside (holds5 pair0) (pktPseq p) = false ∧ readyHeld (holds5 pair0) ≠ []) ∧
    (let p := shortOf 0x0A 6 7 4095 0 0 0 []; pairedAt (ejects p (world id)) p id = true ∧ pktOpcode p = 0x0A ∧ seqOutside pair0 (pktPseq p) = false ∧
      seqNew pair0 (pktPseq p) = true) ∧
    ([(shortOf 0x08 6 7 0 0 0 0 [], false), (longOf 0x08 6 0 8 [], true)].all (fun x =>
      malformed (ejects x.1 live) x.1 && pcrcOk x.1 && !pktSequenced x.1 && (pktUnlisted x.1 == x.2))) = true ∧
    (let p := shortOf 0x3F 6 7 0 0 0 0 []; pktUnlisted p = true ∧ (ejects p live).nicWorks = true ∧ pcrcOk p = true ∧ pktUnlisted velpen = false) := by
  and_intros <;> decide +kernel

/-- `world` with VP_KEY 0 on window 1. -/
def worldVp : State := ((world id).fset F.WIN_VP_BASE 1 0).fset F.WIN_VP_COUNT 1 0
/-- Every hypothesis of the second clause of `WindowAccesses` on a packet. -/
def admits (s : State) (e : Packet) : Bool :=
  let v := pairSeen s 0 e
  let q := winAsk v 0 e
  let w := winOf v 0 1
  let op := pktOpcode e
  let as := rangeAccesses (if op = 3 then maxRead v 0 else maxWrite v 0) w.pd (winRanges v 0 w q) (decide (op = 3 ∨ op = 4 ∨ op = 5)) (decide (op ≠ 3)) (w.access.testBit 3)
  pairedAt s e id && decide (seqOutside pair0 (pktPseq e) = false ∧ seqNew pair0 (pktPseq e) = true ∧ readyHeld pair0 = [] ∧ q.index = some 1 ∧ 1 < winCount v 0 ∧ (needWin 0 1 v).2 = none) &&
    (winCheck w q ep0.pd (vpNotify e)).isNone && !as.any (pageFailed v 0) &&
    (match translateAll 0 none none as v with
      | (.all ps, u) => decide (0 < ps.length) && (commitRefusal 0 pair0 w e u).2.isNone
      | _ => false)

theorem witness_WindowAccesses :
    [shortOf 0x01 6 7 0 8 0 1 [], longOf 0x21 6 0 8 (leBytes 7 0 ++ leBytes 4 1), shortOf 0x02 6 7 0 8 0 1 [],
      longOf 0x22 6 0 8 (leBytes 7 0 ++ leBytes 4 1), velpen, shortOf 0x03 6 7 0 0 0 1 [64], shortOf 0x04 6 7 0 0 0x100 1 [],
      shortOf 0x05 6 7 0 0 0x100 1 []].all (fun p => admits (ejects p worldVp) p) = true ∧
    (let p := shortOf 0x01 6 7 0 8 0 (1 + 2 ^ 20) []; let s := ejects p worldVp;
      pairedAt s p id = true ∧ winCheck (winOf (pairSeen s 0 p) 0 1) (winAsk (pairSeen s 0 p) 0 p) ep0.pd (vpNotify p) = some 7 ∧ (winOf s 0 1).rndv = none ∧ (winAsk (pairSeen s 0 p) 0 p).index = some 1) := by
  and_intros <;> decide +kernel

/-- The pair with a request of PSEQ 9 whose response has not arrived. -/
def gets1 (p : PairRec) : PairRec := { p with gets := [(9, { owner := .op 4 0, off := 0, len := 8, respCharge := 0 })] }
/-- `world` with the operation that request belongs to. -/
def awaits (op : Nat) : State := (world gets1).modHost 0 (fun x => { x with wqs := [(4, { wq0 with ops := [(0, opOf (opDesc op))] })] })
/-- The destination of the response translates. -/
def lands (s : State) (p : Packet) (long : Bool) : Bool :=
  match (gets1 pair0).gets with
  | (_, g) :: _ => match respDest (pairSeen s 0 p) 0 g with
    | some (pd, segs, off, len) =>
      (match translateAll 0 none none (segAccesses (maxWrite s 0) pd segs off (if long then min len (pktPlen p) else len) false true) (pairSeen s 0 p) with
        | (.all _, _) => true
        | _ => false)
    | none => false
  | [] => false
/-- `peopled` with a packet of its pair not yet acknowledged. -/
def unacked (n : Nat) (backoff : Bool) : PairRec → PairRec := fun p =>
  let o : SentPkt :=
    { pkt := shortPkt, owner := .op 4 0, timeouts := n, refusals := 0, resent := false, sentAt := 0, charge := 0, backoff := backoff,
      due := false, fixes := 0 }
  { p with out := [(0, o)] }
def get0 : Delivery :=
  { ep := 7, recv := recv0, msg := msg0, record := true, ready := false, segsIn := 1, segsDue := false, waitEvent := none, isGet := true, started := false, off := 0, open_ := 0, depth := 1,
    lastSent := false, moved := 0, status := 0, detail := 0 }

theorem witness_RepliesAndTimers_arrivals :
    (let p := shortOf 0x08 (live.useClass (·.control)) 7 0 0 0 0 []; pairedAt (ejects p (world id)) p id = true ∧ pktOpcode p = 0x08) ∧
    (let p := shortOf 0x09 (live.useClass (·.control)) 7 0 0xE 0 0 []; pairedAt (ejects p (world id)) p id = true ∧ pktOpcode p = 0x09 ∧ pktAt p 19 1 ≠ 0x11) ∧
    ([shortOf 0x06 6 7 0 8 0 0 [], longOf 0x24 6 0 8 [], shortOf 0x07 6 7 0 0 0 0 [64]].all (fun p =>
      let s := (ejects p (world id)).fset F.MTE_LIMIT_UNEXP 64 0
      let v := pairSeen s 0 p
      pairedAt s p id && decide (readyHeld pair0 = [] ∧ seqNew pair0 (pktPseq p) = true) &&
        decide ((msgNew 0 (arrivalKey p) pair0 p (v.modHost 0 (fun x => { x with eps := [(7, { ep0 with posted := [recv0] })] }))).2 = .commit) &&
        decide ((msgNew 0 (arrivalKey p) pair0 p (v.fset F.MTE_LIMIT_UNEXP 0 0)).2 = .refuse 0xF 0))) = true ∧
    ({ ep0 with search := some (recv0, 0) } : EpCtx).search.isSome = true ∧
    (let p := longOf 0x23 (live.useClass (·.response)) 0 8 (leBytes 1 0 ++ leBytes 3 9); let s := ejects p (awaits 3);
      pairedAt s p gets1 = true ∧ seqNew (gets1 pair0) (pktPseq p) = true ∧ tblGet (pktAt p 22 3) (gets1 pair0).gets ≠ none ∧ lands s p true = true ∧
      respShort (pairSeen s 0 p) 0 { owner := .op 4 0, off := 0, len := 8, respCharge := 0 } 8 = none ∧
      tblGet (pktAt p 22 3) pair0.gets = none ∧ pairedAt (ejects p (world id)) p id = true) ∧
    (let p := mkPkt (newW0 1 (live.useClass (·.response)) 0 1) (newW1 7 5 0x0B true true false) (shortBody 0 0 0 9 0 [] []); let s := ejects p (awaits 5);
      pairedAt s p gets1 = true ∧ pktAt p 22 3 = 9 ∧ pktAt p 40 2 = 0 ∧
      lands s p false = true ∧
      (match respDest (pairSeen s 0 p) 0 { owner := .op 4 0, off := 0, len := 8, respCharge := 0 } with | some _ => true | none => false) = true) ∧
    (let p := mkPkt (newW0 1 (live.useClass (·.response)) 0 1) (newW1 7 5 0x0B true true false) (shortBody 0 0 0 9 0 (leBytes 8 0 ++ leBytes 2 1) []);
      pairedAt (ejects p (awaits 5)) p gets1 = true ∧ pktAt p 40 2 ≠ 0) := by
  and_intros <;> decide +kernel

theorem witness_RepliesAndTimers :
    (let f : PairRec → PairRec := fun p => { p with trig := some (3, 0) }; getPair (paired f) 0 (pairKey 7 1 5) = some (f pair0) ∧ (paired f).hostLive 0 = true) ∧
    (pairNamed 7 (2 ^ 24 + 5) = pairKey 7 1 5 ∧ getPair (paired id) 0 (pairKey 7 1 5) = some pair0 ∧ pair0.trig = none ∧ tblGet 0 pair0.out = none) ∧
    ([(14, false), (15, false), (0, true)].all (fun x => decide (getPair (paired (unacked x.1 x.2)) 0 (pairKey 7 1 5) = some (unacked x.1 x.2 pair0)) &&
      (paired (unacked x.1 x.2)).hostLive 0)) = true ∧ 16 ≤ 15 + 1 ∧ 14 + 1 < 16 ∧
    (let f : PairRec → PairRec := fun p => { unacked 0 true p with onChip := false }; let s := paired f;
      getPair s 0 (pairKey 7 1 5) = some (f pair0) ∧ (f pair0).onChip = false ∧
      (match (needPair 0 (pairKey 7 1 5) s).2 with | .wait _ => true | _ => false) = true) ∧
    ([get0, { get0 with record := false }].all (fun d => let s := withPort0 (fun x => { x with mte := { x.mte with deliveries := [(0, d)] } });
      decide (bothPorts (autoGets s) < 1024 ∧ (s.host 0).mte.deliveries.find? (fun d => d.2.isGet && !d.2.started) = some (0, d)))) = true ∧
    (let s := withPort0 (fun x => { x with mte := { x.mte with deliveries := [(0, { get0 with segsIn := 0 })] } });
      let g : PendingGet := { owner := .autoGet 0, off := 0, len := 8, respCharge := 0 };
      (respDest s 0 g).isSome = true ∧ (respShort s 0 g 8).isSome = true) ∧
    (let s := withPort0 (fun x => { x with mte := { x.mte with deliveries := (List.range 1024).map (fun k => (k, { get0 with started := true })) } });
      1024 ≤ bothPorts (autoGets s)) := by
  and_intros <;> decide +kernel

/-- A COL packet from chip 1 to group `grp`. -/
def colPktOf (kind opseq grp tree : Nat) : Packet :=
  mkPkt (newW0 1 (live.useClass (·.collective)) 0 1) (newW1 0 0 0x0C true true false)
    (leBytes 2 opseq ++ leBytes 1 kind ++ leBytes 3 0 ++ leBytes 2 grp ++ leBytes 4 tree ++ leBytes 36 0)
def colDataOf (kind opseq grp tree : Nat) : Packet :=
  mkPkt (newW0 2 (live.useClass (·.collective)) 0 1) (newW1 0 0 0x25 true true false)
    (longBody (leBytes 2 opseq ++ leBytes 1 kind ++ leBytes 2 24 ++ leBytes 1 0 ++ leBytes 2 grp ++ leBytes 2 0 ++ leBytes 2 0 ++ leBytes 4 tree) (List.replicate 24 0))
/-- An edge to the parent with one segment sent and not acknowledged. -/
def edge1 (tries : Nat) (abort : Bool) : ColEdge := { blankEdge with sent := 1, tries := tries, abort := abort }
def slot1 (e : ColEdge) : ColOp := { busySlot with acc := [(0, (0, []))], edges := [(0, e)] }
def armedWith (o : ColOp) : State := grouped { grp0 with slots := [(0, o)] } peopled

theorem witness_Collectives_arrivals :
    ([(colPktOf 2 0 5 9, 0x0C), (colDataOf 2 0 5 9, 0x25)].all (fun x =>
      let s := ejects x.1 (grouped grp0 peopled)
      decide (pktOpcode x.1 = x.2) && s.nicWorks && pcrcOk x.1 && !pktUnlisted x.1 && decide (pktTc x.1 = s.useClass (·.collective)) &&
        decide ((colMsg x.1).grp = 5 ∧ (colMsg x.1).kind = 2 ∧ (colMsg x.1).kindOk = true ∧ (colMsg x.1).tree = grp0.treeId) &&
        decide (colEdgeOf grp0 x.1 (colMsg x.1) = some 0) && (tblGet 0 grp0.slots).isNone &&
        !opAhead grp0.next (colMsg x.1).opseq && decide (((colMsg x.1).opseq - grp0.next).toNat < grp0.ops) && (tblGet 5 peopled.groups).isNone)) = true ∧
    ((colMsg (colPktOf 2 0 5 8)).tree ≠ grp0.treeId ∧ pcrcOk { colPktOf 2 0 5 9 with w1 := 0 } = false ∧
      pktTc (shortOf 0x0C 6 0 0 0 0 0 []) ≠ live.useClass (·.collective) ∧ pktUnlisted (longOf 0x0C 6 0 8 []) = true ∧ pcrcOk (longOf 0x0C 6 0 8 []) = true) ∧
    ([GroupStatus.disarming, .failed].all (fun x => let g := { grp0 with status := x };
      decide (tblGet 5 (grouped g peopled).groups = some g ∧ colEdgeOf g (colPktOf 2 0 5 9) (colMsg (colPktOf 2 0 5 9)) = some 0))) = true ∧
    (opAhead grp0.next (colMsg (colPktOf 2 0xFFFF 5 9)).opseq = true ∧
      (opAhead grp0.next (colMsg (colPktOf 2 1 5 9)).opseq = false ∧ grp0.ops ≤ ((colMsg (colPktOf 2 1 5 9)).opseq - grp0.next).toNat)) ∧
    ((colMsg (colPktOf 2 0 5 9)).opseq = busySlot.opseq ∧
      (busySlot.opseq ≠ (colMsg (colPktOf 2 0xFFFF 5 9)).opseq ∧ opAhead busySlot.opseq (colMsg (colPktOf 2 0xFFFF 5 9)).opseq = true) ∧
      (busySlot.opseq ≠ (colMsg (colPktOf 2 1 5 9)).opseq ∧ opAhead busySlot.opseq (colMsg (colPktOf 2 1 5 9)).opseq = false ∧ colActive busySlot = true)) ∧
    (let p := shortOf 0x09 (live.useClass (·.control)) 7 0 0x11 0 0 []; soundAt (ejects p (world id)) p = true ∧ pktAt p 19 1 = 0x11 ∧ pktOpcode p = 9) := by
  and_intros <;> decide +kernel

theorem witness_Collectives :
    colOp (armedWith (slot1 (edge1 0 false))) 5 0 = some ({ grp0 with slots := [(0, slot1 (edge1 0 false))] }, slot1 (edge1 0 false)) ∧
    colAgain (slot1 (edge1 0 false)) 0 = some (some 0) ∧ upValue grp0 (slot1 (edge1 0 false)) 0 = some [] ∧
    upValue grp0 { slot1 (edge1 0 false) with acc := [] } 0 = none ∧ colAgain { slot1 (edge1 0 false) with acc := [] } 0 = some (some 0) ∧ (edge1 15 false).tries < grp0.retries ∧
    grp0.retries ≤ (edge1 16 false).tries ∧ colAgain (slot1 (edge1 0 true)) 0 = some none ∧ colAgain (slot1 blankEdge) 0 = none ∧
    tblGet 5 (armedWith (slot1 blankEdge)).groups = some { grp0 with slots := [(0, slot1 blankEdge)] } ∧
    (∀ o ∈ [(0, slot1 blankEdge)], (getEdge o.2 0).unarmed = false) := by
  and_intros <;> decide +kernel

/-! ## Witnesses: fabric time, the store and the load -/

/-- A TEX set with flags. -/
def texOf (flags : Nat) : Bytes := crBytes (leBytes 5 0 ++ leBytes 4 0 ++ leBytes 1 flags)
def timed (level : Nat) (parent : NetPort) : State := { live with tim := { live.tim with level := level, parent := parent } }

theorem witness_FabricTime : live.rst.pHeld = false ∧ (live.fset F.TIM_CTL_GM 1).flag F.TIM_CTL_GM = true ∧ live.tim.level = 31 ∧
    ((timed 3 0).flag F.TIM_CTL_GM = false ∧ (timed 3 0).tim.level ≠ 31) ∧
    ((inPower .sleep).rst.pHeld = false ∧ (inPower .sleep).fabricRuns = false) ∧ live.fabricRuns = true ∧ live.routerRuns = true ∧
    (live.port 0).link.phase = .up ∧ (upPorts live).head? = some 0 ∧ (upPorts (live.modPort 1 (fun _ => upPort))).head? ≠ some 1 ∧
    (live.port 1).link.phase ≠ .up ∧ (receives deafened 0 = true ∧ (deafened.port 0).lane.deaf = true) ∧ receives live 1 = false ∧ hears live 0 = true ∧ crGood (List.replicate 12 1#8) = none ∧
    (crGood (texOf 64) = some (texOf 64) ∧ (leAt (texOf 64) 9 1).testBit 6 = true) ∧ (crGood (texOf 2) = some (texOf 2) ∧ (leAt (texOf 2) 9 1).testBit 5 = false) ∧
    (crGood (texOf 34) = some (texOf 34) ∧ (leAt (texOf 34) 9 1).testBit 6 = false ∧ (leAt (texOf 34) 9 1).testBit 5 = true) ∧
    ((timed 3 0).tim.parent = 0 ∧ 1 ≤ (timed 3 0).tim.level ∧ (timed 3 0).tim.level ≤ 30 ∧ (timed 3 1).tim.parent ≠ 0) := by
  and_intros <;> decide +kernel

def withCfg (f : CfgState → CfgState) : State := live.modCfg f
/-- A write of CFG_PROG_CTL. -/
def progCtl (cmd region block : Nat) : Word := BitVec.ofNat 64 (cmd * 2 ^ 24 + region * 2 ^ 16 + block)

theorem witness_ConfigStore : live.rst.pHeld = false ∧ live.storeOn = true ∧ live.cfg.prog = none ∧ live.cfg.recPulse = none ∧ (withCfg (fun c => { c with recPulse := some (true, true) })).cfg.recPulse = some (true, true) ∧ live.cfg.state = .loaded ∧ live.cfg.slot = false ∧
    (bitOf (progCtl 0 0 0) 24 = false ∧ bitOf (progCtl 0 0 0) 25 = false) ∧
    (bitOf (progCtl 1 1 0x77FF) 24 = true ∧ progRefusal 0x10 (progCtl 1 1 0x77FF) live = 0 ∧ 64 * fieldOf (progCtl 1 1 0x77FF) 14 0 < (storeRegion 1).2) ∧
    (bitOf (progCtl 2 3 0x7FF) 25 = true ∧ bitOf (progCtl 2 3 0x7FF) 24 = false ∧ progRefusal 0x10 (progCtl 2 3 0x7FF) live = 0) ∧
    (progRefusal 0x10 (progCtl 1 1 0x7800) live = 3 ∧ progRefusal 0x10 (progCtl 1 0 0) live = 1 ∧ progRefusal 0x10 (progCtl 1 2 0) live = 2) ∧
    (withPwr (fun p => { p with pfw := true })).pwr.pfw = true ∧ (inPower .sleep).storeOn = false ∧
    (withCfg (fun c => { c with prog := some (.write 64 [1] true) })).cfg.prog = some (.write 64 [1] true) ∧
    (withCfg (fun c => { c with prog := some (.read 64 true) })).cfg.prog = some (.read 64 true) ∧ fieldOf (0x5CA1 : Word) 15 0 = 0x5CA1 := by
  and_intros <;> decide +kernel

/-- A Getil image of 192 bytes: its header and a directory of six empty sections. -/
def imageBytes : Bytes :=
  leBytes 64 0x682f52dae6b700b9108c735f3af257eb986ba0320d069062bec3ae46c34958a00000000000000000000000000000123404b3d064000000c0000600014c544547 ++
  leBytes 64 0xc0000000040000000000000000000000c0000000030000000000000000000000c0000000020000000000000000000000c000000001 ++
  leBytes 64 0xc0000000060000000000000000000000c000000005
/-- `live` with the image in slot A. -/
def stored : State := withCfg (fun c => { c with store := ramWrite c.store 0 imageBytes })
def stageAt (g : LoadStage) : State := stored.modCfg (fun c => { c with stage := g })
/-- The chip before its image is loaded, with a slot control record. -/
def loading (t : TrialState) : State :=
  stored.modCfg (fun c => { c with state := .notLoading, stage := .idle, recA := some (sealRecord false t 1), recB := none })

theorem test_digest : digestOk stored false = true := by decide +kernel

theorem witness_ActivationAndLoad : live.rst.pHeld = false ∧ (bitOf (0x100 : Word) 8 = true ∧ bitOf (0x100 : Word) 9 = false ∧ bitOf (0x200 : Word) 9 = true ∧
      bitOf (0x200 : Word) 8 = false ∧ bitOf (0x300 : Word) 8 = true ∧ bitOf (0x300 : Word) 9 = true ∧ bitOf (0 : Word) 8 = false ∧ bitOf (0 : Word) 9 = false) ∧
    activateRefusal live = 0 ∧ (withCfg (fun c => { c with trial := true })).cfg.trial = true ∧ activateRefusal (withCfg (fun c => { c with trial := true })) = 0 ∧
    live.cfg.trial = false ∧ activateRefusal (withCfg (fun c => { c with recPulse := some (false, true) })) ≠ 0 ∧
    (withCfg (fun c => { c with act := some (true, false) })).cfg.act.isSome = true ∧
    (live.cfg.act = none ∧ live.cfg.recPulse = none ∧ live.storeOn = true ∧ live.pwr.pfw = false) ∧
    (inPower .sleep).storeOn = false ∧ (withPwr (fun p => { p with pfw := true })).pwr.pfw = true ∧
    (let s := stored.modCfg (fun c => { c with act := some (false, true) }); s.cfg.act = some (false, true) ∧ s.storeOn = true ∧ s.cfg.recPulse = none ∧
      headerReason s false = 0 ∧ streamReason s false (listedSections (slotSections s false) pic) = 0 ∧ s.pwr.pfw = false) ∧
    headerReason live true ≠ 0 ∧ streamReason stored false (listedSections (slotSections stored false) { pic with sizes := [] }) ≠ 0 ∧
    (loadReady live = false ∧ [TrialState.confirmed, .pending, .loaded].all (fun t => loadReady (loading t) && decide ((ctlRecord (loading t).cfg).trial = t) &&
      !(loading t).pwr.pfw) = true) ∧ (let s := (loading .pending).modPwr (fun p => { p with pfw := true }); loadReady s = true ∧ s.pwr.pfw = true) ∧
    ((stageAt (.header false)).cfg.stage = .header false ∧ (stageAt (.header false)).cfg.recPulse = none ∧ headerReason (stageAt (.header false)) false = 0 ∧
      headerReason (stageAt (.header true)) true ≠ 0) ∧
    (let s := stageAt (.streaming false); s.cfg.stage = .streaming false ∧ streamReason s false (listedSections (slotSections s false) pic) = 0) ∧
    ((withCfg (fun c => { c with fellBack := true })).cfg.fellBack = true ∧ live.cfg.fellBack = false) ∧
    (let s := stageAt (.passed false pic); s.cfg.stage = .passed false pic ∧ s.rst.clearing = false ∧ s.rst.cHeld = false ∧ s.rst.pHeld = false ∧
      s.flt.muzzle = false) ∧
    State.reset.rst.clearing = true ∧ State.reset.rst.cHeld = true := by
  and_intros <;> decide +kernel

/-! ## Results the spec or a published standard states -/

/-- The check values of CRC-16 (0x1021 from 0xFFFF), of the CRC-32 of IEEE 802.3 and of the reflected CRC-64 of ECMA-182 (R71, R105), on the
nine bytes "123456789". -/
theorem test_crc_check_values : let b : Bytes := [0x31, 0x32, 0x33, 0x34, 0x35, 0x36, 0x37, 0x38, 0x39];
    crc16 b = 0x29B1 ∧ crc32 b = 0xCBF43926 ∧ crc64 b = 0x995DC9BBDF1939FA := by
  decide +kernel

/-- FIPS 180-4's example "abc" (R30). -/
theorem test_sha256_abc : (sha256 [0x61, 0x62, 0x63]).take 8 = [0xba, 0x78, 0x16, 0xbf, 0x8f, 0x01, 0xcf, 0xea] := by decide +kernel

/-- The example of R32: two ports of 1,024 work queues, 32 event queues and 1,024 domains need 921,600 bytes. -/
theorem test_queue_state : queueState { pic with pools := [⟨1024, 32, 1024, false⟩, ⟨1024, 32, 1024, false⟩] } = 921600 := by
  decide +kernel

/-- The example of chapter 06: at age 573 ns and after one deflection a packet's bytes 1 and 2 are 3D 02 and its byte 7 is 0x10. -/
theorem test_age_and_defl_bytes :
    let p := pktDeflect (pktSetAge (mkPkt (newW0 1 0 0x94C3 0x2AC3) (newW1 0 0 1 true true false) (shortBody 0 8 0 0 0 [] [])) 573);
    ((pktBytes p).drop 1).take 2 = [0x3D, 0x02] ∧ byteAt (pktBytes p) 7 = 0x10 := by
  decide +kernel

/-- The example of R382: port 37's L5 has its receive pair's negative ball at row 89, column 60, and its transmit pair's positive one at
row 89, column 64; each stands where the map puts it. -/
theorem test_ball_example :
    ballAt 89 60 = .net 37 (some 5) false false ∧ ballAt 89 64 = .net 37 (some 5) true true ∧ netBallPlace 37 (some 5) false false = (89, 60) := by
  decide +kernel

/-- The examples of chapter 20: LNK_TXCRED[TC2] and LNK_ERR of NP37, EQ_CI[5] of HP1 and PMC_CNT[3] of unit 68. -/
theorem test_register_addresses : regAddr .LNK_TXCRED 37 2 = 0x650050 ∧ regAddr .LNK_ERR 37 0 = 0x650028 ∧ regAddr .EQ_CI 1 5 = 0xF8028 ∧
    regAddr .PMC_CNT 68 3 = 0x64468 := by
  decide +kernel

end Sys2Proof.Tests
end

namespace Sys2Proof.Proofs

open Sys2Proof.Machine Sys2Proof.Laws

/-! # Semaphore locks (R337, R112)

The settlement of O8. The lock command and the in-band agent both read a lock's register by `read_lock`, so `acquiresAs_lockRead` says
once what an acquire does; a 32-bit read goes through `peekReg` and reaches no lock. -/

/-! ## An acquire -/

/-- A 64-bit read of lock `k` by `mid` that finds the locks `before`, leaves them `after` and returns `w` is an acquire (R337). -/
def AcquiresAs (before : Vector Lock 256) (k : Fin 256) (mid : Mid) (after : Vector Lock 256) (w : Word) : Prop :=
  let lock := before[k]
  (lock.held = false → after = before.set k { lock with held := true, owner := mid, abandoned := false } ∧
    fieldOf w 0 0 = 1 ∧ fieldOf w 2 2 = b2n lock.abandoned) ∧
  (lock.held = true → lock.owner = mid → after = before ∧ fieldOf w 0 0 = 1 ∧ fieldOf w 15 8 = mid.toNat) ∧
  (lock.held = true → lock.owner ≠ mid → after = before.set k { lock with waiter := true } ∧
    fieldOf w 0 0 = 0 ∧ fieldOf w 15 8 = lock.owner.toNat)

theorem acquiresAs_lockRead (mid : Mid) (k : Fin 256) (s : State) :
    AcquiresAs s.locks k mid (modLock k (fun _ => (lockRead mid s.locks[k]).2) s).locks (lockRead mid s.locks[k]).1 := by
  obtain ⟨free, own, other⟩ := acq mid k s
  refine ⟨fun h => ?_, own, other⟩
  obtain ⟨locks, acquired, -, abandoned, -⟩ := free h
  exact ⟨locks, acquired, abandoned⟩

theorem exec_lockAcquire (mid : Mid) (k : Fin 256) (s : State) (run : s.svcRuns = true) :
    exec (.lockAcquire mid k) s = .next ((modLock k (fun _ => (lockRead mid s.locks[k]).2) s).emit
      (.regRead mid (BitVec.ofNat 24 (regAddr .SEM_LOCK 0 k.val)) (lockRead mid s.locks[k]).1)) := by
  show Host.Outcome.next (readOut mid (regAddr .SEM_LOCK 0 k.val) s) = _
  unfold readOut
  rw [read_lock k run]

/-! ## A 32-bit read -/

/-- The MSI-X arrays begin at 0x80000 (R371). -/
theorem msixAt_below {off : Nat} (h : off < 0x80000) : msixAt off = none := if_pos (.inl h)

theorem peekReg_lock_state (mid : Mid) (k : Fin 256) (s : State) (run : s.svcRuns = true) :
    (peekReg mid (regAddr .SEM_LOCK 0 k.val) s).1 = s := by
  unfold peekReg
  rw [regHere_at (regAt_lock k) run]

/-- An aligned 32-bit read outside the MSI-X arrays returns its half of the word that `peekReg` shows (R5). -/
theorem exec_read_half (mid : Mid) (off : Offset) (s : State) (plain : msixAt off.toNat = none) (aligned : off.toNat % 4 = 0) :
    exec (.registerReadClear mid off 4) s = .next ((peekReg mid (off.toNat - off.toNat % 8) s).1.emit (.regRead mid off
      (BitVec.ofNat 64 ((peekReg mid (off.toNat - off.toNat % 8) s).2.toNat / 2 ^ (8 * (off.toNat % 8)) % 2 ^ 32)))) := by
  refine congrArg Host.Outcome.next (?_ : readForm mid off.toNat 4 s = _)
  unfold readForm
  rw [msixHere_none s plain]
  dsimp only
  rw [if_neg (by omega), if_pos ⟨rfl, aligned⟩, BitVec.ofNat_toNat, BitVec.setWidth_eq]

theorem exec_read_half_lock (mid : Mid) (k : Fin 256) (up : Fin 2) (s : State) (run : s.svcRuns = true) :
    ∃ w, exec (.registerReadClear mid (BitVec.ofNat 24 (regAddr .SEM_LOCK 0 k.val + 4 * up.val)) 4) s =
      .next (s.emit (.regRead mid (BitVec.ofNat 24 (regAddr .SEM_LOCK 0 k.val + 4 * up.val)) w)) := by
  have place := lock_off k
  have off : (BitVec.ofNat 24 (regAddr .SEM_LOCK 0 k.val + 4 * up.val)).toNat = regAddr .SEM_LOCK 0 k.val + 4 * up.val :=
    Nat.mod_eq_of_lt (by omega)
  have word : regAddr .SEM_LOCK 0 k.val + 4 * up.val - (regAddr .SEM_LOCK 0 k.val + 4 * up.val) % 8 = regAddr .SEM_LOCK 0 k.val := by
    omega
  have read := exec_read_half mid (BitVec.ofNat 24 (regAddr .SEM_LOCK 0 k.val + 4 * up.val)) s
    (by rw [off]; exact msixAt_below (by omega)) (by omega)
  rw [off, word, peekReg_lock_state mid k s run] at read
  exact ⟨_, read⟩

/-! ## Counting and capturing

A packet that leaves its ejection buffer is counted and captured, which reaches the registers and the capture block alone. -/

/-- What counting and header capture leave: the state without its registers and its capture block (R355, R359). -/
def uncounted (s : State) : State := { s with regs := State.reset.regs, cap := State.reset.cap }

/-- A fold keeps what each of its steps keeps. -/
theorem foldl_keeps {α β γ : Type} (view : β → γ) (f : β → α → β) (keeps : ∀ b a, view (f b a) = view b) (l : List α) (b : β) :
    view (l.foldl f b) = view b := by
  induction l generalizing b with
  | nil => rfl
  | cons a l ih => rw [List.foldl_cons, ih, keeps]

@[simp] theorem fset_uncounted (s : State) (f : RegField) (v i k : Nat) : uncounted (s.fset f v i k) = uncounted s := rfl

@[simp] theorem finc_uncounted (s : State) (f : RegField) (d i k : Nat) : uncounted (s.finc f d i k) = uncounted s := rfl

@[simp] theorem pmcCount_uncounted (u ev amt : Nat) (ok : Word → Bool) (s : State) :
    uncounted (pmcCount u ev amt ok s) = uncounted s := by
  unfold pmcCount
  split
  · refine foldl_keeps uncounted _ (fun t i => ?_) _ _
    dsimp only
    split
    · exact fset_uncounted _ _ _ _ _
    · rfl
  · rfl

@[simp] theorem pmcAdd_uncounted (u ev amt : Nat) (s : State) : uncounted (pmcAdd u ev amt s) = uncounted s :=
  pmcCount_uncounted _ _ _ _ _

@[simp] theorem pmcClass_uncounted (u ev amt tc : Nat) (s : State) : uncounted (pmcClass u ev amt tc s) = uncounted s :=
  pmcCount_uncounted _ _ _ _ _

@[simp] theorem capAppend_uncounted (entry : Bytes) (s : State) : uncounted (capAppend entry s) = uncounted s := by
  unfold capAppend
  dsimp only
  split
  · rfl
  · split <;> rfl

theorem capSelect_uncounted (s : State) (e : CapEvent) : uncounted (capSelect s e).1 = uncounted s := by
  refine foldl_keeps (fun acc : State × Option Nat => uncounted acc.1) _ (fun acc k => ?_) _ (s, none)
  dsimp only
  split <;> rfl

@[simp] theorem capture_uncounted (es : List CapEvent) (s : State) : uncounted (capture es s) = uncounted s := by
  unfold capture
  split
  · dsimp only
    rw [finc_uncounted, foldl_keeps uncounted _ (fun t x => by rw [pmcAdd_uncounted, capAppend_uncounted])]
    exact foldl_keeps (fun acc : State × List (Nat × CapEvent) => uncounted acc.1) _ (fun acc e => capSelect_uncounted acc.1 e) _ (s, [])
  · rfl

theorem agent_of_uncounted {s t : State} (h : uncounted t = uncounted s) : t.agent = s.agent := (congrArg State.agent h :)

@[simp] theorem nicSlot_agent (code : Nat) (s : State) : (nicSlot code s).agent = s.agent :=
  agent_of_uncounted (pmcAdd_uncounted _ _ _ _)

@[simp] theorem takeEject_agent (ip : IntPort) (e : InPacket) (s : State) : (takeEject ip e s).agent = s.agent := by
  unfold takeEject
  dsimp only
  rw [modInt_agent]
  exact agent_of_uncounted (by rw [capture_uncounted, pmcClass_uncounted, pmcClass_uncounted])

/-! ## A read by the in-band agent -/

theorem busRead_lock (mid : Mid) (k : Fin 256) (s : State) (run : s.svcRuns = true) :
    busRead mid (regAddr .SEM_LOCK 0 k.val) s =
      (modLock k (fun _ => (lockRead mid s.locks[k]).2) s, (lockRead mid s.locks[k]).1) := by
  have place := lock_off k
  have plain : msixAt (regAddr .SEM_LOCK 0 k.val) = none := msixAt_below (by omega)
  have answers : offsetAnswers s (regAddr .SEM_LOCK 0 k.val) = true := by
    unfold offsetAnswers
    rw [plain, regHere_at (regAt_lock k) run, beq_iff_eq.mpr (by omega)]
    rfl
  unfold busRead
  rw [answers, plain]
  exact read_lock k run

/-- The state in which the agent serves the request at the head of an ejection buffer: the packet is out of the buffer, its slot is
counted, and it is the agent's only request. -/
def agentTook (ip : IntPort) (e : InPacket) (s : State) : State :=
  { nicSlot 1 (takeEject ip e s) with agent := [e.pkt] }

theorem agentTook_locks (ip : IntPort) (e : InPacket) (s : State) : (agentTook ip e s).locks = s.locks :=
  (locks_of_still (nicSlot_still _ _)).trans (locks_take ip e s)

theorem agentTook_svcRuns (ip : IntPort) (e : InPacket) (s : State) : (agentTook ip e s).svcRuns = s.svcRuns :=
  (congrArg State.svcRuns (pmcAdd_uncounted 68 1 1 (takeEject ip e s)) :).trans (svc_take ip e s)

theorem agentTook_binding (ip : IntPort) (e : InPacket) (s : State) : (agentTook ip e s).binding = s.binding := by
  have low : lowRegs (agentTook ip e s) = lowRegs s := (pmcAdd_low 68 1 1 (takeEject ip e s)).trans (takeEject_low ip e s)
  have word : (agentTook ip e s).regWord .AON_BIND 0 0 = s.regWord .AON_BIND 0 0 :=
    lowWord low ((image_of_still (nicSlot_still _ _)).trans (takeEject_image ip e s)) .AON_BIND 0 0 (by decide)
  exact congrArg (fun w => fieldOf w 1 0) word

/-- The in-band agent refuses no read while the chip is UNBOUND or BOUND (R344). -/
theorem agentRefuses_read (s : State) (src : Nat) (b : s.binding = 0 ∨ s.binding = 1) : agentRefuses s false src = false := by
  unfold agentRefuses
  rcases b with b | b <;> rw [b] <;> rfl

/-- What makes the head of an ejection buffer a READ request that the in-band agent can take up (R104, R105, R112). -/
structure IsAgentRead (p : Packet) : Prop where
  opcode : pktOpcode p = 0x0D
  pcrc : pcrcOk p = true
  tc : pktTc p = 0
  fmt : pktFmt p = 1
  len : pktLenOk p = true
  op : pktAt p 19 1 = 1

theorem IsAgentRead.listed {p : Packet} (r : IsAgentRead p) : pktUnlisted p = false := by
  unfold pktUnlisted
  rw [r.opcode]
  exact decide_eq_false (not_not_intro r.fmt)

/-- An idle agent serves a READ request at once (R112). -/
theorem exec_mgmtRead_idle (ip : IntPort) (e : InPacket) (rest : List InPacket) (s : State) (head : s.ints[ip].eject = e :: rest)
    (works : s.agentWorks = true) (r : IsAgentRead e.pkt) (idle : s.agent = []) :
    exec (.mgmtRead ip) s = .next (agentServe e.pkt (agentTook ip e s)) := by
  refine congrArg Host.Outcome.next (?_ : mgmtArrive false ip s = _)
  unfold mgmtArrive
  rw [head]
  dsimp only
  rw [if_neg (by simp [r.opcode, r.op, works]), if_neg (by simp [r.pcrc]), if_neg (by simp [r.listed, r.len]),
    if_neg (by simp [r.tc]), if_neg (by simp [r.op])]
  unfold agentTake
  rw [nicSlot_agent, takeEject_agent, idle]
  rfl

theorem agentServe_read_lock (p : Packet) (k : Fin 256) (s : State) (run : s.svcRuns = true) (op : pktAt p 19 1 = 1)
    (off : pktAt p 22 3 = regAddr .SEM_LOCK 0 k.val) (b : s.binding = 0 ∨ s.binding = 1) :
    agentServe p s = agentAnswer p 3 0 (lockRead 2#8 s.locks[k]).1
      ((modLock k (fun _ => (lockRead 2#8 s.locks[k]).2) s).emit
        (.regRead 2#8 (BitVec.ofNat 24 (regAddr .SEM_LOCK 0 k.val)) (lockRead 2#8 s.locks[k]).1)) := by
  rw [serve1 p s op, agentRefuses_read s _ b, off, busRead_lock 2#8 k s run]
  rfl

/-- A READ of a lock's register through the in-band agent acquires as master 0x02 and is answered READ_RESP, OK. -/
theorem exec_mgmtRead_lock (ip : IntPort) (e : InPacket) (rest : List InPacket) (k : Fin 256) (s : State) (run : s.svcRuns = true)
    (head : s.ints[ip].eject = e :: rest) (works : s.agentWorks = true) (r : IsAgentRead e.pkt)
    (off : pktAt e.pkt 22 3 = regAddr .SEM_LOCK 0 k.val) (idle : s.agent = []) (b : s.binding = 0 ∨ s.binding = 1) :
    ∃ (u : State) (w : Word), AcquiresAs s.locks k 2#8 u.locks w ∧
      exec (.mgmtRead ip) s =
        .next (agentAnswer e.pkt 3 0 w (u.emit (.regRead 2#8 (BitVec.ofNat 24 (regAddr .SEM_LOCK 0 k.val)) w))) := by
  have acquired := acquiresAs_lockRead 2#8 k (agentTook ip e s)
  rw [agentTook_locks] at acquired
  refine ⟨_, _, acquired, ?_⟩
  rw [exec_mgmtRead_idle ip e rest s head works r idle, agentServe_read_lock e.pkt k _ ((agentTook_svcRuns ip e s).trans run) r.op off
    (by rwa [agentTook_binding]), agentTook_locks]

/-! ## A release -/

theorem freeLock_locks (k : Fin 256) (abandon : Bool) (s : State) : (freeLock k abandon s).locks =
    s.locks.set k { held := false, abandoned := s.locks[k].abandoned || abandon, waiter := false, owner := 0#8 } := by
  unfold freeLock
  dsimp only
  split
  · exact locks_of_still (asyncChip_still _ _ _ _)
  · rfl

theorem freeLock_held (k : Fin 256) (abandon : Bool) (s : State) : (freeLock k abandon s).locks[k].held = false := by
  simp [freeLock_locks]

/-- RELEASE without FORCE from the owner frees the lock and marks nothing (R339). -/
theorem exec_release_owner (mid : Mid) (k : Fin 256) (v : Word) (s : State) (run : s.svcRuns = true) (held : s.locks[k].held = true)
    (owner : s.locks[k].owner = mid) (release : bitOf v 32 = true) (noForce : bitOf v 33 = false) :
    exec (.release mid k v) s = .next (freeLock k false s) := by
  refine congrArg Host.Outcome.next ((write_lock k run).trans ?_)
  unfold lockWrite
  simp only [release, noForce, held, owner, decide_true, Bool.and_self, if_true, Bool.false_eq_true, if_false]

/-! ## The obligation -/

/-- Settles O8, clause by clause: the two 64-bit reads by `acquiresAs_lockRead`, the 32-bit read by `peekReg_lock_state`, the release by
`freeLock_held`. -/
theorem lockAcquire : Obligations.LockAcquire := by
  unfold Obligations.LockAcquire
  intro s k run
  refine ⟨fun mid => ?_, fun mid up => ?_, fun ip e rest head works opcode pcrc tc fmt len op off idle b => ?_,
    fun mid v held owner release noForce => ?_⟩
  · exact ⟨_, _, acquiresAs_lockRead mid k s, exec_lockAcquire mid k s run⟩
  · exact exec_read_half_lock mid k up s run
  · exact exec_mgmtRead_lock ip e rest k s run head works ⟨opcode, pcrc, tc, fmt, len, op⟩ off idle b
  · exact ⟨_, exec_release_owner mid k v s run held owner release noForce, freeLock_held k false s⟩

end Sys2Proof.Proofs

namespace Sys2Proof.Proofs

open Sys2Proof.Machine Sys2Proof.Laws

/-! # The queue, the state at rest and the memories (R3, R27, R39, R112, R289)

The settlements of O1 to O7. What a command leaves of the memories and of the store is the laws' `ex_mem` and `ex_store`; what traffic
leaves of the state at rest is said here once for every command, from the law of the operation it runs. -/

/-! ## What traffic leaves alone -/

/-- A write of a network port's register reaches the port alone. -/
theorem writeReg_still_port {mid : Mid} {off : Nat} {v : Word} {s : State} {r : RegId} {i k : Nat} (e : regAt off = some (r, i, k))
    (port : (ofPort r && !holdsStatic r) = true) : (writeReg mid off v s).still = s.still := by
  refine wr_still e ?_
  simp only [ofPort, Bool.and_eq_true, Bool.or_eq_true, beq_iff_eq, Bool.not_eq_true'] at port
  obtain ⟨block, plain⟩ := port
  unfold writeAt
  rw [plain]
  rcases block with block | block <;> rw [block] <;> exact portWrite_still _ _ _ (netWrite_still ..)

/-- The register stands in a block of a host port's NIC. -/
def ofHost (r : RegId) : Bool := [Block.hif, .wq, .eq, .xlt, .win, .mte, .cc].contains (regPlace r).block

/-- A write of a host port's register reaches neither what stands nor the memories. -/
theorem writeReg_still_host {mid : Mid} {off : Nat} {v : Word} {s : State} {r : RegId} {i k : Nat} (e : regAt off = some (r, i, k))
    (host : (ofHost r && !holdsStatic r) = true) : (writeReg mid off v s).still = s.still := by
  refine wr_still e ?_
  simp only [ofHost, Bool.and_eq_true, Bool.not_eq_true', List.contains_iff_mem, List.mem_cons, List.not_mem_nil, or_false] at host
  obtain ⟨block, plain⟩ := host
  unfold writeAt
  rw [plain]
  rcases block with b | b | b | b | b | b | b <;> rw [b] <;> exact nicWrite_still ..

theorem smbRun_still {f : State → State} {s : State} (run : (f s).still = s.still) : (smbRun f s).still = s.still := by
  unfold smbRun
  split
  · exact (whistleEnd_still _).trans run
  · rfl

/-- Every command of traffic, by the law of the operation it runs. -/
theorem exec_still (c : Instr) (s : State) (traffic : changesStanding c = false) :
    completes c s (fun t => t.still = s.still) := by
  cases c
  case registerWrite32bit => exact ⟨_, rfl, partialWrite_still ..⟩
  case partnerClockCheck => exact ⟨_, rfl, clockCheck_still ..⟩
  case trainingComplete => exact ⟨_, rfl, trainStep_still ..⟩
  case trainingFail => exact ⟨_, rfl, trainFail_still ..⟩
  case retryIdleExpiry => exact ⟨_, rfl, retryEnds_still ..⟩
  case widthChange => exact ⟨_, rfl, widthBoundary_still ..⟩
  case wchReceived => exact ⟨_, rfl, wchIn_still ..⟩
  case laneSleep => exact ⟨_, rfl, sleepDue_still ..⟩
  case slpReceived => exact ⟨_, rfl, slpIn_still ..⟩
  case wakeRequest => exact ⟨_, rfl, wakeAsked_still ..⟩
  case wakReceived => exact ⟨_, rfl, wakIn_still ..⟩
  case lcLoss => exact ⟨_, rfl, lcLost_still ..⟩
  case lveReceived => exact ⟨_, rfl, lveIn_still ..⟩
  case tsWhileUp => exact ⟨_, rfl, tsIn_still ..⟩
  case retrain | leaveHold => exact ⟨_, rfl, writeReg_still_port (regAt_lan_ctl _) rfl⟩
  case prbsSync => exact ⟨_, rfl, prbsSyncIn_still ..⟩
  case frameReceived | initFrameReceived => exact ⟨_, rfl, frameColsIn_still ..⟩
  case nakRepeat => exact ⟨_, rfl, nakAgain_still ..⟩
  case abtReceived => exact ⟨_, rfl, abtIn_still ..⟩
  case cutThroughClose => exact ⟨_, rfl, closeArriving_still ..⟩
  case ackSetReceived | creditSetReceived => exact ⟨_, rfl, crReceived_still ..⟩
  case nakSetReceived => exact ⟨_, rfl, (wakeToResend_still ..).trans (crReceived_still ..)⟩
  case replayTimeout => exact ⟨_, rfl, replayLate_still ..⟩
  case creditRefresh => exact ⟨_, rfl, refreshDue_still ..⟩
  case errorWindowExpiry => exact ⟨_, rfl, windowEnds_still ..⟩
  case errorWindowLimit => exact ⟨_, rfl, windowLimit_still ..⟩
  case initFrameSend => exact ⟨_, rfl, initSend_still ..⟩
  case initTimeout => exact ⟨_, rfl, initLate_still ..⟩
  case admissionCheck => exact ⟨_, rfl, admissionDue_still ..⟩
  case readmit => exact ⟨_, rfl, writeReg_still_port (regAt_lnk_ctl _) rfl⟩
  case dwellDiscard => exact ⟨_, rfl, dwellEvent_still ..⟩
  case ageDiscard => exact ⟨_, rfl, ageEvent_still ..⟩
  case ejectWaitBounce => exact ⟨_, rfl, bounce_still ..⟩
  case tableWrite | tableRead => exact ⟨_, rfl, wr_still regAt_tbl_ctl (tableCommand_still ..)⟩
  case tableWriteDone => exact ⟨_, rfl, tableDone_still ..⟩
  case epochSet | copy => exact ⟨_, rfl, wr_still regAt_epoch (epochWrite_still ..)⟩
  case copyDone => exact ⟨_, rfl, copyEnd_still ..⟩
  case indexDoorbell => exact ⟨_, rfl, bell_still ..⟩
  case inlineDoorbell => exact ⟨_, rfl, inlineWrite_still ..⟩
  case dbBad => exact ⟨_, rfl, badBell_still ..⟩
  case adminEnable => exact ⟨_, rfl, writeReg_still_host (regAt_adm_cfg _) rfl⟩
  case adminDoorbell => exact ⟨_, rfl, writeReg_still_host (regAt_adm_pi _) rfl⟩
  case adminCommandReadDone => exact ⟨_, rfl, (tagFreed_still ..).trans (admRead_still ..)⟩
  case createWq => exact ⟨_, rfl, admCreateWq_still ..⟩
  case destroyWq => exact ⟨_, rfl, admDestroyWq_still ..⟩
  case destroyWqDone => exact ⟨_, rfl, admDestroyWqDone_still ..⟩
  case createEq => exact ⟨_, rfl, admCreateEq_still ..⟩
  case destroyEq => exact ⟨_, rfl, admDestroyEq_still ..⟩
  case createPd => exact ⟨_, rfl, admCreatePd_still ..⟩
  case destroyPd => exact ⟨_, rfl, admDestroyPd_still ..⟩
  case createEp => exact ⟨_, rfl, admCreateEp_still ..⟩
  case destroyEp => exact ⟨_, rfl, admDestroyEp_still ..⟩
  case destroyEpDone => exact ⟨_, rfl, (roomAgain_still ..).trans (admDestroyEpDone_still ..)⟩
  case openWindow => exact ⟨_, rfl, admOpenWindow_still ..⟩
  case revokeWindow => exact ⟨_, rfl, admRevokeWindow_still ..⟩
  case revokeDone => exact ⟨_, rfl, admRevokeDone_still ..⟩
  case invalidate => exact ⟨_, rfl, admInvalidate_still ..⟩
  case xltInvGo => exact ⟨_, rfl, writeReg_still_host (regAt_inv_ctl _) rfl⟩
  case invalidateDone => exact ⟨_, rfl, invalidationEnds_still ..⟩
  case setShaper => exact ⟨_, rfl, admSetShaper_still ..⟩
  case armGroup => exact ⟨_, rfl, admArmGroup_still ..⟩
  case treeDescriptorReadDone => exact ⟨_, rfl, (tagFreed_still ..).trans (admTreeDone_still ..)⟩
  case disarmGroup => exact ⟨_, rfl, admDisarmGroup_still ..⟩
  case disarmDone => exact ⟨_, rfl, admDisarmDone_still ..⟩
  case adminNop => exact ⟨_, rfl, admNopCmd_still ..⟩
  case descriptorFetch => exact ⟨_, rfl, fetchDescs_still ..⟩
  case descriptorFetchDone => exact ⟨_, rfl, (tagFreed_still ..).trans (descsDone_still ..)⟩
  case phaseReread => exact ⟨_, rfl, rereadDesc_still ..⟩
  case operationStart => exact ⟨_, rfl, startOp_still ..⟩
  case putDescriptor | putDurableDescriptor | get | atomicDescriptor | atomicFetchDescriptor | send | vpWrite |
      nopDescriptor =>
    exact ⟨_, rfl, (roomAgain_still ..).trans (beginOf_still ..)⟩
  case recv => exact ⟨_, rfl, recvBegin_still ..⟩
  case collective => exact ⟨_, rfl, (roomAgain_still ..).trans (collectiveBegin_still ..)⟩
  case localReadDone => exact ⟨_, rfl, localReadEnd_still ..⟩
  case headIndexWrite => exact ⟨_, rfl, writeHead_still ..⟩
  case hostRequestTimeout => exact ⟨_, rfl, reqTimeout_still ..⟩
  case perstRelease => exact ⟨_, rfl, perstOff_still ..⟩
  case functionResetDone => exact ⟨_, rfl, (roomAgain_still ..).trans (funcDone_still ..)⟩
  case hostLinkDown => exact ⟨_, rfl, hostDown_still ..⟩
  case eqCiUpdate | eqArm => exact ⟨_, rfl, writeReg_still_host (regAt_eq_ci _ _) rfl⟩
  case eventWrite => exact ⟨_, rfl, (slotsFreed_still ..).trans (eventWrite_still ..)⟩
  case stashDrain => exact ⟨_, rfl, (slotsFreed_still ..).trans (stashDrainN_still ..)⟩
  case asyncPendingWrite => exact ⟨_, rfl, asyncWrite_still ..⟩
  case walkReadDone => exact ⟨_, rfl, (tagFreed_still ..).trans (walkDoneIn_still ..)⟩
  case pageRequestResponse => exact ⟨_, rfl, pageAnswer_still ..⟩
  case pageRequestTimeout => exact ⟨_, rfl, pageFail_still ..⟩
  case failHoldExpiry => exact ⟨_, rfl, failHoldEnds_still ..⟩
  case fetchDone => exact ⟨_, rfl, (tagFreed_still ..).trans (fetchDoneIn_still ..)⟩
  case pairReset => exact ⟨_, rfl, writeReg_still_host (regAt_pair_reset _) rfl⟩
  case pairResetDone => exact ⟨_, rfl, (portGoesOn_still ..).trans (pairResetEnd_still ..)⟩
  case pairQuietExpiry => exact ⟨_, rfl, quietOver_still ..⟩
  case putShort | put | putShortDurable | putDurable | getReq | atomic | atomicFetch | vpDirectWrite |
      msgShort | msgEager | rndvReq | nop | ack | getResp | atomicResp | unlistedOpcode =>
    exact ⟨_, rfl, arrive_still ..⟩
  case nack => exact ⟨_, rfl, nackArrive_still ..⟩
  case ackCoalesceTimeout => exact ⟨_, rfl, coalesced_still ..⟩
  case e2eTimeout => exact ⟨_, rfl, (portGoesOn_still ..).trans (e2eTimeoutIn_still ..)⟩
  case refusalRetry => exact ⟨_, rfl, (portGoesOn_still ..).trans (refusalRetryIn_still ..)⟩
  case getReadDone => exact ⟨_, rfl, getReadEnd_still ..⟩
  case atomicReadDone => exact ⟨_, rfl, atomicReadEnd_still ..⟩
  case flushDone => exact ⟨_, rfl, flushReadEnd_still ..⟩
  case matchRecordReadDone => exact ⟨_, rfl, recordReadEnd_still ..⟩
  case kennelBlockReadDone => exact ⟨_, rfl, blockReadEnd_still ..⟩
  case dataSlotReadDone => exact ⟨_, rfl, slotReadEnd_still ..⟩
  case autoGetStart => exact ⟨_, rfl, (roomAgain_still ..).trans (autoStart_still ..)⟩
  case col | colData => exact ⟨_, rfl, colArrive_still ..⟩
  case colRetransmit => exact ⟨_, rfl, (roomAgain_still ..).trans (colRetry_still ..)⟩
  case armWaitExpiry => exact ⟨_, rfl, (roomAgain_still ..).trans (armWaitOver_still ..)⟩
  case leashRefill => exact ⟨_, rfl, leashTick_still ..⟩
  case sampleTick => exact ⟨_, rfl, sampleAll_still ..⟩
  case ccPairQuery => exact ⟨_, rfl, writeReg_still_host (regAt_pair_q _) rfl⟩
  case ccPairQueryDone => exact ⟨_, rfl, ccQueryEnd_still ..⟩
  case vddAonRise => exact ⟨_, rfl, rfl⟩
  case supplyCoreLow => exact ⟨_, rfl, supplyLow_still ..⟩
  case powerFail => exact ⟨_, rfl, pfwOn_still ..⟩
  case pfwDeassert => exact ⟨_, rfl, pfwOff_still ..⟩
  case tempSample => exact ⟨_, rfl, tempSampled_still ..⟩
  case autoDoze => exact ⟨_, rfl, autoDozeGo_still ..⟩
  case nicReady => exact ⟨_, rfl, nicReadyGo_still ..⟩
  case wakeN => exact ⟨_, rfl, wakeEvent_still ..⟩
  case aonTimer => exact ⟨_, rfl, timerDone_still ..⟩
  case whistle => exact ⟨_, rfl, whistleGo_still ..⟩
  case whistleIdle => exact ⟨_, rfl, whistleOff_still ..⟩
  case faultSourceRise => exact ⟨_, rfl, lineRises_still ..⟩
  case fltInject => exact ⟨_, rfl, wr_still regAt_inject (injectFault_still ..)⟩
  case alertResponse => exact ⟨_, rfl, alertAnswered_still ..⟩
  case debugLevelWrite => exact ⟨_, rfl, wr_still regAt_dbg_level (debugLevelSet_still ..)⟩
  case dbgMemRead => exact ⟨_, rfl, rd_dbg ..⟩
  case dbgHalt | step => exact ⟨_, rfl, wr_still regAt_dbg_halt (dbgHaltWrite_still ..)⟩
  case last => exact ⟨_, rfl, smbRun_still (smbLast_still _)⟩
  case clear => exact ⟨_, rfl, wr_still (regAt_pmc_ctl _) (pmcCtlWrite_still ..)⟩
  case snapshot => exact ⟨_, rfl, wr_still regAt_snap (pmcSnapWrite_still ..)⟩
  case captureEnable => exact ⟨_, rfl, wr_still regAt_cap_ctl (capCtlWrite_still ..)⟩
  case capCiWrite => exact ⟨_, rfl, wr_still regAt_cap_ci (capCiWrite_still ..)⟩
  case telemetryFlush => exact ⟨_, rfl, telemetrySend_still ..⟩
  case telemetry => exact ⟨_, rfl, telemetryArrive_still ..⟩
  case codeErrorOutsideFrame => exact ⟨_, rfl, codeErrorIn_still ..⟩
  case errorFreeIdlSets => exact ⟨_, rfl, idlSetsIn_still ..⟩
  case prbsByteError => exact ⟨_, rfl, prbsColumn_still ..⟩
  case errorLineFall => exact ⟨_, rfl, lineFalls_still ..⟩
  case hostLinkTrained => exact ⟨_, rfl, hostTrained_still ..⟩
  case configurationRequest => exact ⟨_, rfl, configWrite_still ..⟩
  all_goals cases traffic

/-- The agent serves a request in a cycle only where two stand in its queue: the one it answered and the next (R112). -/
theorem agentCycle_still {s : State} (few : s.agent.length ≤ 1) : (agentCycle s).still = s.still := by
  unfold agentCycle
  rw [List.drop_eq_nil_of_le few]
  split <;> rfl

/-- Settles O6: `exec_still` for the commands, and for a cycle of the core `agentCycle_still` between the laws of its parts. -/
theorem trafficLeavesStanding : Obligations.TrafficLeavesStanding := by
  unfold Obligations.TrafficLeavesStanding
  refine ⟨exec_still, fun s few => ⟨_, rfl, ?_⟩⟩
  exact (engineSlots_still _).trans ((agentCycle_still few).trans (coreCycle_still s))

/-! ## The memories and the store -/

/-- Settles O5: the idle tick keeps the memories, and a command keeps them by `ex_mem`. -/
theorem stepKeepsMemories : Obligations.StepKeepsMemories := by
  unfold Obligations.StepKeepsMemories
  intro s t ok stepped
  unfold step at stepped
  split at stepped
  next => exact Host.Outcome.next.inj stepped ▸ memoriesOk_trans (idleTick_kept s) ok
  next c rest _ =>
    obtain ⟨u, ran, good⟩ := ex_mem c { s with pending := rest } ok
    exact Host.Outcome.next.inj (ran.symm.trans stepped) ▸ good

/-- Settles O7, from the law that the store itself stays. -/
theorem storeChangesOnlyAtPulseEnd : Obligations.StoreChangesOnlyAtPulseEnd := by
  unfold Obligations.StoreChangesOnlyAtPulseEnd
  intro c s notPulse notLow
  obtain ⟨t, ran, store⟩ := ex_store c s notPulse notLow
  exact ⟨t, ran, fun a => by rw [store]⟩

/-- Settles O4: both memories are empty, and no store command runs. -/
theorem resetMemoriesOk : Obligations.ResetMemoriesOk := by
  unfold Obligations.ResetMemoriesOk
  exact (memoriesOk_def _).mpr ⟨rfl, rfl, rfl⟩

/-! ## A step -/

/-- No command stops the machine. -/
theorem exec_answers (c : Instr) (s : State) : ∃ t, exec c s = .next t := by
  cases c <;> exact ⟨_, rfl⟩

/-- Settles O1. -/
theorem stepRunsFrontCommand : Obligations.StepRunsFrontCommand := by
  unfold Obligations.StepRunsFrontCommand
  exact fun c rest s => ⟨rfl, exec_answers c _⟩

/-- At a servo rate of 0 a nanosecond of fabric time is a nanosecond (R287). -/
theorem timTick_rate_zero {t : TimState} (rate : t.ratePpm = 0) (low : 0 ≤ t.rateAcc) (high : t.rateAcc < 1000000) :
    timTick t = { t with now := t.now + 1#64 } := by
  have whole : t.rateAcc / 1000000 = 0 := by omega
  have now : BitVec.ofInt 64 (t.now.toNat + 1 + 0) = t.now + 1#64 := by
    apply BitVec.eq_of_toNat_eq
    rw [BitVec.toNat_add, BitVec.toNat_ofInt]
    norm_cast
  simp only [timTick, rate, Int.add_zero, whole, Int.zero_mul, Int.sub_zero, ← now]

/-- Settles O2. -/
theorem emptyQueueIdles : Obligations.EmptyQueueIdles := by
  unfold Obligations.EmptyQueueIdles
  intro s empty
  refine ⟨if s.fabricRuns then timTick s.tim else s.tim,
    if s.wdogRuns then { s.rst with wdogLeft := s.rst.wdogLeft - 1 } else s.rst, ?_, ?_, ?_, ?_, ?_⟩
  · simp only [step, empty, idleTick]
  · intro off
    rw [off]; rfl
  · intro on rate low high
    rw [on]
    exact timTick_rate_zero rate low high
  · intro off
    rw [off]; rfl
  · intro on
    rw [on]; rfl

/-! ## The reset state -/

/-- Settles O3: every part of the reset state is written out in the model, one entry repeated for each lock, port and host port. -/
theorem resetHolds : Obligations.ResetHolds := by
  unfold Obligations.ResetHolds
  intro s
  have lock (k : Fin 256) : s.locks[k] = lockReset := Vector.getElem_replicate ..
  have port (p : NetPort) : s.port p = portReset := Vector.getElem_replicate ..
  have host (h : HostPort) : s.host h = hostReset := Vector.getElem_replicate ..
  refine ⟨rfl, rfl, rfl, rfl, rfl, rfl, rfl, rfl, rfl, rfl, rfl, rfl, rfl, rfl, rfl, rfl, rfl, rfl, rfl, rfl, rfl, fun k => ?_,
    fun p => ?_, fun h => ?_, rfl, rfl, rfl, fun r i k => rfl⟩
  · rw [lock k]; exact ⟨rfl, rfl, rfl⟩
  · rw [port p]; exact ⟨rfl, rfl⟩
  · rw [host h]; exact ⟨rfl, rfl, rfl, rfl, rfl, rfl⟩

end Sys2Proof.Proofs

namespace Sys2Proof.Proofs

open Sys2Proof.Machine Sys2Proof.Laws

/-! # Locks, binding, the TAP and debug access (R318, R337 to R348)

The settlements of O9 to O12. -/

/-! ## Writes of a lock -/

/-- Lock `k` free, with its mark as given (R339). -/
def lockFreed (k : Fin 256) (mark : Bool) (s : State) : State :=
  { s with locks := s.locks.set k { held := false, abandoned := mark, waiter := false, owner := 0#8 } }

theorem noPromotion_lockFreed {k : Fin 256} {mark : Bool} {s : State} (np : noPromotion s) : noPromotion (lockFreed k mark s) := np

/-- RELEASE by a master that does not own the lock is a register-access error (R339). -/
theorem exec_release_other (mid : Mid) (k : Fin 256) (v : Word) (s : State) (run : s.svcRuns = true)
    (other : ¬ (s.locks[k].held = true ∧ s.locks[k].owner = mid)) (release : bitOf v 32 = true) (noForce : bitOf v 33 = false) :
    exec (.release mid k v) s = .next (regAccessError mid 2 (0x50000 + 8 * k.val) s) := by
  refine congrArg Host.Outcome.next ((write_lock k run).trans ?_)
  unfold lockWrite
  have refused : ¬ (s.locks[k].held && decide (s.locks[k].owner = mid)) = true := by simpa using other
  simp only [release, noForce, refused, if_true, Bool.false_eq_true, if_false]

/-- FORCE without RELEASE frees and marks the lock where CONFIRM holds its code, and is a register-access error elsewhere (R339). -/
theorem exec_force (mid : Mid) (k : Fin 256) (v : Word) (s : State) (run : s.svcRuns = true) (noRelease : bitOf v 32 = false)
    (force : bitOf v 33 = true) : exec (.force mid k v) s =
      .next (if fieldOf v 47 40 = 0xA5 then abandonLock k s else regAccessError mid 2 (0x50000 + 8 * k.val) s) := by
  refine congrArg Host.Outcome.next ((write_lock k run).trans ?_)
  unfold lockWrite
  simp only [noRelease, force, if_true, Bool.false_eq_true, if_false]

/-- A lock freed and marked: LOCK_ABANDONED is recorded, and the waiter's event stands with the mark (R339). -/
theorem abandonLock_report (k : Fin 256) (s : State) (np : noPromotion s) :
    reportOnly (lockFreed k true s) (abandonLock k s) ∧ ((abandonLock k s).fget F.FLT_STATUS_SRC).testBit 25 = true ∧
      (s.locks[k].waiter = true → ∀ h, asyncData (abandonLock k s) h 0x0A = some (BitVec.ofNat 64 (k.val + 256))) := by
  obtain ⟨report, -, told⟩ := freeLock_rep k true s np
  simp only [Bool.or_true] at report told
  have np' : noPromotion (freeLock k true s) := reportOnly_noPromotion report (noPromotion_lockFreed np)
  have contained : faultClass 25 ≠ 2 := by decide
  refine ⟨reportOnly_trans report (raiseFault_report 25 _ np' contained),
    raiseFaultBy_bit _ _ _ _ _ np' contained (by decide), fun waits h => ?_⟩
  exact (raiseFaultBy_data 25 _ _ _ _ np' contained h 0x0A (by decide) (by decide)).trans (told waits h)

/-- Settles O9. -/
theorem lockWrites : Obligations.LockWrites := by
  unfold Obligations.LockWrites
  intro s mid k v run np l freed
  obtain ⟨report, quiet, told⟩ := freeLock_rep k false s np
  simp only [Bool.or_false] at report quiet told
  refine ⟨fun free => ?_, fun release noForce held owner => ?_, fun release noForce other => ?_, fun noRelease force confirm => ?_,
    fun noRelease force confirm => ?_⟩
  · obtain ⟨acquired, -, -⟩ := acq mid k s
    obtain ⟨-, -, shown, -, owner⟩ := acquired free
    exact ⟨_, _, exec_lockAcquire mid k s run, shown, owner⟩
  · exact ⟨_, exec_release_owner mid k v s run held owner release noForce, report, quiet, told⟩
  · exact ⟨_, exec_release_other mid k v s run other release noForce, rae mid 2 _ s np⟩
  · refine ⟨_, exec_force mid k v s run noRelease force, ?_⟩
    rw [if_pos confirm]
    exact abandonLock_report k s np
  · refine ⟨_, exec_force mid k v s run noRelease force, ?_⟩
    rw [if_neg confirm]
    exact rae mid 2 _ s np

/-! ## Writes of AON_BIND -/

theorem exec_bindStateWrite (mid : Mid) (v : Word) (s : State) (held : s.rst.pHeld = false) :
    exec (.bindStateWrite mid v) s = .next (bindWrite mid v s) := congrArg Host.Outcome.next (write_bind held)

/-- A write that is refused, or that names the state that stands, only shows so in ERR (R343). -/
theorem bindWrite_stays {mid : Mid} {v : Word} {s : State} {err : Nat} (refusal : bindRefusal mid (fieldOf v 1 0) s = err)
    (stays : err ≠ 0 ∨ fieldOf v 1 0 = s.fget F.AON_BIND_STATE) : bindWrite mid v s = s.fset F.AON_BIND_ERR err := by
  unfold bindWrite
  simp only [refusal, if_pos stays]

/-- A write that changes the state records its master, and makes the resets of the ports that are UP due (R343). -/
theorem bindWrite_changes {mid : Mid} {v : Word} {s : State} (refusal : bindRefusal mid (fieldOf v 1 0) s = 0)
    (change : fieldOf v 1 0 ≠ s.fget F.AON_BIND_STATE) :
    bindWrite mid v s =
      let bound := ((s.fset F.AON_BIND_ERR 0).fset F.AON_BIND_STATE (fieldOf v 1 0)).fset F.AON_BIND_LAST_MID mid.toNat
      if allPorts.any (fun p => (s.port p).link.phase = .up) then { bound with rst := { bound.rst with bindDue := true } } else bound := by
  unfold bindWrite
  simp only [refusal, if_neg (show ¬ (0 ≠ 0 ∨ fieldOf v 1 0 = s.fget F.AON_BIND_STATE) from by simp [change]), fset_port]

/-- Settles O10: `bindRefusal` answers the first reason that holds, and the clauses name each in turn. -/
theorem bindingState : Obligations.BindingState := by
  unfold Obligations.BindingState
  intro s mid v held code cur quarantined debugged bound
  simp only [exec_bindStateWrite mid v s held]
  have refused1 (q : quarantined) : bindRefusal mid code s = 1 := if_pos q
  have refused2 (q : ¬ quarantined) (d : debugged) : bindRefusal mid code s = 2 := (if_neg q).trans (if_pos d)
  have refused3 (q : ¬ quarantined) (c : code = 3) : bindRefusal mid code s = 3 :=
    (if_neg q).trans ((if_neg (fun d => by omega)).trans (if_pos c))
  have taken (q : ¬ quarantined) (d : ¬ debugged) (c : code ≠ 3) : bindRefusal mid code s = 0 :=
    (if_neg q).trans ((if_neg d).trans (if_neg c))
  refine ⟨fun q => ?_, fun q d => ?_, fun q c => ?_, fun q d c same => ?_, fun q d c change none => ?_, fun q d c change some => ?_⟩
  · rw [bindWrite_stays (refused1 q) (.inl (by decide))]
  · rw [bindWrite_stays (refused2 q d) (.inl (by decide))]
  · rw [bindWrite_stays (refused3 q c) (.inl (by decide))]
  · rw [bindWrite_stays (taken q d c) (.inr same)]
  · rw [bindWrite_changes (taken q d c) change]
    exact congrArg _ (if_neg (by simpa [allPorts] using none))
  · rw [bindWrite_changes (taken q d c) change]
    exact congrArg _ (if_pos (by simpa [allPorts] using some))

/-! ## TAP instructions -/

theorem jtagLoad_on (i : JtagInstr) {s : State} (on : s.pwr.vddAon = true) :
    jtagLoad i s = { s with jtag := { s.jtag with instr := i } } := if_pos on

/-- Setting words at addresses apart from `a` leaves what stands at `a`. -/
theorem tblGet_foldl_set {α : Type} (a : Nat) (l : List (Nat × α)) (t : Tbl α) (apart : ∀ e ∈ l, a ≠ e.1) :
    tblGet a (l.foldl (fun t e => tblSet e.1 e.2 t) t) = tblGet a t := by
  induction l generalizing t with
  | nil => rfl
  | cons e l ih =>
    rw [List.foldl_cons, ih _ fun x m => apart x (List.mem_cons_of_mem _ m)]
    exact tblGet_set_other _ _ _ _ (apart e List.mem_cons_self)

/-- What SCAN leaves behind of the scanned blocks is free; the registers of the always-on domain and of CFG stay (R347). -/
theorem jtagScan_keeps {s : State} (on : s.pwr.vddAon = true) (level : s.debugLevel = 2) :
    let t := jtagScan s
    t.jtag = { s.jtag with instr := .scan } ∧ t.impl = s.impl ∧ t.image = s.image ∧ t.cfg = s.cfg ∧
      t.pwr = s.pwr ∧ t.tim = s.tim ∧ t.rst = s.rst ∧ t.flt = s.flt ∧ t.smb = s.smb ∧ t.modprs = s.modprs ∧ t.out = s.out ∧
      t.pending = s.pending ∧ ∀ a, a < 0x50000 → tblGet a t.regs = tblGet a s.regs := by
  intro t
  have scanned : t = jtagScan s := rfl
  unfold jtagScan at scanned
  rw [if_neg (by rw [level]; decide)] at scanned
  dsimp only at scanned
  rw [jtagLoad, if_pos (show s.tookFree.pwr.vddAon = true from on)] at scanned
  rw [scanned]
  refine ⟨rfl, rfl, rfl, rfl, rfl, rfl, rfl, rfl, rfl, rfl, rfl, rfl, fun a low => ?_⟩
  refine (tblGet_foldl_set a _ _ fun e m same => ?_).trans (tblGet_aon a s.regs low)
  have scannedAddr := (List.mem_filter.mp m).2
  simp [aonAddr, ← same, low] at scannedAddr

theorem scanPins_iff (s : State) : s.scanPins = true ↔ s.fget F.AON_BIND_STATE ≠ 1 ∧ s.pwr.state ≠ .sleep := by
  simp [State.scanPins]

theorem pads_kept {s : State} (kept : s.fget F.AON_BIND_STATE = 1 ∨ s.pwr.state = .sleep) : s.pads = s.pins := by
  have off : s.scanPins = false := by
    rw [← Bool.not_eq_true, scanPins_iff]
    tauto
  simp only [State.pads, off, Bool.not_false, if_true]

theorem pads_driven {s : State} (on : s.scanPins = true) {b : Pins} (boundary : s.jtag.boundary = some b)
    (drives : s.jtag.instr = .extest ∨ s.jtag.instr = .clamp) :
    s.pads = { s.pins with txdis := b.txdis, faultN := b.faultN, alertN := b.alertN, gpio := b.gpio } := by
  rcases drives with instr | instr <;>
    simp only [State.pads, on, instr, boundary, Bool.not_true, Bool.false_eq_true, if_false, Option.elim_some]

theorem pads_released {s : State} (on : s.scanPins = true) (instr : s.jtag.instr = .highz) :
    s.pads = { s.pins with txdis := 0xFF#8, faultN := true, alertN := true } := by
  simp only [State.pads, on, instr, Bool.not_true, Bool.false_eq_true, if_false]

/-- Settles O11: the loads by `jtagLoad_on`, the pins by the three `pads` lemmas, SCAN by `jtagScan_keeps`. -/
theorem tapInstructions : Obligations.TapInstructions := by
  unfold Obligations.TapInstructions
  intro s on loads
  have load (i : JtagInstr) : Host.Outcome.next (jtagLoad i s) = (.next (loads i) : Host.Outcome State Fault Refusal) :=
    congrArg _ (jtagLoad_on i on)
  refine ⟨load _, load _, load _, load _, load _, congrArg Host.Outcome.next (if_pos on), fun locks unlock => ?_, pads_kept,
    fun bound awake => ?_, fun below => ?_, fun run level => ⟨_, rfl, jtagScan_keeps on ?_⟩⟩
  · refine congrArg Host.Outcome.next ((congrArg (resetMaster 1#8) (jtagLoad_on .idcode on)).trans ?_)
    exact resetMaster_quiet 1#8 (loads .idcode) locks unlock
  · have pins := (scanPins_iff s).mpr ⟨bound, awake⟩
    exact ⟨fun b boundary drives => pads_driven pins boundary drives, pads_released pins⟩
  · have level : s.debugLevel ≠ 2 := by
      unfold State.debugLevel
      rcases below with off | low
      · simp [off]
      · split
        · exact low
        · decide
    exact (congrArg Host.Outcome.next (if_pos level)).trans (load .bypass)
  · exact (if_pos run).trans level

/-! ## Debug access -/

theorem exec_debugLevelWrite (mid : Mid) (v : Word) (s : State) (run : s.svcRuns = true) :
    exec (.debugLevelWrite mid v) s = .next (debugLevelSet v s) := congrArg Host.Outcome.next (write_dbg_level run)

theorem exec_dbgMemRead (mid : Mid) (s : State) (run : s.svcRuns = true) : exec (.dbgMemRead mid) s =
    .next ((dbgRead mid s).1.emit (.regRead mid (BitVec.ofNat 24 (regAddr .DBG_MEM_DATA 0 0)) (dbgRead mid s).2)) := by
  show Host.Outcome.next (readOut mid (regAddr .DBG_MEM_DATA 0 0) s) = _
  unfold readOut
  rw [read_dbg_mem run]

theorem exec_dbgMemWrite (mid : Mid) (v : Word) (s : State) (run : s.svcRuns = true) :
    exec (.dbgMemWrite mid v) s = .next (dbgWrite mid v s) := congrArg Host.Outcome.next (write_dbg_mem run)

theorem exec_dbgHalt (mid : Mid) (v : Word) (s : State) (run : s.svcRuns = true) :
    exec (.dbgHalt mid v) s = .next (dbgHaltWrite v s) := congrArg Host.Outcome.next (write_dbg_halt run)

theorem exec_step (mid : Mid) (v : Word) (s : State) (run : s.svcRuns = true) :
    exec (.step mid v) s = .next (dbgHaltWrite v s) := congrArg Host.Outcome.next (write_dbg_halt run)

/-- A report stays one beside an output. -/
theorem reportOnly_emit {s t : State} (report : reportOnly s t) (o : Output) : reportOnly (s.emit o) (t.emit o) := by
  obtain ⟨same, hosts, regs⟩ := report
  refine ⟨?_, hosts, regs⟩
  rw [same]
  rfl

/-- Settles O12. -/
theorem debugAccess : Obligations.DebugAccess := by
  unfold Obligations.DebugAccess
  intro s mid v run np level addr onward halted
  rw [exec_debugLevelWrite mid v s run, exec_dbgHalt mid v s run, exec_step mid v s run]
  refine ⟨fun high bound => ?_, fun high free wrong => ?_, fun high free confirm => ?_, fun low => ?_, fun off => ?_,
    fun seen w word => ?_, fun low => ?_, fun high => ?_, fun low => ?_, fun high noStep => ?_, fun high step rtr runs => ?_⟩
  · exact congrArg _ ((if_neg (by omega)).trans (if_pos ⟨high, bound⟩))
  · exact congrArg _ ((if_neg (by omega)).trans ((if_neg fun c => free c.2).trans (if_pos ⟨high, wrong⟩)))
  · refine congrArg _ ((if_neg (by omega)).trans ((if_neg fun c => free c.2).trans ((if_neg fun c => c.2 confirm).trans ?_)))
    exact (if_pos high).trans (by rw [show fieldOf v 1 0 = 2 from high])
  · exact congrArg _ ((if_neg (by omega)).trans ((if_neg fun c => by omega).trans ((if_neg fun c => by omega).trans
      (if_neg (by omega)))))
  · refine ⟨_, exec_dbgMemRead mid s run, ?_⟩
    rw [show dbgRead mid s = _ from if_pos off]
    obtain ⟨report, bit⟩ := rae mid 1 0xC00010 s np
    exact ⟨reportOnly_emit report _, bit⟩
  · rw [exec_dbgMemRead mid s run]
    have read : dbgRead mid s = (onward s, w) := by
      unfold dbgRead
      rw [if_neg seen, show tblGet (8 * s.fget F.DBG_MEM_ADDR_ADDR) s.sram = some w from word]
      rfl
    rw [read]
  · refine ⟨_, exec_dbgMemWrite mid v s run, ?_⟩
    rw [show dbgWrite mid v s = _ from if_pos low]
    exact rae mid 2 _ s np
  · rw [exec_dbgMemWrite mid v s run]
    exact congrArg _ (if_neg fun c => c high)
  · exact ⟨congrArg _ (if_pos low), congrArg _ (if_pos low)⟩
  · refine congrArg _ ((if_neg fun c => c high).trans ?_)
    simp only [noStep, Bool.false_and, Bool.false_eq_true, if_false]
    rfl
  · refine ⟨_, exec_step mid v s run, dbgHaltWrite_still v s, (if_neg fun c => c high).trans ?_⟩
    have halts : halted.routerRuns = true := runs
    simp only [step, rtr, Bool.true_and]
    exact if_pos halts

end Sys2Proof.Proofs

namespace Sys2Proof.Proofs

open Sys2Proof.Machine Sys2Proof.Laws

/-! # Register accesses and the masters that are no host ports (R5 to R8, R112, R344, R346, R366 to R377)

The settlements of O13 to O18. -/

/-! ## Register writes -/

/-- Outside the MSI-X arrays a write of an aligned offset is the register's (R5). -/
theorem exec_registerWrite_aligned (mid : Mid) {off : Offset} (v : Word) {s : State} (plain : msixHere s off.toNat = none)
    (aligned : off.toNat % 8 = 0) : exec (.registerWrite mid off v) s = .next (writeReg mid off.toNat v s) := by
  refine congrArg Host.Outcome.next (?_ : writeForm mid off.toNat v s = _)
  unfold writeForm
  rw [plain]
  exact if_pos aligned

theorem exec_registerWrite_misaligned (mid : Mid) {off : Offset} (v : Word) {s : State} (plain : msixHere s off.toNat = none)
    (odd : off.toNat % 8 ≠ 0) : exec (.registerWrite mid off v) s = .next (regAccessError mid 2 off.toNat s) := by
  refine congrArg Host.Outcome.next (?_ : writeForm mid off.toNat v s = _)
  unfold writeForm
  rw [plain]
  exact if_neg odd

theorem writeReg_unmapped (mid : Mid) {off : Nat} (v : Word) {s : State} (unmapped : regHere s off = none) :
    writeReg mid off v s = s := by
  unfold writeReg
  rw [unmapped]

theorem unlockUsed_regWord (mid : Mid) (r r' : RegId) (s : State) (i k : Nat) :
    (unlockUsed mid r s).regWord r' i k = s.regWord r' i k := by
  unfold unlockUsed
  split <;> rfl

/-- Settles O13, each kind of register by its law: `plain_at`, `static_at` and `disabled_at`. -/
theorem registerWrite : Obligations.RegisterWrite := by
  unfold Obligations.RegisterWrite
  intro s mid off v plain
  refine ⟨fun r i k place answers aligned => ?_, fun unmapped aligned => ?_, fun odd np => ?_⟩
  · have ran : exec (.registerWrite mid off v) s = .next (writeAt mid off.toNat r i k v s) :=
      (exec_registerWrite_aligned mid v plain aligned).trans (congrArg _ (writeReg_at place answers))
    refine ⟨fun codes enabled => ?_, fun static enabled => ?_, fun port disabled => ?_⟩
    · obtain ⟨w, wrote, fields⟩ := writePlain_fields r i k v s (unlockUsed mid r s) (unlockUsed_regWord mid r r s i k)
      exact ⟨w, by rw [ran, plain_at mid _ r i k v s place codes enabled, wrote], fields⟩
    · refine ⟨_, ran, ?_⟩
      rw [static_at mid _ r i k v s static enabled]
      exact whileLive_spec mid off.toNat off.isLt s
    · rw [ran, disabled_at mid _ r i k v s port disabled]
  · rw [exec_registerWrite_aligned mid v plain aligned, writeReg_unmapped mid v unmapped]
  · exact ⟨_, exec_registerWrite_misaligned mid v plain odd, rae mid 2 _ s np⟩

/-! ## Register reads -/

/-- Outside the MSI-X arrays a read goes by its form (R373). -/
theorem exec_read_form (mid : Mid) {off : Offset} (len : Nat) {s : State} (plain : msixHere s off.toNat = none) :
    exec (.registerReadClear mid off len) s = .next (
      if len = 8 ∧ off.toNat % 8 = 0 then (readReg mid off.toNat s).1.emit (.regRead mid off (readReg mid off.toNat s).2)
      else if len = 4 ∧ off.toNat % 4 = 0 then
        let x := peekReg mid (off.toNat - off.toNat % 8) s
        x.1.emit (.regRead mid off (BitVec.ofNat 64 (x.2.toNat / 2 ^ (8 * (off.toNat % 8)) % 2 ^ 32)))
      else regAccessError mid 1 off.toNat s) := by
  refine congrArg Host.Outcome.next (?_ : readForm mid off.toNat len s = _)
  unfold readForm readOut
  rw [plain]
  simp only [BitVec.ofNat_toNat, BitVec.setWidth_eq]

/-- A 64-bit read of a register whose read does nothing of its own returns it and clears its RC fields (R6, R377). -/
theorem readAt_fields (mid : Mid) (r : RegId) (i k : Nat) (s : State)
    (own : [RegId.SEM_LOCK, .AON_RSRAM_DATA, .DBG_MEM_DATA].contains r = false) :
    (readAt mid r i k s).2 = readWord s r i k ∧
      ((readAt mid r i k s).1 = s ∨ ∃ w, (readAt mid r i k s).1 = s.setWord r w i k) ∧
      ∀ row ∈ regFields r, (readAt mid r i k s).1.fget ⟨r, row.hi, row.lo⟩ i k =
        if row.access = .rc then 0 else s.fget ⟨r, row.hi, row.lo⟩ i k := by
  rw [readAt_plain mid r i k s own]
  split
  next =>
    refine ⟨rfl, .inr ⟨_, rfl⟩, fun row m => ?_⟩
    rw [fget_def, fget_def, regWord_setWord]
    exact clear_field row _ _ (fields_apart r) m
  next none =>
    refine ⟨rfl, .inl rfl, fun row m => (if_neg fun rc => none ?_).symm⟩
    exact List.any_eq_true.mpr ⟨row, m, by simp [rc]⟩

theorem exec_registerWrite32bit (mid : Mid) {off : Offset} (bytes : Bytes) {s : State} (plain : msixHere s off.toNat = none) :
    exec (.registerWrite32bit mid off bytes) s = .next (regAccessError mid (if bytes.length ≤ 8 then 3 else 2) off.toNat s) := by
  refine congrArg Host.Outcome.next (?_ : partialWrite mid off.toNat bytes s = _)
  unfold partialWrite
  rw [plain]

/-- Settles O14. -/
theorem registerRead : Obligations.RegisterRead := by
  unfold Obligations.RegisterRead
  intro s mid off plain
  refine ⟨fun r i k place answers aligned => ⟨fun own => ?_, fun own => ?_⟩, fun unmapped aligned => ?_,
    fun len no8 no4 np => ?_, fun bytes np => ?_⟩
  · obtain ⟨word, state, fields⟩ := readAt_fields mid r i k s own
    refine ⟨_, ?_, state, fields⟩
    rw [exec_read_form mid 8 plain, if_pos ⟨rfl, aligned⟩, readReg_at place answers, word]
  · rw [exec_read_form mid 4 plain, if_neg (by omega), if_pos ⟨rfl, by omega⟩]
    dsimp only
    rw [aligned, Nat.sub_zero, peek_plain mid s _ r i k place answers own, Nat.mul_zero, Nat.pow_zero, Nat.div_one]
  · rw [exec_read_form mid 8 plain, if_pos ⟨rfl, aligned⟩]
    unfold readReg
    rw [unmapped]
  · refine ⟨_, exec_read_form mid len plain, ?_⟩
    rw [if_neg no8, if_neg no4]
    exact rae mid 1 _ s np
  · refine ⟨_, exec_registerWrite32bit mid bytes plain, ?_⟩
    obtain ⟨report, bit⟩ := rae mid (if bytes.length ≤ 8 then 3 else 2) off.toNat s np
    exact ⟨report, bit, fun fresh => raise_access 10 mid _ _ s (by split <;> decide) np (by decide) fresh⟩

/-! ## REG_ACCESS of the TAP -/

/-- The offset that REG_ACCESS shifts in (R346). -/
theorem toNat_extract_offset (dr : BitVec 92) : (dr.extractLsb' 64 24).toNat = dr.toNat / 2 ^ 64 % 2 ^ 24 := by
  rw [BitVec.extractLsb'_toNat, Nat.shiftRight_eq_div_pow]

theorem busWrite_answers (mid : Mid) {off : Nat} (v : Word) {s : State} (answers : offsetAnswers s off = true) :
    busWrite mid off v s = writeForm mid off v s := if_pos answers

theorem busWrite_unmapped (mid : Mid) {off : Nat} (v : Word) {s : State} (unmapped : offsetAnswers s off = false) :
    busWrite mid off v s = s := if_neg (by simp [unmapped])

theorem busRead_unmapped (mid : Mid) {off : Nat} {s : State} (unmapped : offsetAnswers s off = false) :
    busRead mid off s = (s, 0#64) := if_pos (by simp [unmapped])

/-- What Capture-DR shows after an access of REG_ACCESS (R346). -/
def jtagShows (u : State) (w : Word) (status : BitVec 3) : State :=
  { u with jtag := { u.jtag with instr := .regAccess, data := w, status := status } }

theorem jtagAccess_write {dr : BitVec 92} {s : State} (on : s.pwr.vddAon = true) (write : dr.toNat.testBit 88 = true) :
    let off := (dr.extractLsb' 64 24).toNat
    let u := busWrite 1#8 off (dr.setWidth 64) s
    jtagAccess dr s = jtagShows u.tookFree u.freeValue (if offsetAnswers s off then 0#3 else 2#3) := by
  dsimp only
  unfold jtagAccess
  rw [toNat_extract_offset]
  simp only [on, write, Bool.not_true, Bool.false_eq_true, if_false, if_true]
  rfl

theorem jtagAccess_read {dr : BitVec 92} {s : State} (on : s.pwr.vddAon = true) (read : dr.toNat.testBit 88 = false) :
    let off := dr.extractLsb' 64 24
    let x := busRead 1#8 off.toNat s
    jtagAccess dr s = jtagShows (x.1.emit (.regRead 1#8 off x.2)) x.2 (if offsetAnswers s off.toNat then 0#3 else 2#3) := by
  dsimp only
  have off : BitVec.ofNat 24 (dr.toNat / 2 ^ 64 % 2 ^ 24) = dr.extractLsb' 64 24 := by
    rw [← toNat_extract_offset, BitVec.ofNat_toNat, BitVec.setWidth_eq]
  unfold jtagAccess
  simp only [on, read, Bool.not_true, Bool.false_eq_true, if_false, off, toNat_extract_offset]
  rfl

/-- Settles O15. -/
theorem tapRegisterAccess : Obligations.TapRegisterAccess := by
  unfold Obligations.TapRegisterAccess
  intro s dr on off v shows
  refine ⟨fun write answers => ⟨_, bw s 1#8 off v, ?_⟩, fun write unmapped => ?_, fun read answers => ⟨_, _, br s 1#8 off answers, ?_⟩,
    fun read unmapped => ?_⟩
  · refine congrArg Host.Outcome.next ((jtagAccess_write on write).trans ?_)
    rw [answers, busWrite_answers 1#8 _ answers]
    rfl
  · refine congrArg Host.Outcome.next ((jtagAccess_write on write).trans ?_)
    rw [unmapped, busWrite_unmapped 1#8 _ unmapped]
    rfl
  · refine congrArg Host.Outcome.next ((jtagAccess_read on read).trans ?_)
    rw [answers]
    rfl
  · refine congrArg Host.Outcome.next ((jtagAccess_read on read).trans ?_)
    rw [unmapped, busRead_unmapped 1#8 unmapped]
    rfl

/-! ## The management bus -/

theorem smbRun_serves (f : State → State) {s : State} (serves : smbServes s = true) : smbRun f s = whistleEnd (f s) := if_pos serves

theorem offsetAnswers_aligned {s : State} {off : Nat} (answers : offsetAnswers s off = true) : off % 8 = 0 := by
  simp only [offsetAnswers, Bool.and_eq_true, beq_iff_eq] at answers
  exact answers.1

theorem smbStatus_misaligned {s : State} (odd : s.smb.offset.toNat % 8 ≠ 0) : smbStatus s = 2 := if_pos odd

theorem smbStatus_unmapped {s : State} (aligned : s.smb.offset.toNat % 8 = 0)
    (unmapped : offsetAnswers s s.smb.offset.toNat = false) : smbStatus s = 1 := by
  unfold smbStatus
  rw [if_neg (by omega), unmapped]
  rfl

theorem smbStatus_answers {s : State} (answers : offsetAnswers s s.smb.offset.toNat = true) : smbStatus s = 0 := by
  have aligned := offsetAnswers_aligned answers
  unfold smbStatus
  rw [if_neg (by omega), answers]
  rfl

/-- Settles O16, by the STATUS that each offset gives. -/
theorem busAccesses : Obligations.BusAccesses := by
  unfold Obligations.BusAccesses
  intro s
  refine ⟨?_, fun idle => ?_⟩
  · intro serves setsStatus movesOn off
    have served (f : State → State) : smbRun f s = whistleEnd (f s) := smbRun_serves f serves
    refine ⟨fun bytes len => ?_, fun b => congrArg _ (served _), congrArg _ (served _), fun bytes len => ⟨fun odd => ?_,
      fun aligned unmapped => ?_, fun answers => ⟨_, bw s 0#8 off _, ?_⟩⟩, fun odd => ?_, fun aligned unmapped => ?_,
      fun answers => ⟨_, _, br s 0#8 off answers, ?_⟩⟩
    · exact congrArg _ ((served _).trans (congrArg _ (if_pos len)))
    all_goals refine congrArg Host.Outcome.next ((served _).trans (congrArg whistleEnd ?_))
    · unfold smbWriteGo
      rw [if_neg (by omega), smbStatus_misaligned odd]
      rfl
    · unfold smbWriteGo
      rw [if_neg (by omega), smbStatus_unmapped aligned unmapped, busWrite_unmapped 0#8 _ unmapped]
      rfl
    · unfold smbWriteGo
      rw [if_neg (by omega), smbStatus_answers answers, busWrite_answers 0#8 _ answers]
      rfl
    · unfold smbReadGo
      rw [smbStatus_misaligned odd]
      rfl
    · unfold smbReadGo
      rw [smbStatus_unmapped aligned unmapped, busRead_unmapped 0#8 unmapped]
      rfl
    · unfold smbReadGo
      rw [smbStatus_answers answers]
      rfl
  · refine congrArg Host.Outcome.next (?_ : smbTimeout s = s)
    rcases idle with held | ⟨locks, unlock⟩
    · exact if_pos held
    · unfold smbTimeout
      rw [resetMaster_quiet 0#8 s locks unlock, ite_self]

end Sys2Proof.Proofs

namespace Sys2Proof.Proofs

open Sys2Proof.Machine Sys2Proof.Laws

/-! # The in-band agent and the counters (R112, R344, R358, R364)

The settlements of O17 and O18. -/

/-! ## A request reaches the agent -/

/-- A request that the in-band agent can take up: a WRITE where `write`, else a READ (R104, R105, R112). -/
structure IsAgentRequest (write : Bool) (p : Packet) : Prop where
  opcode : pktOpcode p = 0x0D
  pcrc : pcrcOk p = true
  tc : pktTc p = 0
  fmt : pktFmt p = 1
  len : pktLenOk p = true
  op : pktAt p 19 1 = if write then 2 else 1

theorem IsAgentRequest.listed {write : Bool} {p : Packet} (r : IsAgentRequest write p) : pktUnlisted p = false := by
  unfold pktUnlisted
  rw [r.opcode]
  exact decide_eq_false (not_not_intro r.fmt)

theorem mgmtArrive_request {write : Bool} {ip : IntPort} {e : InPacket} {rest : List InPacket} {s : State}
    (head : s.ints[ip].eject = e :: rest) (works : s.agentWorks = true) (r : IsAgentRequest write e.pkt) :
    mgmtArrive write ip s = agentTake e.pkt (nicSlot 1 (takeEject ip e s)) := by
  unfold mgmtArrive
  rw [head]
  dsimp only
  rw [if_neg (by cases write <;> simp [r.opcode, r.op, works]), if_neg (by simp [r.pcrc]), if_neg (by simp [r.listed, r.len]),
    if_neg (by simp [r.tc]), if_neg (by cases write <;> simp [r.op])]

theorem agentTake_idle {p : Packet} {s : State} (idle : s.agent = []) : agentTake p s = agentServe p { s with agent := [p] } := by
  unfold agentTake
  rw [idle]
  rfl

theorem agentTake_waits {p : Packet} {s : State} (busy : s.agent ≠ []) (room : s.agent.length < 16) :
    agentTake p s = { s with agent := s.agent ++ [p] } := by
  unfold agentTake
  rw [if_neg (by simpa using busy), if_pos room]

theorem agentTake_full {p : Packet} {s : State} (full : 16 ≤ s.agent.length) :
    agentTake p s = agentAnswer p (if pktAt p 19 1 = 2 then 4 else 3) 1 s.freeValue s.tookFree := by
  unfold agentTake
  have busy : s.agent ≠ [] := fun empty => by simp [empty] at full
  rw [if_neg (by simpa using busy), if_neg (by omega)]

/-! ## The binding rules -/

theorem agentTook_regWord_low (ip : IntPort) (e : InPacket) (s : State) (r : RegId) (i k : Nat) (low : regAddr r i k < 0x50000) :
    (agentTook ip e s).regWord r i k = s.regWord r i k :=
  lowWord ((pmcAdd_low 68 1 1 (takeEject ip e s)).trans (takeEject_low ip e s))
    ((image_of_still (nicSlot_still _ _)).trans (takeEject_image ip e s)) r i k low

/-- The binding rules admit a WRITE from a chip: UNBOUND, or BOUND where AON_MGR lists the chip or none (R344). -/
def WriteAllowed (s : State) (src : Nat) : Prop :=
  s.binding = 0 ∨ (s.binding = 1 ∧ ((∀ k, k < 4 → bitOf (s.regWord .AON_MGR 0 k) 18 = false) ∨
    ∃ k, k < 4 ∧ bitOf (s.regWord .AON_MGR 0 k) 18 = true ∧ fieldOf (s.regWord .AON_MGR 0 k) 17 0 = src))

theorem agentRefuses_read_iff (s : State) (src : Nat) : agentRefuses s false src = false ↔ s.binding = 0 ∨ s.binding = 1 := by
  unfold agentRefuses
  split <;> simp_all

theorem agentRefuses_write_iff (s : State) (src : Nat) : agentRefuses s true src = false ↔ WriteAllowed s src := by
  unfold agentRefuses WriteAllowed
  split
  next unbound => simp [unbound]
  next bound =>
    simp only [bound, Bool.true_and, Bool.and_eq_false_iff, Bool.not_eq_false', List.isEmpty_iff, List.filter_eq_nil_iff,
      List.any_eq_true, List.mem_filter, List.mem_range, beq_iff_eq, Bool.not_eq_true]
    simp [and_assoc]
  next bound => simp_all

theorem writeAllowed_took (ip : IntPort) (e : InPacket) (s : State) (src : Nat) :
    WriteAllowed (agentTook ip e s) src ↔ WriteAllowed s src := by
  have word (k : Nat) (lt : k < 4) : (agentTook ip e s).regWord .AON_MGR 0 k = s.regWord .AON_MGR 0 k :=
    agentTook_regWord_low ip e s .AON_MGR 0 k (by simp only [regAddr, regPlace]; omega)
  unfold WriteAllowed
  rw [agentTook_binding]
  refine or_congr_right (and_congr_right fun _ => or_congr (forall₂_congr fun k lt => ?_)
    (exists_congr fun k => and_congr_right fun lt => ?_))
  · rw [word k lt]
  · rw [word k lt]

/-- Settles O17: an idle agent serves the request at once, by `serve1` or `serve2`; the others are `agentTake_waits` and
`agentTake_full`. -/
theorem managementAgent : Obligations.ManagementAgent := by
  unfold Obligations.ManagementAgent
  intro s ip e rest head works opcode pcrc tc fmt len u up off writeAllowed
  have request (write : Bool) (op : pktAt e.pkt 19 1 = if write then 2 else 1) :
      mgmtArrive write ip s = agentTake e.pkt u := mgmtArrive_request head works ⟨opcode, pcrc, tc, fmt, len, op⟩
  have agent : u.agent = s.agent := (nicSlot_agent _ _).trans (takeEject_agent ip e s)
  refine ⟨fun idle => ?_, fun row mem op => ?_⟩
  · have serve (write : Bool) (op : pktAt e.pkt 19 1 = if write then 2 else 1) : mgmtArrive write ip s = agentServe e.pkt up :=
      (request write op).trans (agentTake_idle (agent.trans idle))
    have bound : up.binding = s.binding := agentTook_binding ip e s
    refine ⟨fun op free => ?_, fun op shut => ?_, fun op allowed => ?_, fun op refused => ?_⟩
    · have admits := (agentRefuses_read_iff up (pktSrcChip e.pkt)).mpr (bound ▸ free)
      refine congrArg Host.Outcome.next ((serve false op).trans ((serve1 _ _ op).trans ?_))
      rw [admits]
      rfl
    · have refuses : agentRefuses up false (pktSrcChip e.pkt) = true := by
        rw [← Bool.not_eq_false, agentRefuses_read_iff, bound]
        exact shut
      refine congrArg Host.Outcome.next ((serve false op).trans ((serve1 _ _ op).trans ?_))
      rw [refuses]
      rfl
    · have admits := (agentRefuses_write_iff up (pktSrcChip e.pkt)).mpr ((writeAllowed_took ip e s _).mpr allowed)
      refine congrArg Host.Outcome.next ((serve true op).trans ((serve2 _ _ op).trans ?_))
      rw [admits]
      rfl
    · have refuses : agentRefuses up true (pktSrcChip e.pkt) = true := by
        rw [← Bool.not_eq_false, agentRefuses_write_iff]
        exact fun allowed => refused ((writeAllowed_took ip e s _).mp allowed)
      refine congrArg Host.Outcome.next ((serve true op).trans ((serve2 _ _ op).trans ?_))
      rw [refuses]
      rfl
  · simp only [List.mem_cons, List.not_mem_nil, or_false] at mem
    have waits (busy : s.agent ≠ []) (room : s.agent.length < 16) :
        agentTake e.pkt u = { u with agent := s.agent ++ [e.pkt] } := by
      rw [agentTake_waits (agent ▸ busy) (agent ▸ room), agent]
    have full (many : 16 ≤ s.agent.length) := agentTake_full (p := e.pkt) (s := u) (agent ▸ many)
    rcases mem with rfl | rfl
    · refine ⟨fun busy room => congrArg Host.Outcome.next ((request false op).trans (waits busy room)),
        fun many => congrArg Host.Outcome.next ((request false op).trans ((full many).trans ?_))⟩
      rw [if_neg (by simp [op])]
    · refine ⟨fun busy room => congrArg Host.Outcome.next ((request true op).trans (waits busy room)),
        fun many => congrArg Host.Outcome.next ((request true op).trans ((full many).trans ?_))⟩
      rw [if_pos op]

/-! ## Counters -/

theorem exec_clear (mid : Mid) (u : Fin 72) (v : Word) (s : State) (run : s.svcRuns = true) :
    exec (.clear mid u v) s = .next (pmcCtlWrite u.val v s) := congrArg Host.Outcome.next (write_pmc_ctl u run)

theorem exec_snapshot (mid : Mid) (v : Word) (s : State) (run : s.svcRuns = true) :
    exec (.snapshot mid v) s = .next (pmcSnapWrite v s) := congrArg Host.Outcome.next (write_snap run)

/-- CLEAR zeroes what a unit has counted, after the write of PMC_CTL itself (R364). -/
theorem pmcCtlWrite_clear (u : Nat) (v : Word) (s : State) (clear : bitOf v 1 = true) :
    let t := pmcCtlWrite u v s
    t = { s with regs := t.regs } ∧ t.regWord .PMC_CYC u 0 = 0#64 ∧ (∀ i, i < 8 → t.regWord .PMC_CNT u i = 0#64) ∧
      t.fget F.PMC_CTL_EN u = fieldOf v 0 0 ∧
      regsBut s t (regAddr .PMC_CTL u 0 :: regAddr .PMC_CYC u 0 :: (List.range 8).map (regAddr .PMC_CNT u)) := by
  obtain ⟨cnt, -, -, cyc, ctl, -⟩ := pmc_addr
  obtain ⟨w, wrote, fields⟩ := writePlain_fields .PMC_CTL u 0 v s s rfl
  have unfolded : pmcCtlWrite u v s = (List.range 8).foldl (fun t i => t.setWord .PMC_CNT 0#64 u i)
      ((s.setWord .PMC_CTL w u 0).setWord .PMC_CYC 0#64 u 0) := by
    unfold pmcCtlWrite
    rw [wrote]
    exact if_pos clear
  dsimp only
  rw [unfolded]
  obtain ⟨state, others, zero⟩ := clearAll u 8 ((s.setWord .PMC_CTL w u 0).setWord .PMC_CYC 0#64 u 0)
  generalize (List.range 8).foldl _ _ = t at state others zero
  have image : t.image = s.image := by rw [state]; rfl
  have cycles : t.regWord .PMC_CYC u 0 = 0#64 := by
    refine (regWord_of_get (s := (s.setWord .PMC_CTL w u 0).setWord .PMC_CYC 0#64 u 0) image .PMC_CYC u 0
      (others _ (.inl (by rw [cyc]; omega)))).trans (regWord_setWord _ _ _ _ _)
  have control : t.regWord .PMC_CTL u 0 = w := by
    refine (regWord_of_get (s := (s.setWord .PMC_CTL w u 0).setWord .PMC_CYC 0#64 u 0) image .PMC_CTL u 0
      (others _ (.inl (by rw [ctl]; omega)))).trans ?_
    rw [regWord_setWord_other _ _ _ _ _ _ _ _ (by rw [ctl, cyc]; omega), regWord_setWord]
  refine ⟨by rw [state]; rfl, cycles, zero, ?_, fun a apart => ?_⟩
  · rw [fget_def, show F.PMC_CTL_EN.reg = .PMC_CTL from rfl, control]
    exact fields ⟨0, 0, .rw, .val 0x0 [.P, .C], .immediate⟩ (by simp [regFields])
  · simp only [List.mem_cons, List.mem_map, List.mem_range, not_or, not_exists, not_and] at apart
    obtain ⟨notCtl, notCyc, notCnt⟩ := apart
    rw [others a, setWord_get _ _ _ _ _ _ notCyc, setWord_get _ _ _ _ _ _ notCtl]
    by_contra counter
    refine notCnt ((a - (0x60050 + 0x100 * u)) / 8) (by omega) ?_
    rw [cnt]
    omega

/-- A snapshot: every unit's shadows, the time and SEQ change, at the instant of the write (R358). -/
theorem pmcSnapWrite_go (v : Word) (s : State) (go : bitOf v 0 = true) :
    let t := pmcSnapWrite v s
    t = { s with regs := t.regs } ∧
      (∀ u, u < 72 → t.regWord .PMC_SHD_CYC u 0 = s.regWord .PMC_CYC u 0 ∧
        ∀ i, i < 8 → t.regWord .PMC_SHD_CNT u i = s.regWord .PMC_CNT u i) ∧
      t.regWord .PMC_SNAP_TIME 0 0 = s.tim.now ∧ t.fget F.PMC_SNAP_SEQ = (s.fget F.PMC_SNAP_SEQ + 1) % 65536 ∧
      ∀ a, (a < 0x60090 ∨ 0x68010 ≤ a ∨ (a % 256 < 0x90 ∧ a < 0x68000)) → tblGet a t.regs = tblGet a s.regs := by
  obtain ⟨-, shdCnt, shdCyc, -, -, -, snap, time⟩ := pmc_addr
  obtain ⟨state, others, copied⟩ := snapAll 72 s
  have unfolded : pmcSnapWrite v s = (((List.range 72).foldl snapUnit s).setWord .PMC_SNAP_TIME
      ((List.range 72).foldl snapUnit s).tim.now 0 0).fset F.PMC_SNAP_SEQ (((List.range 72).foldl snapUnit s).fget F.PMC_SNAP_SEQ + 1) := by
    unfold pmcSnapWrite
    rw [if_pos go]
  dsimp only
  rw [unfolded]
  generalize (List.range 72).foldl snapUnit s = base at state others copied
  have image : base.image = s.image := by rw [state]
  have seq : base.fget F.PMC_SNAP_SEQ = s.fget F.PMC_SNAP_SEQ :=
    congrArg (fieldOf · 31 16) (regWord_of_get image .PMC_SNAP 0 0 (others _ (by rw [snap]; omega)))
  generalize eq : (base.setWord .PMC_SNAP_TIME base.tim.now 0 0).fset F.PMC_SNAP_SEQ (base.fget F.PMC_SNAP_SEQ + 1) = t
  have apart (a : Nat) (h : a ≠ 0x68000 ∧ a ≠ 0x68008) : tblGet a t.regs = tblGet a base.regs :=
    eq ▸ (setWord_get _ _ _ _ _ _ (snap ▸ h.1)).trans (setWord_get _ _ _ _ _ _ (time ▸ h.2))
  have word (r : RegId) (i k : Nat) (h : regAddr r i k ≠ 0x68000 ∧ regAddr r i k ≠ 0x68008) : t.regWord r i k = base.regWord r i k :=
    regWord_of_get (by rw [← eq]; rfl) r i k (apart _ h)
  refine ⟨by rw [← eq, state]; rfl, fun u lt => ⟨?_, fun i few => ?_⟩, ?_, ?_, fun a free => ?_⟩
  · exact (word _ _ _ (by rw [shdCyc]; omega)).trans (copied u lt).1
  · exact (word _ _ _ (by rw [shdCnt]; omega)).trans ((copied u lt).2 i few)
  · rw [← eq, regWord_fset_other _ _ _ _ _ _ _ _ (by decide), regWord_setWord, state]
  · rw [← eq, fget_fset _ _ _ _ _ (by decide) (by decide), seq]
    rfl
  · rw [apart a (by omega)]
    exact others a (by omega)

/-- Settles O18. -/
theorem counterCommands : Obligations.CounterCommands := by
  unfold Obligations.CounterCommands
  intro s mid v run
  refine ⟨fun u clear => ⟨_, exec_clear mid u v s run, pmcCtlWrite_clear u.val v s clear⟩, fun go => ?_, fun stay => ?_⟩
  · obtain ⟨cnt, -, -, cyc, ctl, evsel, -, -⟩ := pmc_addr
    obtain ⟨state, copied, time, seq, others⟩ := pmcSnapWrite_go v s go
    have image : (pmcSnapWrite v s).image = s.image := by rw [state]
    refine ⟨_, exec_snapshot mid v s run, state, copied, time, seq, fun u i lt few => ?_, fun a far => others a (by omega)⟩
    have same (r : RegId) (k : Nat) (free : regAddr r u k % 256 < 0x90 ∧ regAddr r u k < 0x68000) :=
      regWord_of_get image r u k (others _ (.inr (.inr free)))
    exact ⟨same _ _ (by rw [cnt]; omega), same _ _ (by rw [evsel]; omega), same _ _ (by rw [cyc]; omega),
      same _ _ (by rw [ctl]; omega)⟩
  · rw [exec_snapshot mid v s run]
    exact congrArg _ (if_neg (by simp [stay]))

end Sys2Proof.Proofs

namespace Sys2Proof.Proofs

open Sys2Proof.Machine Sys2Proof.Laws

/-! # Capture, error lines and reset requests (R304, R306, R317 to R332, R362 to R365)

The settlements of O19, O20, O21 and O23. -/

/-! ## Bits and fields -/

theorem fieldOf_bit (w : Word) (n : Nat) : (fieldOf w n n != 0) = bitOf w n := by
  have width : n + 1 - n = 1 := by omega
  rw [fieldOf, bitsOf, width, bitOf, Nat.testBit_eq_decide_div_mod_eq]
  rcases Nat.mod_two_eq_zero_or_one (w.toNat / 2 ^ n) with h | h <;> simp [h]

theorem fget_setWord (s : State) (f : RegField) (w : Word) (i k : Nat) :
    (s.setWord f.reg w i k).fget f i k = fieldOf w f.hi f.lo := by
  rw [fget_def, regWord_setWord]

theorem flag_setWord (s : State) (r : RegId) (n : Nat) (w : Word) (i k : Nat) :
    (s.setWord r w i k).flag ⟨r, n, n⟩ i k = bitOf w n := by
  rw [flag_def, fget_setWord s ⟨r, n, n⟩]
  exact fieldOf_bit w n

/-! ## The capture ring -/

theorem exec_captureEnable (mid : Mid) (v : Word) (s : State) (run : s.svcRuns = true) :
    exec (.captureEnable mid v) s = .next (capCtlWrite v s) := congrArg Host.Outcome.next (write_cap_ctl run)

theorem exec_capCiWrite (mid : Mid) (v : Word) (s : State) (run : s.svcRuns = true) :
    exec (.capCiWrite mid v) s = .next (capCiWrite v s) := congrArg Host.Outcome.next (write_cap_ci run)

/-- The word that a write of CAP_CTL leaves holds the written value in its fields (R6). -/
theorem writePlain_capCtl (v : Word) (s : State) : ∃ w, writePlain .CAP_CTL 0 0 v s = s.setWord .CAP_CTL w 0 0 ∧
    bitOf w 0 = bitOf v 0 ∧ bitOf w 1 = bitOf v 1 ∧ fieldOf w 5 2 = fieldOf v 5 2 ∧ bitOf w 6 = bitOf v 6 := by
  obtain ⟨w, wrote, fields⟩ := writePlain_fields .CAP_CTL 0 0 v s s rfl
  have field (hi lo : Nat) (row : FieldRow) (mem : row ∈ regFields .CAP_CTL) (rw : row.access = .rw) (h : row.hi = hi) (l : row.lo = lo) :
      fieldOf w hi lo = fieldOf v hi lo := by
    have := fields row mem
    rw [rw, h, l] at this
    exact this
  have bit (n : Nat) (row : FieldRow) (mem : row ∈ regFields .CAP_CTL) (rw : row.access = .rw) (h : row.hi = n) (l : row.lo = n) :
      bitOf w n = bitOf v n := by
    rw [← fieldOf_bit, ← fieldOf_bit, field n n row mem rw h l]
  exact ⟨w, wrote, bit 0 ⟨0, 0, .rw, .val 0x0 [.P, .C], .immediate⟩ (by simp [regFields]) rfl rfl rfl,
    bit 1 ⟨1, 1, .rw, .val 0x0 [.P, .C], .immediate⟩ (by simp [regFields]) rfl rfl rfl,
    field 5 2 ⟨5, 2, .rw, .val 0x6 [.P, .C], .immediate⟩ (by simp [regFields]) rfl rfl rfl,
    bit 6 ⟨6, 6, .rw, .val 0x0 [.P, .C], .immediate⟩ (by simp [regFields]) rfl rfl rfl⟩

/-- EN rising reads the ring's setting and empties it (R365). -/
theorem capCtlWrite_rise {v : Word} {s : State} (en : bitOf v 0 = true) (was : s.flag F.CAP_CTL_EN = false)
    (size : 6 ≤ fieldOf v 5 2) :
    let t := capCtlWrite v s
    t = { s with regs := t.regs, cap := { s.cap with logSize := fieldOf v 5 2, overwrite := bitOf v 1, dest := bitOf v 6 } } ∧
      t.flag F.CAP_CTL_EN = true ∧ t.fget F.CAP_PI_PI = 0 ∧ t.fget F.CAP_CI_CI = 0 ∧
      regsBut s t [regAddr .CAP_CTL 0 0, regAddr .CAP_PI 0 0, regAddr .CAP_CI 0 0] := by
  obtain ⟨w, wrote, bit0, bit1, log, bit6⟩ := writePlain_capCtl v s
  have enabled : (s.setWord .CAP_CTL w 0 0).flag F.CAP_CTL_EN = true := (flag_setWord s .CAP_CTL 0 w 0 0).trans (bit0.trans en)
  have mode : (s.setWord .CAP_CTL w 0 0).flag F.CAP_CTL_MODE = bitOf v 1 := (flag_setWord s .CAP_CTL 1 w 0 0).trans bit1
  have dest : (s.setWord .CAP_CTL w 0 0).flag F.CAP_CTL_DEST = bitOf v 6 := (flag_setWord s .CAP_CTL 6 w 0 0).trans bit6
  have logSize : (s.setWord .CAP_CTL w 0 0).fget F.CAP_CTL_LOG_SIZE = fieldOf v 5 2 := (fget_setWord s F.CAP_CTL_LOG_SIZE w 0 0).trans log
  have unfolded : capCtlWrite v s = ((({ s.setWord .CAP_CTL w 0 0 with cap :=
      { s.cap with logSize := fieldOf v 5 2, overwrite := bitOf v 1, dest := bitOf v 6 } } : State).fset F.CAP_PI_PI 0).fset
      F.CAP_CI_CI 0) := by
    unfold capCtlWrite
    simp only [wrote, was, enabled, logSize, if_neg (show ¬ fieldOf v 5 2 < 6 from by omega), mode, dest, Bool.not_false,
      Bool.and_self, if_true]
    rfl
  dsimp only
  rw [unfolded]
  refine ⟨rfl, ?_, ?_, ?_, ?_⟩
  · rw [flag_def, fget_fset_other _ _ _ _ _ _ _ _ (by decide), fget_fset_other _ _ _ _ _ _ _ _ (by decide)]
    exact enabled
  · rw [fget_fset_other _ _ _ _ _ _ _ _ (by decide), fget_fset _ _ _ _ _ (by decide) (by decide), Nat.zero_mod]
  · rw [fget_fset _ _ _ _ _ (by decide) (by decide), Nat.zero_mod]
  · refine regsBut_trans (regsBut_trans (regsBut_setWord s .CAP_CTL w 0 0 _ ?_) (regsBut_fset _ _ _ _ _ _ ?_)) (regsBut_fset _ _ _ _ _ _ ?_)
    all_goals simp [F.CAP_PI_PI, F.CAP_CI_CI]

/-- A TELEMETRY packet that passes its checks is taken: a collector appends its entries, any other chip counts it (R363). -/
theorem telemetryArrive_taken {ip : IntPort} {e : InPacket} {rest : List InPacket} {s : State} (head : s.ints[ip].eject = e :: rest)
    (works : s.agentWorks = true) (opcode : pktOpcode e.pkt = 0x26) (pcrc : pcrcOk e.pkt = true) (fmt : pktFmt e.pkt = 2)
    (len : pktLenOk e.pkt = true) :
    telemetryArrive ip s =
      let u := takeEject ip e s
      if u.flag F.CAP_CTL_COLLECT then
        (List.range (min 64 (pktPlen e.pkt / 64))).foldl (fun t k => capAppend (pktSlice e.pkt (32 + 64 * k) 64) t) (nicSlot 1 u)
      else (nicSlot 2 u).finc F.CAP_STATUS_TEL_DISC 1 := by
  have listed : pktUnlisted e.pkt = false := by
    unfold pktUnlisted
    rw [opcode]
    exact decide_eq_false (not_not_intro fmt)
  unfold telemetryArrive
  rw [head]
  dsimp only
  rw [if_neg (by simp [opcode, works]), if_neg (by simp [pcrc]), if_neg (by simp [listed, len])]

/-- Settles O19. -/
theorem captureRing : Obligations.CaptureRing := by
  unfold Obligations.CaptureRing
  intro s mid v run size
  refine ⟨fun en was log => ⟨_, exec_captureEnable mid v s run, capCtlWrite_rise en was log⟩, fun own fits => ?_, fun discard => ?_,
    ?_, fun none => ?_, fun ip e rest head works opcode pcrc fmt len => ?_⟩
  · rw [exec_capCiWrite mid v s run]
    refine congrArg _ (if_neg ?_)
    simp only [own, Bool.false_or, decide_eq_true_eq, Nat.not_lt]
    exact fits
  · rw [exec_capCiWrite mid v s run]
    refine congrArg _ (if_pos ?_)
    simp only [Bool.or_eq_true, decide_eq_true_eq]
    exact discard
  · intro dest some n ci data
    refine congrArg Host.Outcome.next (if_neg ?_)
    simp only [run, dest, Bool.not_true, Bool.false_or, decide_eq_true_eq]
    omega
  · refine congrArg Host.Outcome.next (if_pos ?_)
    rcases none with dest | empty
    · simp [dest]
    · simp [empty]
  · have taken := telemetryArrive_taken head works opcode pcrc fmt len
    exact ⟨fun collects => congrArg Host.Outcome.next (taken.trans (if_pos collects)),
      fun counts => congrArg Host.Outcome.next (taken.trans (if_neg (by simp [counts])))⟩

/-! ## Error lines -/

/-- The line of a source stands high (R323). -/
def lineRaised (src : Nat) (s : State) : State := { s with flt := { s.flt with lines := setBitTo s.flt.lines src true } }

theorem lineRises_low {src : Fin 64} {mid : Mid} {access : Nat} {addr : Word} {tgt : FaultTarget} {s : State}
    (reaches : lineReaches s src.val = true) (low : s.flt.lines.testBit src.val = false) :
    lineRises src mid access addr tgt s = raiseFaultBy src.val mid access addr (damage src.val tgt (lineRaised src.val s)) :=
  if_neg (by simp [reaches, low])

theorem reportOnly_lines {s t : State} (report : reportOnly s t) : t.flt.lines = s.flt.lines := by
  rw [report.1]

theorem reportOnly_rtr {s t : State} (report : reportOnly s t) : t.rtr = s.rtr := by
  rw [report.1]

/-- A fatal source starts Muzzle, sets its bit and leaves what stands (R323, R329). -/
theorem raiseFaultBy_fatal {n : Nat} (lt : n < 64) {mid : Mid} {access : Nat} {addr : Word} {s : State} (np : noPromotion s)
    (fatal : faultClass n = 2) :
    let t := raiseFaultBy n mid access addr s
    t.flt.muzzle = true ∧ t.flt.lines = s.flt.lines ∧ t.still = s.still ∧ (t.fget F.FLT_STATUS_SRC).testBit n = true ∧
      (s.flt.muzzle = false → t.fget F.FLT_MUZZLE_SOURCE = n) := by
  intro t
  have core : t = raiseCore n mid access addr s := status_of_raise n mid access addr s (by rw [actingClass_plain np, fatal])
  obtain ⟨muzzle, lines, bit, source⟩ := raiseCore_fatal n lt mid access addr s np fatal
  exact ⟨core ▸ muzzle, core ▸ lines, raiseFaultBy_still .., core ▸ bit, core ▸ source⟩

theorem lineFalls_eq (src : Fin 64) (s : State) : lineFalls src s = { s with
    flt := { s.flt with lines := setBitTo s.flt.lines src.val false },
    pwr := { s.pwr with coreOk := s.pwr.coreOk || decide (src.val = 0), refclk := s.pwr.refclk || decide (src.val = 2) } } := by
  unfold lineFalls State.modPwr
  split
  next core => simp [core]
  next core =>
    split
    next refclk => simp [refclk]
    next refclk => simp [core, refclk]

/-- Settles O20. -/
theorem errorLines : Obligations.ErrorLines := by
  unfold Obligations.ErrorLines
  intro s src mid access addr np rise raised
  have np' : noPromotion raised := np
  refine ⟨fun reaches low notFatal => ⟨_, congrArg Host.Outcome.next (lineRises_low reaches low), ?_⟩,
    fun reaches low fatal => ⟨_, congrArg Host.Outcome.next (lineRises_low reaches low), ?_⟩, fun still tgt => ?_,
    fun b chip reaches low =>
      ⟨_, congrArg Host.Outcome.next (lineRises_low (src := 12) reaches low), ?_⟩, congrArg Host.Outcome.next (lineFalls_eq src s),
    fun muzzle esc low notStandby notSleep fresh => ?_, fun stays => ?_⟩
  · have report := raiseFaultBy_report src.val mid (access.val % 8) addr raised np' notFatal
    exact ⟨reportOnly_lines report, report, raiseFaultBy_bit _ _ _ _ _ np' notFatal src.isLt⟩
  · obtain ⟨muzzle, lines, stands, bit, source⟩ :=
      raiseFaultBy_fatal src.isLt (mid := mid) (access := access.val % 8) (addr := addr) np' fatal
    exact ⟨lines, muzzle, stands, bit, source⟩
  · refine congrArg Host.Outcome.next (if_pos ?_)
    rcases still with held | high
    · simp [held]
    · simp [high]
  · exact reportOnly_rtr (raiseFaultBy_report 12 mid _ addr (loseEntry b chip (lineRaised 12 s)) np (by decide))
  · refine congrArg Host.Outcome.next (if_pos ?_)
    simpa [muzzle, esc, low, notStandby, notSleep] using fresh
  · refine congrArg Host.Outcome.next (if_neg ?_)
    rcases stays with off | off | off <;> simp [off]

/-- Settles O21. -/
theorem faultInjection : Obligations.FaultInjection := by
  unfold Obligations.FaultInjection
  intro s mid v held np src cleared
  have np' : noPromotion cleared := (fget_fset_other _ _ _ _ _ _ _ _ (by decide)).trans np
  have ran : exec (.fltInject mid v) s = .next (injectFault mid v s) := congrArg Host.Outcome.next (write_inject held)
  have confirmed (confirm : fieldOf v 23 16 = 0xA5) :
      injectFault mid v s = if cleared.flt.lines.testBit src then cleared else raiseFaultBy src mid 0 0#64 cleared :=
    if_neg (not_not_intro confirm)
  have lt : src < 64 := fieldOf_lt v 5 0
  refine ⟨fun wrong => ran.trans (congrArg _ (if_pos wrong)), fun confirm high => ?_, fun confirm low notFatal => ⟨_, ran, ?_⟩,
    fun confirm low fatal => ⟨_, ran, ?_⟩⟩
  · rw [ran, confirmed confirm]
    exact congrArg _ (if_pos high)
  · rw [confirmed confirm, if_neg (show ¬ cleared.flt.lines.testBit src = true from by simp [show cleared.flt = s.flt from rfl, low])]
    exact ⟨raiseFaultBy_report _ _ _ _ _ np' notFatal, raiseFaultBy_bit _ _ _ _ _ np' notFatal lt⟩
  · rw [confirmed confirm, if_neg (show ¬ cleared.flt.lines.testBit src = true from by simp [show cleared.flt = s.flt from rfl, low])]
    obtain ⟨muzzle, lines, stands, bit, -⟩ := raiseFaultBy_fatal lt (mid := mid) (access := 0) (addr := 0#64) np' fatal
    exact ⟨muzzle, lines, stands.trans (fset_still ..), bit⟩

/-! ## Requests of resets -/

theorem exec_rstCmd (mid : Mid) (v : Word) {s : State} (held : s.rst.pHeld = false) :
    exec (.rstCmdC mid v) s = .next (resetCommand mid v s) ∧ exec (.rstCmdT mid v) s = .next (resetCommand mid v s) ∧
      exec (.rstCmdF mid v) s = .next (resetCommand mid v s) ∧ exec (.rstCmdL mid v) s = .next (resetCommand mid v s) :=
  have write := congrArg Host.Outcome.next (write_rst_cmd (mid := mid) (v := v) held)
  ⟨write, write, write, write⟩

/-- The reset kind that KIND of RST_CMD names, where it is accepted (R306). -/
def kindOf (n : Nat) : ResetKind :=
  match n with
  | 1 => .C
  | 2 => .T
  | 3 => .F
  | _ => .L

theorem resetCommand_refused {mid : Mid} {v : Word} {s : State} {err : Nat} (refusal : cmdRefusal v s = err) (refused : err ≠ 0) :
    resetCommand mid v s = s.fset F.RST_CMD_ERR err := by
  unfold resetCommand
  simp only [refusal, if_pos refused]

theorem resetCommand_taken {mid : Mid} {v : Word} {s : State} (refusal : cmdRefusal v s = 0) :
    resetCommand mid v s = askReset (kindOf (fieldOf v 2 0)) (fieldOf v 9 4) (cmdSource mid) mid (s.fset F.RST_CMD_ERR 0) := by
  unfold resetCommand
  simp only [refusal, if_neg (show ¬ (0 ≠ 0) from fun h => h rfl)]
  rfl

/-- Settles O23: `cmdRefusal` decides a write of RST_CMD, and each clause names the first condition of it that holds. -/
theorem resetRequests : Obligations.ResetRequests := by
  unfold Obligations.ResetRequests
  intro s mid v asks source
  refine ⟨fun low => congrArg Host.Outcome.next (if_neg (by simp [low])), rfl, fun held => ?_, fun off => ?_⟩
  · obtain ⟨runC, runT, runF, runL⟩ := exec_rstCmd mid v held
    rw [runC, runT, runF, runL]
    have taken {kind : ResetKind} (named : kindOf (fieldOf v 2 0) = kind) (refusal : cmdRefusal v s = 0) :
        (Host.Outcome.next (resetCommand mid v s) : Host.Outcome State Fault Refusal) =
          .next (asks kind (fieldOf v 9 4) source mid (s.fset F.RST_CMD_ERR 0)) := by
      rw [resetCommand_taken refusal, named]
      rfl
    refine ⟨fun confirm => ⟨fun kind => taken (by rw [kind]; rfl) ?_, fun kind => taken (by rw [kind]; rfl) ?_,
      fun kind host present => taken (by rw [kind]; rfl) ?_, fun kind role => taken (by rw [kind]; rfl) ?_,
      fun wrong => congrArg _ (resetCommand_refused (err := 1) ?_ (by decide)),
      fun kind role => congrArg _ (resetCommand_refused (err := 3) ?_ (by decide))⟩,
      fun wrong => congrArg _ (resetCommand_refused (err := 2) (if_pos wrong) (by decide)), fun kick => ?_, fun enabled state => ?_⟩
    · simp [cmdRefusal, confirm, kind]
    · simp [cmdRefusal, confirm, kind]
    · simp [cmdRefusal, confirm, kind, host, present]
    · unfold cmdRefusal
      rw [if_neg (not_not_intro confirm), if_neg (by omega), if_neg fun c => by omega]
      exact if_neg fun c => role c.2
    · unfold cmdRefusal
      rw [if_neg (not_not_intro confirm)]
      by_cases code : fieldOf v 2 0 = 0 ∨ 4 < fieldOf v 2 0
      · exact if_pos code
      · refine (if_neg code).trans (if_pos ?_)
        simpa using wrong.resolve_left (fun h => code (.inl h)) |>.resolve_left (fun h => code (.inr h))
    · unfold cmdRefusal
      rw [if_neg (not_not_intro confirm), if_neg (by omega), if_neg fun c => by omega]
      exact if_pos ⟨kind, role⟩
    · refine congrArg Host.Outcome.next ((write_rst_wdog held).trans ?_)
      exact if_pos (by simp [kick])
    · exact congrArg Host.Outcome.next (if_pos (by simpa [enabled, held] using state))
  · refine congrArg Host.Outcome.next (if_neg ?_)
    rcases off with off | off | off | off <;> simp [off]

end Sys2Proof.Proofs

namespace Sys2Proof.Proofs

open Sys2Proof.Machine Sys2Proof.Laws

/-! # Resets take hold, and the chip starts (R281, R303 to R319)

The settlements of O24 and O25. -/

/-! ## A C reset takes hold -/

/-- The core domains hold what a reset leaves in them (R307): what a report of a fatal source does not change either. -/
def IsCleared (s : State) : Prop :=
  s.cap = capReset ∧ s.ports = Vector.replicate 64 portReset ∧ s.ints = Vector.replicate 4 intReset ∧ s.rtr = rtrReset ∧
    s.park = [] ∧ s.groups = [] ∧ s.agent = []

theorem firstError_isCleared {n : Nat} {mid : Mid} {access : Nat} {addr : Word} {s : State} (clear : IsCleared s) :
    IsCleared (firstError n mid access addr s) ∧ (firstError n mid access addr s).pwr = s.pwr := by
  unfold firstError
  split
  · exact ⟨clear, rfl⟩
  · split <;> exact ⟨clear, rfl⟩

theorem enterMuzzle_isCleared {n : Nat} {s : State} (clear : IsCleared s) :
    IsCleared (enterMuzzle n s) ∧ (enterMuzzle n s).pwr.state = s.pwr.state := by
  obtain ⟨cap, ports, ints, rtr, park, groups, agent⟩ := clear
  unfold enterMuzzle
  split
  · exact ⟨⟨cap, ports, ints, rtr, park, groups, agent⟩, rfl⟩
  · dsimp only
    split
    · exact ⟨⟨cap, ports, ints, rtr, park, groups, agent⟩, rfl⟩
    · exact ⟨⟨cap, rfl, rfl, rtr, park, groups, agent⟩, rfl⟩

/-- A source's line rises: the core domains stay clear, whether or not Muzzle starts. -/
theorem raiseCore_isCleared {n : Nat} {mid : Mid} {access : Nat} {addr : Word} {s : State} (clear : IsCleared s) :
    IsCleared (raiseCore n mid access addr s) ∧ (raiseCore n mid access addr s).pwr.state = s.pwr.state := by
  unfold raiseCore
  dsimp only
  generalize hx : ({ (s.fset F.FLT_STATUS_SRC (setBitTo (s.fget F.FLT_STATUS_SRC) n true)) with flt := _ } : State) = x
  have xClear : IsCleared x := by rw [← hx]; exact clear
  have xPwr : x.pwr = s.pwr := by rw [← hx]; rfl
  obtain ⟨fClear, fPwr⟩ := firstError_isCleared (n := n) (mid := mid) (access := access) (addr := addr) xClear
  have fState := (congrArg PwrState.state fPwr).trans (congrArg PwrState.state xPwr)
  split
  · obtain ⟨mClear, mState⟩ := enterMuzzle_isCleared (n := n) fClear
    exact ⟨mClear, mState.trans fState⟩
  · exact ⟨fClear, fState⟩

theorem watchRefclk_isCleared {s : State} (clear : IsCleared s) :
    IsCleared (watchRefclk s) ∧ (watchRefclk s).pwr.state = s.pwr.state := by
  unfold watchRefclk
  split
  · exact ⟨clear, rfl⟩
  · split
    · exact ⟨clear, rfl⟩
    · have fatal : ({ s with flt := { s.flt with lines := setBitTo s.flt.lines 2 true } } : State).actingClass 2 = 2 := by
        unfold State.actingClass
        split <;> rfl
      rw [raiseFault, status_of_raise _ _ _ _ _ fatal]
      exact raiseCore_isCleared (s := { s with flt := { s.flt with lines := setBitTo s.flt.lines 2 true } }) clear

theorem watchRefclk_clocked {s : State} (clock : s.pwr.refclk = true) :
    watchRefclk s = { s with flt := { s.flt with lines := setBitTo s.flt.lines 2 false } } := by
  unfold watchRefclk
  rw [clock, Bool.true_or, if_pos rfl]

/-- What a C reset does before it clears: the ports leave, the reset is recorded, and the locks are freed (R304, R307, R319). -/
def recordedC (source : Nat) (mid : Mid) (deferred keepLocks : Bool) (s : State) : State :=
  let t := ((recordReset source 1 mid (if source = 3 then s else leaveAll 3 s)).finc F.RST_COUNT_C_COUNT 1).fset
    F.RST_STATUS_DEFERRED (b2n deferred)
  if keepLocks then locksC t else { t with locks := Vector.replicate 256 lockReset }

/-- What a C reset leaves of a state, before REFCLK is looked at (R307, R311). -/
def clearedC (source : Nat) (s : State) : State :=
  let u := coreCleared s
  let u := keepLines aonSource { u with cfg := cfgCleared u.cfg, flt := { u.flt with muzzle := false } }
  let u := u.modPwr (fun p =>
    { p with state := .active, transition := none, nicWaking := false, whistle := false, corePll := .off,
             hostPll := Vector.replicate 2 .off, coreOn := decide (source ≠ 3) })
  u.modRst (fun r =>
    { r with phase := .held, cHeld := true, tHeld := false, coreRel := false, hifRel := false, clearing := true,
             cold := r.cold || source == 3, clamped := 0, bindDue := false,
             waiting := r.waiting.filter (fun q => q.kind == .P || q.kind == .C) })

theorem holdC_eq (source : Nat) (mid : Mid) (deferred keepLocks : Bool) (s : State) :
    holdC source mid deferred keepLocks s = watchRefclk (clearedC source (recordedC source mid deferred keepLocks s)) := rfl

theorem leaveAll_far (reason : Nat) (s : State) : farParts (leaveAll reason s) = farParts s := by
  unfold leaveAll
  split
  · exact foldl_far _ _ _ (fun t p => by rw [sendLve_far, abandonTx_far])
  · rfl

/-- A state in which the locks of a C reset are freed: free, and marked where one was held (R319). -/
theorem locksC_facts {s : State} (np : noPromotion s) :
    (∀ k : Fin 256, (locksC s).locks[k].held = false ∧ (s.locks[k].held = true → (locksC s).locks[k].abandoned = true)) ∧
      ∃ u, u = { s with locks := s.locks.map (fun (l : Lock) => { lockReset with abandoned := l.abandoned || l.held }) } ∧
        reportOnly u (locksC s) := by
  have freed (k : Fin 256) : ((s.locks.map (fun (l : Lock) => { lockReset with abandoned := l.abandoned || l.held }))[k]).held = false ∧
      (s.locks[k].held = true → ((s.locks.map (fun (l : Lock) => { lockReset with abandoned := l.abandoned || l.held }))[k]).abandoned = true) := by
    have at_ : (s.locks.map (fun (l : Lock) => { lockReset with abandoned := l.abandoned || l.held }))[k] =
        { lockReset with abandoned := s.locks[k].abandoned || s.locks[k].held } := by simp
    rw [at_]
    exact ⟨rfl, fun held => (congrArg (s.locks[k].abandoned || ·) held).trans (Bool.or_true _)⟩
  have reported : reportOnly { s with locks := s.locks.map (fun (l : Lock) => { lockReset with abandoned := l.abandoned || l.held }) } (locksC s) := by
    unfold locksC
    dsimp only
    split
    · exact raiseFault_report 25 _ np (by decide)
    · exact reportOnly_refl _
  refine ⟨fun k => ?_, _, rfl, reported⟩
  have same : (locksC s).locks = s.locks.map (fun (l : Lock) => { lockReset with abandoned := l.abandoned || l.held }) := by rw [reported.1]
  rw [same]
  exact freed k

theorem recordReset_source (source kind : Nat) (mid : Mid) (s : State) :
    (recordReset source kind mid s).fget F.RST_LAST_SOURCE = source % 32 := by
  unfold recordReset
  refine (fget_setWord s F.RST_LAST_SOURCE _ 0 0).trans ?_
  simp (disch := decide) only [packFields, List.foldl_cons, List.foldl_nil, F.RST_LAST_SOURCE, fieldOf_putField,
    fieldOf_putField_below, Nat.reduceAdd, Nat.reduceSub, Nat.reducePow]

/-- What a C reset does before it clears, part for part. -/
theorem recordedC_facts (source : Nat) (mid : Mid) (deferred keepLocks : Bool) {s : State} (np : noPromotion s) :
    let t := recordedC source mid deferred keepLocks s
    t.cfg = s.cfg ∧ t.tim = s.tim ∧ t.pwr = s.pwr ∧ (∀ h, (t.host h).hif = (s.host h).hif) ∧
      t.fget F.RST_LAST_SOURCE = source % 32 ∧
      (keepLocks = true → ∀ k : Fin 256, t.locks[k].held = false ∧ (s.locks[k].held = true → t.locks[k].abandoned = true)) ∧
      (keepLocks = false → t.locks = Vector.replicate 256 lockReset) := by
  intro t
  let left := if source = 3 then s else leaveAll 3 s
  let x := ((recordReset source 1 mid left).finc F.RST_COUNT_C_COUNT 1).fset F.RST_STATUS_DEFERRED (b2n deferred)
  have leftStill : left.still = s.still := by
    show (if _ then _ else _ : State).still = _
    split
    · rfl
    · exact leaveAll_still 3 s
  have leftFar : farParts left = farParts s := by
    show farParts (if _ then _ else _ : State) = _
    split
    · rfl
    · exact leaveAll_far 3 s
  have leftNp : noPromotion left := by
    refine noPromotion_of_low (s := s) ?_ (image_of_still leftStill) np
    show lowRegs (if _ then _ else _ : State) = _
    split
    · rfl
    · exact leaveAll_low 3 s
  have xNp : noPromotion x := by
    show x.fget F.FLT_PROMOTE_PROMOTE = 0
    rw [fget_fset_other _ _ _ _ _ _ _ _ (by decide), show ∀ (y : State), (y.finc F.RST_COUNT_C_COUNT 1).fget F.FLT_PROMOTE_PROMOTE =
      y.fget F.FLT_PROMOTE_PROMOTE from fun y => fget_fset_other y _ _ _ _ _ _ _ (by decide)]
    refine (congrArg (fun w => fieldOf w _ _) ?_).trans leftNp
    exact regWord_setWord_other _ _ _ _ _ _ _ _ (by decide)
  have xSource : x.fget F.RST_LAST_SOURCE = source % 32 := by
    rw [fget_fset_other _ _ _ _ _ _ _ _ (by decide), show ∀ (y : State), (y.finc F.RST_COUNT_C_COUNT 1).fget F.RST_LAST_SOURCE =
      y.fget F.RST_LAST_SOURCE from fun y => fget_fset_other y _ _ _ _ _ _ _ (by decide)]
    exact recordReset_source _ _ _ _
  have pwr : x.pwr = s.pwr := congrArg Prod.fst leftFar
  have hosts : x.hosts = s.hosts := congrArg (fun f => f.2.2.1) leftFar
  have host (h : HostPort) : x.host h = s.host h := congrArg (fun v : Vector HostState 2 => v[h]) hosts
  have cfg : x.cfg = s.cfg := cfg_of_still leftStill
  have tim : x.tim = s.tim := tim_of_still leftStill
  have locks : x.locks = s.locks := locks_of_still leftStill
  cases keepLocks with
  | false => exact ⟨cfg, tim, pwr, fun h => congrArg HostState.hif (host h), xSource, (fun e => nomatch e), fun _ => rfl⟩
  | true =>
    obtain ⟨freed, u, rfl, reported⟩ := locksC_facts xNp
    have same : t = locksC x := rfl
    refine ⟨?_, ?_, ?_, fun h => ?_, ?_, fun _ k => ?_, (fun e => nomatch e)⟩
    · rw [same, reported.1]; exact cfg
    · rw [same, reported.1]; exact tim
    · rw [same, reported.1]; exact pwr
    · rw [same, reported.2.1 h]; exact (congrArg HostState.hif (host h) : (x.host h).hif = _)
    · rw [same, reportOnly_fget reported _ _ _ (by decide)]; exact xSource
    · rw [same, ← locks]; exact freed k

theorem clearedC_isCleared (source : Nat) (s : State) : IsCleared (clearedC source s) := ⟨rfl, rfl, rfl, rfl, rfl, rfl, rfl⟩

theorem clearedC_host (source : Nat) (s : State) (h : HostPort) :
    (clearedC source s).host h = { hostReset with hif := { hifReset with perst := (s.host h).hif.perst } } := by
  show (s.hosts.map (fun h => { hostReset with hif := { hifReset with perst := h.hif.perst } }))[h] = _
  simp [State.host]

theorem takeHold_C {s : State} {q : ResetReq} {rest : List ResetReq} (waiting : s.rst.waiting = q :: rest) (up : s.rst.pHeld = false)
    (kind : q.kind = .C) (quiet : pulsing s.cfg = false) :
    takeHold s = holdC q.source q.mid q.deferred (decide (s.pwr.state ≠ .sleep)) { s with rst := { s.rst with waiting := rest } } := by
  unfold takeHold
  rw [waiting]
  dsimp only
  rw [kind]
  refine Eq.trans (if_neg ?_) (if_neg ?_)
  · simp [quiet]
  · simp [up]

/-! ## The other kinds -/

theorem takeHold_deferred {s : State} {q : ResetReq} {rest : List ResetReq} (waiting : s.rst.waiting = q :: rest)
    (kind : q.kind = .C) (pulse : pulsing s.cfg = true) : takeHold s =
      ({ s with rst := { s.rst with waiting := { q with deferred := true } :: rest } } : State).fset F.RST_STATUS_DEFERRED 1 := by
  unfold takeHold
  rw [waiting]
  dsimp only
  rw [kind, pulse]
  rfl

theorem takeHold_T {s : State} {q : ResetReq} {rest : List ResetReq} (waiting : s.rst.waiting = q :: rest) (kind : q.kind = .T) :
    takeHold s = holdT q.source q.mid { s with rst := { s.rst with waiting := rest } } := by
  unfold takeHold
  rw [waiting]
  dsimp only
  rw [kind]
  rfl

theorem takeHold_F {s : State} {q : ResetReq} {rest : List ResetReq} (waiting : s.rst.waiting = q :: rest) (kind : q.kind = .F)
    (h : HostPort) (target : q.target = h.val) : takeHold s = funcStart h { s with rst := { s.rst with waiting := rest } } := by
  unfold takeHold
  rw [waiting]
  dsimp only
  rw [kind]
  have lt : q.target < 2 := target ▸ h.isLt
  exact (dif_pos lt).trans (congrArg (fun x => funcStart x { s with rst := { s.rst with waiting := rest } }) (Fin.ext target))

theorem takeHold_L {s : State} {q : ResetReq} {rest : List ResetReq} (waiting : s.rst.waiting = q :: rest) (kind : q.kind = .L)
    (p : NetPort) (target : q.target = p.val) : takeHold s = resetL p 2 4 false { s with rst := { s.rst with waiting := rest } } := by
  unfold takeHold
  rw [waiting]
  dsimp only
  rw [kind]
  have lt : q.target < 64 := target ▸ p.isLt
  exact (dif_pos lt).trans (congrArg (fun x => resetL x 2 4 false { s with rst := { s.rst with waiting := rest } }) (Fin.ext target))

theorem holdT_held (source : Nat) (mid : Mid) {s : State} (run : s.coreRuns = true) : (holdT source mid s).rst.tHeld = true := by
  unfold holdT
  rw [run]
  rfl

theorem routerRuns_tHeld {s : State} (held : s.rst.tHeld = true) : s.routerRuns = false := by
  unfold State.routerRuns
  rw [held]
  simp

/-- Settles O24, kind by kind; of a C reset, what is left holds through the report of an absent REFCLK, since Muzzle clears no less. -/
theorem resetTakesHold : Obligations.ResetTakesHold := by
  unfold Obligations.ResetTakesHold
  intro s q rest waiting up np
  refine ⟨fun kind quiet => ?_, fun kind pulse => congrArg Host.Outcome.next (takeHold_deferred waiting kind pulse),
    fun kind run => ?_, fun h kind target => congrArg Host.Outcome.next (takeHold_F waiting kind h target),
    fun p kind target run role => ?_⟩
  · let taken : State := { s with rst := { s.rst with waiting := rest } }
    let r := recordedC q.source q.mid q.deferred (decide (s.pwr.state ≠ .sleep)) taken
    obtain ⟨cfg, tim, pwr, hifs, source, marked, fresh⟩ :=
      recordedC_facts q.source q.mid q.deferred (decide (s.pwr.state ≠ .sleep)) (s := taken) np
    let t := clearedC q.source r
    have still : (watchRefclk t).still = t.still := watchRefclk_still t
    obtain ⟨⟨cap, ports, ints, rtr, park, groups, agent⟩, state⟩ := watchRefclk_isCleared (clearedC_isCleared q.source r)
    have rst : (watchRefclk t).rst = t.rst := rst_of_still still
    have locks : (watchRefclk t).locks = r.locks := (locks_of_still still).trans rfl
    refine ⟨watchRefclk t, congrArg Host.Outcome.next ((takeHold_C waiting up kind quiet).trans (holdC_eq ..)), ?_, ?_, ?_,
      image_of_still still, congrArg (fun x => x.2.2.2.2.2.2.2.2.1) still, cap, ports, ints, rtr, park, groups, agent, ?_, ?_, ?_, state,
      fun awake k => ?_, fun asleep => ?_, fun clock => ?_⟩
    · rw [rst]; rfl
    · rw [rst]; rfl
    · rw [rst]; rfl
    · exact (cfg_of_still still).trans (congrArg cfgCleared cfg)
    · exact (tim_of_still still).trans tim
    · exact (rsram_of_still still).trans (congrArg PwrState.rsram pwr : r.pwr.rsram = _)
    · rw [locks]; exact marked (by simpa using awake) k
    · rw [locks]; exact fresh (by simpa using asleep)
    · have clocked : watchRefclk t = { t with flt := { t.flt with lines := setBitTo t.flt.lines 2 false } } :=
        watchRefclk_clocked ((congrArg PwrState.refclk pwr : r.pwr.refclk = _).trans clock)
      rw [clocked]
      refine ⟨rfl, fun h => ?_, ?_, fun a high => tblGet_core a r.regs high⟩
      · exact (clearedC_host q.source r h).trans (by rw [hifs h]; rfl)
      · refine Eq.trans (congrArg (fun w => fieldOf w 4 0) ?_) source
        show (tblGet _ (r.regs.filter (fun e => aonAddr e.1))).getD (resetWord none .RST_LAST 0) = _
        rw [tblGet_aon _ _ (by decide)]
        rfl
  · refine ⟨_, congrArg Host.Outcome.next (takeHold_T waiting kind), holdT_held _ _ run, routerRuns_tHeld (holdT_held _ _ run), ?_⟩
    exact congrArg (fun x => x.2.2.1) (holdT_kept q.source q.mid { s with rst := { s.rst with waiting := rest } })
  · exact ⟨_, congrArg Host.Outcome.next (takeHold_L waiting kind p target),
      fun x => resetL_faces p x 2 4 false { s with rst := { s.rst with waiting := rest } } np run role⟩

/-! ## Start-up -/

theorem releaseC_held {s : State} (held : s.rst.cHeld = false ∨ s.rst.pHeld = true ∨ s.rst.resetN = true ∨ s.pwr.pwrgd = false ∨
    s.flt.muzzle = true) : releaseC s = s := by
  refine if_pos ?_
  rcases held with h | h | h | h | h <;> simp [h]

/-- The hold of a C reset ends: the fields of its column are restored and the PLLs start; those of the lanes in a warm start
(R310, R311). -/
theorem releaseC_ends {s : State} (held : s.rst.cHeld = true) (on : s.rst.pHeld = false) (pin : s.rst.resetN = false)
    (good : s.pwr.pwrgd = true) (noMuzzle : s.flt.muzzle = false) :
    releaseC s =
      (let u := (s.restore [.C] (fun _ _ => true)).modPwr
        (fun p => { p with coreOn := true, corePll := .starting, hostPll := Vector.replicate 2 .starting })
       let u := u.modRst (fun r => { r with cHeld := false, wdogLeft := 1000000 * max 1 (u.fget F.RST_WDOG_TIMEOUT_MS) })
       if s.rst.cold then u else startLanePlls u) :=
  if_neg (by simp [held, on, pin, good, noMuzzle])

theorem startLanePlls_pll (s : State) (p : NetPort) : ((startLanePlls s).port p).lane.pll = .starting := by
  show ((s.ports.map (fun (q : Port) => { q with lane := { q.lane with pll := .starting } }))[p]).lane.pll = _
  simp

theorem pllReleased_core {s : State} (starting : s.pwr.corePll = .starting) : pllReleased .core true s =
    (let u : State := { s with pwr := { s.pwr with corePll := .running } }
     if s.rst.coreRel then u
     else { u with rst := { s.rst with hifRel := true, phase := if s.rst.cold then .sramTest else .sramClear } }) := by
  unfold pllReleased
  dsimp only
  rw [if_neg (not_not_intro starting)]
  rfl

theorem pllReleased_host {h : HostPort} {s : State} (starting : s.pwr.hostPll[h] = .starting) (locked : Bool) :
    pllReleased (.host h) locked s =
      (let u := s.modPwr (fun p => { p with hostPll := p.hostPll.set h (if locked then .running else .unlocked) })
       if locked then u else unlocked [2 + h.val] u) := by
  unfold pllReleased
  dsimp only
  rw [if_neg (not_not_intro starting)]

theorem pllReleased_lane {p : NetPort} {s : State} (starting : (s.port p).lane.pll = .starting) :
    pllReleased (.lane p) true s = startTraining p (s.modLane p (fun l => { l with pll := .running })) := by
  unfold pllReleased
  dsimp only
  rw [if_neg (not_not_intro starting)]
  rfl

/-- A block released without a locked clock stays clamped; LOCK_FAIL and PLL_LOCK say so (R281, R314). -/
theorem unlocked_facts (b : Nat) {s : State} (np : noPromotion s) :
    (unlocked [b] s).rst.clamped.testBit b = true ∧ (unlocked [b] s).fget F.PWR_STATUS_LOCK_FAIL = 1 ∧
      ((unlocked [b] s).fget F.FLT_STATUS_SRC).testBit 9 = true := by
  unfold unlocked
  dsimp only
  generalize hx : State.modRst _ _ = x
  have clamped : x.rst.clamped = setBitTo s.rst.clamped b true := by rw [← hx]; rfl
  have promote : noPromotion x := by
    rw [← hx]
    exact (fget_fset_other s F.RST_STATUS_CLK_UNSTABLE_REL F.FLT_PROMOTE_PROMOTE _ _ _ _ _ (by decide)).trans np
  have promoteFail : noPromotion (x.fset F.PWR_STATUS_LOCK_FAIL 1) := (fget_fset_other _ _ _ _ _ _ _ _ (by decide)).trans promote
  have reported : reportOnly (x.fset F.PWR_STATUS_LOCK_FAIL 1) (raiseFault 9 (x.fset F.PWR_STATUS_LOCK_FAIL 1)) :=
    raiseFault_report 9 _ promoteFail (by decide)
  refine ⟨?_, ?_, raiseFaultBy_bit 9 _ _ _ _ promoteFail (by decide) (by decide)⟩
  · rw [reported.1, fset_rst, clamped]
    exact setBitTo_true_testBit _ _
  · rw [reportOnly_fget reported _ _ _ (by decide)]
    exact fget_fset _ _ _ _ _ (by decide) (by decide)

theorem releaseT_ends {s : State} (held : s.rst.tHeld = true) (noMuzzle : s.flt.muzzle = false) : releaseT s =
    allPorts.foldl (fun t p => startTraining p t) { s with rst := { s.rst with tHeld := false } } :=
  if_pos (by simp [held, noMuzzle])

theorem sramTested_in {s : State} (noMuzzle : s.flt.muzzle = false) (cold : s.rst.cold = true) (phase : s.rst.phase = .sramTest) (ok : Bool) :
    sramTested ok s = if ok then startLanePlls (s.modRst (fun r => { r with clearing := false, phase := .loading }))
      else raiseFault 3 s :=
  if_neg (by simp [noMuzzle, cold, phase])

/-- Settles O25, one clause after the other along the start-up. -/
theorem startUp : Obligations.StartUp := by
  unfold Obligations.StartUp
  intro s
  refine ⟨fun held on pin good noMuzzle => ?_, fun held => congrArg Host.Outcome.next (releaseC_held held),
    fun starting => congrArg Host.Outcome.next (pllReleased_core starting),
    fun h starting => congrArg Host.Outcome.next (pllReleased_host starting true),
    fun h starting np => ⟨_, congrArg Host.Outcome.next (pllReleased_host starting false), unlocked_facts (2 + h.val) np⟩,
    fun p starting => congrArg Host.Outcome.next (pllReleased_lane starting),
    fun noMuzzle cold phase => ⟨congrArg Host.Outcome.next (sramTested_in noMuzzle cold phase true), fun np => ?_⟩,
    fun noMuzzle phase => congrArg Host.Outcome.next (if_pos (by simp [noMuzzle, phase])),
    fun held noMuzzle => congrArg Host.Outcome.next (releaseT_ends held noMuzzle), fun p => ⟨fun stopped => ?_, fun runs => ?_⟩⟩
  · have restored (r : RegId) (i k : Nat) (at_ : regAt (regAddr r i k) = some (r, i, k)) (row : FieldRow) (mem : row ∈ regFields r)
        (column : (resetKinds row).contains .C = true) : (s.restore [.C] (fun _ _ => true)).fget ⟨r, row.hi, row.lo⟩ i k =
          resetField s.image r i row % 2 ^ (row.hi + 1 - row.lo) := by
      refine restore_fields s [.C] _ r i k at_ rfl row mem ?_
      rw [List.any_eq_true]
      exact ⟨.C, List.contains_iff_mem.mp column, rfl⟩
    have ends := releaseC_ends held on pin good noMuzzle
    cases cold : s.rst.cold with
    | true =>
      rw [cold] at ends
      exact ⟨_, congrArg Host.Outcome.next ends, rfl, rfl, rfl, (fun warm => nomatch warm), fun _ => rfl, restored⟩
    | false =>
      rw [cold] at ends
      exact ⟨_, congrArg Host.Outcome.next ends, rfl, rfl, rfl, fun _ p => startLanePlls_pll _ p, (fun warm => nomatch warm), restored⟩
  · obtain ⟨muzzle, -, still, bit, -⟩ := raiseFaultBy_fatal (n := 3) (mid := 0xFF#8) (access := 0) (addr := 0#64) (by decide) np (by decide)
    have tested : sramTested false s = raiseFaultBy 3 0xFF#8 0 0#64 s := sramTested_in noMuzzle cold phase false
    exact ⟨raiseFaultBy 3 0xFF#8 0 0#64 s, congrArg Host.Outcome.next tested, muzzle, bit, still⟩
  · exact congrArg Host.Outcome.next (if_pos stopped)
  · exact congrArg Host.Outcome.next (if_neg (by simp [runs]))

end Sys2Proof.Proofs

namespace Sys2Proof.Proofs

open Sys2Proof.Machine Sys2Proof.Laws

/-! # Ports leave, modules come and go (R54 to R65, R93 to R95, R313, R314, R343)

The settlements of O29 and O30. -/

/-! ## LAN_CTL through a departure -/

/-- What the register file holds of LAN_CTL of a port. -/
def lanCtl (q : NetPort) (s : State) : Option Word := tblGet (regAddr .LAN_CTL q.val 0) s.regs

theorem foldl_lanCtl {α : Type} {q : NetPort} (f : State → α → State) : ∀ (l : List α) (s : State),
    (∀ t, ∀ x ∈ l, lanCtl q (f t x) = lanCtl q t) → lanCtl q (l.foldl f s) = lanCtl q s := by
  intro l
  induction l with
  | nil => intro s _; rfl
  | cons x l ih =>
    intro s keeps
    rw [List.foldl_cons, ih _ (fun t y mem => keeps t y (List.mem_cons_of_mem _ mem)), keeps s x List.mem_cons_self]

theorem setWord_lanCtl (q : NetPort) (s : State) (r : RegId) (v : Word) (i k : Nat) (low : regAddr r i k < 0x800000) :
    lanCtl q (s.setWord r v i k) = lanCtl q s := by
  refine tblGet_set_other _ _ _ _ (fun same => ?_)
  simp only [regAddr, regPlace] at same low
  omega

theorem fset_lanCtl (q : NetPort) (s : State) (f : RegField) (v i k : Nat) (low : regAddr f.reg i k < 0x800000) :
    lanCtl q (s.fset f v i k) = lanCtl q s := setWord_lanCtl q s f.reg _ i k low

theorem finc_lanCtl (q : NetPort) (s : State) (f : RegField) (v i k : Nat) (low : regAddr f.reg i k < 0x800000) :
    lanCtl q (s.finc f v i k) = lanCtl q s := setWord_lanCtl q s f.reg _ i k low

theorem lnkStatus_low (p : NetPort) : regAddr .LNK_STATUS p.val 0 < 0x800000 := by
  simp only [regAddr, regPlace]
  omega

theorem pmcCount_lanCtl (q : NetPort) (u ev amt : Nat) (ok : Word → Bool) (s : State) :
    lanCtl q (pmcCount u ev amt ok s) = lanCtl q s := by
  unfold pmcCount
  split
  · refine foldl_lanCtl _ _ _ (fun t i mem => ?_)
    have lt := List.mem_range.mp mem
    dsimp only
    split
    · refine tblGet_set_other _ _ _ _ (fun same => ?_)
      simp only [regAddr, regPlace, F.PMC_CNT_COUNT] at same
      omega
    · rfl
  · rfl

theorem capPlace_lanCtl (q : NetPort) (e : Bytes) (s : State) : lanCtl q (capPlace e s) = lanCtl q s :=
  fset_lanCtl q _ _ _ _ _ (by decide)

theorem capAppend_lanCtl (q : NetPort) (e : Bytes) (s : State) : lanCtl q (capAppend e s) = lanCtl q s := by
  unfold capAppend
  dsimp only
  split
  · exact capPlace_lanCtl q e s
  · split
    · rw [capPlace_lanCtl, fset_lanCtl _ _ _ _ _ _ (by decide), finc_lanCtl _ _ _ _ _ _ (by decide),
        fset_lanCtl _ _ _ _ _ _ (by decide)]
    · exact finc_lanCtl q _ _ _ _ _ (by decide)

theorem capSelect_regs (s : State) (e : CapEvent) : (capSelect s e).1.regs = s.regs := by
  have counted : ∀ (l : List Nat) (a : State × Option Nat), (l.foldl (fun (acc : State × Option Nat) (k : Nat) =>
      if capMatches acc.1 k e then
        let c := acc.1.cap.matched.toList.getD k 0
        let t := { acc.1 with cap := { acc.1.cap with matched := acc.1.cap.matched.setIfInBounds k (c + 1) } }
        (t, if acc.2.isNone && c % 2 ^ acc.1.fget F.CAP_FILT_A_SAMPLE 0 k = 0 then some k else acc.2)
      else acc) a).1.regs = a.1.regs := by
    intro l
    induction l with
    | nil => intro a; rfl
    | cons k l ih =>
      intro a
      rw [List.foldl_cons, ih]
      split <;> rfl
  exact counted _ _

theorem capture_lanCtl (q : NetPort) (es : List CapEvent) (s : State) : lanCtl q (capture es s) = lanCtl q s := by
  unfold capture
  split
  · dsimp only
    rw [finc_lanCtl _ _ _ _ _ _ (by decide), foldl_lanCtl _ _ _ (fun t x _ => by
      rw [show ∀ u, pmcAdd x.2.port 0x1A 1 u = pmcCount x.2.port 0x1A 1 (fun _ => true) u from fun _ => rfl, pmcCount_lanCtl,
        capAppend_lanCtl])]
    have selected (l : List CapEvent) : ∀ a : State × List (Nat × CapEvent), (l.foldl (fun acc e =>
        ((capSelect acc.1 e).1, match (capSelect acc.1 e).2 with | some k => acc.2 ++ [(k, e)] | none => acc.2)) a).1.regs = a.1.regs := by
      induction l with
      | nil => intro a; rfl
      | cons e l ih => intro a; rw [List.foldl_cons, ih]; exact capSelect_regs _ _
    exact congrArg (tblGet _) (selected es (s, []))
  · rfl

theorem recordDiscard_lanCtl (q : NetPort) (x cause dwell : Nat) (pkt : Packet) (s : State) :
    lanCtl q (recordDiscard x cause dwell pkt s) = lanCtl q s := by
  unfold recordDiscard pmcClass
  rw [capture_lanCtl, pmcCount_lanCtl]

theorem abandonTx_lanCtl (q p : NetPort) (s : State) : lanCtl q (abandonTx p s) = lanCtl q s := by
  unfold abandonTx
  split
  · rfl
  · refine Eq.trans (b := lanCtl q (countSlots p _ true _)) rfl ?_
    unfold countSlots pmcClass
    rw [pmcCount_lanCtl]
    rfl

theorem abortOutput_lanCtl (q o : NetPort) (x : XbarPort) (s : State) : lanCtl q (abortOutput o x s) = lanCtl q s := by
  unfold abortOutput
  dsimp only
  split
  · split
    · refine Eq.trans (b := lanCtl q (abandonTx o _)) rfl ?_
      rw [abandonTx_lanCtl]
      split <;> split <;> rfl
    · split <;> rfl
  · split <;> rfl

theorem dropArriving_lanCtl (q p : NetPort) (s : State) : lanCtl q (dropArriving p s) = lanCtl q s := by
  unfold dropArriving
  dsimp only
  split
  · exact abortOutput_lanCtl q _ _ _
  · rfl

theorem releaseIn_lanCtl (q p : NetPort) (tc : Nat) (pkt : Packet) (arrived : Nat) (s : State) :
    lanCtl q (releaseIn p tc pkt arrived true false s) = lanCtl q s := by
  have counted : lanCtl q (capture [{ point := 1, port := p.val, cause := 0, dwell := 0, pkt := pkt }]
      (pmcClass p.val 0x11 (pktLen pkt) tc (pmcClass p.val 0x10 1 tc s))) = lanCtl q s := by
    unfold pmcClass
    rw [capture_lanCtl, pmcCount_lanCtl, pmcCount_lanCtl]
  unfold releaseIn leaveStaging
  dsimp only
  split
  · rw [if_pos rfl, returnCredits_free _ _ _ rfl, recordDiscard_lanCtl, counted]
  · split
    · rw [if_pos rfl, returnCredits_free _ _ _ rfl, recordDiscard_lanCtl, finc_lanCtl _ _ _ _ _ _ (by decide), counted]
    · exact counted

theorem reportOnly_lanCtl {s t : State} (q : NetPort) (report : reportOnly s t) : lanCtl q t = lanCtl q s := by
  refine report.2.2 _ ?_
  have small : ∀ a ∈ reportRegs, a < 0x800000 := by decide
  intro mem
  have := small _ mem
  simp only [regAddr, regPlace] at this
  omega

theorem linkDepart_lanCtl (q p : NetPort) (cause : Nat) (fresh : Bool) {s : State} (np : noPromotion s) :
    lanCtl q (linkDepart p cause fresh s) = lanCtl q s := by
  unfold linkDepart
  dsimp only
  generalize hx : dropArriving p (if decide ((s.port p).link.phase = .up) = true then abandonTx p s else s) = x
  have xLan : lanCtl q x = lanCtl q s := by
    rw [← hx, dropArriving_lanCtl]
    split
    · exact abandonTx_lanCtl q p s
    · rfl
  have xLow : lowRegs x = lowRegs s := by
    rw [← hx, dropArriving_low]
    split
    · exact abandonTx_low p s
    · rfl
  have xImage : x.image = s.image := by
    refine image_of_still ?_
    rw [← hx, dropArriving_still]
    split
    · exact abandonTx_still p s
    · rfl
  generalize hm : x.modPort p (fun q => _) = y
  have yLan : lanCtl q y = lanCtl q s := by rw [← hm]; exact xLan
  have yLow : lowRegs y = lowRegs s := by rw [← hm]; exact xLow
  have yImage : y.image = s.image := by rw [← hm]; exact xImage
  generalize hz : List.foldl _ y _ = z
  have zLan : lanCtl q z = lanCtl q s := by
    rw [← hz, foldl_lanCtl _ _ _ (fun t x _ => releaseIn_lanCtl q p _ _ _ t)]
    exact yLan
  have zLow : lowRegs z = lowRegs s := by rw [← hz, foldl_low _ _ _ (fun t x => releaseIn_low _ _ _ _ _)]; exact yLow
  have zImage : z.image = s.image := by
    rw [← yImage, ← hz]
    refine image_of_still ?_
    rw [foldl_still _ _ _ (fun t x => releaseIn_still _ _ _ _ _ _ _)]
  split
  · rw [reportOnly_lanCtl q (asyncChip_report _ _ _ _ ?_), fset_lanCtl _ _ _ _ _ _ (lnkStatus_low p),
      finc_lanCtl _ _ _ _ _ _ (lnkStatus_low p), finc_lanCtl _ _ _ _ _ _ (lnkStatus_low p)]
    · exact zLan
    · refine noPromotion_of_low (s := s) ?_ zImage np
      rw [fset_low _ _ _ _ _ (by decide), finc_low _ _ _ _ _ (by decide), finc_low _ _ _ _ _ (by decide)]
      exact zLow
  · split
    · rw [fset_lanCtl _ _ _ _ _ _ (lnkStatus_low p)]; exact zLan
    · exact zLan

theorem trainRate_congr {s t : State} {p : NetPort} (reg : lanCtl p t = lanCtl p s) (image : t.image = s.image) :
    trainRate t p = trainRate s p := by
  have word := regWord_of_get image .LAN_CTL p.val 0 reg
  unfold trainRate
  rw [image, fget_def, fget_def, show F.LAN_CTL_RATE.reg = .LAN_CTL from rfl, word]

theorem laneSetupOf_congr {s t : State} (p : NetPort) (image : t.image = s.image) : laneSetupOf t p = laneSetupOf s p := by
  unfold laneSetupOf
  rw [image]

/-! ## What takes a link down -/

theorem sendSetOn_faces (p q : NetPort) (mask : Nat) (o : OrderedSet) (s : State) : portFaces (sendSetOn p mask o s) q = portFaces s q := by
  unfold sendSetOn
  generalize codeLanes s p mask (orderedChars o) = r
  exact (faces_modLane _ p q _ rfl).trans (faces_of_ports rfl q)

theorem sendSetOn_hosts (p : NetPort) (mask : Nat) (o : OrderedSet) (s : State) : (sendSetOn p mask o s).hosts = s.hosts := rfl

theorem portFaces_modLane_same (p : NetPort) (f : LaneState → LaneState) (s : State) :
    portFaces (s.modLane p f) p = (laneFace (f (s.port p).lane), (s.port p).link.phase) := by
  unfold portFaces
  rw [modLane_port_same]

theorem portFaces_modLane_other {p q : NetPort} (f : LaneState → LaneState) (s : State) (ne : q ≠ p) :
    portFaces (s.modLane p f) q = portFaces s q := by
  unfold portFaces
  rw [modLane_port_other _ _ _ _ ne]

/-- The port's link is DOWN with cause `cause`, its lanes show `lane`, and every other port shows what it did (R93, R95). -/
def GoesOn (s t : State) (p : NetPort) (lane : LaneState) (cause : Nat) : Prop :=
  laneFace (t.port p).lane = laneFace lane ∧ (t.port p).link.phase = .down ∧ (∀ q, q ≠ p → portFaces t q = portFaces s q) ∧
    ((s.port p).link.phase = .up → ∀ h, ∃ d, asyncData t h 2 = some d ∧ d.toNat % 65536 = cause)

/-- The lanes as partner loss leaves them: forgotten but for the reason kept, at the rate now in LAN_CTL (R64, R65). -/
def leftLane (s : State) (p : NetPort) (ph : LanePhase) : LaneState :=
  { laneForget (s.port p).lane with phase := ph, rate := trainRate s p }

theorem laneLeave_trainRate (p : NetPort) (cause : Nat) {s : State} (np : noPromotion s) :
    trainRate (laneLeave p cause s) p = trainRate s p :=
  trainRate_congr (linkDepart_lanCtl p p cause false np) (image_of_still (laneLeave_still p cause s))

theorem laneLost_goesOn {p : NetPort} {cause : Nat} {s : State} (np : noPromotion s) (small : cause < 65536)
    (up : (s.port p).lane.phase = .up) : GoesOn s (laneLost p cause s) p (leftLane s p .waitClock) cause := by
  obtain ⟨lane, down, others, event, -⟩ := laneLeave_spec p cause s np small
  unfold laneLost
  rw [if_pos up]
  dsimp only
  rw [laneLeave_trainRate p cause np]
  refine ⟨?_, ?_, fun q ne => (portFaces_modLane_other _ _ ne).trans (others q ne), event⟩
  · have face := congrArg (fun l : LaneState => { l with phase := LanePhase.waitClock, rate := trainRate s p }) lane
    rw [modLane_port_same]
    exact face
  · rw [modLane_port_same]
    exact down

theorem laneRetrain_goesOn {p : NetPort} {s : State} (np : noPromotion s) (up : (s.port p).lane.phase = .up) :
    GoesOn s (laneRetrain p s) p { leftLane s p .eq with
      amplitude := (laneSetupOf s p).1, emphasis := (laneSetupOf s p).2, calUsed := s.cfg.calValid } 2 := by
  obtain ⟨lane, down, others, event, -⟩ := laneLeave_spec p 2 s np (by decide)
  have still := laneLeave_still p 2 s
  unfold laneRetrain
  rw [if_pos up]
  dsimp only
  rw [laneLeave_trainRate p 2 np]
  unfold startAttempt
  dsimp only
  rw [laneSetupOf_congr p (image_of_still still), cfg_of_still still]
  refine ⟨?_, ?_, fun q ne => ?_, fun was h => ?_⟩
  · have face := congrArg (fun l : LaneState => { l with
      phase := LanePhase.eq, rate := trainRate s p, rxMask := 0, partnerMask := 0,
      amplitude := (laneSetupOf s p).1, emphasis := (laneSetupOf s p).2, calUsed := s.cfg.calValid }) lane
    refine (congrArg Prod.fst (sendSetOn_faces p p _ _ _)).trans ?_
    rw [portFaces_modLane_same]
    exact face
  · refine (congrArg Prod.snd (sendSetOn_faces p p _ _ _)).trans ?_
    rw [portFaces_modLane_same]
    exact down
  · rw [sendSetOn_faces, portFaces_modLane_other _ _ ne]
    exact others q ne
  · rw [asyncData_congr (sendSetOn_hosts ..)]
    exact event was h

/-- The port's lanes stop as an L reset stops them, its link is DOWN with cause `cause`, and every other port shows what it did. -/
def Stops (s t : State) (p : NetPort) (cause : Nat) : Prop :=
  (∀ q, portFaces t q = if q = p then (laneFace (laneStop (retryPll (s.port p).lane)), .down) else portFaces s q) ∧
    ((s.port p).link.phase = .up → ∀ h, ∃ d, asyncData t h 2 = some d ∧ d.toNat % 65536 = cause)

theorem resetL_stops (p : NetPort) (reason : Nat) {cause : Nat} (fresh : Bool) {s : State} (np : noPromotion s) (small : cause < 65536)
    (run : s.routerRuns = true) (role : s.role p ≠ .disabled) : Stops s (resetL p reason cause fresh s) p cause :=
  ⟨fun q => resetL_faces p q reason cause fresh s np run role, (resetL_more p reason cause fresh s np small run role).2⟩

/-- A lane that its reset has stopped does not start training again. -/
theorem startTraining_stopped {p : NetPort} {s : State} (stopped : (s.port p).lane.stopped = true) : startTraining p s = s :=
  if_pos (by simp [stopped])

theorem lanCtlWrite_retrain {p : NetPort} {v : Word} {s : State} (retrain : bitOf v 32 = true) (np : noPromotion s)
    (run : s.routerRuns = true) (role : s.role p ≠ .disabled) : Stops s (lanCtlWrite p v s) p 4 := by
  unfold lanCtlWrite
  dsimp only
  generalize hw : writePlain .LAN_CTL p.val 0 v s = w
  have wNp : noPromotion w := by
    rw [← hw]
    exact noPromotion_of_low (setWord_low s .LAN_CTL _ p.val 0 (by decide)) rfl np
  have wRun : w.routerRuns = true := by rw [← hw]; exact run
  have wRole : w.role p ≠ .disabled := by rw [← hw]; exact role
  have wPorts : w.ports = s.ports := by rw [← hw]; rfl
  generalize hu : (if fieldOf (s.regWord .LAN_CTL p.val 0) 5 2 ≠ fieldOf v 5 2 ∧ (w.port p).lane.phase = .up then w.modLane p (fun l => { l with widthDue := true }) else w : State) = u
  have uFacts : noPromotion u ∧ u.routerRuns = true ∧ u.role p ≠ .disabled ∧ (u.port p).link.phase = (s.port p).link.phase ∧
      laneStop (retryPll (u.port p).lane) = laneStop (retryPll (s.port p).lane) ∧ ∀ q, q ≠ p → portFaces u q = portFaces s q := by
    rw [← hu]
    split
    · refine ⟨wNp, wRun, wRole, ?_, ?_, fun q ne => (portFaces_modLane_other _ _ ne).trans (faces_of_ports wPorts q)⟩
      · rw [modLane_port_same, port_of_ports wPorts]
      · rw [modLane_port_same, port_of_ports wPorts]
        unfold retryPll laneStop laneForget
        dsimp only
        split <;> rfl
    · exact ⟨wNp, wRun, wRole, congrArg (·.link.phase) (port_of_ports wPorts p), congrArg (laneStop <| retryPll ·.lane) (port_of_ports wPorts p),
        fun q _ => faces_of_ports wPorts q⟩
  obtain ⟨uNp, uRun, uRole, link, lane, others⟩ := uFacts
  obtain ⟨faces, event⟩ := resetL_stops p 2 (cause := 4) false uNp (by decide) uRun uRole
  have stopped : ((resetL p 2 4 false u).port p).lane.stopped = true := by
    have face := faces p
    rw [if_pos rfl] at face
    exact congrArg (fun f : LaneState × LinkPhase => f.1.stopped) face
  rw [if_pos retrain]
  have same : ∀ c : Prop, [Decidable c] → (if c then startTraining p (resetL p 2 4 false u) else resetL p 2 4 false u) = resetL p 2 4 false u := by
    intro c _
    rw [startTraining_stopped stopped, ite_self]
  rw [same]
  refine ⟨fun q => ?_, fun up => event (link.trans up)⟩
  rw [faces q, lane]
  split
  · rfl
  · rename_i ne
    exact others q ne

theorem setsIn_heard {p : NetPort} {n : Nat} {f : State → State} {s : State} (run : s.routerRuns = true) (up : (s.port p).lane.phase = .up)
    (awake : (s.port p).lane.rxAsleep = false) (hearing : (s.port p).lane.deaf = false) : setsIn p n f s = f s :=
  if_pos (by simp [hears, receives, run, up, awake, hearing])

theorem setsIn_deaf {p : NetPort} {n : Nat} {f : State → State} {s : State} (reach : receives s p = true)
    (deaf : (s.port p).lane.deaf = true) : setsIn p n f s = columnErrors p (4 * n) s :=
  (if_neg (by simp [hears, deaf])).trans (if_pos reach)

theorem receives_up {p : NetPort} {s : State} (run : s.routerRuns = true) (up : (s.port p).lane.phase = .up)
    (awake : (s.port p).lane.rxAsleep = false) : receives s p = true := by
  simp [receives, run, up, awake]

theorem windowLimit_full {p : NetPort} {s : State} (limit : s.fget F.LNK_ERRWIN_LIMIT p.val ≠ 0)
    (full : s.fget F.LNK_ERRWIN_LIMIT p.val ≤ (s.port p).link.winCount) :
    windowLimit p s = (resetL p 4 3 true s).modLink p (fun l => { l with winCount := 0 }) :=
  if_pos (by simp [windowFull, limit, full])

/-- Settles O29: each departure is `laneLost`, `laneRetrain` or an L reset of its port. -/
theorem portsLeave : Obligations.PortsLeave := by
  unfold Obligations.PortsLeave
  intro s p run role np l left goesOn stops
  refine ⟨fun up awake => ?_, fun up awake hearing => ⟨fun reason => ?_, ?_⟩, fun up awake deaf => ⟨fun reason => ?_, ?_⟩,
    fun mid v retrain => ?_, fun init => ?_, fun limit full => ?_, fun due ro => ?_⟩
  · have lost : lcLost p s = laneLost p 2 s := (if_pos up).trans (if_neg (by simp [show (s.port p).lane.rxAsleep = false from awake]))
    exact ⟨laneLost p 2 s, congrArg Host.Outcome.next lost, laneLost_goesOn np (by decide) up⟩
  · let u := s.modLane p (fun l => { l with leave := reason % 8 })
    have taken : lveIn p reason s = laneLost p 1 u := setsIn_heard run up awake hearing
    have uPort : u.port p = { s.port p with lane := { (s.port p).lane with leave := reason % 8 } } := modLane_port_same s p _
    have uUp : (u.port p).lane.phase = .up := by rw [uPort]; exact up
    obtain ⟨lane, down, others, event⟩ := laneLost_goesOn (s := u) (cause := 1) np (by decide) uUp
    refine ⟨laneLost p 1 u, congrArg Host.Outcome.next taken, ?_, down, fun q ne => (others q ne).trans (portFaces_modLane_other _ _ ne),
      fun was => event (by rw [uPort]; exact was)⟩
    rw [lane, leftLane, uPort]
    rfl
  · exact ⟨laneRetrain p s, congrArg Host.Outcome.next (setsIn_heard run up awake hearing), laneRetrain_goesOn np up⟩
  · exact congrArg Host.Outcome.next (setsIn_deaf (receives_up run up awake) deaf)
  · exact congrArg Host.Outcome.next (setsIn_deaf (receives_up run up awake) deaf)
  · exact ⟨lanCtlWrite p v s, congrArg Host.Outcome.next ((write_lan_ctl p run).trans (if_neg role)),
      lanCtlWrite_retrain retrain np run role⟩
  · exact ⟨resetL p 4 6 false s, congrArg Host.Outcome.next (if_pos init), resetL_stops p 4 false np (by decide) run role⟩
  · obtain ⟨faces, event⟩ := resetL_stops p 4 (cause := 3) true np (by decide) run role
    refine ⟨_, congrArg Host.Outcome.next (windowLimit_full limit full), ⟨fun q => ?_, event⟩, ?_⟩
    · rw [faces_modLink _ p q (fun l => { l with winCount := 0 }) rfl]
      exact faces q
    · rw [modLink_port_same]
  · let u : State := { s with rst := { s.rst with bindDue := false } }
    let t := allPorts.foldl (fun t p => if (t.port p).link.phase = .up then resetL p 2 4 false t else t) u
    have still : t.still = u.still := foldl_still _ _ _ (fun t p => by
      split
      · exact resetL_still p 2 4 false t
      · rfl)
    refine ⟨t, congrArg Host.Outcome.next (if_pos due), ?_, fun q => ?_⟩
    · rw [rst_of_still still]
    · have left := bind_fold s ro allPorts u (List.nodup_finRange 64) np run (fun _ => rfl) (fun _ _ => rfl) q
      refine left.trans ?_
      simp only [allPorts, List.mem_finRange, true_and]
      rfl

end Sys2Proof.Proofs

namespace Sys2Proof.Proofs

open Sys2Proof.Machine Sys2Proof.Laws

/-! ## Modules come and go (R55) -/

/-- The ports of a module. -/
def modulePorts (g : Nat) : List NetPort := allPorts.filter (fun p => p.val / 8 = g)

theorem mem_modulePorts (g : Nat) (q : NetPort) : q ∈ modulePorts g ↔ q.val / 8 = g := by
  simp [modulePorts, allPorts]

theorem modulePorts_nodup (g : Nat) : (modulePorts g).Nodup := (List.nodup_finRange 64).filter _

/-- The presence inputs with the level of one module set. -/
def withPresence (g : Nat) (absent : Bool) (s : State) : State :=
  { s with modprs := BitVec.ofNat 8 (setBitTo s.modprs.toNat g absent) }

theorem withPresence_bit {g : Nat} (lt : g < 8) (absent : Bool) (s : State) :
    (withPresence g absent s).modprs.toNat.testBit g = absent := setBit_test _ g absent lt s.modprs.isLt

theorem presenceChange_absent {g : Nat} (lt : g < 8) (s : State) : presenceChange g true s =
    (modulePorts g).foldl (fun t p => (if (t.port p).lane.phase = .up then laneLeave p 2 t else t).modLane p (fun l =>
      { laneForget l with phase := .noModule })) (withPresence g true s) := if_neg (by omega)

theorem presenceChange_present {g : Nat} (lt : g < 8) (s : State) : presenceChange g false s =
    (modulePorts g).foldl (fun t p => if (t.port p).lane.phase = .noModule
      then startTraining p (t.modLane p (fun l => { l with phase := .off })) else t) (withPresence g false s) := if_neg (by omega)

/-! ## Width changes (R58 to R60) -/

theorem widthBoundary_no {p : NetPort} {s : State}
    (no : (s.port p).lane.txAsleep = true ∨ (s.port p).link.tx.isSome ∨ (s.port p).lane.widthDue = false) : widthBoundary p s = s := by
  unfold widthBoundary
  dsimp only
  split
  · rename_i boundary
    simp only [Bool.and_eq_true, Bool.not_eq_true', Option.isNone_iff_eq_none] at boundary
    rcases no with asleep | framing | quiet
    · exact absurd asleep (by simp [boundary.1.2])
    · exact absurd framing (by simp [boundary.2])
    · exact if_pos (by simp [quiet])
  · rfl

theorem widthBoundary_due {p : NetPort} {s : State} (run : s.routerRuns = true) (up : (s.port p).lane.phase = .up)
    (awake : (s.port p).lane.txAsleep = false) (idle : (s.port p).link.tx = none) : widthBoundary p s = applyWidth p s :=
  if_pos (by simp [run, up, awake, idle])

theorem applyWidth_none {p : NetPort} {s : State} (due : (s.port p).lane.widthDue = true)
    (asked : usableGroup (s.port p).lane.partnerMask (s.fget F.LAN_CTL_WIDTH p.val) (s.fget F.LAN_CTL_GROUP p.val) = none) :
    applyWidth p s = refuseWidth p s := by
  unfold applyWidth
  dsimp only
  rw [if_neg (by simp [due]), asked]

theorem applyWidth_some {p : NetPort} {w g : Nat} {s : State} (due : (s.port p).lane.widthDue = true)
    (asked : usableGroup (s.port p).lane.partnerMask (s.fget F.LAN_CTL_WIDTH p.val) (s.fget F.LAN_CTL_GROUP p.val) = some (w, g)) :
    applyWidth p s =
      (let l := (s.port p).lane
       let added := addedLanes l w g
       if added = 0 then switchGroup p (txLanes l) w g s
       else if l.adding &&& added = added then
         if l.addWait = 0 then switchGroup p (txLanes l ||| groupMask w g) w g s else s
       else (sendSetOn p added (.wak (wakSets l.rate)) s).modLane p (fun l => { l with adding := added, addWait := wakeTime l.rate })) := by
  unfold applyWidth
  dsimp only
  rw [if_neg (by simp [due]), asked]

/-! ## WCH sets (R60) -/

/-- Two WCH sets that name a width: the receiver's group follows them. -/
theorem wchIn_named {p : NetPort} {votes : List Nat} {v : Nat} {s : State} (heard : hears s p = true)
    (named : majority (votes.map (· % 16)) = some v) (width : v % 4 ≠ 3) :
    wchIn p votes s = s.modLane p (fun l => { l with rxWidth := v % 4, rxGroup := v / 4 }) := by
  unfold wchIn setsIn
  rw [if_pos heard, named]
  exact if_neg width

/-- Without a width that they name the direction is lost. -/
theorem wchIn_lost {p : NetPort} {votes : List Nat} {s : State} (heard : hears s p = true)
    (none : ∀ v, majority (votes.map (· % 16)) = some v → v % 4 = 3) : wchIn p votes s = laneRetrain p s := by
  unfold wchIn setsIn
  rw [if_pos heard]
  cases named : majority (votes.map (· % 16)) with
  | none => rfl
  | some v => exact if_pos (none v named)

theorem receives_of_hears {s : State} {p : NetPort} (heard : hears s p = true) : receives s p = true :=
  (Bool.and_eq_true _ _ ▸ heard).1

theorem receives_iff (s : State) (p : NetPort) : receives s p = true ↔
    s.routerRuns = true ∧ (s.port p).lane.phase = .up ∧ (s.port p).lane.rxAsleep = false := by
  simp [receives, and_assoc]

theorem setsIn_lost {p : NetPort} {n : Nat} {f : State → State} {s : State} (lost : receives s p = false) : setsIn p n f s = s :=
  (if_neg (by simp [hears, lost])).trans (if_neg (by simp [lost]))

/-- Settles O30: the folds over a module's ports, then a frame boundary branch by branch, then the WCH sets. -/
theorem presenceAndWidth : Obligations.PresenceAndWidth := by
  unfold Obligations.PresenceAndWidth
  intro s
  refine ⟨fun g lt np => ?_, fun g lt run => ?_, fun g absent out => congrArg Host.Outcome.next (if_pos out), fun p run up => ?_,
    fun p votes => ⟨fun heard => ⟨fun v named width => congrArg Host.Outcome.next (wchIn_named heard named width), fun none np => ?_⟩,
      fun reach deaf => congrArg Host.Outcome.next (setsIn_deaf reach deaf), fun lost => congrArg Host.Outcome.next (setsIn_lost lost)⟩⟩
  · obtain ⟨pins, ports⟩ := absent_fold s (modulePorts g) (withPresence g true s) (modulePorts_nodup g) np (fun q _ => rfl)
    refine ⟨_, congrArg Host.Outcome.next (presenceChange_absent lt s), ?_, fun q => ?_⟩
    · rw [pins]
      exact withPresence_bit lt true s
    · obtain ⟨own, other⟩ := ports q
      exact ⟨fun ofGroup => own ((mem_modulePorts g q).mpr ofGroup), fun apart => other (fun mem => apart ((mem_modulePorts g q).mp mem))⟩
  · have present (q : NetPort) (mem : q ∈ modulePorts g) : modulePresent (withPresence g false s) q = true := by
      unfold modulePresent
      rw [(mem_modulePorts g q).mp mem, withPresence_bit lt false s]
      rfl
    obtain ⟨pins, ports⟩ := present_fold s (modulePorts g) (withPresence g false s) (modulePorts_nodup g) (fun q _ => rfl) rfl rfl rfl
      present run rfl rfl
    refine ⟨_, congrArg Host.Outcome.next (presenceChange_present lt s), ?_, fun q => ?_⟩
    · rw [pins]
      exact withPresence_bit lt false s
    · obtain ⟨own, other⟩ := ports q
      exact ⟨fun ofGroup => own ((mem_modulePorts g q).mpr ofGroup),
        fun apart => other (apart.imp (fun ne mem => ne ((mem_modulePorts g q).mp mem)) id)⟩
  · intro l asked told inUse
    refine ⟨fun no => congrArg Host.Outcome.next (widthBoundary_no no), fun awake idle due => ?_⟩
    have boundary := widthBoundary_due run up awake idle
    refine ⟨fun none => congrArg Host.Outcome.next (boundary.trans (applyWidth_none due none)), fun w g some => ?_⟩
    have apply := boundary.trans (applyWidth_some due some)
    intro added
    refine ⟨fun same => congrArg Host.Outcome.next (apply.trans (if_pos same)),
      fun more fresh => congrArg Host.Outcome.next (apply.trans ((if_neg more).trans (if_neg fresh))),
      fun more woken => ⟨fun waits => ?_, fun ended => ?_⟩⟩
    · exact congrArg Host.Outcome.next (apply.trans ((if_neg more).trans ((if_pos woken).trans (if_neg waits))))
    · exact congrArg Host.Outcome.next (apply.trans ((if_neg more).trans ((if_pos woken).trans (if_pos ended))))
  · obtain ⟨-, up, -⟩ := (receives_iff s p).mp (receives_of_hears heard)
    obtain ⟨lane, down, others, -⟩ := laneRetrain_goesOn np up
    exact ⟨_, congrArg Host.Outcome.next (wchIn_lost heard none), congrArg LaneState.phase lane, down, others⟩

end Sys2Proof.Proofs

namespace Sys2Proof.Proofs

open Sys2Proof.Machine Sys2Proof.Laws

/-! # Supplies, temperature and the power-fail sequence (R43, R282, R289, R296, R300)

The settlements of O31 and O32. -/

/-! ## The P reset -/

/-- What the loss of VDD_AON does to the store first (R43): its pulse completes, or all supplies are lost during it. -/
def storeEnds (s : State) : State := if s.pwr.coreOk || s.pwr.pwrgd then recordPulsed (progDone s) else pulseLost s

theorem copyLost_keeps (s : State) : (copyLost s).hosts = s.hosts ∧ (copyLost s).modprs = s.modprs ∧ (copyLost s).pending = s.pending ∧
    (copyLost s).rst = s.rst ∧ (copyLost s).pwr = s.pwr ∧ (copyLost s).cfg.store = s.cfg.store ∧ (copyLost s).cfg.prog = s.cfg.prog := by
  unfold copyLost
  generalize (s.freeValue.setWidth 32 : BitVec 32) = crc
  dsimp only
  split <;> exact ⟨rfl, rfl, rfl, rfl, rfl, rfl, rfl⟩

theorem blockLost_keeps (s : State) : (blockLost s).hosts = s.hosts ∧ (blockLost s).modprs = s.modprs ∧
    (blockLost s).pending = s.pending ∧ (blockLost s).rst = s.rst ∧ (blockLost s).pwr = s.pwr := by
  unfold blockLost
  split
  · generalize (List.range 8).flatMap _ = junk
    exact ⟨rfl, rfl, rfl, rfl, rfl⟩
  · exact ⟨rfl, rfl, rfl, rfl, rfl⟩

/-- Only the 64 bytes of the block under the pulse are undefined (R43). -/
theorem pulseLost_byte {s : State} {a : Nat} (apart : ∀ b data n, s.cfg.prog = some (.write b data n) → a < b ∨ b + 64 ≤ a) :
    ramByte (pulseLost s).cfg.store a = ramByte s.cfg.store a := by
  obtain ⟨-, -, -, -, -, store, prog⟩ := copyLost_keeps s
  unfold pulseLost blockLost
  split
  · rename_i addr data n writing
    rw [prog] at writing
    dsimp only
    generalize hj : (List.range 8).flatMap (fun k => leBytes 8 (Config.free64 ((copyLost s).freeCount + k)).toNat) = junk
    have bytes : junk.length = 64 := by rw [← hj, flatMap_length, List.length_range]
    rw [modCfg_cfg, ramByte_write_other junk _ addr a (by rw [bytes]; exact apart addr data n writing), store]
  · rw [store]

theorem storeEnds_keeps (s : State) : (storeEnds s).hosts = s.hosts ∧ (storeEnds s).modprs = s.modprs ∧
    (storeEnds s).pending = s.pending ∧ (storeEnds s).rst = s.rst ∧ (storeEnds s).pwr = s.pwr := by
  unfold storeEnds
  split
  · exact progDone_keeps s
  · obtain ⟨hosts, modprs, pending, rst, pwr, -⟩ := copyLost_keeps s
    obtain ⟨hosts', modprs', pending', rst', pwr'⟩ := blockLost_keeps (copyLost s)
    exact ⟨hosts'.trans hosts, modprs'.trans modprs, pending'.trans pending, rst'.trans rst, pwr'.trans pwr⟩

/-! ## Supplies and REFCLK -/

theorem releaseP_good {s : State} (held : s.rst.pHeld = true) (aon : s.pwr.vddAon = true) (clock : s.pwr.refclk = true) :
    releaseP s = releaseC { s with rst := { s.rst with pHeld := false } } := if_pos (by simp [held, aon, clock])

theorem releaseC_noPwrgd {s : State} (low : s.pwr.pwrgd = false) : releaseC s = s := releaseC_held (.inr (.inr (.inr (.inl low))))

theorem releaseP_stays {s : State} (stays : s.rst.pHeld = false ∨ s.pwr.vddAon = false ∨ s.pwr.refclk = false) : releaseP s = s := by
  refine if_neg ?_
  rcases stays with h | h | h <;> simp [h]

/-- The state once REFCLK is lost, before SYNC and the error line are looked at (R282). -/
def clockLost (s : State) : State :=
  { s with pwr := { s.pwr with refclk := false }, tim := { s.tim with unsync := true } }

theorem clockLost_timeSync (s : State) : (clockLost s).timeSync = false := by
  simp [State.timeSync, clockLost]

/-- The loss of REFCLK: TIME_SYNC where SYNC was set, then the error line (R282, R288). -/
theorem refclkLost_eq (s : State) : refclkLost s =
    (let u := if s.timeSync = false then clockLost s else asyncChip 0x0B 0 (BitVec.ofNat 64 0) (clockLost s)
     if s.rst.pHeld then u else watchRefclk u) := by
  have synced : withTimeSync (fun t => { t with tim := { t.tim with unsync := true } }) (s.modPwr (fun p => { p with refclk := false })) =
      if s.timeSync = false then clockLost s else asyncChip 0x0B 0 (BitVec.ofNat 64 0) (clockLost s) := by
    have was : (s.modPwr (fun p => { p with refclk := false })).timeSync = s.timeSync := rfl
    have now : ({ (s.modPwr (fun p => { p with refclk := false })) with tim := { s.tim with unsync := true } } : State).timeSync = false :=
      clockLost_timeSync s
    unfold withTimeSync
    dsimp only
    rw [modPwr_tim, now, was]
    by_cases sync : s.timeSync = false
    · rw [if_pos sync, if_pos sync.symm]
      rfl
    · rw [if_neg sync, if_neg (fun eq => sync eq.symm)]
      rfl
  unfold refclkLost
  dsimp only
  rw [synced]
  have held : (if s.timeSync = false then clockLost s else asyncChip 0x0B 0 (BitVec.ofNat 64 0) (clockLost s)).rst = s.rst := by
    split
    · rfl
    · exact (rst_of_still (asyncChip_still _ _ _ (clockLost s))).trans rfl
  rw [held]

theorem watchRefclk_rises {s : State} (clock : s.pwr.refclk = false) (on : s.pwr.state = .active ∨ s.pwr.state = .doze)
    (low : s.flt.lines.testBit 2 = false) : watchRefclk s = raiseFault 2 { s with flt := { s.flt with lines := setBitTo s.flt.lines 2 true } } := by
  unfold watchRefclk
  rw [if_neg (by rcases on with h | h <;> simp [clock, h]), low]
  rfl

theorem watchRefclk_high {s : State} (clock : s.pwr.refclk = false) (on : s.pwr.state = .active ∨ s.pwr.state = .doze)
    (high : s.flt.lines.testBit 2 = true) : watchRefclk s = s := by
  unfold watchRefclk
  rw [if_neg (by rcases on with h | h <;> simp [clock, h]), high]
  rfl

theorem watchRefclk_off {s : State} (off : s.pwr.state = .standby ∨ s.pwr.state = .sleep) :
    watchRefclk s = { s with flt := { s.flt with lines := setBitTo s.flt.lines 2 false } } := by
  refine if_pos ?_
  rcases off with h | h <;> simp [h]

theorem supplyLow_rises {s : State} (awake : s.pwr.state ≠ .sleep) (on : s.rst.pHeld = false) (low : s.flt.lines.testBit 0 = false) :
    supplyLow s = raiseFaultBy 0 0xFF#8 0 0#64 (lineRaised 0 { s with pwr := { s.pwr with coreOk := false } }) := by
  refine (if_neg awake).trans (lineRises_low (src := 0) ?_ low)
  simp [lineReaches, on, aonSource]

/-- Settles O31, supply by supply. -/
theorem supplies : Obligations.Supplies := by
  unfold Obligations.Supplies
  intro s pwrgd good
  refine ⟨?_, rfl, fun held aon clock low => ?_, fun held aon clock high => congrArg Host.Outcome.next (releaseP_good held aon clock),
    fun stays => congrArg Host.Outcome.next (releaseP_stays stays), fun asleep => congrArg Host.Outcome.next (if_pos asleep),
    fun awake on low np => ?_, fun noted => congrArg Host.Outcome.next (if_pos ?_), fun on awake failing => congrArg Host.Outcome.next ?_,
    fun on awake normal => congrArg Host.Outcome.next ?_, fun held => congrArg Host.Outcome.next (if_pos held),
    fun free => congrArg Host.Outcome.next (if_neg (by simp [free])), fun on active low np => ?_, fun unsync => ?_⟩
  · obtain ⟨hosts, modprs, pending, rst, pwr⟩ := storeEnds_keeps s
    refine ⟨holdP s, rfl, rfl, ?_, rfl, ?_, fun supplied => ?_, fun core pg a apart => ?_, pending, rfl, rfl, rfl, rfl, rfl, rfl, rfl,
      fun h => ?_, modprs⟩
    · exact (congrArg RstState.resetN rst : (storeEnds s).rst.resetN = _)
    · exact (congrArg PwrState.pwrgd pwr : (storeEnds s).pwr.pwrgd = _)
    · have ends : storeEnds s = recordPulsed (progDone s) := if_pos (by simpa using supplied)
      exact (congrArg (fun t : State => t.cfg.store) ends : (storeEnds s).cfg.store = _)
    · have ends : storeEnds s = pulseLost s := if_neg (by simp [core, pg])
      exact (congrArg (fun t : State => ramByte t.cfg.store a) ends : ramByte (storeEnds s).cfg.store a = _).trans (pulseLost_byte apart)
    · show ((storeEnds s).hosts.map (fun (h : HostState) => { hostReset with hif := { hifReset with perst := h.hif.perst } }))[h] = _
      rw [hosts]
      simp [State.host]
  · exact congrArg Host.Outcome.next ((releaseP_good held aon clock).trans (releaseC_noPwrgd low))
  · obtain ⟨muzzle, lines, -, bit, -⟩ := raiseFaultBy_fatal (n := 0) (by decide) (mid := 0xFF#8) (access := 0) (addr := 0#64)
      (s := lineRaised 0 { s with pwr := { s.pwr with coreOk := false } }) np (by decide)
    refine ⟨_, congrArg Host.Outcome.next (supplyLow_rises awake on low), muzzle, bit, ?_⟩
    rw [lines]
    exact setBitTo_true_testBit _ _
  · rcases noted with h | h <;> simp [h]
  · exact (if_neg (by simp [on, awake])).trans (if_pos failing)
  · exact (if_neg (by simp [on, awake])).trans (if_neg (by simp [normal]))
  · let u := if s.timeSync = false then clockLost s else asyncChip 0x0B 0 (BitVec.ofNat 64 0) (clockLost s)
    have reported : reportOnly (clockLost s) u := by
      show reportOnly (clockLost s) (if _ then _ else _)
      split
      · exact reportOnly_refl _
      · exact asyncChip_report _ _ _ _ np
    have uPwr : u.pwr = (clockLost s).pwr := by rw [reported.1]
    have uNp : noPromotion u := reportOnly_noPromotion reported np
    have uLow : u.flt.lines.testBit 2 = false := by rw [reportOnly_lines reported]; exact low
    have uTim : u.tim = (clockLost s).tim := by rw [reported.1]
    obtain ⟨muzzle, -, still, bit, -⟩ := raiseFaultBy_fatal (n := 2) (by decide) (mid := 0xFF#8) (access := 0) (addr := 0#64)
      (s := lineRaised 2 u) uNp (by decide)
    have rises : refclkLost s = raiseFaultBy 2 0xFF#8 0 0#64 (lineRaised 2 u) := by
      rw [refclkLost_eq]
      refine (if_neg (by simp [on])).trans (watchRefclk_rises (by rw [uPwr]; rfl) ?_ uLow)
      rw [uPwr]
      exact active
    refine ⟨_, congrArg Host.Outcome.next rises, muzzle, bit, ?_, ?_⟩
    · rw [tim_of_still still]
      exact (congrArg TimState.unsync uTim)
    · rw [raise_refclk 2 (by decide)]
      exact congrArg PwrState.refclk uPwr
  · intro lost
    have eq : refclkLost s = if s.rst.pHeld then lost else watchRefclk lost := by
      rw [refclkLost_eq, if_pos unsync]
      rfl
    exact ⟨fun held => congrArg Host.Outcome.next (eq.trans (if_pos held)),
      fun on active high => congrArg Host.Outcome.next (eq.trans ((if_neg (by simp [on])).trans (watchRefclk_high rfl active high))),
      fun on off => congrArg Host.Outcome.next (eq.trans ((if_neg (by simp [on])).trans (watchRefclk_off off)))⟩

/-! ## Temperature -/

theorem signedOf_toInt (v : BitVec 12) : signedOf 12 v.toNat = v.toInt := by
  rw [BitVec.toInt_eq_toNat_cond]
  unfold signedOf
  have := v.isLt
  split <;> split <;> omega

/-- The state once a sample below both levels is recorded with its maximum (R289). -/
def sampledLow (t : Nat) (s : State) : State :=
  let now := BitVec.ofNat 12 t
  let u := s.modPwr (fun p => { p with tempNow := now, tempWarn := false, tempCrit := false })
  if signedOf 12 (s.fget F.AON_TEMP_MAX) < now.toInt then u.fset F.AON_TEMP_MAX now.toNat else u

theorem sampledLow_max (t : Nat) (s : State) : signedOf 12 ((sampledLow t s).fget F.AON_TEMP_MAX) =
    max (signedOf 12 (s.fget F.AON_TEMP_MAX)) (BitVec.ofNat 12 t).toInt := by
  unfold sampledLow
  dsimp only
  split
  next higher =>
    rw [fget_fset _ _ _ _ _ (by decide) (by decide)]
    refine (congrArg (signedOf 12) (Nat.mod_eq_of_lt (BitVec.ofNat 12 t).isLt)).trans ?_
    rw [signedOf_toInt]
    exact (max_eq_right (le_of_lt higher)).symm
  next lower => exact (max_eq_left (not_lt.mp lower)).symm

theorem sampledLow_keeps (t : Nat) (s : State) : ∃ r, sampledLow t s = { s with
    regs := r
    pwr := { s.pwr with tempNow := BitVec.ofNat 12 t, tempWarn := false, tempCrit := false } } := by
  unfold sampledLow
  dsimp only
  split <;> exact ⟨_, rfl⟩

/-- A sample below both levels changes only the lines of the levels besides (R289). -/
theorem tempSampled_low {t : Nat} {s : State} (on : s.rst.pHeld = false)
    (crit : tempOver s.pwr.tempCrit (BitVec.ofNat 12 t).toInt (signedOf 12 (s.fget F.AON_TEMP_LIM_CRIT)) = false)
    (warn : tempOver s.pwr.tempWarn (BitVec.ofNat 12 t).toInt (signedOf 12 (s.fget F.AON_TEMP_LIM_WARN)) = false) :
    tempSampled t s = lineFalls 1 (lineFalls 30 (sampledLow t s)) := by
  unfold tempSampled
  rw [if_neg (by simp [on])]
  dsimp only
  rw [crit, warn]
  rfl

/-! ## The power-fail sequence -/

theorem flushEach_idle {h : HostPort} {s : State} (idle : (s.host h).rem.unflushed = []) :
    flushEach h s = modRem h (fun x => { x with unflushed := [] }) s := by
  unfold flushEach
  dsimp only
  rw [idle]
  rfl

/-- A port without a durable put that waits keeps its pending entries, and all power. -/
theorem flushEach_quiet (h : HostPort) {s : State} (idle : ∀ g, (s.host g).rem.unflushed = []) :
    (∀ g, ((flushEach h s).host g).rem.unflushed = []) ∧ (flushEach h s).pwr = s.pwr ∧
      ∀ g, ((flushEach h s).host g).async = (s.host g).async := by
  rw [flushEach_idle (idle h)]
  unfold modRem
  refine ⟨fun g => ?_, rfl, fun g => ?_⟩
  · by_cases same : g = h
    · subst same
      rw [modHost_host_same]
    · rw [modHost_host_other _ _ _ _ same]
      exact idle g
  · by_cases same : g = h
    · subst same
      rw [modHost_host_same]
    · rw [modHost_host_other _ _ _ _ same]

theorem flushAll_quiet : ∀ (l : List HostPort) {s : State}, (∀ g, (s.host g).rem.unflushed = []) →
    let t := l.foldl (fun t h => if t.hostLive h && t.nicRuns then flushEach h t else t) s
    t.pwr = s.pwr ∧ ∀ g, (t.host g).async = (s.host g).async := by
  intro l
  induction l with
  | nil => intro s _; exact ⟨rfl, fun _ => rfl⟩
  | cons h l ih =>
    intro s idle
    dsimp only
    rw [List.foldl_cons]
    split
    · obtain ⟨idle', pwr, async⟩ := flushEach_quiet h idle
      obtain ⟨pwrs, asyncs⟩ := ih idle'
      exact ⟨pwrs.trans pwr, fun g => (asyncs g).trans (async g)⟩
    · exact ih idle

/-- Settles O32. -/
theorem powerFailSequence : Obligations.PowerFailSequence := by
  unfold Obligations.PowerFailSequence
  intro s noted
  refine ⟨fun t on => ?_, fun no => congrArg Host.Outcome.next (if_pos (by simpa using no)),
    fun fresh on asleep => congrArg Host.Outcome.next ((if_neg (by simp [fresh, on])).trans (if_pos asleep)),
    fun fresh on awake np => ?_, fun failing => congrArg Host.Outcome.next (if_neg (by simp [failing])),
    fun active means idle awake => ?_, fun t w active means entry awake => ?_, fun no => ?_⟩
  · intro v warn crit cool
    refine ⟨_, congrArg Host.Outcome.next (tempSampled_low on crit cool), ?_⟩
    have highest := sampledLow_max t s
    obtain ⟨regs, keeps⟩ := sampledLow_keeps t s
    rw [lineFalls_eq, lineFalls_eq]
    rw [keeps] at highest ⊢
    exact ⟨by simp, highest, by simp, rfl⟩
  · have begins : pfwOn s = allHosts.foldl (fun t h => if t.hostLive h && t.nicRuns then flushEach h t else t)
        (asyncChip 7 0 (BitVec.ofNat 64 (s.fget F.PWR_PFW_HOLDUP_US - 1)) (noted true true)) :=
      (if_neg (by simp [fresh, on])).trans (if_neg awake)
    refine ⟨congrArg Host.Outcome.next begins, fun idle => ⟨_, congrArg Host.Outcome.next begins, ?_⟩⟩
    have reported : reportOnly (noted true true) (asyncChip 7 0 (BitVec.ofNat 64 (s.fget F.PWR_PFW_HOLDUP_US - 1)) (noted true true)) :=
      asyncChip_report _ _ _ _ np
    obtain ⟨pwr, async⟩ := flushAll_quiet allHosts (s := asyncChip 7 0 (BitVec.ofNat 64 (s.fget F.PWR_PFW_HOLDUP_US - 1)) (noted true true))
      (fun g => by rw [reported.2.1 g]; exact idle g)
    refine ⟨pwr.trans ?_, fun h => ?_⟩
    · rw [reported.1]
    · refine Eq.trans ?_ (asyncChip_data 7 0 (BitVec.ofNat 64 (s.fget F.PWR_PFW_HOLDUP_US - 1)) (noted true true) np (by decide) h)
      unfold asyncData
      rw [async h]
  · refine congrArg Host.Outcome.next ((if_pos (by simp [active, means])).trans ((if_neg awake).trans ?_))
    split
    · rename_i t w entry
      exact absurd entry (idle t w)
    · rfl
  · refine congrArg Host.Outcome.next ((if_pos (by simp [active, means])).trans ((if_neg awake).trans ?_))
    rw [entry]
    rfl
  · by_cases means : (s.pwr.pfwActive && s.flag F.PWR_PFW_SLEEP_ON_PFW) = true
    · refine congrArg Host.Outcome.next ((if_pos means).trans (if_pos ?_))
      rw [Bool.and_eq_true] at means
      rcases no with off | off | asleep
      · exact absurd means.1 (by simp [off])
      · exact absurd means.2 (by simp [off])
      · exact asleep
    · exact congrArg Host.Outcome.next (if_neg means)

end Sys2Proof.Proofs

namespace Sys2Proof.Proofs

open Sys2Proof.Machine Sys2Proof.Laws

/-! # Power requests (R291 to R294)

The settlement of O33. -/

/-- The fields a write of PWR_CTL sets (R291). -/
def pwrCtlFields (v : Word) (s : State) : State :=
  (((s.fset F.PWR_CTL_REQ (fieldOf v 1 0)).fset F.PWR_CTL_AUTO_DOZE (fieldOf v 2 2)).fset F.PWR_CTL_DOZE_LANE_IDLE
    (fieldOf v 15 8)).fset F.PWR_CTL_DOZE_IDLE_US (fieldOf v 31 16)

theorem writeReg_pwrCtl {mid : Mid} {v : Word} {s : State} (on : s.rst.pHeld = false) :
    writeReg mid (regAddr .PWR_CTL 0 0) v s = requestPower mid (powerOf (fieldOf v 1 0)) (pwrCtlFields v s) := write_pwr_ctl on

theorem powerOf_ne_sleep {v : Word} (req : fieldOf v 1 0 ≠ 3) : powerOf (fieldOf v 1 0) ≠ .sleep := by
  have lt := fieldOf_lt v 1 0
  generalize fieldOf v 1 0 = n at req lt
  match n, lt with
  | 0, _ => decide
  | 1, _ => decide
  | 2, _ => decide
  | 3, _ => exact absurd rfl req

section
variable {mid : Mid} {target : PowerState} {s : State}

theorem requestPower_moving (moving : s.pwr.transition.isSome) : requestPower mid target s = s.fset F.PWR_STATUS_ENTRY_ERR 2 :=
  if_pos moving

theorem requestPower_failing (idle : s.pwr.transition = none) (failing : s.pwr.pfwActive = true) (ne : target ≠ .sleep) :
    requestPower mid target s = s.fset F.PWR_STATUS_ENTRY_ERR 3 :=
  (if_neg (by simp [idle])).trans (if_pos (by simp [failing, ne]))

variable (idle : s.pwr.transition = none) (calm : s.pwr.pfwActive = false)
include idle calm

/-- A request of the state reached changes nothing more (R291). -/
theorem requestPower_reached (state : s.pwr.state = target) : requestPower mid target s = s.fset F.PWR_STATUS_ENTRY_ERR 0 := by
  unfold requestPower
  rw [if_neg (by simp [idle]), if_neg (by simp [calm])]
  dsimp only
  rw [fset_pwr, state]
  cases target <;> rfl

theorem requestPower_doze (state : s.pwr.state = .active) : requestPower mid .doze s =
    (enterState .doze (s.fset F.PWR_STATUS_ENTRY_ERR 0)).modPwr (fun p => { p with nicWaking := false }) := by
  unfold requestPower
  rw [if_neg (by simp [idle]), if_neg (by simp [calm])]
  dsimp only
  rw [fset_pwr, state]

theorem requestPower_undoze (state : s.pwr.state = .doze) : requestPower mid .active s =
    dozeWake 7 (s.fset F.PWR_STATUS_ENTRY_ERR 0) := by
  unfold requestPower
  rw [if_neg (by simp [idle]), if_neg (by simp [calm])]
  dsimp only
  rw [fset_pwr, state]

/-- STANDBY and SLEEP are entered from ACTIVE and DOZE through `requestLow` (R291). -/
theorem requestPower_low (state : s.pwr.state = .active ∨ s.pwr.state = .doze) (deep : target = .standby ∨ target = .sleep) :
    requestPower mid target s = requestLow target (s.fset F.PWR_STATUS_ENTRY_ERR 0) := by
  unfold requestPower
  rw [if_neg (by simp [idle]), if_neg (by simp [calm])]
  dsimp only
  rcases state with state | state <;> rcases deep with rfl | rfl <;> rw [fset_pwr, state]

theorem requestPower_deeper (state : s.pwr.state = .standby) (low : mid = 0#8 ∨ mid = 1#8) :
    requestPower mid .sleep s = startEntry .sleep (s.fset F.PWR_STATUS_ENTRY_ERR 0) := by
  unfold requestPower
  rw [if_neg (by simp [idle]), if_neg (by simp [calm])]
  dsimp only
  rw [fset_pwr, state]
  exact if_pos (by simpa using low)

theorem requestPower_wake (state : s.pwr.state = .standby ∨ s.pwr.state = .sleep) : requestPower mid .active s =
    if mid = 0#8 || mid = 1#8 then wakeEvent 7 false (s.fset F.PWR_STATUS_ENTRY_ERR 0) else s.fset F.PWR_STATUS_ENTRY_ERR 0 := by
  unfold requestPower
  rw [if_neg (by simp [idle]), if_neg (by simp [calm])]
  dsimp only
  rcases state with state | state <;> rw [fset_pwr, state]

theorem requestPower_wakeDoze (state : s.pwr.state = .standby) (low : mid = 0#8 ∨ mid = 1#8) : requestPower mid .doze s =
    wakeEvent 7 true (s.fset F.PWR_STATUS_ENTRY_ERR 0) := by
  unfold requestPower
  rw [if_neg (by simp [idle]), if_neg (by simp [calm])]
  dsimp only
  rw [fset_pwr, state]
  exact if_pos (by simpa using low)

end

theorem requestLow_down {target : PowerState} {s : State} (calm : s.pwr.pfwActive = false) (down : hostsDown s = true) :
    requestLow target s = startEntry target s := (if_neg (by simp [calm])).trans (if_neg (by simp [down]))

theorem requestLow_up {target : PowerState} {s : State} (calm : s.pwr.pfwActive = false) (up : hostsDown s = false) :
    requestLow target s = s.fset F.PWR_STATUS_ENTRY_ERR 1 := (if_neg (by simp [calm])).trans (if_pos (by simp [up]))

theorem autoDozeGo_stays {s : State} (stays : s.flag F.PWR_CTL_AUTO_DOZE = false ∨ s.pwr.state ≠ .active) : autoDozeGo s = s := by
  refine if_neg ?_
  rcases stays with h | h <;> simp [h]

/-- Settles O33, request by request. -/
theorem powerRequests : Obligations.PowerRequests := by
  unfold Obligations.PowerRequests
  intro s mid v on u e low
  have write : writeReg mid (regAddr .PWR_CTL 0 0) v s = requestPower mid (powerOf (fieldOf v 1 0)) u := writeReg_pwrCtl on
  refine ⟨fun moving => congrArg Host.Outcome.next (write.trans (requestPower_moving (s := u) moving)),
    fun idle failing req => congrArg Host.Outcome.next (write.trans (requestPower_failing (s := u) idle failing (powerOf_ne_sleep req))),
    fun idle calm => ⟨fun req => ?_, fun req => ?_, fun req => ?_, fun req => ?_⟩,
    fun auto nic state idle awake => congrArg Host.Outcome.next (if_pos (by simp [auto, nic, state, idle, awake])),
    fun stays => congrArg Host.Outcome.next (autoDozeGo_stays stays), fun waking => congrArg Host.Outcome.next (if_pos waking),
    fun ready => congrArg Host.Outcome.next (if_neg (by simp [ready]))⟩
  all_goals
    rw [req] at write
  · refine ⟨fun state => congrArg Host.Outcome.next (write.trans (requestPower_reached (s := u) idle calm state)),
      fun state => congrArg Host.Outcome.next (write.trans (requestPower_undoze (s := u) idle calm state)), fun state master => ?_, fun state other => ?_⟩
    · exact congrArg Host.Outcome.next (write.trans ((requestPower_wake (s := u) idle calm state).trans (if_pos (by simpa [low] using master))))
    · exact congrArg Host.Outcome.next (write.trans ((requestPower_wake (s := u) idle calm state).trans (if_neg (by simpa [low] using other))))
  · refine ⟨fun state => congrArg Host.Outcome.next (write.trans ((requestPower_doze (s := u) idle calm state).trans ?_)),
      fun state => congrArg Host.Outcome.next (write.trans (requestPower_reached (s := u) idle calm state)),
      fun state master => congrArg Host.Outcome.next (write.trans (requestPower_wakeDoze (s := u) idle calm state master))⟩
    have bias : e.regWord .PWR_BIAS 0 0 = s.regWord .PWR_BIAS 0 0 := by
      simp (disch := decide) only [e, u, regWord_fset_other]
    rw [← bias]
    rfl
  · refine ⟨fun state => ?_, fun state => congrArg Host.Outcome.next (write.trans (requestPower_reached (s := u) idle calm state))⟩
    have enters := write.trans (requestPower_low (s := u) idle calm state (.inl rfl))
    refine ⟨fun down => ?_, fun up => congrArg Host.Outcome.next (enters.trans (requestLow_up (s := e) calm up))⟩
    have starts := enters.trans (requestLow_down (s := e) calm down)
    exact ⟨congrArg Host.Outcome.next starts, _, congrArg Host.Outcome.next starts, rfl, fun p => off_ports .standby e p⟩
  · refine ⟨fun state => ?_, fun state master => congrArg Host.Outcome.next (write.trans (requestPower_deeper (s := u) idle calm state master)),
      fun state => congrArg Host.Outcome.next (write.trans (requestPower_reached (s := u) idle calm state))⟩
    have enters := write.trans (requestPower_low (s := u) idle calm state (.inr rfl))
    exact ⟨fun down => congrArg Host.Outcome.next (enters.trans (requestLow_down (s := e) calm down)),
      fun up => congrArg Host.Outcome.next (enters.trans (requestLow_up (s := e) calm up))⟩

end Sys2Proof.Proofs

namespace Sys2Proof.Proofs

open Sys2Proof.Machine Sys2Proof.Laws

/-! # The ends of a transition, and the wakes (R282, R289, R296 to R302, R331)

The settlement of O34. -/

/-! ## Fatal sources that promotion does not touch -/

/-- One of the sources 0 to 7 rises: Muzzle stands, and power and what traffic leaves alone stay but for the PLLs (R325, R329). -/
theorem raiseFault_low {n : Nat} (lt : n < 8) (s : State) :
    (raiseFault n s).flt.muzzle = true ∧ (raiseFault n s).pwr.state = s.pwr.state ∧
      (raiseFault n s).pwr.transition = s.pwr.transition := by
  have acts (u : State) : u.actingClass n = 2 := by
    unfold State.actingClass faultClass
    rw [if_neg (by simp; omega), if_pos lt]
  unfold raiseFault
  rw [status_of_raise _ _ _ _ _ (acts s)]
  unfold raiseCore
  dsimp only
  rw [if_pos (acts _)]
  generalize hx : ({ (s.fset F.FLT_STATUS_SRC (setBitTo (s.fget F.FLT_STATUS_SRC) n true)) with flt := _ } : State) = x
  have xPwr : x.pwr = s.pwr := by rw [← hx]; rfl
  have first : (firstError n 0xFF#8 0 0#64 x).pwr = s.pwr := by
    rw [← xPwr]
    unfold firstError
    split
    · rfl
    · split <;> rfl
  refine ⟨(enterMuzzle_facts n (by omega) _).1, ?_⟩
  rw [← first]
  unfold enterMuzzle
  split
  · exact ⟨rfl, rfl⟩
  · dsimp only
    split <;> exact ⟨rfl, rfl⟩

theorem watchRefclk_pwr (s : State) : (watchRefclk s).pwr.state = s.pwr.state ∧ (watchRefclk s).pwr.transition = s.pwr.transition := by
  unfold watchRefclk
  split
  · exact ⟨rfl, rfl⟩
  · split
    · exact ⟨rfl, rfl⟩
    · exact (raiseFault_low (n := 2) (by decide) _).2

theorem watchSupply_pwr (s : State) : (watchSupply s).pwr.state = s.pwr.state ∧ (watchSupply s).pwr.transition = s.pwr.transition := by
  unfold watchSupply
  split
  · exact ⟨rfl, rfl⟩
  · split
    · exact ⟨rfl, rfl⟩
    · exact (raiseFault_low (n := 0) (by decide) _).2

theorem watchSupply_good {s : State} (good : s.pwr.coreOk = true ∨ s.pwr.state = .sleep) :
    watchSupply s = { s with flt := { s.flt with lines := setBitTo s.flt.lines 0 false } } := by
  refine if_pos ?_
  rcases good with h | h <;> simp [h]

/-! ## The end of an entry -/

/-- The lines that an entry lets fall (R282, R289). -/
def linesQuiet (s : State) : State := { s with flt := { s.flt with lines := setBitTo (setBitTo s.flt.lines 2 false) 0 false } }

theorem watched_quiet {s : State} (off : s.pwr.state = .standby ∨ s.pwr.state = .sleep) (good : s.pwr.coreOk = true ∨ s.pwr.state = .sleep) :
    watchSupply (watchRefclk s) = linesQuiet s := by
  rw [watchRefclk_off off, watchSupply_good]
  · rfl
  · exact good

/-- The state an entry to `target` ends in, but for the loss of the time in SLEEP (R291, R293). -/
def entryEnded (target : PowerState) (s : State) : State :=
  linesQuiet { s with
    ports := s.ports.map (fun q => { portOff q with lane := { (portOff q).lane with pll := .off } }), ints := s.ints.map intHeld,
    pwr := { s.pwr with state := target, transition := none, corePll := .off, hostPll := Vector.replicate 2 .off,
                        bias := (s.regWord .PWR_BIAS 0 0).setWidth 7,
                        coreOn := decide (target ≠ .sleep), pfwActive := s.pwr.pfwActive && decide (target ≠ .sleep) } }

theorem entryDone_standby {s : State} {wake : Option Nat} (quiet : pulsing s.cfg = false) (supplied : s.pwr.coreOk = true)
    (entry : s.pwr.transition = some (.entry .standby wake)) :
    entryDone s = if wake.isSome then startExit .standby false (entryEnded .standby s) else entryEnded .standby s := by
  unfold entryDone
  rw [entry]
  dsimp only
  rw [if_neg (by simp [quiet]), watched_quiet, if_neg (show ¬ PowerState.standby = .sleep by decide)]
  · rfl
  · exact .inl rfl
  · exact .inl supplied

/-- SLEEP loses the time: without SYNC no event follows (R288). -/
theorem withTimeSync_unsync {s : State} (unsync : s.timeSync = false) :
    withTimeSync (fun t => { t with tim := { t.tim with unsync := true } }) s = { s with tim := { s.tim with unsync := true } } := by
  have now : ({ s with tim := { s.tim with unsync := true } } : State).timeSync = false := by simp [State.timeSync]
  unfold withTimeSync
  dsimp only
  rw [now, unsync]
  rfl

theorem entryDone_sleep {s : State} {wake : Option Nat} (quiet : pulsing s.cfg = false) (unsync : s.timeSync = false)
    (entry : s.pwr.transition = some (.entry .sleep wake)) :
    entryDone s =
      (let asleep : State := { entryEnded .sleep s with tim := { s.tim with unsync := true } }
       if wake.isSome then { asleep with pwr := { asleep.pwr with transition := some (.exit .sleep false), coreOn := true } }
       else asleep) := by
  unfold entryDone
  rw [entry]
  dsimp only
  rw [if_neg (by simp [quiet]), watched_quiet, if_pos (show PowerState.sleep = .sleep from rfl), withTimeSync_unsync]
  · rfl
  · exact unsync
  · exact .inr rfl
  · exact .inr rfl

theorem entryDone_stays {s : State} (stays : pulsing s.cfg = true ∨ s.pwr.transition = none) : entryDone s = s := by
  unfold entryDone
  split
  · rename_i entry
    exact if_pos (stays.resolve_right (by simp [entry]))
  · rfl

/-! ## The end of an exit -/

/-- The state an exit from STANDBY ends in, before REFCLK is looked at (R297). -/
def standbyExited (doze : Bool) (s : State) : State :=
  { s with pwr := { s.pwr with state := if doze then .doze else .active, transition := none,
                               bias := if doze then (s.regWord .PWR_BIAS 0 0).setWidth 7 else s.pwr.bias } }

theorem standbyExited_state (doze : Bool) (s : State) :
    (standbyExited doze s).pwr.state = .active ∨ (standbyExited doze s).pwr.state = .doze := by
  cases doze
  · exact .inl rfl
  · exact .inr rfl

theorem exitDone_standby {s : State} {doze : Bool} (exit_ : s.pwr.transition = some (.exit .standby doze)) :
    exitDone s = allPorts.foldl (fun t p => startTraining p t) (watchRefclk (standbyExited doze s)) := by
  unfold exitDone
  rw [exit_]
  cases doze <;> rfl

/-- In Muzzle no port trains. -/
theorem startTraining_muzzled {p : NetPort} {s : State} (muzzle : s.flt.muzzle = true) : startTraining p s = s :=
  if_pos (by simp [State.routerRuns, State.coreRuns, muzzle])

theorem trainAll_muzzled : ∀ (l : List NetPort) {s : State}, s.flt.muzzle = true → l.foldl (fun t p => startTraining p t) s = s := by
  intro l
  induction l with
  | nil => intro s _; rfl
  | cons p l ih =>
    intro s muzzle
    rw [List.foldl_cons, startTraining_muzzled muzzle]
    exact ih muzzle

theorem exitDone_sleep {s : State} {doze : Bool} (exit_ : s.pwr.transition = some (.exit .sleep doze))
    (no : s.flt.muzzle = false ∨ s.flag F.FLT_CTL_ESC_RESET = false) : exitDone s = watchSupply (holdC 9 0#8 false false s) := by
  unfold exitDone
  rw [exit_]
  refine if_neg ?_
  rcases no with h | h <;> simp [h]

theorem exitDone_escalates {s : State} {doze : Bool} (exit_ : s.pwr.transition = some (.exit .sleep doze))
    (muzzle : s.flt.muzzle = true) (esc : s.flag F.FLT_CTL_ESC_RESET = true) (clock : s.pwr.refclk = true) (supplied : s.pwr.coreOk = true) :
    exitDone s = linesQuiet { s with locks := Vector.replicate 256 lockReset, pwr := { s.pwr with state := .active, transition := none } } := by
  unfold exitDone
  rw [exit_]
  refine (if_pos (by simp [muzzle, esc])).trans ?_
  rw [watchRefclk_clocked, watchSupply_good]
  · rfl
  · exact .inl supplied
  · exact clock

/-- The C reset of an exit from SLEEP clears the core domains and starts the lock array anew (R297, R340). -/
theorem holdC_exit (s : State) :
    let t := watchSupply (holdC 9 0#8 false false s)
    t.rst.cHeld = true ∧ t.image = none ∧ t.pwr.state = .active ∧ t.pwr.transition = none ∧ t.locks = Vector.replicate 256 lockReset := by
  intro t
  let c := clearedC 9 (recordedC 9 0#8 false false s)
  have eq : t = watchSupply (watchRefclk c) := rfl
  have still : (watchSupply (watchRefclk c)).still = c.still := (watchSupply_still _).trans (watchRefclk_still c)
  obtain ⟨state, transition⟩ := watchSupply_pwr (watchRefclk c)
  obtain ⟨state', transition'⟩ := watchRefclk_pwr c
  rw [eq]
  refine ⟨?_, image_of_still still, state.trans state', transition.trans transition', (locks_of_still still).trans rfl⟩
  rw [rst_of_still still]
  rfl

/-! ## Wakes -/

theorem wakeEvent_sleep {k : Nat} {s : State} (enabled : (s.fget F.PWR_WAKE_EN_EN).testBit k = true) (on : s.rst.pHeld = false)
    (idle : s.pwr.transition = none) (state : s.pwr.state = .sleep) :
    wakeEvent k false s = startExit .sleep false (recordWakeFrom k false .sleep s) := by
  unfold wakeEvent
  rw [if_neg (by simp [wakeEnabled, enabled, on])]
  dsimp only
  rw [idle, state]
  rfl

theorem wakeEvent_standby {k : Nat} {s : State} (enabled : (s.fget F.PWR_WAKE_EN_EN).testBit k = true) (wakes : wakesStandby k = true)
    (on : s.rst.pHeld = false) (idle : s.pwr.transition = none) (state : s.pwr.state = .standby) :
    wakeEvent k false s = startExit .standby false (recordWakeFrom k false .standby s) := by
  unfold wakeEvent
  rw [if_neg (by simp [wakeEnabled, enabled, on])]
  dsimp only
  rw [idle, state, wakes]
  rfl

theorem wakeEvent_awake {k : Nat} {s : State} (idle : s.pwr.transition = none) (state : s.pwr.state = .active ∨ s.pwr.state = .doze) :
    wakeEvent k false s = s := by
  unfold wakeEvent
  split
  · rfl
  · dsimp only
    rw [idle]
    rcases state with state | state <;> rw [state] <;> rfl

theorem wakeEvent_no {k : Nat} {doze : Bool} {s : State} (small : k < 7)
    (no : s.rst.pHeld = true ∨ (s.fget F.PWR_WAKE_EN_EN).testBit k = false) : wakeEvent k doze s = s := by
  refine if_pos ?_
  rcases no with h | h
  · simp [h]
  · simp [wakeEnabled, h, small]

theorem timerDone_runs {s : State} (runs : s.fget F.AON_TIMER_TICKS ≠ 0) :
    timerDone s = wakeEvent 2 false (s.fset F.AON_TIMER_TICKS 0) := if_neg runs

theorem wakeEn_timer (s : State) : (s.fset F.AON_TIMER_TICKS 0).fget F.PWR_WAKE_EN_EN = s.fget F.PWR_WAKE_EN_EN :=
  fget_fset_other _ _ _ _ _ _ _ _ (by decide)

theorem startExit_standby {s : State} (noMuzzle : s.flt.muzzle = false) :
    (startExit .standby false s).pwr.corePll = .starting ∧ ∀ p, ((startExit .standby false s).port p).lane.pll = .starting := by
  unfold startExit
  dsimp only
  rw [if_pos (by simp [noMuzzle])]
  exact ⟨rfl, fun p => startLanePlls_pll _ p⟩

theorem startExit_standby_keeps (s : State) : (startExit .standby false s).pwr.transition = some (.exit .standby false) ∧
    (startExit .standby false s).regWord .PWR_WAKE_SRC 0 0 = s.regWord .PWR_WAKE_SRC 0 0 := by
  unfold startExit
  dsimp only
  split <;> exact ⟨rfl, rfl⟩

/-! ## The retained SRAM -/

/-- An access steps the address where AUTO_INC says so (R302). -/
def rsramStepped (s u : State) : State :=
  if s.flag F.AON_RSRAM_ADDR_AUTO_INC then u.fset F.AON_RSRAM_ADDR_ADDR (s.fget F.AON_RSRAM_ADDR_ADDR + 1) else u

theorem exec_rsramWrite (mid : Mid) (v : Word) {s : State} (on : s.rst.pHeld = false) : exec (.rsramDataAccess mid (some v)) s =
    .next (rsramStepped s { s with pwr := { s.pwr with
      rsram := ramWrite s.pwr.rsram (8 * s.fget F.AON_RSRAM_ADDR_ADDR) (leBytes 8 v.toNat) } }) :=
  congrArg Host.Outcome.next ((write_rsram on).trans (rsram_write s v))

theorem exec_rsramRead (mid : Mid) {s : State} (on : s.rst.pHeld = false) : exec (.rsramDataAccess mid none) s =
    .next ((rsramStepped s s).emit (.regRead mid (BitVec.ofNat 24 (regAddr .AON_RSRAM_DATA 0 0))
      (BitVec.ofNat 64 (leNat (ramRead s.pwr.rsram (8 * s.fget F.AON_RSRAM_ADDR_ADDR) 8))))) := by
  refine congrArg Host.Outcome.next ?_
  show (readReg mid _ s).1.emit (.regRead mid _ (readReg mid _ s).2) = _
  rw [read_rsram on]
  rfl

/-- Settles O34, along an entry, an exit, the wakes and the retained SRAM. -/
theorem wakeAndWhistle : Obligations.WakeAndWhistle := by
  unfold Obligations.WakeAndWhistle
  intro s source laid woken quiet ended
  refine ⟨fun still => ⟨fun supplied => ⟨fun entry => ?_, fun k entry => ?_⟩, fun unsync => ?_⟩,
    fun stays => congrArg Host.Outcome.next (entryDone_stays stays), fun none => ?_, fun doze exit_ clock => ?_, fun doze exit_ lost low => ?_,
    fun doze exit_ no => ?_, fun doze exit_ muzzle esc clock supplied => ?_, fun on idle => ⟨fun state => ⟨fun en => ?_, fun en runs => ?_⟩,
      fun state en => ?_, fun state => congrArg Host.Outcome.next (wakeEvent_awake idle state)⟩,
    fun no => congrArg Host.Outcome.next (wakeEvent_no (by decide) no), fun zero => congrArg Host.Outcome.next (if_pos zero),
    fun runs no => ?_, fun state idle => ⟨fun clock => ?_, fun lost => ?_⟩, fun awake => congrArg Host.Outcome.next (if_pos (by simp [awake])),
    rfl, fun on mid => ⟨fun v => exec_rsramWrite mid v on, exec_rsramRead mid on⟩⟩
  · exact congrArg Host.Outcome.next (entryDone_standby still supplied entry)
  · exact congrArg Host.Outcome.next (entryDone_standby still supplied entry)
  · exact ⟨fun entry => congrArg Host.Outcome.next (entryDone_sleep still unsync entry),
      fun k entry => congrArg Host.Outcome.next (entryDone_sleep still unsync entry)⟩
  · refine congrArg Host.Outcome.next ?_
    show exitDone s = s
    unfold exitDone
    rw [none]
  · refine congrArg Host.Outcome.next ((exitDone_standby exit_).trans ?_)
    rw [watchRefclk_clocked (s := standbyExited doze s) clock]
    rfl
  · have eq := exitDone_standby exit_
    rw [watchRefclk_rises (s := standbyExited doze s) lost (standbyExited_state doze s) low] at eq
    obtain ⟨muzzle, -, transition⟩ := raiseFault_low (n := 2) (by decide) (lineRaised 2 (standbyExited doze s))
    exact ⟨_, congrArg Host.Outcome.next (eq.trans (trainAll_muzzled allPorts muzzle)), muzzle, transition⟩
  · have eq := exitDone_sleep exit_ no
    exact ⟨congrArg Host.Outcome.next eq, _, congrArg Host.Outcome.next eq, holdC_exit s⟩
  · exact congrArg Host.Outcome.next (exitDone_escalates exit_ muzzle esc clock supplied)
  · exact congrArg Host.Outcome.next (wakeEvent_sleep en on idle state)
  · exact congrArg Host.Outcome.next ((timerDone_runs runs).trans (wakeEvent_sleep (by rw [wakeEn_timer]; exact en) on idle state))
  · have eq := wakeEvent_standby en rfl on idle state
    obtain ⟨transition, recorded⟩ := startExit_standby_keeps (recordWakeFrom 0 false .standby s)
    refine ⟨_, congrArg Host.Outcome.next eq, transition, recorded.trans ?_, fun noMuzzle => startExit_standby noMuzzle⟩
    unfold recordWakeFrom
    rw [regWord_setWord]
    rfl
  · exact congrArg Host.Outcome.next ((timerDone_runs runs).trans (wakeEvent_no (by decide) (by rw [wakeEn_timer]; exact no)))
  · exact congrArg Host.Outcome.next ((if_neg (by simp [state, idle])).trans (if_pos clock))
  · exact congrArg Host.Outcome.next ((if_neg (by simp [state, idle])).trans (if_neg (by simp [lost])))

end Sys2Proof.Proofs

namespace Sys2Proof.Proofs

open Sys2Proof.Machine Sys2Proof.Laws

/-! # Core cycles, discards and the bounce (R23, R112, R129, R130, R356)

The settlement of O38. -/

/-! ## A core cycle -/

theorem coreCycle_stopped {s : State} (nic : (countCycles s).nicRuns = false) (router : (countCycles s).routerRuns = false) :
    coreCycle s = countCycles s := by
  unfold coreCycle
  dsimp only
  rw [nic, if_neg Bool.false_ne_true, router]
  rfl

theorem agentCycle_stopped {s : State} (router : s.routerRuns = false) : agentCycle s = s :=
  if_pos (by simp [State.agentWorks, router])

theorem engineSlots_stopped {s : State} (nic : s.nicRuns = false) : engineSlots s = s := if_pos (by simp [nic])

/-- Each host port's replacement register steps (R199). -/
def lfsrStepped (s : State) : State :=
  { s with hosts := s.hosts.map (fun h => { h with xlt := { h.xlt with lfsr := lfsrStep h.xlt.lfsr } }) }

theorem coreCycle_runs {s : State} (nic : (countCycles s).nicRuns = true) (router : (lfsrStepped (countCycles s)).routerRuns = true) :
    coreCycle s = allPorts.foldl (fun t p => transmit p t) (allocatorStep (rtrHalted (lfsrStepped (countCycles s)))
      (finishLeaving (tickPorts (lfsrStepped (countCycles s))))) := by
  unfold coreCycle
  dsimp only
  rw [nic]
  exact if_pos router

theorem agentCycle_next {s : State} {a b : Packet} {rest : List Packet} (works : s.agentWorks = true) (queue : s.agent = a :: b :: rest) :
    agentCycle s = agentServe b { s with agent := b :: rest } := by
  unfold agentCycle
  rw [if_neg (by simp [works]), queue]
  rfl

theorem agentCycle_last {s : State} {a : Packet} (works : s.agentWorks = true) (queue : s.agent = [a]) :
    agentCycle s = { s with agent := [] } := by
  unfold agentCycle
  rw [if_neg (by simp [works]), queue]
  rfl

/-! ## Discards -/

section
variable {s : State} {x : XbarPort} {c : Cand}

theorem dwellEvent_none (none : presentedCand s x = none) : dwellEvent x s = s := by
  unfold dwellEvent
  rw [none]

theorem ageEvent_none (none : presentedCand s x = none) : ageEvent x s = s := by
  unfold ageEvent
  rw [none]

variable (shown : presentedCand s x = some c)
include shown

theorem dwellEvent_some : dwellEvent x s = if !c.fresh && c.item.whole && decide (dwellMax s ≤ c.item.dwell) &&
    (freeOf s (rtrHalted s) [] c ((List.range 64).filter (roleIn s))).isEmpty then discardDwell c s else s := by
  unfold dwellEvent
  rw [shown]

theorem ageEvent_some : ageEvent x s = if !c.fresh && decide (ageLimit s < inAge s c.item) then discardAge c s else s := by
  unfold ageEvent
  rw [shown]

end

/-! ## The bounce -/

/-- The packets a bounce counts and captures first (R23, R356). -/
def bounceCounted (ip : IntPort) (e : InPacket) (s : State) : State :=
  let pkt := pktSetBounced (pktSetAge e.pkt (inAge s e))
  let s := pmcAdd 68 2 1 (pmcClass (64 + ip.val) 2 (crossCycles pkt) e.tc (pmcAdd (64 + ip.val) 0x19 1 s))
  capture [{ point := 5, port := 64 + ip.val, cause := 0, dwell := 0, pkt := pkt }] s

theorem bounceCounted_keeps (ip : IntPort) (e : InPacket) (s : State) :
    (bounceCounted ip e s).ints = s.ints ∧ (bounceCounted ip e s).ports = s.ports ∧ (bounceCounted ip e s).clock = s.clock ∧
      (bounceCounted ip e s).rtr = s.rtr ∧ (bounceCounted ip e s).hosts = s.hosts := by
  have parts : intParts (bounceCounted ip e s) = intParts s := by
    unfold bounceCounted
    rw [capture_ip, pmcAdd_ip, pmcClass_ip, pmcAdd_ip]
  have far : farParts (bounceCounted ip e s) = farParts s := by
    unfold bounceCounted
    rw [capture_far, pmcAdd_far, pmcClass_far, pmcAdd_far]
  have still : (bounceCounted ip e s).still = s.still := by
    unfold bounceCounted
    rw [capture_still, pmcAdd_still, pmcClass_still, pmcAdd_still]
  exact ⟨congrArg Prod.fst parts, congrArg Prod.snd parts, congrArg (fun x => x.2.2.2.2.2.2.2.2.2.2.1) still,
    congrArg (fun f => f.2.2.2.1) far, congrArg (fun f => f.2.2.1) far⟩

theorem bounce_head {ip : IntPort} {e : InPacket} {es : List InPacket} {s : State} (head : s.ints[ip].eject = e :: es) :
    bounce ip s = (bounceCounted ip e s).modInt ip (fun q => { q with eject := q.eject.drop 1, bounced := q.bounced ++
      [{ e with pkt := pktSetBounced (pktSetAge e.pkt (inAge s e)), arrived := (bounceCounted ip e s).clock, bounced := true, dwell := 0 }] }) := by
  unfold bounce
  rw [head]
  rfl

/-- Settles O38. -/
theorem routerCycles : Obligations.RouterCycles := by
  unfold Obligations.RouterCycles
  intro s
  refine ⟨fun _ _ nic router => ?_, ?_, fun works => ⟨fun a b rest => agentCycle_next works, fun a => agentCycle_last works⟩,
    fun x c shown transit => ⟨fun whole due noFree => ?_, fun early => ?_, fun old => ?_, fun young => ?_⟩,
    fun x none => ⟨congrArg Host.Outcome.next (dwellEvent_none none), congrArg Host.Outcome.next (ageEvent_none none)⟩,
    fun ip empty => ?_, fun ip e es head => ?_⟩
  · refine congrArg Host.Outcome.next ?_
    show engineSlots (agentCycle (coreCycle s)) = _
    rw [coreCycle_stopped nic router, agentCycle_stopped router, engineSlots_stopped nic]
  · intro u v nic router
    refine congrArg Host.Outcome.next ?_
    show engineSlots (agentCycle (coreCycle s)) = _
    rw [coreCycle_runs nic router]
    rfl
  · exact congrArg Host.Outcome.next ((dwellEvent_some shown).trans (if_pos (by simp [transit, whole, due, noFree])))
  · exact congrArg Host.Outcome.next ((dwellEvent_some shown).trans (if_neg (by simp [Nat.not_le.mpr early])))
  · exact congrArg Host.Outcome.next ((ageEvent_some shown).trans (if_pos (by simp [transit, old])))
  · exact congrArg Host.Outcome.next ((ageEvent_some shown).trans (if_neg (by simp [Nat.not_lt.mpr young])))
  · refine congrArg Host.Outcome.next ?_
    show bounce ip s = s
    unfold bounce
    rw [empty]
  · intro pkt
    obtain ⟨ints, ports, clock, rtr, hosts⟩ := bounceCounted_keeps ip e s
    refine ⟨_, congrArg Host.Outcome.next (bounce_head head), ?_, ?_, fun q ne => ?_, ports, rtr, hosts⟩
    · rw [modInt_same, ints, head]
      rfl
    · rw [modInt_same, ints, clock]
    · rw [modInt_other _ _ _ _ ne, ints]

end Sys2Proof.Proofs

namespace Sys2Proof.Proofs

open Sys2Proof.Machine Sys2Proof.Laws

/-! # Training, sleep and lane errors (R44, R50 to R68)

The settlements of O26, O27 and O28. -/

/-! ## Training -/

/-- Bit `j` of a mask summed lane by lane tells what the test says of lane `n + j`. -/
theorem laneBits_sum (f : Nat → LaneCheck → Bool) : ∀ (l : List LaneCheck) (n : Nat),
    ∃ r, ((l.zipIdx n).map (fun e => 2 ^ e.2 * b2n (f e.2 e.1))).sum = 2 ^ n * r ∧
      ∀ j c, l[j]? = some c → r.testBit j = f (n + j) c := by
  intro l
  induction l with
  | nil => intro n; exact ⟨0, rfl, fun j c some => by simp at some⟩
  | cons d l ih =>
    intro n
    obtain ⟨r, sum, bits⟩ := ih (n + 1)
    refine ⟨b2n (f n d) + 2 * r, ?_, fun j c some => ?_⟩
    · rw [List.zipIdx_cons, List.map_cons, List.sum_cons, sum]
      ring
    · cases j with
      | zero =>
        rw [List.getElem?_cons_zero, Option.some_inj] at some
        rw [some, Nat.testBit_zero, Nat.add_zero]
        cases f n c <;> simp [b2n]
      | succ j =>
        rw [List.getElem?_cons_succ] at some
        have half : (b2n (f n d) + 2 * r) / 2 = r := by
          have bit : b2n (f n d) < 2 := by cases f n d <;> decide
          omega
        rw [Nat.testBit_succ, half, bits j c some]
        congr 1
        omega

theorem laneMask_bit (f : Nat → LaneCheck → Bool) {cs : List LaneCheck} {k : Nat} {c : LaneCheck} (lt : k < 16) (at_ : cs[k]? = some c) :
    (laneMask f cs).testBit k = f k c := by
  obtain ⟨r, sum, bits⟩ := laneBits_sum f (cs.take 16) 0
  have taken : (cs.take 16)[k]? = some c := by rw [List.getElem?_take, if_pos lt]; exact at_
  unfold laneMask
  rw [sum, Nat.pow_zero, Nat.one_mul, bits k c taken, Nat.zero_add]

/-- The state a new attempt starts from at a rate code: step 1 of R56, with TS1 sets on all lanes. -/
def Started (s : State) (p : NetPort) (r : Nat) (t : State) : Prop :=
  laneFace (t.port p).lane = laneFace { (s.port p).lane with
    phase := .eq, rate := r, rxMask := 0, partnerMask := 0, amplitude := (laneSetupOf s p).1, emphasis := (laneSetupOf s p).2, calUsed := s.cfg.calValid } ∧
  (∃ sent, t.out = (s.emit (.ordered p (.ts1 r) sent)).out) ∧ (t.port p).link = (s.port p).link ∧
  (∀ q, q ≠ p → t.port q = s.port q) ∧ t.still = s.still ∧ t.regs = s.regs

theorem sendSetOn_link (p : NetPort) (mask : Nat) (o : OrderedSet) (s : State) : ((sendSetOn p mask o s).port p).link = (s.port p).link := by
  unfold sendSetOn
  rw [modLane_port_same]
  rfl

theorem sendSetOn_other {p q : NetPort} (mask : Nat) (o : OrderedSet) (s : State) (ne : q ≠ p) : (sendSetOn p mask o s).port q = s.port q := by
  unfold sendSetOn
  rw [modLane_port_other _ _ _ _ ne]
  rfl

/-- The lane of a port after a set, its disparity apart. -/
theorem sendSetOn_lane (p : NetPort) (mask : Nat) (o : OrderedSet) (s : State) :
    ∃ rd, ((sendSetOn p mask o s).port p).lane = { (s.port p).lane with txRd := rd } := by
  unfold sendSetOn
  rw [modLane_port_same]
  exact ⟨_, rfl⟩

theorem startAttempt_started (p : NetPort) (r : Nat) (s : State) : Started s p r (startAttempt p r s) := by
  unfold startAttempt
  dsimp only
  refine ⟨?_, ⟨_, rfl⟩, ?_, fun q ne => ?_, ?_, rfl⟩
  · obtain ⟨rd, lane⟩ := sendSetOn_lane p 0xFFFF (.ts1 r) (s.modLane p (fun l =>
      { l with phase := .eq, rate := r, rxMask := 0, partnerMask := 0, txRd := 0#16, amplitude := (laneSetupOf s p).1,
               emphasis := (laneSetupOf s p).2, calUsed := s.cfg.calValid }))
    rw [lane, modLane_port_same]
    rfl
  · rw [sendSetOn_link, modLane_port_same]
  · rw [sendSetOn_other _ _ _ ne, modLane_port_other _ _ _ _ ne]
  · rw [sendSetOn_still, modLane_still]

theorem clockCheck_agrees {p : NetPort} {khz : Nat} {s : State} (waits : (s.port p).lane.phase = .waitClock)
    (agrees : clockAgrees (trainRate s p) khz = true) : clockCheck p khz s = startAttempt p (trainRate s p) s :=
  (if_neg (not_not_intro waits)).trans (if_pos agrees)

theorem clockCheck_differs {p : NetPort} {khz : Nat} {s : State} (waits : (s.port p).lane.phase = .waitClock)
    (differs : clockAgrees (trainRate s p) khz = false) :
    clockCheck p khz s = s.modLane p (fun l => { l with fail := 1, rate := trainRate s p }) :=
  (if_neg (not_not_intro waits)).trans (if_neg (by simp [differs]))

theorem trainFail_running {p : NetPort} {s : State} (cause : TrainCause)
    (attempt : (s.port p).lane.phase = .eq ∨ (s.port p).lane.phase = .align ∨ (s.port p).lane.phase = .exchange) :
    trainFail p cause s = (s.finc F.LAN_ERR_TRAIN_FAIL 1 p.val).modLane p (fun l => { l with phase := .retry, fail := trainCode cause }) :=
  if_pos ((training_iff _).mpr attempt)

theorem trainStep_idle {p : NetPort} {s : State} (r : TrainResult)
    (none : ¬ ((s.port p).lane.phase = .eq ∨ (s.port p).lane.phase = .align ∨ (s.port p).lane.phase = .exchange)) : trainStep p r s = s := by
  rw [not_or, not_or] at none
  obtain ⟨notEq, notAlign, notExchange⟩ := none
  unfold trainStep
  split
  · exact absurd ‹_› notEq
  · exact absurd ‹_› notAlign
  · exact absurd ‹_› notExchange
  · rfl

theorem trainStep_deskewed {p : NetPort} {s : State} (cs : List LaneCheck) (align : (s.port p).lane.phase = .align) :
    trainStep p (.deskewed cs) s = trainDeskewed p cs s := by
  unfold trainStep
  rw [align]

theorem trainStep_exchanged {p : NetPort} {s : State} (mask : BitVec 16) (w : Fin 3) (g : Fin 4)
    (exchange : (s.port p).lane.phase = .exchange) : trainStep p (.exchanged mask w g) s = trainExchanged p mask.toNat w.val g.val s := by
  unfold trainStep
  rw [exchange]

/-- A plain write of LAN_CTL leaves the mode it writes (R6, R68). -/
theorem writePlain_lanCtl_mode (p : NetPort) (v : Word) (s : State) :
    (writePlain .LAN_CTL p.val 0 v s).fget F.LAN_CTL_MODE p.val = fieldOf v 7 6 := by
  obtain ⟨w, wrote, fields⟩ := writePlain_fields .LAN_CTL p.val 0 v s s rfl
  rw [wrote, show (s.setWord .LAN_CTL w p.val 0).fget F.LAN_CTL_MODE p.val = fieldOf w 7 6 from fget_setWord s F.LAN_CTL_MODE w p.val 0]
  exact fields ⟨7, 6, .rw, .derived [.P, .C, .T], .immediate⟩ (by simp [regFields])

theorem startTraining_waits {p : NetPort} {s : State} (run : s.routerRuns = true) (role : s.role p ≠ .disabled)
    (free : (s.port p).lane.stopped = false) (pll : (s.port p).lane.pll = .running) (present : modulePresent s p = true)
    (mode : s.fget F.LAN_CTL_MODE p.val = 0) : startTraining p s = s.modLane p (fun l =>
      { l with phase := .waitClock, rate := trainRate s p, rxMask := 0, partnerMask := 0, cmpSync := false }) := by
  unfold startTraining
  dsimp only
  rw [if_neg (by simp [run, role, free]), if_neg (by simp [present]), if_neg (by simp [pll, mode]), if_pos mode]

/-- A write that leaves HOLD starts training (R68). -/
theorem lanCtlWrite_leavesHold {p : NetPort} {v : Word} {s : State} (held : s.fget F.LAN_CTL_MODE p.val = 2) (mode : fieldOf v 7 6 = 0)
    (noRetrain : bitOf v 32 = false) (off : (s.port p).lane.phase = .off) :
    lanCtlWrite p v s = startTraining p (writePlain .LAN_CTL p.val 0 v s) := by
  unfold lanCtlWrite
  dsimp only
  have port : (writePlain .LAN_CTL p.val 0 v s).port p = s.port p := rfl
  have notUp : ¬ (fieldOf (s.regWord .LAN_CTL p.val 0) 5 2 ≠ fieldOf v 5 2 ∧
      ((writePlain .LAN_CTL p.val 0 v s).port p).lane.phase = .up) := fun h => by rw [port, off] at h; exact nomatch h.2
  rw [if_neg notUp, noRetrain, if_neg Bool.false_ne_true]
  refine if_pos ⟨held, ?_, ?_⟩
  · rw [mode]; decide
  · rw [port]; exact off

theorem clockAgrees_iff (rate khz : Nat) : clockAgrees rate khz = true ↔
    (max (2 * khz) (clock2Khz rate) - min (2 * khz) (clock2Khz rate)) * 1000 ≤ clock2Khz rate := decide_eq_true_iff

/-- Settles O26, along the steps of R56. -/
theorem training : Obligations.Training := by
  unfold Obligations.Training
  intro s p l attempt rate nominal failed started
  refine ⟨fun khz waits near => ?_, fun khz waits far => ?_,
    fun run => ⟨congrArg Host.Outcome.next (trainFail_running .noGroup run), congrArg Host.Outcome.next (trainFail_running .exchange run),
      congrArg Host.Outcome.next (trainFail_running .partnerIdle run)⟩,
    fun none => ⟨fun c => congrArg Host.Outcome.next (if_neg (fun h => none ((training_iff _).mp h))),
      fun r => congrArg Host.Outcome.next (trainStep_idle r none)⟩,
    fun retry => ⟨_, congrArg Host.Outcome.next (if_pos retry), startAttempt_started p l.rate s⟩, fun eq => ?_, fun checks align => ?_,
    fun mask rw rg exchange => ?_, fun mid v run role held mode noRetrain off free pll present => ?_⟩
  · exact ⟨_, congrArg Host.Outcome.next (clockCheck_agrees waits ((clockAgrees_iff _ _).mpr near)), startAttempt_started p rate s⟩
  · have differs : clockAgrees rate khz = false := Bool.eq_false_iff.mpr (fun h => absurd ((clockAgrees_iff _ _).mp h) (Nat.not_le.mpr far))
    exact congrArg Host.Outcome.next (clockCheck_differs waits differs)
  · refine congrArg Host.Outcome.next ?_
    show trainStep p .equalized s = _
    unfold trainStep
    rw [show (s.port p).lane.phase = .eq from eq]
  · refine ⟨_, congrArg Host.Outcome.next (trainStep_deskewed checks align), ?_⟩
    unfold trainDeskewed
    dsimp only
    generalize hu : s.modLane p _ = u
    have lane : (u.port p).lane = { l with
        phase := .exchange, rxMask := laneMask laneGood checks,
        reversed := BitVec.ofNat 16 (laneMask (fun _ c => c.reversed) checks),
        rxRd := BitVec.ofNat 16 (laneMask (fun _ c => rdAfterGroup (laneComma c) false) checks) } := by
      rw [← hu, modLane_port_same]
    have out : u.out = s.out := by rw [← hu]; rfl
    have mask : ((sendSetOn p 0xFFFF (.ts2 (laneMask laneGood checks) 16) u).port p).lane.rxMask = laneMask laneGood checks := by
      obtain ⟨rd, sent⟩ := sendSetOn_lane p 0xFFFF (.ts2 (laneMask laneGood checks) 16) u
      rw [sent, lane]
    obtain ⟨rd, sent⟩ := sendSetOn_lane p 0xFFFF (.ts2 (laneMask laneGood checks) 16) u
    refine ⟨by rw [sent, lane], fun k c lt at_ => ⟨?_, ?_⟩, ⟨(codeLanes u p 0xFFFF (orderedChars (.ts2 (laneMask laneGood checks) 16))).1, ?_⟩,
      fun q ne => ?_, ?_, ?_⟩
    · rw [mask, laneMask_bit _ lt at_]
    · rw [sent, lane, BitVec.getLsbD_ofNat, laneMask_bit _ lt at_]
      simp [lt]
    · rw [mask, emit_out, ← out]
      rfl
    · rw [sendSetOn_other _ _ _ ne, ← hu, modLane_port_other _ _ _ _ ne]
    · rw [sendSetOn_still, ← hu, modLane_still]
    · rw [← hu]
      rfl
  · intro told
    have step := trainStep_exchanged mask rw rg exchange
    refine ⟨fun w g chosen => congrArg Host.Outcome.next (step.trans ?_), fun none => congrArg Host.Outcome.next (step.trans ?_)⟩
    · unfold trainExchanged
      dsimp only
      rw [modLane_fget, modLane_fget, chosen]
    · unfold trainExchanged
      dsimp only
      rw [modLane_fget, modLane_fget, none]
      refine trainFail_running .noGroup (.inr (.inr ?_))
      rw [modLane_port_same]
      exact exchange
  · let w := writePlain .LAN_CTL p.val 0 v s
    have wMode : w.fget F.LAN_CTL_MODE p.val = 0 := (writePlain_lanCtl_mode p v s).trans mode
    have train : startTraining p w = w.modLane p (fun l =>
        { l with phase := .waitClock, rate := trainRate w p, rxMask := 0, partnerMask := 0, cmpSync := false }) :=
      startTraining_waits run role free pll (show modulePresent s p = true by simp [modulePresent, present]) wMode
    refine ⟨_, congrArg Host.Outcome.next ((write_lan_ctl p run).trans ((if_neg role).trans
      ((lanCtlWrite_leavesHold held mode noRetrain off).trans train))), ?_, fun q ne => ?_, ?_, wMode, ?_⟩
    · rw [modLane_port_same]
    · rw [modLane_port_other _ _ _ _ ne]
      rfl
    · rw [modLane_still]
      exact setWord_still ..
    · exact regsBut_setWord s .LAN_CTL _ p.val 0 _ List.mem_cons_self

end Sys2Proof.Proofs

namespace Sys2Proof.Proofs

open Sys2Proof.Machine Sys2Proof.Laws

/-! # Lane sleep and lane errors (R51 to R54, R61 to R66)

The settlements of O27 and O28. -/

/-! ## Sleep and wake -/

theorem sleepDue_sleeps {p : NetPort} {s : State} (run : s.routerRuns = true) (up : (s.port p).lane.phase = .up)
    (awake : (s.port p).lane.txAsleep = false) (waking : (s.port p).lane.waking = 0) (adding : (s.port p).lane.adding = 0)
    (count : s.fget F.LAN_CTL_SLEEP_IDLE p.val ≠ 0) (idle : txIdle s p = true) (credits : creditsAwaited s p = false) :
    sleepDue p s = sleepTx p s := by
  unfold sleepDue
  have threshold : (sleepThreshold s p).isSome = true := by
    unfold sleepThreshold
    rw [if_neg count]
    rfl
  exact if_pos (by simp [run, up, awake, waking, adding, threshold, idle, credits])

theorem sleepDue_stays {p : NetPort} {s : State} (stays : (s.port p).lane.txAsleep = true ∨ (s.port p).lane.adding ≠ 0 ∨
    s.fget F.LAN_CTL_SLEEP_IDLE p.val = 0 ∨ txIdle s p = false ∨ creditsAwaited s p = true) : sleepDue p s = s := by
  refine if_neg ?_
  rcases stays with asleep | adding | off | busy | credits
  · simp [asleep]
  · simp [adding]
  · simp [sleepThreshold, off]
  · simp [busy]
  · simp [credits]

theorem modLane_link (p : NetPort) (f : LaneState → LaneState) (s : State) : ((s.modLane p f).port p).link = (s.port p).link := by
  rw [modLane_port_same]

theorem sendSet_link (p : NetPort) (o : OrderedSet) (s : State) : ((sendSet p o s).port p).link = (s.port p).link :=
  sendSetOn_link ..

theorem switchGroup_link (p : NetPort) (mask w g : Nat) (s : State) : ((switchGroup p mask w g s).port p).link = (s.port p).link := by
  unfold switchGroup
  dsimp only
  rw [modLane_link]
  split
  · rfl
  · rw [sendSetOn_link]

/-- A sleeping direction wakes with the sets `wakeLanes` sends, and an UP link refreshes its counts (R62, R86). -/
theorem wakeTx_asleep {p : NetPort} {s u : State} (asleep : (s.port p).lane.txAsleep = true) (lanes : wakeLanes p s = u)
    (link : (u.port p).link = (s.port p).link) :
    wakeTx p s = if (s.port p).link.phase = .up then
      sendRefresh p (u.modLane p (fun l => { l with txAsleep := false, waking := wakeCycles l.rate }))
    else u.modLane p (fun l => { l with txAsleep := false, waking := wakeCycles l.rate }) := by
  unfold wakeTx
  rw [if_pos asleep, lanes]
  dsimp only
  rw [modLane_link, link]

theorem wakeLanes_plain {p : NetPort} {s : State} (due : (s.port p).lane.widthDue = false) :
    wakeLanes p s = sendSet p (.wak (wakSets (s.port p).lane.rate)) s := by
  unfold wakeLanes
  dsimp only
  rw [due]
  rfl

theorem wakeLanes_refused {p : NetPort} {s : State} (due : (s.port p).lane.widthDue = true)
    (none : usableGroup (s.port p).lane.partnerMask (s.fget F.LAN_CTL_WIDTH p.val) (s.fget F.LAN_CTL_GROUP p.val) = none) :
    wakeLanes p s = refuseWidth p (sendSet p (.wak (wakSets (s.port p).lane.rate)) s) := by
  unfold wakeLanes
  dsimp only
  rw [due, none]
  rfl

theorem wakeLanes_widened {p : NetPort} {w g : Nat} {s : State} (due : (s.port p).lane.widthDue = true)
    (some : usableGroup (s.port p).lane.partnerMask (s.fget F.LAN_CTL_WIDTH p.val) (s.fget F.LAN_CTL_GROUP p.val) = some (w, g)) :
    wakeLanes p s = switchGroup p (txLanes (s.port p).lane ||| groupMask w g) w g
      (sendSetOn p (txLanes (s.port p).lane ||| groupMask w g) (.wak (wakSets (s.port p).lane.rate)) s) := by
  unfold wakeLanes
  dsimp only
  rw [due, some]
  rfl

theorem wakIn_asleep {p : NetPort} {n : Nat} {s : State} (run : s.routerRuns = true) (up : (s.port p).lane.phase = .up)
    (asleep : (s.port p).lane.rxAsleep = true) : wakIn p n s =
    if 4 ≤ n then s.modLane p (fun l => { l with rxAsleep := false, deaf := false, wakeFails := 0 }) else wakeFailed p s := by
  unfold wakIn
  dsimp only
  rw [if_neg (by simp [run, up]), if_pos asleep]

theorem wakIn_awake {p : NetPort} {n : Nat} {s : State} (run : s.routerRuns = true) (up : (s.port p).lane.phase = .up)
    (awake : (s.port p).lane.rxAsleep = false) : wakIn p n s =
    if (s.port p).lane.deaf = false then columnErrors p n s
    else if 4 ≤ n then s.modLane p (fun l => { l with deaf := false }) else columnErrors p (4 * n) s := by
  unfold wakIn
  dsimp only
  rw [if_neg (by simp [run, up]), if_neg (by simp [awake])]
  cases (s.port p).lane.deaf <;> rfl

/-- The third failed wake in a row resets the port (R63). -/
theorem wakeFailed_third {p : NetPort} {s : State} (third : 2 ≤ (s.port p).lane.wakeFails) (run : s.routerRuns = true) (role : s.role p ≠ .disabled)
    (np : noPromotion s) :
    laneFace ((wakeFailed p s).port p).lane = laneFace { laneStop (retryPll (s.port p).lane) with wakeFails := 0 } ∧
      ((wakeFailed p s).port p).link.phase = .down := by
  unfold wakeFailed
  dsimp only
  rw [if_pos (by omega)]
  have faces := (resetL_stops p 5 (cause := 4) false (s := s.finc F.LAN_ERR_WAKE_FAIL 1 p.val)
    (noPromotion_of_low (finc_low s F.LAN_ERR_WAKE_FAIL 1 p.val 0 (by decide)) rfl np) (by decide) run role).1 p
  rw [if_pos rfl] at faces
  have lane := congrArg (fun f : LaneState × LinkPhase => { f.1 with wakeFails := 0 }) faces
  have link := congrArg (fun f : LaneState × LinkPhase => f.2) faces
  rw [modLane_port_same]
  exact ⟨lane, link⟩

/-- Settles O27, along the operations of lane sleep. -/
theorem laneSleepAndWake : Obligations.LaneSleepAndWake := by
  unfold Obligations.LaneSleepAndWake
  intro s p run up l set wak woken asked
  refine ⟨fun awake waking adding count idle credits => congrArg Host.Outcome.next (sleepDue_sleeps run up awake waking adding count idle credits),
    fun stays => congrArg Host.Outcome.next (sleepDue_stays stays),
    fun awake hearing => congrArg Host.Outcome.next (setsIn_heard run up awake hearing),
    fun awake deaf => congrArg Host.Outcome.next (setsIn_deaf (receives_up run up awake) deaf),
    fun asleep => ?_, fun awake => ?_, fun n four asleep => ?_, fun n four awake deaf => ?_, fun n awake hearing => ?_,
    fun n few asleep fails => ?_, fun n few asleep fails role np => ?_, fun n awake deaf => ?_, fun n hearing => ?_⟩
  · have go : wakeAsked p s = wakeTx p s := if_pos (by simp [run, up])
    refine ⟨fun due => congrArg Host.Outcome.next (go.trans (wakeTx_asleep asleep (wakeLanes_plain due) ?_)),
      fun due none => congrArg Host.Outcome.next (go.trans (wakeTx_asleep asleep (wakeLanes_refused due none) ?_)),
      fun w g due some => congrArg Host.Outcome.next (go.trans (wakeTx_asleep asleep (wakeLanes_widened due some) ?_))⟩
    · rw [sendSet_link]
    · exact (modLane_link ..).trans (sendSet_link ..)
    · rw [switchGroup_link, sendSetOn_link]
  · refine congrArg Host.Outcome.next ((if_pos (by simp [run, up])).trans (if_neg ?_))
    simp [show (s.port p).lane.txAsleep = false from awake]
  · exact congrArg Host.Outcome.next ((wakIn_asleep run up asleep).trans (if_pos four))
  · refine congrArg Host.Outcome.next ((wakIn_awake run up awake).trans ((if_neg ?_).trans (if_pos four)))
    simp [show (s.port p).lane.deaf = true from deaf]
  · exact congrArg Host.Outcome.next ((wakIn_awake run up awake).trans (if_pos hearing))
  · refine congrArg Host.Outcome.next ((wakIn_asleep run up asleep).trans ((if_neg (by omega)).trans ?_))
    exact if_neg (fun third => absurd fails (Nat.not_lt.mpr (Nat.le_of_succ_le_succ third)))
  · exact ⟨_, congrArg Host.Outcome.next ((wakIn_asleep run up asleep).trans (if_neg (by omega))), wakeFailed_third fails run role np⟩
  · have reach : (receives s p && (s.port p).lane.deaf) = true := by
      rw [receives_up run up awake, show (s.port p).lane.deaf = true from deaf]; rfl
    have go : idlSetsIn p n s = if 4 ≤ n then s.modLane p (fun l => { l with deaf := false }) else columnErrors p (4 * n) s :=
      if_neg (by rw [reach]; decide)
    exact ⟨fun four => congrArg Host.Outcome.next (go.trans (if_pos four)), fun few => congrArg Host.Outcome.next (go.trans (if_neg (by omega)))⟩
  · refine congrArg Host.Outcome.next (if_pos ?_)
    simp [show (s.port p).lane.deaf = false from hearing]

/-! ## Errors of the lanes -/

theorem groupSource_lt (p : NetPort) : 56 + p.val / 8 < 64 := by omega

theorem faultClass_corrected (p : NetPort) : faultClass (56 + p.val / 8) ≠ 2 := by
  have lt : p.val / 8 < 8 := by omega
  interval_cases p.val / 8 <;> decide

/-- One code error on a lane counts on the lane and in CODE_ERR and reports the port's group (R52, R322). -/
theorem codeErrors_one {p : NetPort} (k : Nat) {s : State} (np : noPromotion s) :
    reportOnly ((s.finc ⟨if k < 8 then .LAN_LANE_ERR_LO else .LAN_LANE_ERR_HI, 8 * (k % 8) + 7, 8 * (k % 8)⟩ 1 p.val).finc
      F.LAN_ERR_CODE_ERR 1 p.val) (codeErrors p [(k, 1)] s) ∧
    ((codeErrors p [(k, 1)] s).fget F.FLT_STATUS_SRC).testBit (56 + p.val / 8) = true := by
  have np2 : noPromotion ((s.finc ⟨if k < 8 then .LAN_LANE_ERR_LO else .LAN_LANE_ERR_HI, 8 * (k % 8) + 7, 8 * (k % 8)⟩ 1 p.val).finc
      F.LAN_ERR_CODE_ERR 1 p.val) := by
    refine noPromotion_of_low ((finc_low _ _ _ _ _ (by decide)).trans (finc_low _ _ _ _ _ ?_)) rfl np
    dsimp only
    split <;> decide
  exact ⟨raiseFault_report _ _ np2 (faultClass_corrected p), raiseFaultBy_bit _ _ _ _ _ np2 (faultClass_corrected p) (groupSource_lt p)⟩

/-- Settles O28. -/
theorem laneErrors : Obligations.LaneErrors := by
  unfold Obligations.LaneErrors
  intro s p l
  refine ⟨fun e hears np => ?_, fun e deaf => ?_, fun history compliance pattern => congrArg Host.Outcome.next (if_pos ⟨compliance, pattern⟩),
    fun history not => congrArg Host.Outcome.next (if_neg not), fun bytes compliance sync => ?_, fun bytes not => ?_⟩
  · intro k g rd heard wrong r taken
    have go : codeErrorIn p e.lane e.turned e.group s =
        if heardError heard || (heardChar heard).any misplaced || (s.port p).lane.deaf then codeErrors p [(k, 1)] taken else taken :=
      if_neg (by simp [hears])
    refine ⟨fun bad => ⟨_, congrArg Host.Outcome.next (go.trans (if_pos (by simpa [wrong, or_assoc] using bad))), ?_⟩,
      fun good => congrArg Host.Outcome.next (go.trans (if_neg (by simpa [wrong, or_assoc] using good)))⟩
    exact codeErrors_one k (noPromotion_of_low rfl rfl np)
  · exact congrArg Host.Outcome.next (if_pos (by simp [deaf]))
  · intro checked lanes
    exact congrArg Host.Outcome.next (if_pos (by simp [show (s.port p).lane.phase = .compliance from compliance, show (s.port p).lane.cmpSync = true from sync]))
  · exact congrArg Host.Outcome.next (if_neg (by simpa using not))

end Sys2Proof.Proofs

namespace Sys2Proof.Proofs

open Sys2Proof.Machine Sys2Proof.Laws

/-! # Frames, control sets and admission (R70 to R92)

The settlements of O35, O36 and O37. -/

/-! ## Frames that arrive -/

theorem frameColsIn_heard {p : NetPort} {turned : BitVec 16} {groups : List (List (BitVec 10))} {tail : Bool} {s : State}
    (reach : receives s p = true) (hearing : (s.port p).lane.deaf = false) :
    frameColsIn p turned groups tail s = frameIn p (readFrame (s.port p).lane turned groups tail).bytes
      (readFrame (s.port p).lane turned groups tail).errs tail
      (s.modLane p (fun l => { l with rxRd := (readFrame (s.port p).lane turned groups tail).rd })) := by
  unfold frameColsIn
  dsimp only
  rw [if_neg (by simp [reach]), hearing]
  rfl

theorem frameIn_badHeader {p : NetPort} {bytes : Bytes} {errs : List (Nat × Nat)} {tail : Bool} {s : State}
    (crc : crc16 (bytes.take 6) ≠ leAt bytes 6 2) :
    frameIn p bytes errs tail s = linkError p ((codeErrors p errs s).finc F.LNK_ERR_HCRC_ERR 1 p.val) := if_pos crc

theorem frameIn_packet {p : NetPort} {bytes : Bytes} {errs : List (Nat × Nat)} {tail : Bool} {s : State}
    (crc : crc16 (bytes.take 6) = leAt bytes 6 2) (type : leAt bytes 0 2 / 4096 = 1) (hearing : (s.port p).lane.deaf = false) :
    frameIn p bytes errs tail s = packetFrame p bytes (errs.any (fun e => e.2 ≠ 0)) tail (codeErrors p errs s) := by
  unfold frameIn
  dsimp only
  rw [if_neg (not_not_intro crc), type, hearing, Bool.or_false]
  rfl

theorem frameIn_init {p : NetPort} {bytes : Bytes} {errs : List (Nat × Nat)} {s : State}
    (crc : crc16 (bytes.take 6) = leAt bytes 6 2) (type : leAt bytes 0 2 / 4096 = 2) (hearing : (s.port p).lane.deaf = false) :
    frameIn p bytes errs true s = initFrameIn p bytes (errs.any (fun e => e.2 ≠ 0)) (codeErrors p errs s) := by
  unfold frameIn
  dsimp only
  rw [if_neg (not_not_intro crc), type, hearing, Bool.or_false]
  rfl

/-- A PACKET frame's acknowledgement is acted on first (R76). -/
def frameAcked (p : NetPort) (bytes : Bytes) (s : State) : State :=
  if (leAt bytes 4 2).testBit 12 then processAck p (BitVec.ofNat 12 (leAt bytes 4 2)) s else s

/-- What becomes of a PACKET frame by its number once its acknowledgement has been acted on (R75, R77). -/
def frameJudged (p : NetPort) (bytes : Bytes) (bad tail : Bool) (u : State) : State :=
  let fseq := BitVec.ofNat 12 (leAt bytes 0 2)
  let len := leAt bytes 2 2 % 8192
  let tc := leAt bytes 2 2 / 8192
  let l := (u.port p).link
  let d := seqDist fseq l.rxNext
  let pkt := pktOfBytes ((bytes.drop 8).take len)
  if 1024 ≤ d && d ≤ 3072 then linkError p (u.finc F.LNK_ERR_SEQ_ERR 1 p.val)
  else if 3073 ≤ d || (tblGet fseq.toNat l.held).isSome then sendAck p (u.finc F.LNK_ERR_DUP 1 p.val)
  else if !tail then
    if d = 0 && !bad && l.arriving.isNone && stageRoom pkt tc l then
      releaseIn p tc pkt u.clock false true (u.modLink p (fun l =>
        { stageIn pkt tc l with arriving := some { tc := tc, pkt := pkt, dropped := false } }))
    else u
  else if bad || crc32 (bytes.take (8 + len)) != leAt bytes (8 + len) 4 then badFrame p fseq u
  else if !stageRoom pkt tc l then protocolError p u
  else acceptFrame p fseq d tc pkt u

theorem packetFrame_judged {p : NetPort} {bytes : Bytes} {bad tail : Bool} {s : State} (up : (s.port p).link.phase = .up)
    (still : ((frameAcked p bytes s).port p).link.phase = .up) :
    packetFrame p bytes bad tail s = frameJudged p bytes bad tail (frameAcked p bytes s) :=
  (if_neg (not_not_intro up)).trans (if_neg (not_not_intro still))

section
variable {p : NetPort} {bytes : Bytes} {bad tail : Bool} {u : State}

/-- How far a frame's number lies ahead of RX_NEXT (R75). -/
def frameDist (p : NetPort) (bytes : Bytes) (u : State) : Nat := seqDist (BitVec.ofNat 12 (leAt bytes 0 2)) (u.port p).link.rxNext

/-- A frame of the window that is not a duplicate (R75). -/
def FrameFresh (p : NetPort) (bytes : Bytes) (u : State) : Prop :=
  frameDist p bytes u < 1024 ∧ tblGet (BitVec.ofNat 12 (leAt bytes 0 2)).toNat (u.port p).link.held = none

theorem frameJudged_outside (low : 1024 ≤ frameDist p bytes u) (high : frameDist p bytes u ≤ 3072) :
    frameJudged p bytes bad tail u = linkError p (u.finc F.LNK_ERR_SEQ_ERR 1 p.val) :=
  if_pos (by unfold frameDist at low high; simp [low, high])

theorem frameJudged_duplicate (dup : 3073 ≤ frameDist p bytes u ∨ (frameDist p bytes u < 1024 ∧
    (tblGet (BitVec.ofNat 12 (leAt bytes 0 2)).toNat (u.port p).link.held).isSome)) :
    frameJudged p bytes bad tail u = sendAck p (u.finc F.LNK_ERR_DUP 1 p.val) := by
  unfold frameDist at dup
  refine (if_neg ?_).trans (if_pos ?_)
  · simp only [Bool.and_eq_true, decide_eq_true_eq]
    omega
  · rcases dup with far | ⟨-, held⟩
    · simp [far]
    · rw [held, Bool.or_true]

theorem frameJudged_fresh (fresh : FrameFresh p bytes u) : frameJudged p bytes bad tail u =
    (if !tail then
      if frameDist p bytes u = 0 && !bad && (u.port p).link.arriving.isNone &&
          stageRoom (pktOfBytes ((bytes.drop 8).take (leAt bytes 2 2 % 8192))) (leAt bytes 2 2 / 8192) (u.port p).link then
        releaseIn p (leAt bytes 2 2 / 8192) (pktOfBytes ((bytes.drop 8).take (leAt bytes 2 2 % 8192))) u.clock false true
          (u.modLink p (fun l => { stageIn (pktOfBytes ((bytes.drop 8).take (leAt bytes 2 2 % 8192))) (leAt bytes 2 2 / 8192) l with
            arriving := some { tc := leAt bytes 2 2 / 8192, pkt := pktOfBytes ((bytes.drop 8).take (leAt bytes 2 2 % 8192)), dropped := false } }))
      else u
    else if bad || crc32 (bytes.take (8 + leAt bytes 2 2 % 8192)) != leAt bytes (8 + leAt bytes 2 2 % 8192) 4 then
      badFrame p (BitVec.ofNat 12 (leAt bytes 0 2)) u
    else if !stageRoom (pktOfBytes ((bytes.drop 8).take (leAt bytes 2 2 % 8192))) (leAt bytes 2 2 / 8192) (u.port p).link then protocolError p u
    else acceptFrame p (BitVec.ofNat 12 (leAt bytes 0 2)) (frameDist p bytes u) (leAt bytes 2 2 / 8192)
      (pktOfBytes ((bytes.drop 8).take (leAt bytes 2 2 % 8192))) u) := by
  obtain ⟨near, new⟩ := fresh
  unfold frameDist at near
  refine (if_neg ?_).trans (if_neg ?_)
  · simp only [Bool.and_eq_true, decide_eq_true_eq]
    omega
  · simp only [new, Option.isSome_none, Bool.or_false, decide_eq_true_eq]
    omega

end

/-- Settles O35, along the stages of a frame's reception. -/
theorem framesArrive : Obligations.FramesArrive := by
  unfold Obligations.FramesArrive
  intro s p
  refine ⟨fun turned groups tail reach hearing => ?_, fun turned groups tail lost => congrArg Host.Outcome.next (if_pos (by simp [lost])),
    fun fseq => ?_, fun a arriving => ?_, fun none => ⟨fun ok => congrArg Host.Outcome.next ?_, fun heard => congrArg Host.Outcome.next ?_⟩,
    fun reach deaf => congrArg Host.Outcome.next ((if_neg (by simp [hears, deaf])).trans (if_pos reach)),
    fun lost => congrArg Host.Outcome.next ((if_neg (by simp [hears, lost])).trans (if_neg (by simp [lost])))⟩
  · intro r bytes counted coded
    have go : exec (.frameReceived p turned groups tail) s =
        .next (frameIn p bytes r.errs tail (s.modLane p (fun l => { l with rxRd := r.rd }))) :=
      congrArg Host.Outcome.next (frameColsIn_heard reach hearing)
    have hears : ((s.modLane p (fun l => { l with rxRd := r.rd })).port p).lane.deaf = false := by
      rw [modLane_port_same]
      exact hearing
    refine ⟨fun crc => go.trans (congrArg Host.Outcome.next (frameIn_badHeader crc)), fun crc type up => ?_⟩
    intro u fseq len tc pkt d fresh staged bad answers stillUp
    have judge : frameIn p bytes r.errs tail (s.modLane p (fun l => { l with rxRd := r.rd })) = frameJudged p bytes coded tail u :=
      (frameIn_packet crc type hears).trans (packetFrame_judged up stillUp)
    have answer : ∀ {t : State}, frameJudged p bytes coded tail u = t → answers t :=
      fun eq => go.trans (congrArg Host.Outcome.next (judge.trans eq))
    refine ⟨fun low high => answer (frameJudged_outside low high), fun dup => answer (frameJudged_duplicate dup), fun new whole => ?_,
      fun new part => ?_⟩
    · have wrong : bad ↔ (coded || crc32 (bytes.take (8 + len)) != leAt bytes (8 + len) 4) = true := by
        simp [bad]
      have open_ := (frameJudged_fresh (bad := coded) (tail := tail) new).trans (if_neg (by simp [whole]))
      refine ⟨fun b => answer (open_.trans (if_pos (wrong.mp b))), fun b full => ?_, fun b room => ⟨fun next => ?_, fun later => ?_⟩⟩
      · exact answer (open_.trans ((if_neg (fun h => b (wrong.mpr h))).trans (if_pos (by rw [full]; rfl))))
      · exact answer (open_.trans ((if_neg (fun h => b (wrong.mpr h))).trans ((if_neg (by rw [room]; decide)).trans (if_pos next))))
      · exact answer (open_.trans ((if_neg (fun h => b (wrong.mpr h))).trans ((if_neg (by rw [room]; decide)).trans (if_neg later))))
    · have open_ := (frameJudged_fresh (bad := coded) (tail := tail) new).trans (if_pos (by simp [part]))
      refine ⟨fun next good none room => answer (open_.trans (if_pos ?_)), fun some => answer (open_.trans (if_neg ?_))⟩
      · rw [good, none, room, show frameDist p bytes u = 0 from next]
        rfl
      · rcases some with later | wrong | arriving | full
        · rw [decide_eq_false (show ¬ frameDist p bytes u = 0 from later)]
          simp
        · rw [wrong]
          simp
        · rw [Option.isNone_eq_false_iff.mpr arriving]
          simp
        · rw [full]
          simp
  · intro l
    refine ⟨fun up named missing near => congrArg Host.Outcome.next (if_pos ?_), fun unnamed => congrArg Host.Outcome.next (if_neg ?_)⟩
    · rw [up, show (s.port p).link.named.contains fseq.toNat = true from named, show tblGet fseq.toNat (s.port p).link.held = none from missing,
        decide_eq_true near]
      rfl
    · rw [show (s.port p).link.named.contains fseq.toNat = false from unnamed]
      simp
  · intro dropped ended
    have close : ∀ ok, closeArriving p ok s = if ok then acceptNext p (arrivedWhole p a ended)
        else badFrame p (s.port p).link.rxNext dropped := by
      intro ok
      unfold closeArriving
      rw [arriving]
      rfl
    have inp : (ended.port p).inp = (s.port p).inp := by
      unfold ended State.modLink
      rw [modPort_port_same]
    refine ⟨fun heard => congrArg Host.Outcome.next ?_, congrArg Host.Outcome.next (close false), fun uncut kept => congrArg Host.Outcome.next ?_,
      fun uncut lost => congrArg Host.Outcome.next ?_, fun out cut => congrArg Host.Outcome.next ?_⟩
    · refine (if_pos heard).trans ?_
      rw [arriving]
      rfl
    · refine (close true).trans ?_
      unfold arrivedWhole
      dsimp only
      rw [inp, uncut, kept]
      rfl
    · refine (close true).trans ?_
      unfold arrivedWhole
      dsimp only
      rw [inp, uncut, lost]
      rfl
    · refine (close true).trans ?_
      unfold arrivedWhole
      dsimp only
      rw [inp, cut]
      rfl
  · show closeArriving p ok s = s
    unfold closeArriving
    rw [none]
  · refine (if_pos heard).trans ?_
    rw [none]
    rfl

/-! ## Control sets and the timers of a link -/

theorem crReceived_heard {p : NetPort} {set : Bytes} {s : State} (heard : hears s p = true) : crReceived p set s = crIn p set s :=
  if_pos heard

theorem crIn_bad {p : NetPort} {set : Bytes} {s : State} (up : (s.port p).link.phase = .up) (bad : crGood set = none) :
    crIn p set s = crBad p s := by
  unfold crIn
  rw [if_neg (not_not_intro up), bad]

section
variable {p : NetPort} {set c : Bytes} {s : State}

theorem crIn_ack (up : (s.port p).link.phase = .up) (good : crGood set = some c) (type : leAt c 0 1 % 16 = 2) :
    crIn p set s = processAck p (BitVec.ofNat 12 (leAt c 1 2)) s := by
  unfold crIn
  rw [if_neg (not_not_intro up), good]
  dsimp only
  rw [type]
  rfl

theorem crIn_nak (up : (s.port p).link.phase = .up) (good : crGood set = some c) (type : leAt c 0 1 % 16 = 3) :
    crIn p set s = processNak p (BitVec.ofNat 12 (leAt c 1 2)) (leAt c 3 2) (processAck p (BitVec.ofNat 12 (leAt c 5 2)) s) := by
  unfold crIn
  rw [if_neg (not_not_intro up), good]
  dsimp only
  rw [type]
  rfl

theorem crIn_credit (up : (s.port p).link.phase = .up) (good : crGood set = some c) (type : leAt c 0 1 % 16 = 1) :
    crIn p set s = ((creditEntry (leAt c 1 1) (leAt c 2 2) (s.port p).link).bind (creditEntry (leAt c 4 1) (leAt c 5 2))).elim
      (protocolError p s) (fun l => s.modLink p (fun _ => l)) := by
  unfold crIn
  rw [if_neg (not_not_intro up), good]
  dsimp only
  rw [type]
  show (match (creditEntry (leAt c 1 1) (leAt c 2 2) (s.port p).link).bind (creditEntry (leAt c 4 1) (leAt c 5 2)) with
    | some l => s.modLink p (fun _ => l)
    | none => protocolError p s) = _
  cases (creditEntry (leAt c 1 1) (leAt c 2 2) (s.port p).link).bind (creditEntry (leAt c 4 1) (leAt c 5 2)) <;> rfl

end

theorem wakeTx_awake {p : NetPort} {s : State} (awake : (s.port p).lane.txAsleep = false) : wakeTx p s = s :=
  if_neg (by simp [awake])

/-- Settles O36, along the types of control sets and the timers. -/
theorem controlSets : Obligations.ControlSets := by
  unfold Obligations.ControlSets
  intro s p set c l ack freed
  refine ⟨fun heard up => ⟨fun bad => congrArg Host.Outcome.next ((crReceived_heard heard).trans (crIn_bad up bad)), fun good => ⟨fun type => ?_, fun type near => ?_,
      fun type l1 l2 first second => ?_, fun type past => ?_⟩⟩,
    fun up waits => congrArg Host.Outcome.next (if_pos (by rw [up, decide_eq_true waits]; rfl)),
    fun none => congrArg Host.Outcome.next (if_neg ?_), fun up awake => ?_, fun reach deaf => ?_, rfl⟩
  · have go : crReceived p set s = processAck p ack s := (crReceived_heard heard).trans (crIn_ack up good type)
    refine ⟨fun near => congrArg Host.Outcome.next (go.trans (if_pos near)), fun far behind => congrArg Host.Outcome.next (go.trans ?_),
      fun far behind => congrArg Host.Outcome.next (go.trans ?_)⟩
    · exact (if_neg (Nat.not_le.mpr far)).trans (if_neg (Nat.not_le.mpr behind))
    · exact (if_neg (Nat.not_le.mpr far)).trans (if_pos behind)
  · refine congrArg Host.Outcome.next (congrArg (wakeToResend p) ((crReceived_heard heard).trans ((crIn_nak up good type).trans ?_)))
    exact congrArg (processNak p ack (leAt c 3 2)) (if_pos near)
  · refine congrArg Host.Outcome.next ((crReceived_heard heard).trans ((crIn_credit up good type).trans ?_))
    rw [show creditEntry (leAt c 1 1) (leAt c 2 2) (s.port p).link = some l1 from first, Option.bind_some, second]
    rfl
  · refine congrArg Host.Outcome.next ((crReceived_heard heard).trans ((crIn_credit up good type).trans ?_))
    rw [show creditEntry (leAt c 1 1) (leAt c 2 2) (s.port p).link = none from past]
    rfl
  · rw [show outstanding (s.port p).link = 0 from none]
    simp
  · have go : refreshDue p s = if (s.port p).lane.txAsleep then wakeTx p s else sendRefresh p s := if_pos (by simp [up, awake])
    exact ⟨fun asleep => congrArg Host.Outcome.next (go.trans (if_pos asleep)),
      fun awake => congrArg Host.Outcome.next (go.trans (if_neg (by simp [awake])))⟩
  · exact ⟨congrArg Host.Outcome.next (setsIn_deaf reach deaf), congrArg Host.Outcome.next (setsIn_deaf reach deaf)⟩

/-! ## Initialisation and admission -/

theorem initSend_sends {p : NetPort} {s : State} (run : s.routerRuns = true) (up : (s.port p).lane.phase = .up)
    (awake : (s.port p).lane.txAsleep = false)
    (phase : (s.port p).link.phase = .init ∨ (s.port p).link.phase = .check ∨ (s.port p).link.phase = .refused) :
    initSend p s = sendFrame p (initFrame s p) false s := by
  unfold initSend
  dsimp only
  rw [if_pos (by rcases phase with phase | phase | phase <;> simp [run, up, phase]), wakeTx_awake awake]

theorem initSend_quiet {p : NetPort} {s : State} (phase : (s.port p).link.phase = .up ∨ (s.port p).link.phase = .down) : initSend p s = s :=
  if_neg (by rcases phase with phase | phase <;> simp [phase])

theorem initFrameIn_bad {p : NetPort} {bytes : Bytes} {bad : Bool} {s : State} (wrong : bad = true ∨ crc32 (bytes.take 72) ≠ leAt bytes 72 4) :
    initFrameIn p bytes bad s = linkError p (s.finc F.LNK_ERR_FCRC_ERR 1 p.val) := by
  refine if_pos ?_
  rcases wrong with wrong | wrong <;> simp [wrong]

theorem initRecordIn_init {p : NetPort} {init : Bytes} {s : State} (phase : (s.port p).link.phase = .init) : initRecordIn p init s =
    s.modLink p (fun l => { l with peer := some init, peerSeen := true, phase := if (leAt init 0 4).testBit 26 then .check else .init }) := by
  unfold initRecordIn
  rw [phase]

theorem initRecordIn_later {p : NetPort} {init : Bytes} {s : State}
    (phase : (s.port p).link.phase = .check ∨ (s.port p).link.phase = .refused) :
    initRecordIn p init s = s.modLink p (fun l => { l with peer := some init, peerSeen := true }) := by
  unfold initRecordIn
  rcases phase with phase | phase
  · rw [phase]
  · rw [phase]

theorem initRecordIn_up {p : NetPort} {init : Bytes} {s : State} (phase : (s.port p).link.phase = .up) : initRecordIn p init s =
    if (leAt init 0 4).testBit 26 then s else resetL p 4 2 false s := by
  unfold initRecordIn
  rw [phase]

theorem reportOnly_ports {s t : State} (report : reportOnly s t) : t.ports = s.ports := by
  rw [report.1]

/-- Settles O37. -/
theorem linkAdmission : Obligations.LinkAdmission := by
  unfold Obligations.LinkAdmission
  intro s p l record
  refine ⟨fun run up awake phase => congrArg Host.Outcome.next (initSend_sends run up awake phase),
    fun phase => congrArg Host.Outcome.next (initSend_quiet phase), fun frame reach hearing => ?_, fun np check => ?_,
    fun check => congrArg Host.Outcome.next (if_neg check), fun mid v run role again refused => congrArg Host.Outcome.next ?_⟩
  · intro r bytes taken coded init seen crc type
    have hears : (taken.port p).lane.deaf = false := by rw [modLane_port_same]; exact hearing
    have phase : (taken.port p).link.phase = l.phase := congrArg LinkState.phase (modLane_link ..)
    have go : exec (.initFrameReceived p frame) s = .next (frameIn p bytes r.errs true taken) :=
      congrArg Host.Outcome.next (frameColsIn_heard reach hearing)
    refine ⟨fun clean len fcrc => ?_, fun wrong => go.trans (congrArg Host.Outcome.next ((frameIn_init crc type hears).trans (initFrameIn_bad wrong)))⟩
    have record : ∀ {t : State}, initRecordIn p init taken = t → exec (.initFrameReceived p frame) s = .next t :=
      fun eq => go.trans (congrArg Host.Outcome.next ((init_go p bytes r.errs taken clean hears crc type len fcrc).trans eq))
    refine ⟨fun init => record (initRecordIn_init (phase.trans init)), fun later => record (initRecordIn_later ?_),
      fun up seen => record ((initRecordIn_up (phase.trans up)).trans (if_pos seen)),
      fun up unseen => record ((initRecordIn_up (phase.trans up)).trans (if_neg (Bool.eq_false_iff.mp unseen)))⟩
    rw [phase]
    exact later
  · have go : exec (.admissionCheck p) s = .next (admitLink p s) := congrArg Host.Outcome.next (if_pos check)
    refine ⟨fun r admits => ⟨_, go, ?_⟩, fun why r nonzero refuses => ⟨_, go, ?_⟩⟩
    · rw [admit_up p s r admits]
      have upNp : noPromotion (linkUp0 p s r) := np
      have port := port_of_ports (reportOnly_ports (asyncChip_report 0x01 p.val (linkUpData record) _ upNp)) p
      unfold linkUp0 at port ⊢
      dsimp only at port ⊢
      rw [port, modLink_same]
      exact ⟨rfl, rfl, rfl, rfl, rfl, asyncChip_data _ _ _ _ upNp (by decide)⟩
    · rw [admit_no p s why r nonzero refuses]
      have downNp : noPromotion (s.modLink p (fun l => { l with phase := .refused, refuse := why })) := np
      have port := port_of_ports (reportOnly_ports (asyncChip_report 0x03 p.val (linkRefusedData why record) _ downNp)) p
      dsimp only
      rw [port, modLink_same]
      exact ⟨rfl, rfl, asyncChip_data _ _ _ _ downNp (by decide)⟩
  · refine (write_lnk_ctl p run).trans ((if_neg role).trans (if_pos ?_))
    rw [again]
    exact decide_eq_true refused

end Sys2Proof.Proofs

namespace Sys2Proof.Proofs

open Sys2Proof.Machine Sys2Proof.Laws

/-! # Routing-table commands, the epoch and copies (R119, R138 to R142)

The settlement of O39. -/

section
variable {v : Word} {s : State}

theorem tableCommand_busy (command : (bitOf v 24 || bitOf v 25) = true) (busy : tableBusy s = true) :
    tableCommand v s = s.fset F.RTR_TBL_CTL_ERR 3 := if_pos (by rw [command, busy]; rfl)

theorem tableCommand_noTable (command : (bitOf v 24 || bitOf v 25) = true) (free : tableBusy s = false)
    (wrong : fieldOf v 21 20 = 3 ∨ (bitOf v 24 = true ∧ fieldOf v 21 20 = 2)) : tableCommand v s = s.fset F.RTR_TBL_CTL_ERR 2 := by
  refine (if_neg (by rw [free]; simp)).trans (if_pos ?_)
  rw [command]
  simpa using wrong

theorem tableCommand_outside (command : (bitOf v 24 || bitOf v 25) = true) (free : tableBusy s = false)
    (right : ¬ (fieldOf v 21 20 = 3 ∨ (bitOf v 24 = true ∧ fieldOf v 21 20 = 2)))
    (outside : indexIn s (fieldOf v 21 20) (fieldOf v 17 0) = false) : tableCommand v s = s.fset F.RTR_TBL_CTL_ERR 1 := by
  refine (if_neg (by rw [free]; simp)).trans ((if_neg ?_).trans (if_pos (by rw [command, outside]; rfl)))
  rw [command]
  simpa using right

/-- INDEX, TABLE and AUTO_INC of a command as RTR_TBL_CTL then shows them (R138). -/
def tableNamed (v : Word) (s : State) : State :=
  ((s.fset F.RTR_TBL_CTL_INDEX (fieldOf v 17 0)).fset F.RTR_TBL_CTL_TABLE (fieldOf v 21 20)).fset F.RTR_TBL_CTL_AUTO_INC (fieldOf v 26 26)

theorem tableCommand_accepted (free : tableBusy s = false)
    (right : ¬ (fieldOf v 21 20 = 3 ∨ (bitOf v 24 = true ∧ fieldOf v 21 20 = 2)))
    (inside : indexIn s (fieldOf v 21 20) (fieldOf v 17 0) = true) : tableCommand v s =
      if bitOf v 24 then
        { (tableNamed v s).fset F.RTR_TBL_CTL_ERR 0 with
          rtr := { s.rtr with
            command := some (fieldOf v 21 20, fieldOf v 17 0, some ((tableNamed v s).regWord .RTR_TBL_DATA 0 0), bitOf v 25) } }
      else if bitOf v 25 then
        tableAdvance (((tableNamed v s).fset F.RTR_TBL_CTL_ERR 0).setWord .RTR_TBL_DATA
          (readEntry (tableNamed v s) (fieldOf v 21 20) (fieldOf v 17 0)) 0 0)
      else tableNamed v s := by
  refine (if_neg (by rw [free]; simp)).trans ((if_neg ?_).trans (if_neg (by rw [inside]; simp)))
  simpa using fun _ => by simpa using right

/-- A table write that ends leaves the copy and the instants of the epoch as they were. -/
theorem tableDone_keeps (s : State) : (tableDone s).rtr.copying = s.rtr.copying ∧ (tableDone s).rtr.oldSeen = s.rtr.oldSeen ∧
    (tableDone s).clock = s.clock := by
  have advance : ∀ u : State, (tableAdvance u).rtr = u.rtr ∧ (tableAdvance u).clock = u.clock := by
    intro u
    unfold tableAdvance
    split <;> exact ⟨rfl, rfl⟩
  have put : ∀ (t i : Nat) (e : Word), (putEntry t i e s.rtr).copying = s.rtr.copying ∧ (putEntry t i e s.rtr).oldSeen = s.rtr.oldSeen := by
    intro t i e
    unfold putEntry
    split <;> exact ⟨rfl, rfl⟩
  unfold tableDone
  split
  · exact ⟨rfl, rfl, rfl⟩
  · rename_i t i data read _
    dsimp only
    rw [(advance _).1, (advance _).2]
    cases data with
    | none => cases read <;> exact ⟨rfl, rfl, rfl⟩
    | some e => cases read <;> exact ⟨(put t i e).1, (put t i e).2, rfl⟩

theorem openAfter_congr {s t : State} (v : Word) (ver : Nat) (copying : t.rtr.copying = s.rtr.copying) : openAfter t v ver = openAfter s v ver := by
  unfold openAfter
  rw [copying]

/-- RTR_EPOCH as an accepted write leaves it, with the open bits it is checked against (R141, R142). -/
def epochSet (v : Word) (a b : Bool) (u : State) : State :=
  (((u.fset F.RTR_EPOCH_CURRENT (fieldOf v 0 0)).fset F.RTR_EPOCH_OPEN_A (b2n a)).fset F.RTR_EPOCH_OPEN_B (b2n b)).fset F.RTR_EPOCH_ERR 0

theorem epochWrite_plain (opens : openAfter s v (fieldOf v 0 0) = true) (noCopy : bitOf v 3 = false) : epochWrite v s =
    { epochSet v (openAfter s v 0) (openAfter s v 1) s with
      rtr := { s.rtr with oldSeen := if decide (fieldOf v 0 0 ≠ epochCurrent s) then s.clock else s.rtr.oldSeen } } := by
  unfold epochWrite
  dsimp only
  rw [if_neg (by rw [opens]; decide), noCopy]
  rfl

theorem epochWrite_copyRefused (opens : openAfter s v (fieldOf v 0 0) = true) (copy : bitOf v 3 = true)
    (refused : s.rtr.copying.isSome ∨ openAfter s v (1 - fieldOf v 0 0) = true) : epochWrite v s = s.fset F.RTR_EPOCH_ERR 2 := by
  refine (if_neg (by rw [opens]; decide)).trans (if_pos ?_)
  rw [copy]
  simpa using refused

theorem epochWrite_copies (opens : openAfter s v (fieldOf v 0 0) = true) (copy : bitOf v 3 = true) (free : s.rtr.copying = none)
    (closed : openAfter s v (1 - fieldOf v 0 0) = false) : epochWrite v s =
    { epochSet v (openAfter s v 0) (openAfter s v 1) (tableDone s) with
      rtr := { (tableDone s).rtr with
        copying := some (fieldOf v 0 0), oldSeen := if decide (fieldOf v 0 0 ≠ epochCurrent s) then s.clock else s.rtr.oldSeen } } := by
  obtain ⟨copying, seen, clock⟩ := tableDone_keeps s
  unfold epochWrite
  dsimp only
  rw [if_neg (by rw [opens]; decide), if_neg (by rw [free, closed]; simp), copy, if_pos rfl, openAfter_congr v 0 copying,
    openAfter_congr v 1 copying]
  rw [← clock, ← seen]
  rfl

end

/-- Settles O39, along the branches of a table command and of a write of RTR_EPOCH. -/
theorem tablesAndEpochs : Obligations.TablesAndEpochs := by
  unfold Obligations.TablesAndEpochs
  intro s mid v run index table named advanced
  have go : writeReg mid (regAddr .RTR_TBL_CTL 0 0) v s = tableCommand v s := write_tbl_ctl run
  have epoch : writeReg mid (regAddr .RTR_EPOCH 0 0) v s = epochWrite v s := write_epoch run
  have small : fieldOf v 21 20 < 4 := fieldOf_lt v 21 20
  refine ⟨fun write busy => ?_, fun write free beyond => ?_, fun write free known outside => ?_, fun write free known inside => ?_,
    fun noWrite read => ⟨fun busy => ?_, fun free third => ?_, fun free known inside => ?_⟩, fun t i e command => ?_, fun t i e command => ?_,
    fun none => ?_, ?_, fun copying => ?_, fun copying => ?_, fun none => ?_⟩
  · exact congrArg Host.Outcome.next (go.trans (tableCommand_busy (by rw [write]; rfl) busy))
  · refine congrArg Host.Outcome.next (go.trans (tableCommand_noTable (by rw [write]; rfl) free ?_))
    have : fieldOf v 21 20 = 2 ∨ fieldOf v 21 20 = 3 := by
      have ge : 2 ≤ fieldOf v 21 20 := beyond
      omega
    exact this.elim (fun two => .inr ⟨write, two⟩) .inl
  · refine congrArg Host.Outcome.next (go.trans (tableCommand_outside (by rw [write]; rfl) free ?_ outside))
    have lt : fieldOf v 21 20 < 2 := known
    omega
  · refine congrArg Host.Outcome.next (go.trans ((tableCommand_accepted free ?_ inside).trans (if_pos write)))
    have lt : fieldOf v 21 20 < 2 := known
    omega
  · exact congrArg Host.Outcome.next (go.trans (tableCommand_busy (by rw [read, Bool.or_true]) busy))
  · exact congrArg Host.Outcome.next (go.trans (tableCommand_noTable (by rw [read, Bool.or_true]) free (.inl third)))
  · refine congrArg Host.Outcome.next (go.trans ((tableCommand_accepted free ?_ inside).trans ((if_neg (by simp [noWrite])).trans (if_pos read))))
    have lt : fieldOf v 21 20 < 3 := known
    rintro (third | ⟨write, -⟩)
    · omega
    · rw [noWrite] at write
      exact Bool.false_ne_true write
  · refine congrArg Host.Outcome.next (?_ : tableDone s = _)
    unfold tableDone
    rw [command]
    rfl
  · refine congrArg Host.Outcome.next (?_ : tableDone s = _)
    unfold tableDone
    rw [command]
    rfl
  · refine congrArg Host.Outcome.next (?_ : tableDone s = _)
    unfold tableDone
    rw [none]
  · intro cur stays set seen
    have same : ∀ ver, openAfter s v ver = stays ver := fun ver =>
      congrArg (bitOf v (1 + ver) && ·) (by rw [Bool.eq_iff_iff]; simp)
    refine ⟨fun shut => congrArg Host.Outcome.next (epoch.trans (if_pos ?_)), fun opens noCopy => congrArg Host.Outcome.next (epoch.trans ?_),
      fun opens copy refused => congrArg Host.Outcome.next (epoch.trans ?_), fun opens copy free closed => congrArg Host.Outcome.next (epoch.trans ?_)⟩
    · rw [same, shut]
      rfl
    · rw [epochWrite_plain ((same cur).trans opens) noCopy, same, same]
      rfl
    · exact epochWrite_copyRefused ((same cur).trans opens) copy (refused.imp_right ((same _).trans ·))
    · rw [epochWrite_copies ((same cur).trans opens) copy free ((same _).trans closed), same, same]
      rfl
  · refine congrArg Host.Outcome.next (?_ : copyEnd s = _)
    unfold copyEnd
    rw [copying]
    rfl
  · refine congrArg Host.Outcome.next (?_ : copyEnd s = _)
    unfold copyEnd
    rw [copying]
    rfl
  · refine congrArg Host.Outcome.next (?_ : copyEnd s = _)
    unfold copyEnd
    rw [none]

end Sys2Proof.Proofs

namespace Sys2Proof.Proofs

open Sys2Proof.Machine Sys2Proof.Laws

/-! # Doorbells (R9, R158, R159, R294)

The settlement of O40. -/

section
variable {h : HostPort} {wq : Nat} {s : State}

theorem bell_held {bytes : Bytes} (run : s.hifRuns h.val = true) (link : (s.host h).hif.linkUp = true) (core : s.coreRuns = true)
    (waking : (dozeWake 8 s).pwr.nicWaking = true) :
    bell h wq bytes s = (dozeWake 8 s).modHif h (fun x => { x with heldBells := x.heldBells ++ [(wq, bytes)] }) := by
  unfold bell
  dsimp only
  rw [if_neg (by simp [run, link, core]), if_pos waking]

theorem bell_awake {bytes : Bytes} (run : s.hifRuns h.val = true) (link : (s.host h).hif.linkUp = true) (core : s.coreRuns = true)
    (awake : s.pwr.nicWaking = false) (active : s.pwr.state = .active) : bell h wq bytes s =
    if bytes.length = 64 then inlineBell h wq bytes s else indexBell h wq (BitVec.ofNat 64 (leNat bytes)) s := by
  unfold bell
  dsimp only
  rw [if_neg (by simp [run, link, core]), doze_no 8 s (by rw [active]; decide), if_neg (by rw [awake]; decide)]

theorem dozeWake_wakes (source : Nat) (doze : s.pwr.state = .doze) (idle : s.pwr.transition = none) :
    (dozeWake source s).pwr.nicWaking = true := by
  unfold dozeWake
  rw [if_pos (by simp [doze, idle])]

theorem indexBell_noQueue {v : Word} (live : s.hostLive h = true) (none : tblGet wq (s.host h).wqs = none) :
    indexBell h wq v s = s.finc F.HIF_ERR_DB_NOQ 1 h.val := by
  unfold indexBell
  rw [if_neg (by rw [live]; decide), none]

theorem indexBell_queue {v : Word} {q : WorkQueue} (live : s.hostLive h = true) (some : tblGet wq (s.host h).wqs = some q) :
    indexBell h wq v s = if q.closing then s.finc F.HIF_ERR_DB_CLOSED 1 h.val
      else if ringSize q.logSize < ringCount q.logSize (bellIndex q.logSize v) q.head then
        haltHost h 6 wq false false (fieldOf v 16 0) (pmcHost h.val 0x38 1 s)
      else if bellIndex q.logSize v = q.pi then pmcHost h.val 0x38 1 s
      else modWq h wq (fun r => skipInline (ringSize r.logSize)
        { r with pi := bellIndex q.logSize v, bells := r.bells ++ [(bellIndex q.logSize v, (pmcHost h.val 0x38 1 s).clock)] })
          (pmcHost h.val 0x38 1 s) := by
  unfold indexBell
  rw [if_neg (by rw [live]; decide), some]
  rfl

theorem inlineBell_queue {d : Bytes} {q : WorkQueue} (live : s.hostLive h = true) (some : tblGet wq (s.host h).wqs = some q)
    (open_ : q.closing = false) : inlineBell h wq d s =
      if ringSize q.logSize ≤ ringCount q.logSize q.pi q.head then haltHost h 6 wq false false q.pi (pmcHost h.val 0x38 1 s)
      else if b2n (dFlag d 0) ≠ wrapBit q.logSize q.pi then haltHost h 5 wq false false q.pi (pmcHost h.val 0x38 1 s)
      else checkStore h wq (modWq h wq (fun r => skipInline (ringSize q.logSize)
        { r with pi := ringNext q.logSize q.pi, bells := r.bells ++
          [(ringNext q.logSize q.pi, (storeDesc h wq q.pi (padTo 64 d) (pmcHost h.val 0x38 1 s)).clock)] })
        (storeDesc h wq q.pi (padTo 64 d) (pmcHost h.val 0x38 1 s))) := by
  unfold inlineBell
  rw [if_neg (by rw [live]; decide), some]
  dsimp only
  rw [if_neg (by rw [open_]; decide)]
  rfl

end

theorem leBytes_eight (v : Word) : (leBytes 8 v.toNat).length ≠ 64 := by
  rw [leBytes_length]
  decide

/-- Settles O40, along the branches of the two doorbells. -/
theorem doorbells : Obligations.Doorbells := by
  unfold Obligations.Doorbells
  intro s h wq v desc run link core counted
  refine ⟨fun waking noDoze => ?_, fun doze idle => congrArg Host.Outcome.next (bell_held run link core (dozeWake_wakes 8 doze idle)),
    fun awake active live => ?_, fun other => congrArg Host.Outcome.next (if_neg other), fun off size out wrong => congrArg Host.Outcome.next (if_neg ?_),
    fun off size aligned right => congrArg Host.Outcome.next (if_pos ?_)⟩
  · have no := doze_no 8 s noDoze
    refine congrArg Host.Outcome.next ((bell_held run link core (by rw [no]; exact waking)).trans ?_)
    rw [no]
  · have index : exec (.indexDoorbell h wq v) s = .next (indexBell h wq v s) := by
      refine congrArg Host.Outcome.next ((bell_awake run link core awake active).trans ((if_neg (leBytes_eight v)).trans ?_))
      rw [leNat_leBytes8, BitVec.ofNat_toNat, BitVec.setWidth_eq]
    refine ⟨fun none => index.trans (congrArg Host.Outcome.next (indexBell_noQueue live none)), fun q some => ⟨fun closing => ?_, fun open_ => ?_⟩⟩
    · exact index.trans (congrArg Host.Outcome.next ((indexBell_queue live some).trans (if_pos closing)))
    · have moves := index.trans (congrArg Host.Outcome.next ((indexBell_queue live some).trans (if_neg (by rw [open_]; decide))))
      refine ⟨fun beyond => moves.trans (congrArg Host.Outcome.next (if_pos beyond)), fun within => ⟨fun same => ?_, fun new => ?_⟩,
        fun len => ?_⟩
      · exact moves.trans (congrArg Host.Outcome.next ((if_neg (Nat.not_lt.mpr within)).trans (if_pos same)))
      · exact moves.trans (congrArg Host.Outcome.next ((if_neg (Nat.not_lt.mpr within)).trans (if_neg new)))
      · have inline : inlineWrite h wq desc s = inlineBell h wq desc s :=
          (if_pos len).trans ((bell_awake run link core awake active).trans (if_pos len))
        have puts := inline.trans (inlineBell_queue (d := desc) live some open_)
        refine ⟨fun full => congrArg Host.Outcome.next (puts.trans (if_pos full)), fun room phase => ?_, fun room phase => ?_⟩
        · exact congrArg Host.Outcome.next (puts.trans ((if_neg (Nat.not_le.mpr room)).trans (if_pos phase)))
        · exact congrArg Host.Outcome.next (puts.trans ((if_neg (Nat.not_le.mpr room)).trans (if_neg (not_not_intro phase))))
  · simp only [Bool.or_eq_true, Bool.and_eq_true, decide_eq_true_eq, Bool.not_eq_true']
    unfold hostReaches
    simp [run, link, out]
    omega
  · rw [decide_eq_true aligned]
    rcases right with eight | sixtyFour
    · rw [eight]; rfl
    · rw [sixtyFour]; rfl

end Sys2Proof.Proofs

namespace Sys2Proof.Proofs

open Sys2Proof.Machine Sys2Proof.Laws

/-! # The admin queue (R161 to R165, R170)

The settlement of O41. -/

section
variable {h : HostPort} {s : State}

theorem admBase_ne_admCfg (h : HostPort) : regAddr .WQ_ADM_BASE h.val 0 ≠ regAddr .WQ_ADM_CFG h.val 0 := by
  revert h
  decide

theorem admEnable_starts (v : Word) (s : State) (h : HostPort) :
    let t := admEnable h (writePlain .WQ_ADM_CFG h.val 0 v s)
    (t.host h).adm.base = 4096 * s.fget F.WQ_ADM_BASE_BASE h.val ∧ (t.host h).adm.next = 0 ∧ (t.host h).adm.head = 0 ∧
      (t.host h).adm.cur = none ∧ t.fget F.WQ_ADM_PI_PI h.val = 0 ∧ ∀ g, g ≠ h → t.host g = s.host g := by
  intro t
  have started : (t.host h).adm = { (s.host h).adm with
      base := 4096 * (writePlain .WQ_ADM_CFG h.val 0 v s).fget F.WQ_ADM_BASE_BASE h.val,
      logSize := (if 6 ≤ (writePlain .WQ_ADM_CFG h.val 0 v s).fget F.WQ_ADM_CFG_LOG_SIZE h.val ∧
        (writePlain .WQ_ADM_CFG h.val 0 v s).fget F.WQ_ADM_CFG_LOG_SIZE h.val ≤ 16 then
        (writePlain .WQ_ADM_CFG h.val 0 v s).fget F.WQ_ADM_CFG_LOG_SIZE h.val else 6),
      next := 0, head := 0, done := [], cur := none, late := [] } :=
    congrArg HostState.adm (modHost_host_same (writePlain .WQ_ADM_CFG h.val 0 v s) h _)
  have base : (writePlain .WQ_ADM_CFG h.val 0 v s).fget F.WQ_ADM_BASE_BASE h.val = s.fget F.WQ_ADM_BASE_BASE h.val := by
    rw [fget_def, fget_def]
    refine congrArg (fieldOf · _ _) (regWord_setWord_other s .WQ_ADM_CFG .WQ_ADM_BASE _ h.val 0 h.val 0 (admBase_ne_admCfg h))
  rw [started]
  refine ⟨congrArg (4096 * ·) base, rfl, rfl, rfl, ?_, fun g ne => modHost_host_other _ _ _ _ ne⟩
  exact (fget_fset _ F.WQ_ADM_PI_PI 0 h.val 0 (by decide) (by decide)).trans rfl

theorem admBell_live {v : Word} (enabled : s.flag F.WQ_ADM_CFG_ENABLE h.val = true) (live : s.hostLive h = true)
    (active : s.pwr.state = .active) : admBell h v s =
      if ringSize (s.host h).adm.logSize < ringCount (s.host h).adm.logSize (bellIndex (s.host h).adm.logSize v) (s.host h).adm.head then
        haltHost h 6 0 true false (fieldOf v 16 0) s
      else admNext h (s.fset F.WQ_ADM_PI_PI (bellIndex (s.host h).adm.logSize v) h.val) := by
  unfold admBell
  dsimp only
  rw [if_neg (by rw [enabled, live]; decide), doze_no 8 s (by rw [active]; decide)]
  rfl

theorem admRead_failed {tag i n : Nat} (req : admReq s h = some (tag, i, n)) (live : (reqEnd h tag false s).hostLive h = true) :
    admRead h none s = haltHost h 7 0 true false i (reqFail h (reqEnd h tag false s)) := by
  unfold admRead
  rw [req]
  exact if_neg (by rw [Option.isSome_none, live]; decide)

/-- The command a read brought is taken from its index (R165). -/
def admTaken (h : HostPort) (i : Nat) (c : Bytes) (u : State) : State :=
  modAdm h (fun a => { a with cur := some (i, c), next := ringNext (u.host h).adm.logSize i }) u

theorem admRead_brought {tag i n : Nat} {data : Bytes} (req : admReq s h = some (tag, i, n))
    (live : (reqEnd h tag true s).hostLive h = true) : admRead h (some data) s =
      if b2n (dFlag (padTo 64 data) 0) ≠ wrapBit ((reqEnd h tag true s).host h).adm.logSize i then
        if 3 ≤ n then haltHost h 5 0 true false i (reqEnd h tag true s)
        else hostReq h (.admin i (n + 1)) (((reqEnd h tag true s).host h).adm.base +
          64 * (i % ringSize ((reqEnd h tag true s).host h).adm.logSize)) 64 false (reqEnd h tag true s)
      else if dOp (padTo 64 data) = 0 ∨ 15 < dOp (padTo 64 data) then
        admDone h i 1 0 (admTaken h i (padTo 64 data) (reqEnd h tag true s))
      else if !adminHeadOk (padTo 64 data) then admDone h i 2 0 (admTaken h i (padTo 64 data) (reqEnd h tag true s))
      else admTaken h i (padTo 64 data) (reqEnd h tag true s) := by
  unfold admRead
  rw [req]
  exact if_neg (by rw [Option.isSome_some, live]; decide)

theorem admCur_live {op : Nat} {x : Nat × Bytes} (cur : admCur s h op = some x) : s.hostLive h = true := by
  unfold admCur at cur
  by_contra dead
  rw [if_neg dead] at cur
  exact nomatch cur

theorem admDone_live (i code result : Nat) (live : s.hostLive h = true) :
    let a := (s.host h).adm
    let written := modAdm h (fun a => admHead (a.done.length + 1) { a with
      cur := if a.cur.any (fun c => c.1 == i) then none else a.cur, done := a.done ++ [i],
      late := a.late.filter (fun l => l.1 != i) })
      (hostWrite h (a.base + 64 * (i % ringSize a.logSize) + 56) (leBytes 4 result ++ leBytes 2 code ++ leBytes 2 0) plainAttr s)
    admDone h i code result s = admNext h (if written.flag F.WQ_ADM_CFG_VEC_EN h.val
      then msixSend h (written.fget F.WQ_ADM_CFG_VECTOR h.val) written else written) :=
  if_neg (by rw [live]; decide)

end

/-- Settles O41, along the stages of an admin command. -/
theorem adminQueue : Obligations.AdminQueue := by
  unfold Obligations.AdminQueue
  intro s h mid v
  refine ⟨fun run present => ?_, fun tag i n data req => ?_, fun i c cur => ?_, fun none => congrArg Host.Outcome.next (run_none _ _ _ _ _ none)⟩
  · have cfg : exec (.adminEnable mid h v) s = .next (admCfgWrite h v s) := congrArg Host.Outcome.next (write_adm_cfg h run present)
    have bell : exec (.adminDoorbell mid h v) s = .next (admBell h v s) := congrArg Host.Outcome.next (write_adm_pi h run present)
    refine ⟨fun was rises => ?_, fun keeps => ?_, fun off => ?_, fun enabled live active => ⟨fun beyond => ?_, fun within => ?_⟩⟩
    · have go : exec (.adminEnable mid h v) s = .next (admEnable h (writePlain .WQ_ADM_CFG h.val 0 v s)) :=
        cfg.trans (congrArg Host.Outcome.next (if_pos (by rw [was, rises]; rfl)))
      exact ⟨go, _, go, admEnable_starts v s h⟩
    · refine cfg.trans (congrArg Host.Outcome.next (if_neg ?_))
      rcases keeps with was | low
      · rw [was]; simp
      · rw [low]; simp
    · exact bell.trans (congrArg Host.Outcome.next (if_pos (by rw [off]; rfl)))
    · exact bell.trans (congrArg Host.Outcome.next ((admBell_live enabled live active).trans (if_pos beyond)))
    · exact bell.trans (congrArg Host.Outcome.next ((admBell_live enabled live active).trans (if_neg (Nat.not_lt.mpr within))))
  · intro u lost c a
    refine ⟨fun live => congrArg Host.Outcome.next (congrArg (tagFreed h) (admRead_failed req live)),
      fun live => ⟨fun phase => ⟨fun third => ?_, fun again => ?_⟩, fun phase => ?_⟩⟩
    · exact congrArg Host.Outcome.next (congrArg (tagFreed h) ((admRead_brought req live).trans ((if_pos phase).trans (if_pos third))))
    · exact congrArg Host.Outcome.next (congrArg (tagFreed h) ((admRead_brought req live).trans ((if_pos phase).trans
        (if_neg (Nat.not_le.mpr again)))))
    · intro taken
      have go := (admRead_brought (data := data) req live).trans (if_neg (not_not_intro phase))
      refine ⟨fun noOp => congrArg Host.Outcome.next (congrArg (tagFreed h) (go.trans (if_pos noOp))), fun low high bad => ?_,
        fun low high good => ?_⟩
      · exact congrArg Host.Outcome.next (congrArg (tagFreed h) (go.trans ((if_neg (show ¬ (dOp c = 0 ∨ 15 < dOp c) by omega)).trans (if_pos (by rw [bad]; rfl)))))
      · exact congrArg Host.Outcome.next (congrArg (tagFreed h) (go.trans ((if_neg (show ¬ (dOp c = 0 ∨ 15 < dOp c) by omega)).trans (if_neg (by rw [good]; decide)))))
  · exact ⟨congrArg Host.Outcome.next ((run_at _ _ _ _ _ _ _ cur).trans (if_pos rfl)), admDone_live i 0 0 (admCur_live cur)⟩

end Sys2Proof.Proofs

namespace Sys2Proof.Proofs

open Sys2Proof.Machine Sys2Proof.Laws

/-! # Admin commands that create (R164, R166, R180, R206, R208)

The settlement of O42. -/

section
variable {h : HostPort} {op i : Nat} {c : Bytes} {s : State} {check : Bytes → Nat} {act : Nat → Bytes → State → State}

theorem admRun_ends {code : Nat} (cur : admCur s h op = some (i, c)) (fails : check c = code) (nonzero : code ≠ 0) :
    admRun h op check act s = admDone h i code 0 s := by
  rw [run_at _ _ _ _ _ _ _ cur, if_neg (by rw [fails]; exact nonzero), fails]

theorem admRun_acts (cur : admCur s h op = some (i, c)) (passes : check c = 0) : admRun h op check act s = act i c s := by
  rw [run_at _ _ _ _ _ _ _ cur, if_pos passes]

end

/-- The parameters of CREATE_WQ lie in their ranges (R166). -/
def wqRange (s : State) (h : HostPort) (c : Bytes) : Prop :=
  aAt c 8 2 < s.fget F.WQ_POOL_WQ_COUNT h.val ∧ 6 ≤ aAt c 10 1 ∧ aAt c 10 1 ≤ 16 ∧ aAt c 11 1 ≤ 3 ∧ aAt c 12 1 ≤ 7 ∧ aAt c 13 1 ≤ 1 ∧
    aAt c 14 2 ≤ 4095 ∧ aAt c 16 4 ≤ 16777215 ∧ aAt c 20 2 ≤ 4095 ∧ aAt c 24 8 % 4096 = 0 ∧ aAt c 32 8 % 8 = 0 ∧
    s.requestClass (aAt c 12 1) = true ∧ zeroBytes c [(22, 23), (40, 55)] = true

theorem createWqCode_inRange {s : State} {h : HostPort} {c : Bytes} (range : wqRange s h c) : createWqCode s h c = firstCode [
    ((tblGet (aAt c 8 2) (s.host h).wqs).any (·.closing), 7),
    ((tblGet (aAt c 8 2) (s.host h).wqs).isSome, 4),
    ((tblGet (aAt c 14 2) (s.host h).eqs).isNone || (tblGet (aAt c 20 2) (s.host h).pds).isNone || decide (epPort (aAt c 16 4) ≠ h) ||
      (liveEp s h (aAt c 16 4)).isNone, 5),
    ((liveEp s h (aAt c 16 4)).any (·.closing), 7),
    ((liveEp s h (aAt c 16 4)).any (fun k => decide (k.pd ≠ aAt c 20 2)), 2)] := by
  obtain ⟨count, low, high, pre, tc, leash, eq, ep, pd, ring, head, cls, zero⟩ := range
  refine fc_f _ _ _ ?_
  rw [cls, zero, decide_eq_false (by omega)]
  rfl

/-- Settles O42, along the checks of each command. -/
theorem createCommands : Obligations.CreateCommands := by
  unfold Obligations.CreateCommands
  intro s h i c x n ends
  refine ⟨fun cur => ?_, fun cur => ?_, fun cur => ?_, fun cur => ?_, fun none => congrArg Host.Outcome.next (run_none _ _ _ _ _ none),
    fun none => congrArg Host.Outcome.next (run_none _ _ _ _ _ none), fun none => congrArg Host.Outcome.next (run_none _ _ _ _ _ none),
    fun none => congrArg Host.Outcome.next (run_none _ _ _ _ _ none)⟩
  · intro ep
    refine ⟨fun code => congrArg Host.Outcome.next (admRun_acts cur code), fun code => congrArg Host.Outcome.next (admRun_ends cur rfl code),
      fun count low high pre tc leash eq epIn pd ring head cls zero => ?_⟩
    have code := createWqCode_inRange (s := s) (h := h) (c := c) ⟨count, low, high, pre, tc, leash, eq, epIn, pd, ring, head, cls, zero⟩
    refine ⟨fun q old => ?_, fun new => ⟨fun noEq => ?_, fun k eqThere pdThere port live => ?_⟩⟩
    · rw [code, show tblGet (aAt c 8 2) (s.host h).wqs = some q from old]
      cases hq : q.closing <;> simp [firstCode, hq]
    · rw [code, show tblGet (aAt c 8 2) (s.host h).wqs = none from new, show tblGet (aAt c 14 2) (s.host h).eqs = none from noEq]
      rfl
    · rw [code, show tblGet (aAt c 8 2) (s.host h).wqs = none from new, show liveEp s h (aAt c 16 4) = some k from live,
        show (tblGet (aAt c 14 2) (s.host h).eqs).isNone = false from Option.isNone_eq_false_iff.mpr eqThere,
        show (tblGet (aAt c 20 2) (s.host h).pds).isNone = false from Option.isNone_eq_false_iff.mpr pdThere,
        decide_eq_false (not_not_intro port)]
      simp [firstCode]
  · intro ok q
    have range : (decide (s.fget F.EQ_POOL_EQ_COUNT h.val ≤ aAt c 8 2 ∨ aAt c 10 1 < 6 ∨ 16 < aAt c 10 1 ∨ 3 < aAt c 11 1 ∨
        2047 < aAt c 12 2 ∨ aAt c 16 8 % 4096 ≠ 0) || !zeroBytes c [(24, 55)]) = true ↔ ¬ ok := by
      simp only [ok, n, Bool.or_eq_true, decide_eq_true_eq, Bool.not_eq_true']
      grind
    refine ⟨fun bad => congrArg Host.Outcome.next (admRun_ends cur (fc_t _ _ _ (range.mpr bad)) (by decide)), fun good old => ?_, fun good new => ?_⟩
    · refine congrArg Host.Outcome.next (admRun_ends cur ((fc_f _ _ _ ?_).trans (fc_t _ _ _ old)) (by decide))
      exact Bool.eq_false_iff.mpr (fun b => range.mp b good)
    · refine congrArg Host.Outcome.next (admRun_acts cur ((fc_f _ _ _ ?_).trans (fc_f _ _ _ ?_)))
      · exact Bool.eq_false_iff.mpr (fun b => range.mp b good)
      · exact Option.isSome_eq_false_iff.mpr (Option.isNone_iff_eq_none.mpr new)
  · intro ok
    have range : (decide (4095 < aAt c 8 2 ∨ aAt c 16 8 % 4096 ≠ 0) || !zeroBytes c [(10, 15), (24, 55)]) = true ↔ ¬ ok := by
      simp only [ok, n, Bool.or_eq_true, decide_eq_true_eq, Bool.not_eq_true']
      grind
    refine ⟨fun bad => congrArg Host.Outcome.next (admRun_ends cur (fc_t _ _ _ (range.mpr bad)) (by decide)), fun good old => ?_,
      fun good new => ⟨fun full => ?_, fun room => ?_⟩⟩
    · refine congrArg Host.Outcome.next (admRun_ends cur ((fc_f _ _ _ ?_).trans (fc_t _ _ _ old)) (by decide))
      exact Bool.eq_false_iff.mpr (fun b => range.mp b good)
    · refine congrArg Host.Outcome.next (admRun_ends cur ((fc_f _ _ _ ?_).trans ((fc_f _ _ _ ?_).trans (fc_t _ _ _ (decide_eq_true full)))) (by decide))
      · exact Bool.eq_false_iff.mpr (fun b => range.mp b good)
      · exact Option.isSome_eq_false_iff.mpr (Option.isNone_iff_eq_none.mpr new)
    · refine congrArg Host.Outcome.next (admRun_acts cur ((fc_f _ _ _ ?_).trans ((fc_f _ _ _ ?_).trans (fc_f _ _ _ ?_))))
      · exact Bool.eq_false_iff.mpr (fun b => range.mp b good)
      · exact Option.isSome_eq_false_iff.mpr (Option.isNone_iff_eq_none.mpr new)
      · exact decide_eq_false (Nat.not_le.mpr room)
  · intro ep ok put
    have range : (!zeroBytes c [(11, 11), (16, 55)] || decide (4095 < aAt c 12 2) || decide (epPort (aAt c 8 3) ≠ h)) = true ↔ ¬ ok := by
      simp only [ok, ep, Bool.or_eq_true, decide_eq_true_eq, Bool.not_eq_true']
      grind
    refine ⟨fun bad => congrArg Host.Outcome.next (admRun_ends cur (fc_t _ _ _ (range.mpr bad)) (by decide)), fun good none => ?_,
      fun good area inside => ⟨fun k live => ?_, fun free noPd => ?_, fun free pd => ?_⟩⟩
    · refine congrArg Host.Outcome.next (admRun_ends cur ((fc_f _ _ _ ?_).trans (fc_t _ _ _ (decide_eq_true none))) (by decide))
      exact Bool.eq_false_iff.mpr (fun b => range.mp b good)
    all_goals
      have pass : ∀ rest, firstCode ((!zeroBytes c [(11, 11), (16, 55)] || decide (4095 < aAt c 12 2) || decide (epPort (aAt c 8 3) ≠ h), 2) ::
          (decide (ctxLog s h = 0), 3) :: (decide (2 ^ ctxLog s h ≤ aAt c 8 3 % 8388608), 2) :: rest) = firstCode rest :=
        fun rest => (fc_f _ _ _ (Bool.eq_false_iff.mpr (fun b => range.mp b good))).trans
          ((fc_f _ _ _ (decide_eq_false area)).trans (fc_f _ _ _ (decide_eq_false (Nat.not_le.mpr inside))))
    · refine congrArg Host.Outcome.next (admRun_ends cur ((pass _).trans ?_) (by cases k.closing <;> decide))
      rw [show liveEp s h (aAt c 8 3) = some k from live]
      cases hk : k.closing <;> simp [firstCode, hk]
    · refine congrArg Host.Outcome.next (admRun_ends cur ((pass _).trans ?_) (by decide))
      rw [show liveEp s h (aAt c 8 3) = none from free, show tblGet (aAt c 12 2) (s.host h).pds = none from noPd]
      rfl
    · have passes := (pass _).trans (show firstCode [((liveEp s h (aAt c 8 3)).any (·.closing), 7), ((liveEp s h (aAt c 8 3)).isSome, 4),
          ((tblGet (aAt c 12 2) (s.host h).pds).isNone, 5)] = 0 by
        rw [show liveEp s h (aAt c 8 3) = none from free, Option.isNone_eq_false_iff.mpr pd]
        rfl)
      refine ⟨fun u room => congrArg Host.Outcome.next ((admRun_acts cur passes).trans ?_),
        fun noRoom => congrArg Host.Outcome.next ((admRun_acts cur passes).trans ?_)⟩
      · dsimp only
        rw [room]
      · dsimp only
        rw [noRoom]

end Sys2Proof.Proofs

namespace Sys2Proof.Proofs

open Sys2Proof.Machine Sys2Proof.Laws

/-! # Admin commands that destroy, and their late ends (R164, R167, R180, R206, R208)

The settlement of O43. -/

theorem writeHead_none {h : HostPort} {wq : Nat} {q : WorkQueue} {s : State} (some : tblGet wq (s.host h).wqs = some q)
    (due : q.headDue = false) : writeHead h wq s = s := by
  unfold writeHead
  rw [some]
  exact if_neg (by rw [due]; simp)

theorem writeHead_due {h : HostPort} {wq : Nat} {q : WorkQueue} {s : State} (some : tblGet wq (s.host h).wqs = some q)
    (due : q.headDue = true) (ready : headReady s h q = true) (live : s.hostLive h = true) :
    writeHead h wq s = modWq h wq (fun q => { q with headDue := false }) (hostWrite h q.headAddr (leBytes 8 q.head) plainAttr s) := by
  unfold writeHead
  rw [some]
  exact if_pos (by rw [due, ready, live]; rfl)

theorem admDestroyWqDone_ends {h : HostPort} {wq i : Nat} {q : WorkQueue} {s : State} (some : tblGet wq (s.host h).wqs = some q)
    (late : lateOf s h (fun k => decide (k = .destroyWq wq)) = .some i) : admDestroyWqDone h wq s =
      if q.closing && decide (q.head = q.pi) && s.hostLive h && (!q.headDue || headReady s h q) then
        admDone h i 0 0 ((writeHead h wq s).modHost h (fun x => { x with wqs := tblDel wq x.wqs }))
      else s := by
  unfold admDestroyWqDone
  rw [some, late]

theorem admDestroyEpDone_ends {h : HostPort} {ep i : Nat} {k : EpCtx} {s : State} (live : liveEp s h ep = some k)
    (late : lateOf s h (fun l => decide (l = .destroyEp ep)) = some i) : admDestroyEpDone h ep s =
      if k.closing && s.hostLive h && !(s.host h).rem.resvs.any (fun r => decide (keyEp r.2.pair = ep)) &&
        !(s.host h).mte.deliveries.any (fun d => d.2.isGet && decide (d.2.ep = ep)) then
      admDone h i 0 0 (s.modHost h (fun x => { x with
        eps := tblDel ep x.eps, pairs := x.pairs.filter (fun p => keyEp p.1 != ep),
        rem := { x.rem with late := x.rem.late.filter (fun l => keyEp l.1 != ep), owed := x.rem.owed.filter (fun o => keyEp o.pair != ep) } }))
      else s := by
  unfold admDestroyEpDone
  rw [live, late]

/-- Settles O43, along the checks of each command and the conditions of its late end. -/
theorem destroyCommands : Obligations.DestroyCommands := by
  unfold Obligations.DestroyCommands
  intro s h i c x n ends
  refine ⟨fun cur count => ?_, fun wq q some late => ?_, fun cur count => ?_, fun cur small zero => ?_, fun cur bad => ?_, fun cur beyond => ?_,
    fun cur zero port inside => ?_, fun ep k live late => ?_⟩
  · have pass : ∀ rest, firstCode ((decide (s.fget F.WQ_POOL_WQ_COUNT h.val ≤ aAt c 8 2), 2) :: rest) = firstCode rest :=
      fun rest => fc_f _ _ _ (decide_eq_false (Nat.not_le.mpr count))
    refine ⟨fun none => congrArg Host.Outcome.next (admRun_ends cur ((pass _).trans (fc_t _ _ _ ?_)) (by decide)), fun q some =>
      ⟨fun closing => congrArg Host.Outcome.next (admRun_ends cur ((pass _).trans ?_) (by decide)),
        fun open_ => congrArg Host.Outcome.next (admRun_acts cur ((pass _).trans ?_))⟩⟩
    · exact Option.isNone_iff_eq_none.mpr none
    · rw [show tblGet (aAt c 8 2) (s.host h).wqs = .some q from some]
      exact fc_t _ _ _ closing
    · rw [show tblGet (aAt c 8 2) (s.host h).wqs = .some q from some]
      exact fc_f _ _ _ open_
  · have go := admDestroyWqDone_ends some late
    refine ⟨fun closing same live => ⟨fun due => ?_, fun due ready => ?_⟩, fun stays => congrArg Host.Outcome.next (go.trans (if_neg ?_))⟩
    · refine congrArg Host.Outcome.next (go.trans ((if_pos (by rw [closing, live, due, decide_eq_true same]; rfl)).trans ?_))
      rw [writeHead_none some due]
    · refine congrArg Host.Outcome.next (go.trans ((if_pos (by rw [closing, live, due, ready, decide_eq_true same]; rfl)).trans ?_))
      rw [writeHead_due some due ready live]
    · rcases stays with moved | ⟨due, waits⟩
      · simp [moved]
      · simp [due, waits]
  · intro used
    have pass : ∀ rest, firstCode ((decide (s.fget F.EQ_POOL_EQ_COUNT h.val ≤ aAt c 8 2), 2) :: rest) = firstCode rest :=
      fun rest => fc_f _ _ _ (decide_eq_false (Nat.not_le.mpr count))
    refine ⟨fun none => congrArg Host.Outcome.next (admRun_ends cur ((pass _).trans (fc_t _ _ _ ?_)) (by decide)), fun q some =>
      ⟨fun held => congrArg Host.Outcome.next (admRun_ends cur ((pass _).trans ?_) (by decide)),
        fun free => congrArg Host.Outcome.next (admRun_acts cur ((pass _).trans ?_))⟩⟩
    · exact Option.isNone_iff_eq_none.mpr none
    · rw [show tblGet (aAt c 8 2) (s.host h).eqs = .some q from some]
      exact (fc_f _ _ _ rfl).trans (fc_t _ _ _ held)
    · rw [show tblGet (aAt c 8 2) (s.host h).eqs = .some q from some]
      exact (fc_f _ _ _ rfl).trans (fc_f _ _ _ free)
  · intro used
    have pass : ∀ rest, firstCode ((decide (4095 < aAt c 8 2) || !zeroBytes c [(10, 15), (24, 55)], 2) :: rest) = firstCode rest :=
      fun rest => fc_f _ _ _ (by rw [zero, decide_eq_false (Nat.not_lt.mpr small)]; rfl)
    refine ⟨fun none => congrArg Host.Outcome.next (admRun_ends cur ((pass _).trans (fc_t _ _ _ ?_)) (by decide)),
      fun there held => congrArg Host.Outcome.next (admRun_ends cur ((pass _).trans ((fc_f _ _ _ ?_).trans (fc_t _ _ _ held))) (by decide)),
      fun there free => congrArg Host.Outcome.next (admRun_acts cur ((pass _).trans ((fc_f _ _ _ ?_).trans (fc_f _ _ _ free))))⟩
    · exact Option.isNone_iff_eq_none.mpr none
    · exact Option.isNone_eq_false_iff.mpr there
    · exact Option.isNone_eq_false_iff.mpr there
  · refine congrArg Host.Outcome.next (admRun_ends cur (fc_t _ _ _ ?_) (by decide))
    rcases bad with large | nonzero
    · rw [decide_eq_true large]
      rfl
    · rw [nonzero, Bool.not_false, Bool.or_true]
  · refine congrArg Host.Outcome.next (admRun_ends cur (fc_t _ _ _ ?_) (by decide))
    rw [decide_eq_true (show 2 ^ ctxLog s h ≤ aAt c 8 3 % 8388608 from beyond), Bool.or_true]
  · have pass : ∀ rest, firstCode ((!zeroBytes c [(11, 11), (16, 55)] || decide (epPort (aAt c 8 3) ≠ h) ||
        decide (2 ^ ctxLog s h ≤ aAt c 8 3 % 8388608), 2) :: rest) = firstCode rest :=
      fun rest => fc_f _ _ _ (by
        rw [zero, decide_eq_false (not_not_intro port), decide_eq_false (Nat.not_le.mpr (show aAt c 8 3 % 8388608 < 2 ^ ctxLog s h from inside))]
        rfl)
    refine ⟨fun none => congrArg Host.Outcome.next (admRun_ends cur ((pass _).trans (fc_t _ _ _ ?_)) (by decide)), fun k live =>
      ⟨fun closing => congrArg Host.Outcome.next (admRun_ends cur ((pass _).trans ?_) (by decide)),
        fun open_ held => congrArg Host.Outcome.next (admRun_ends cur ((pass _).trans ?_) (by decide)),
        fun open_ free => congrArg Host.Outcome.next (admRun_acts cur ((pass _).trans ?_))⟩⟩
    · exact Option.isNone_iff_eq_none.mpr none
    · rw [live]
      exact (fc_f _ _ _ rfl).trans (fc_t _ _ _ closing)
    · rw [live]
      exact (fc_f _ _ _ rfl).trans ((fc_f _ _ _ open_).trans (fc_t _ _ _ held))
    · rw [live]
      exact (fc_f _ _ _ rfl).trans ((fc_f _ _ _ open_).trans (fc_f _ _ _ free))
  · intro held
    have go := admDestroyEpDone_ends live late
    refine ⟨fun closing alive free => congrArg Host.Outcome.next (congrArg roomAgain (go.trans (if_pos ?_))),
      fun stays => congrArg Host.Outcome.next (congrArg roomAgain (go.trans (if_neg ?_)))⟩
    · rw [Bool.or_eq_false_iff] at free
      rw [closing, alive, free.1, free.2]
      rfl
    · rcases Bool.or_eq_true_iff.mp stays with reserved | fetching
      · rw [reserved]
        simp
      · rw [fetching]
        simp

end Sys2Proof.Proofs

namespace Sys2Proof.Proofs

open Sys2Proof.Machine Sys2Proof.Laws

/-! # Windows, invalidations, shapers and groups (R164, R201, R202, R216, R218, R253 to R255, R273)

The settlements of O44 and O45. -/

/-! ## Windows and invalidations -/

/-- What an invalidation leaves of the cached translations, and the number of those it drops (R201, R202). -/
theorem invalidatePoint_atc (h : HostPort) (v : InvScope) (s : State) :
    ((invalidatePoint h v s).2.host h).xlt.atc = (s.host h).xlt.atc.filter (fun e => !invCovers v e.2.pd e.2.page e.2.size) ∧
      (invalidatePoint h v s).1.1 + ((invalidatePoint h v s).2.host h).xlt.atc.length = (s.host h).xlt.atc.length := by
  have kept : ((invalidatePoint h v s).2.host h).xlt.atc = (s.host h).xlt.atc.filter (fun e => !invCovers v e.2.pd e.2.page e.2.size) := by
    unfold invalidatePoint
    dsimp only
    rw [modHost_host_same]
  refine ⟨kept, ?_⟩
  rw [kept]
  exact Nat.sub_add_cancel (List.length_filter_le ..)

/-- An INVALIDATE's parameters are refused where its scope or its range is no legal one (R201). -/
theorem invalidate_scope {c : Bytes} (zero : zeroBytes c [(11, 15), (32, 55)] = true) :
    (decide (2 < aAt c 10 1) || (decide (aAt c 10 1 < 2) && decide (4095 < aAt c 8 2)) || !zeroBytes c [(11, 15), (32, 55)] ||
      (decide (aAt c 10 1 = 0) && decide (aAt c 16 8 % 4096 ≠ 0 ∨ 2 ^ 48 ≤ aAt c 16 8 ∨ aAt c 24 8 = 0 ∨ 2 ^ 36 < aAt c 24 8 ∨
        2 ^ 48 < aAt c 16 8 + 4096 * aAt c 24 8))) = true ↔
    2 < aAt c 10 1 ∨ (aAt c 10 1 < 2 ∧ 4095 < aAt c 8 2) ∨ (aAt c 10 1 = 0 ∧ (aAt c 16 8 % 4096 ≠ 0 ∨ 2 ^ 48 ≤ aAt c 16 8 ∨
      aAt c 24 8 = 0 ∨ 2 ^ 36 < aAt c 24 8 ∨ 2 ^ 48 < aAt c 16 8 + 4096 * aAt c 24 8)) := by
  rw [zero]
  simp only [Bool.not_true, Bool.or_false, Bool.or_eq_true, Bool.and_eq_true, decide_eq_true_eq, or_assoc]

/-- Settles O44, along the checks of each command and the conditions of its end. -/
theorem windowsAndInvalidations : Obligations.WindowsAndInvalidations := by
  unfold Obligations.WindowsAndInvalidations
  intro s h i c w ends
  refine ⟨fun cur => ?_, fun cur index small zero => ?_, fun win late live => ?_, fun cur zero => ?_, fun v => invalidatePoint_atc h v s,
    fun mid v run present go => ?_, fun n inv => ?_, fun removed n late => ?_⟩
  · intro ok made
    have range : (winIndexBad s h c || decide (4095 < aAt c 12 2 ∨ 31 < aAt c 14 1 ∨ 4095 < aAt c 16 2 ∨ 2 ^ 48 ≤ aAt c 24 8 ∨ aAt c 32 8 = 0 ∨
        2 ^ 48 < aAt c 24 8 + aAt c 32 8) || !zeroBytes c [(11, 11), (15, 15), (18, 23), (40, 55)]) = true ↔ ¬ ok := by
      simp only [ok, Bool.or_eq_true, decide_eq_true_eq, Bool.not_eq_true']
      grind
    have pass (good : ok) : ∀ rest, firstCode ((winIndexBad s h c || decide (4095 < aAt c 12 2 ∨ 31 < aAt c 14 1 ∨ 4095 < aAt c 16 2 ∨
        2 ^ 48 ≤ aAt c 24 8 ∨ aAt c 32 8 = 0 ∨ 2 ^ 48 < aAt c 24 8 + aAt c 32 8) ||
        !zeroBytes c [(11, 11), (15, 15), (18, 23), (40, 55)], 2) :: rest) = firstCode rest :=
      fun rest => fc_f _ _ _ (Bool.eq_false_iff.mpr (fun b => range.mp b good))
    refine ⟨fun bad => congrArg Host.Outcome.next (admRun_ends cur (fc_t _ _ _ (range.mpr bad)) (by decide)),
      fun good rndv => congrArg Host.Outcome.next (admRun_ends cur ((pass good _).trans (fc_t _ _ _ rndv)) (by decide)),
      fun good rndv revoking => congrArg Host.Outcome.next (admRun_ends cur ((pass good _).trans ((fc_f _ _ _ rndv).trans
        (fc_t _ _ _ revoking))) (by decide)), fun good rndv free => ⟨fun noPd => ?_, fun pd eq => ?_⟩⟩
    · refine congrArg Host.Outcome.next (admRun_ends cur ((pass good _).trans ((fc_f _ _ _ rndv).trans ((fc_f _ _ _ free).trans
        (fc_t _ _ _ ?_)))) (by decide))
      rw [noPd]
      rfl
    · have passes : openWinCode s h c = 0 := by
        refine (pass good _).trans ((fc_f _ _ _ rndv).trans ((fc_f _ _ _ free).trans (fc_f _ _ _ ?_)))
        rw [Option.isNone_eq_false_iff.mpr pd]
        rcases eq with low | there
        · rw [low]
          rfl
        · rw [Option.isNone_eq_false_iff.mpr there, Bool.and_false]
          rfl
      refine ⟨fun u need => ⟨fun opened => ?_, fun shut => ?_⟩, fun u k need => ?_⟩
      · refine congrArg Host.Outcome.next ((admRun_acts cur passes).trans ?_)
        dsimp only
        rw [need]
        exact if_pos opened
      · refine congrArg Host.Outcome.next ((admRun_acts cur passes).trans ?_)
        dsimp only
        rw [need]
        exact if_neg (by rw [shut]; decide)
      · refine congrArg Host.Outcome.next ((admRun_acts cur passes).trans ?_)
        dsimp only
        rw [need]
  · have pass : ∀ rest, firstCode ((winIndexBad s h c || decide (4095 < aAt c 12 2) ||
        !zeroBytes c [(11, 11), (15, 15), (18, 23), (40, 55)], 2) :: rest) = firstCode rest :=
      fun rest => fc_f _ _ _ (by rw [index, zero, decide_eq_false (Nat.not_lt.mpr small)]; rfl)
    refine ⟨fun rndv => congrArg Host.Outcome.next (admRun_ends cur ((pass _).trans (fc_t _ _ _ rndv)) (by decide)), fun rndv => ?_⟩
    refine ⟨fun u need => ⟨fun wrong => ?_, fun opened gen => ?_⟩, fun u k need => ?_⟩
    · refine congrArg Host.Outcome.next ((admRun_acts cur ((pass _).trans (fc_f _ _ _ rndv))).trans ?_)
      dsimp only
      rw [need]
      exact if_pos (wrong.imp_left (fun shut => by rw [shut]; rfl))
    · refine congrArg Host.Outcome.next ((admRun_acts cur ((pass _).trans (fc_f _ _ _ rndv))).trans ?_)
      dsimp only
      rw [need]
      refine if_neg ?_
      rintro (shut | other)
      · rw [opened] at shut
        exact absurd shut (by decide)
      · exact other gen
    · refine congrArg Host.Outcome.next ((admRun_acts cur ((pass _).trans (fc_f _ _ _ rndv))).trans ?_)
      dsimp only
      rw [need]
  · intro held
    have go : admRevokeDone h win s = if s.hostLive h && !winHeld s h win && !(s.host h).rem.atomics.any (fun a => decide (a.2.win = win))
        then admDone h i 0 0 s else s := by
      unfold admRevokeDone
      rw [late]
    refine ⟨fun free => congrArg Host.Outcome.next (go.trans (if_pos ?_)), fun stays => congrArg Host.Outcome.next (go.trans (if_neg ?_))⟩
    · rw [Bool.or_eq_false_iff] at free
      rw [live, free.1, free.2]
      rfl
    · rcases Bool.or_eq_true_iff.mp stays with held | atomic
      · rw [held]
        simp
      · rw [atomic]
        simp
  · intro scope r
    have range := invalidate_scope zero
    have pass (good : ¬ (2 < aAt c 10 1 ∨ (aAt c 10 1 < 2 ∧ 4095 < aAt c 8 2) ∨ (aAt c 10 1 = 0 ∧ (aAt c 16 8 % 4096 ≠ 0 ∨ 2 ^ 48 ≤ aAt c 16 8 ∨
        aAt c 24 8 = 0 ∨ 2 ^ 36 < aAt c 24 8 ∨ 2 ^ 48 < aAt c 16 8 + 4096 * aAt c 24 8)))) := Bool.eq_false_iff.mpr (fun b => good (range.mp b))
    refine ⟨fun beyond => congrArg Host.Outcome.next (admRun_ends cur (fc_t _ _ _ (range.mpr (.inl beyond))) (by decide)),
      fun two large => congrArg Host.Outcome.next (admRun_ends cur (fc_t _ _ _ (range.mpr (.inr (.inl ⟨two, large⟩)))) (by decide)),
      fun one small noPd => congrArg Host.Outcome.next (admRun_ends cur ((fc_f _ _ _ (pass ?_)).trans (fc_t _ _ _ ?_)) (by decide)),
      fun either => congrArg Host.Outcome.next (admRun_acts cur ((fc_f _ _ _ (pass ?_)).trans (fc_f _ _ _ ?_))),
      fun zeroScope small aligned low some few fits pd => congrArg Host.Outcome.next (admRun_acts cur ((fc_f _ _ _ (pass ?_)).trans (fc_f _ _ _ ?_)))⟩
    · omega
    · rw [decide_eq_true (show aAt c 10 1 < 2 by omega), noPd]
      rfl
    · omega
    · rcases either with two | ⟨one, -, pd⟩
      · rw [decide_eq_false (show ¬ aAt c 10 1 < 2 by omega)]
        rfl
      · rw [Option.isNone_eq_false_iff.mpr pd, Bool.and_false]
    · omega
    · rw [Option.isNone_eq_false_iff.mpr pd, Bool.and_false]
  · intro u
    have goes : exec (.xltInvGo mid h v) s = .next (if (s.host h).xlt.inv.isSome then s.fset F.XLT_INV_CTL_ERR 1 h.val else invGo h u) :=
      congrArg Host.Outcome.next ((write_inv_ctl h run present).trans (if_pos go))
    have idle (none : (s.host h).xlt.inv = .none) : (u.host h).xlt.inv.isSome = false := Option.isSome_eq_false_iff.mpr (Option.isNone_iff_eq_none.mpr none)
    refine ⟨fun busy => goes.trans (congrArg Host.Outcome.next (if_pos busy)), fun none three => ?_, fun none two => ?_⟩
    · refine goes.trans (congrArg Host.Outcome.next ((if_neg (by rw [none]; decide)).trans ((if_neg (by rw [idle none]; decide)).trans (if_pos ?_))))
      exact .inl three
    · intro r
      refine goes.trans (congrArg Host.Outcome.next ((if_neg (by rw [none]; decide)).trans ((if_neg (by rw [idle none]; decide)).trans ?_)))
      refine (if_neg (by rw [two]; omega)).trans ?_
      rw [two]
  · have go : invRegDone h s = if invSettled s h n then modXlt h (fun x => { x with inv := none }) s else s := by
      unfold invRegDone
      rw [inv]
    exact ⟨fun settled => congrArg Host.Outcome.next (go.trans (if_pos settled)),
      fun waits => congrArg Host.Outcome.next (go.trans (if_neg (by rw [waits]; decide)))⟩
  · refine ⟨fun settled => congrArg Host.Outcome.next ?_, fun waits => congrArg Host.Outcome.next ?_⟩
    · show admInvalidateDone h s = _
      unfold admInvalidateDone
      rw [late, List.findSome?_cons]
      dsimp only
      rw [settled]
      rfl
    · show admInvalidateDone h s = _
      unfold admInvalidateDone
      rw [late, List.findSome?_cons]
      dsimp only
      rw [waits]
      rfl

/-! ## Shapers and groups -/

theorem admTreeDone_none {h : HostPort} {i : Nat} {c : Bytes} {r : Nat × HostReq} {s : State}
    (read : (s.host h).hif.reqs.find? (fun r => decide (r.2.kind = .tree)) = some r) (cur : admCur (reqEnd h r.1 false s) h 13 = some (i, c)) :
    admTreeDone h none s = admDone h i 8 0 (reqFail h (reqEnd h r.1 false s)) := by
  unfold admTreeDone
  rw [read]
  dsimp only [Option.isSome_none]
  rw [cur]

theorem admTreeDone_some {h : HostPort} {i : Nat} {c data : Bytes} {r : Nat × HostReq} {s : State}
    (read : (s.host h).hif.reqs.find? (fun r => decide (r.2.kind = .tree)) = some r) (cur : admCur (reqEnd h r.1 true s) h 13 = some (i, c)) :
    admTreeDone h (some data) s =
      let u := reqEnd h r.1 true s
      let x := newGroup h c (padTo 272 data)
      let old := tblGet (aAt c 8 2) u.groups
      if badTree u x (padTo 272 data) then admDone h i 2 0 u
      else if old.any (fun g => decide (g.status = .disarming)) then admDone h i 7 0 u
      else if old.isSome then admDone h i 4 0 u
      else if u.fget F.COL_PART_UNITS < colUnits u + x.units then admDone h i 3 0 u
      else admDone h i 0 x.units { u with groups := tblSet (aAt c 8 2) x u.groups } := by
  unfold admTreeDone
  rw [read]
  dsimp only [Option.isSome_some]
  rw [cur]

/-- Settles O45, along the checks of each command and the end of the tree descriptor's read. -/
theorem groupCommands : Obligations.GroupCommands := by
  unfold Obligations.GroupCommands
  intro s h i c g ends
  refine ⟨fun cur => ?_, fun cur => ?_, fun r read => ?_, fun cur small zero => ?_, fun grp x armed late live => ?_⟩
  · intro ok
    have range : (decide (s.fget F.WQ_POOL_WQ_COUNT h.val ≤ aAt c 8 2 ∨ 1048575 < aAt c 12 4 ∨ aAt c 16 4 < 256 ∨ 16777215 < aAt c 16 4 ∨
        3 < aAt c 21 1) || !zeroBytes c [(10, 11), (22, 55)]) = true ↔ ¬ ok := by
      simp only [ok, g, Bool.or_eq_true, decide_eq_true_eq, Bool.not_eq_true']
      grind
    have pass (good : ok) := Bool.eq_false_iff.mpr (fun b => range.mp b good)
    refine ⟨fun bad => congrArg Host.Outcome.next (admRun_ends cur (fc_t _ _ _ (range.mpr bad)) (by decide)),
      fun good none => congrArg Host.Outcome.next (admRun_ends cur ((fc_f _ _ _ (pass good)).trans (fc_t _ _ _ ?_)) (by decide)),
      fun good q some => ⟨fun noLeash => congrArg Host.Outcome.next (admRun_ends cur ((fc_f _ _ _ (pass good)).trans ?_) (by decide)),
        fun leash => congrArg Host.Outcome.next (admRun_acts cur ((fc_f _ _ _ (pass good)).trans ?_))⟩⟩
    · exact Option.isNone_iff_eq_none.mpr none
    · rw [some]
      exact (fc_f _ _ _ rfl).trans (fc_t _ _ _ (Option.isNone_iff_eq_none.mpr noLeash))
    · rw [some]
      exact (fc_f _ _ _ rfl).trans (fc_f _ _ _ (Option.isNone_eq_false_iff.mpr leash))
  · intro ok
    have range : (decide (4095 < aAt c 8 2 ∨ aAt c 10 1 = 0 ∨ 16 < aAt c 10 1 ∨ aAt c 11 1 = 0 ∨ 16 < aAt c 11 1 ∨ aAt c 12 1 < 8 ∨
        12 < aAt c 12 1 ∨ aAt c 16 8 % 64 ≠ 0) || !zeroBytes c [(26, 55)]) = true ↔ ¬ ok := by
      simp only [ok, g, Bool.or_eq_true, decide_eq_true_eq, Bool.not_eq_true']
      grind
    have pass (good : ok) := Bool.eq_false_iff.mpr (fun b => range.mp b good)
    refine ⟨fun bad => congrArg Host.Outcome.next (admRun_ends cur (fc_t _ _ _ (range.mpr bad)) (by decide)),
      fun good x some => congrArg Host.Outcome.next (admRun_ends cur ((fc_f _ _ _ (pass good)).trans ?_) (by split <;> decide)),
      fun good none noRead noWait => congrArg Host.Outcome.next ((admRun_acts cur ((fc_f _ _ _ (pass good)).trans ?_)).trans (if_neg ?_))⟩
    · rw [some]
      by_cases disarming : x.status = .disarming
      · rw [if_pos disarming]
        exact fc_t _ _ _ (decide_eq_true disarming)
      · rw [if_neg disarming]
        exact (fc_f _ _ _ (decide_eq_false disarming)).trans (fc_t _ _ _ rfl)
    · rw [none]
      rfl
    · unfold reqOut
      rw [noRead, noWait]
      decide
  · intro lost u
    refine ⟨fun cur => congrArg Host.Outcome.next (congrArg (tagFreed h) (admTreeDone_none read cur)), fun cur data => ?_⟩
    intro d x
    have go := admTreeDone_some (data := data) read cur
    refine ⟨fun bad => congrArg Host.Outcome.next (congrArg (tagFreed h) (go.trans (if_pos bad))), fun good y some => ?_,
      fun good none full => ?_, fun good none room => ?_⟩
    · refine congrArg Host.Outcome.next (congrArg (tagFreed h) (go.trans ((if_neg (by rw [good]; decide)).trans ?_)))
      rw [some]
      by_cases disarming : y.status = .disarming
      · rw [if_pos disarming]
        exact if_pos (decide_eq_true disarming)
      · rw [if_neg disarming]
        exact (if_neg (by simpa using disarming)).trans (if_pos rfl)
    · refine congrArg Host.Outcome.next (congrArg (tagFreed h) (go.trans ((if_neg (by rw [good]; decide)).trans ?_)))
      rw [none]
      exact (if_neg (by decide)).trans ((if_neg (by decide)).trans (if_pos full))
    · refine congrArg Host.Outcome.next (congrArg (tagFreed h) (go.trans ((if_neg (by rw [good]; decide)).trans ?_)))
      rw [none]
      exact (if_neg (by decide)).trans ((if_neg (by decide)).trans (if_neg (Nat.not_lt.mpr room)))
  · have pass : (decide (4095 < aAt c 8 2) || !zeroBytes c [(26, 55)]) = false := by
      rw [zero, decide_eq_false (Nat.not_lt.mpr small)]
      rfl
    refine ⟨fun none => congrArg Host.Outcome.next (admRun_ends cur ((fc_f _ _ _ pass).trans ?_) (by decide)), fun x some =>
      ⟨fun other => congrArg Host.Outcome.next (admRun_ends cur ((fc_f _ _ _ pass).trans ?_) (by decide)),
        fun own disarming => congrArg Host.Outcome.next (admRun_ends cur ((fc_f _ _ _ pass).trans ?_) (by decide)),
        fun own armed => congrArg Host.Outcome.next ((admRun_acts cur ((fc_f _ _ _ pass).trans ?_)).trans ?_)⟩⟩
    · rw [none]
      rfl
    · rw [some, Option.filter_some, decide_eq_false other]
      rfl
    · rw [some, Option.filter_some, decide_eq_true own]
      exact (fc_f _ _ _ rfl).trans (fc_t _ _ _ (decide_eq_true disarming))
    · rw [some, Option.filter_some, decide_eq_true own]
      exact (fc_f _ _ _ rfl).trans (fc_f _ _ _ (decide_eq_false armed))
    · dsimp only
      rw [some]
      rfl
  · intro answered
    have go : admDisarmDone grp s = if x.status = .disarming ∧ x.slots.all (fun o => o.2.edges.all (fun e => !e.2.abort)) ∧ s.hostLive x.owner then
        admDone x.owner i 0 0 { s with groups := tblDel grp s.groups } else s := by
      unfold admDisarmDone
      rw [armed]
      dsimp only
      rw [late]
    refine ⟨fun disarming all => congrArg Host.Outcome.next (go.trans (if_pos ⟨disarming, all, live⟩)),
      fun waits => congrArg Host.Outcome.next (go.trans (if_neg ?_))⟩
    rintro ⟨-, all, -⟩
    exact absurd (waits.symm.trans all) (by decide)

end Sys2Proof.Proofs

namespace Sys2Proof.Proofs

open Sys2Proof.Machine Sys2Proof.Laws

/-! # Host links, function resets and the ends of host requests (R36, R154 to R158, R177 to R179, R226)

The settlements of O46, O47 and O48. -/

/-! ## Host links -/

theorem configWrite_unreached {h : HostPort} {s : State} (lost : hostReaches s h = false) (req : ConfigReq) : configWrite h req s = s :=
  if_pos (by rw [lost]; rfl)

/-- Settles O46, along the requests of a host. -/
theorem hostLinks : Obligations.HostLinks := by
  unfold Obligations.HostLinks
  intro s h
  refine ⟨fun reach b on n => ?_, fun lost req => congrArg Host.Outcome.next (configWrite_unreached lost req),
    fun run perst width rate flit wide low high => congrArg Host.Outcome.next (if_pos ?_),
    fun perst width rate flit => congrArg Host.Outcome.next (if_neg ?_), fun up => ?_, fun down => congrArg Host.Outcome.next (if_pos ?_)⟩
  · have reached : ¬ (!hostReaches s h) = true := by rw [reach]; decide
    exact ⟨congrArg Host.Outcome.next (if_neg reached), congrArg Host.Outcome.next (if_neg reached), congrArg Host.Outcome.next (if_neg reached),
      congrArg Host.Outcome.next (if_neg reached), congrArg Host.Outcome.next (if_neg reached), congrArg Host.Outcome.next (if_neg reached),
      congrArg Host.Outcome.next (if_neg reached), congrArg Host.Outcome.next (if_neg reached), congrArg Host.Outcome.next (if_neg reached),
      congrArg Host.Outcome.next (if_neg reached), congrArg Host.Outcome.next (if_neg reached), congrArg Host.Outcome.next (if_neg reached)⟩
  · rw [run, perst, decide_eq_true wide, decide_eq_true (show 1 ≤ rate ∧ rate ≤ 6 from ⟨low, high⟩)]
    rfl
  · rw [perst]
    simp
  · exact congrArg Host.Outcome.next (if_neg (by rw [up]; decide))
  · rw [down]
    rfl

/-! ## Function resets -/

theorem funcStart_starts {h : HostPort} {s : State} (ready : funcReady s h = true) (idle : (s.host h).hif.inReset = false)
    (unclamped : s.rst.clamped.testBit (2 + h.val) = false) : funcStart h s = resetMaster (BitVec.ofNat 8 (0x10 + h.val)) (refuseParked h
      (s.modHif h (fun x => { x with inReset := true, heldBells := [] }))) := by
  have free : funcUnclamp h s = s := if_neg (by rw [unclamped]; decide)
  unfold funcStart
  rw [if_neg (by rw [ready, idle]; decide), free]

theorem funcStart_absorbed {h : HostPort} {s : State} (busy : (s.host h).hif.inReset = true) : funcStart h s = s :=
  if_pos (by rw [busy, Bool.or_true])

/-- The host link is down under PERST# (R154, R177). -/
def perstLow (h : HostPort) (s : State) : State := linkOff h (s.modHif h (fun x => { x with perst := true }))

theorem perstLow_inReset (h : HostPort) (s : State) : ((perstLow h s).host h).hif.inReset = (s.host h).hif.inReset := by
  unfold perstLow linkOff
  rw [modHif_host_same, modHif_host_same]

theorem perstOn_falls {h : HostPort} {s : State} (high : (s.host h).hif.perst = false) (present : s.hostPresent h.val = true) :
    perstOn h s = funcStart h (perstLow h s) := if_neg (by rw [high, present]; decide)

theorem funcDone_stays {h : HostPort} {s : State} (stays : (s.host h).hif.inReset = false ∨ (s.rst.coreRel = false ∧ s.cfg.state ≠ .noImage)) :
    funcDone h s = s := by
  refine if_pos ?_
  rcases stays with idle | ⟨core, loading⟩
  · rw [idle]
    rfl
  · rw [core, decide_eq_false loading, Bool.or_false, Bool.not_false, Bool.or_true]

/-- Settles O47, along the start and the end of a function reset. -/
theorem functionResets : Obligations.FunctionResets := by
  unfold Obligations.FunctionResets
  intro s h starts off
  refine ⟨fun ready free => ⟨fun reach => ?_, fun high present idle => ?_, fun high present busy => ?_⟩,
    fun busy => congrArg Host.Outcome.next ?_, fun low => congrArg Host.Outcome.next (if_pos ?_),
    fun low present => congrArg Host.Outcome.next (if_pos ?_), fun high => congrArg Host.Outcome.next (if_neg ?_), fun busy core => ?_,
    fun stays => congrArg Host.Outcome.next (congrArg roomAgain (funcDone_stays stays))⟩
  · have idle : (s.host h).hif.inReset = false := by
      unfold hostReaches at reach
      exact (Bool.not_eq_true' _).mp (Bool.and_eq_true_iff.mp reach).2
    exact congrArg Host.Outcome.next ((if_pos reach).trans (funcStart_starts ready idle free))
  · exact congrArg Host.Outcome.next ((perstOn_falls high present).trans
      (funcStart_starts (s := perstLow h s) ready ((perstLow_inReset h s).trans idle) free))
  · exact congrArg Host.Outcome.next ((perstOn_falls high present).trans (funcStart_absorbed ((perstLow_inReset h s).trans busy)))
  · show (if hostReaches s h then funcStart h s else s) = s
    rw [funcStart_absorbed busy, ite_self]
  · rw [low]
    rfl
  · rw [low, present]
    rfl
  · rw [high, Bool.false_and]
    decide
  · refine ⟨funcDone h s, rfl, ?_⟩
    have done : funcDone h s = _ := if_neg (by
      rw [busy]
      rcases core with released | loading
      · simp [released]
      · simp [loading])
    rw [done]
    refine ⟨modHost_host_same s h (funcClear (hostTable s h) (s.flag F.EPC_LOST_FLAG h.val)), fun k ne => modHost_host_other _ _ _ _ ne, rfl,
      ?_, rfl, rfl, rfl, rfl⟩
    exact (fget_fset _ F.EPC_LOST_FLAG 1 h.val 0 (by decide) (by decide)).trans rfl

/-! ## The ends of host requests -/

section
variable {h : HostPort} {tag : Nat} {s : State}

theorem reqTimeout_unused (none : reqOf s h tag = none) : reqTimeout h tag s = s := by
  unfold reqTimeout
  rw [none]

theorem localReadEnd_local {wq idx len : Nat} (data : Option Bytes) (req : reqOf s h tag = some (.local wq idx len)) :
    localReadEnd h tag data s = reqThen h tag data.isSome (localDone h wq idx len data) s := by
  unfold localReadEnd
  rw [req]

theorem localReadEnd_col {g k seg len : Nat} (data : Option Bytes) (req : reqOf s h tag = some (.colRead g k seg len)) :
    localReadEnd h tag data s = reqThen h tag data.isSome (colReadDone h g k seg len data) s := by
  unfold localReadEnd
  rw [req]

theorem getReadEnd_get {r off len : Nat} (data : Option Bytes) (req : reqOf s h tag = some (.getRead r off len)) :
    getReadEnd h tag data s = reqThen h tag data.isSome (getReadDone h r off len data) s := by
  unfold getReadEnd
  rw [req]

theorem atomicReadEnd_atomic {a : Nat} (data : Option Bytes) (req : reqOf s h tag = some (.atomicRead a)) :
    atomicReadEnd h tag data s = reqThen h tag data.isSome (atomicDone h a data) s := by
  unfold atomicReadEnd
  rw [req]

theorem flushReadEnd_flush {id : Nat} (ok : Bool) (req : reqOf s h tag = some (.flush id)) :
    flushReadEnd h tag ok s = reqThen h tag ok (flushEnd h id ok) s := by
  unfold flushReadEnd
  rw [req]

theorem recordReadEnd_record {id : Nat} (ok : Bool) (req : reqOf s h tag = some (.record id)) :
    recordReadEnd h tag ok s = reqThen h tag ok (fun t => recordDone h id ok (failIf (!ok) h t)) s := by
  unfold recordReadEnd
  rw [req]

theorem slotReadEnd_slot {id : Nat} (data : Option Bytes) (req : reqOf s h tag = some (.dataSlot id)) :
    slotReadEnd h tag data s = reqThen h tag data.isSome (fun t => dataSlotDone h id data (failIf data.isNone h t)) s := by
  unfold slotReadEnd
  rw [req]

theorem blockReadEnd_block {ep : Nat} (ok : Bool) (req : reqOf s h tag = some (.kennelBlock ep)) :
    blockReadEnd h tag ok s = reqThen h tag ok (fun t => kennelDone h ep ok (failIf (!ok) h t)) s := by
  unfold blockReadEnd
  rw [req]

/-- What an unanswered request of a kind ends as (R157, R179). -/
def timeoutEnd (h : HostPort) (tag : Nat) : ReqKind → State → State
  | .admin _ _, s => tagFreed h (admRead h none s)
  | .tree, s => tagFreed h (admTreeDone h none s)
  | .desc wq _ _ _, s => tagFreed h (descsDone h wq none s)
  | .local _ _ _, s | .colRead _ _ _ _, s => localReadEnd h tag none s
  | .walk _, s => tagFreed h (walkDoneIn h tag none s)
  | .context _, s | .pair _, s | .window _, s => tagFreed h (fetchDoneIn h tag false s)
  | .getRead _ _ _, s => getReadEnd h tag none s
  | .atomicRead _, s => atomicReadEnd h tag none s
  | .flush _, s => flushReadEnd h tag false s
  | .record _, s => recordReadEnd h tag false s
  | .dataSlot _, s => slotReadEnd h tag none s
  | .kennelBlock _, s => blockReadEnd h tag false s

theorem reqTimeout_kind {k : ReqKind} (req : reqOf s h tag = some k) :
    reqTimeout h tag s = timeoutEnd h tag k (s.finc F.HIF_ERR_CPL_TO_CNT 1 h.val) := by
  unfold reqTimeout
  rw [req]
  cases k <;> rfl

end

/-- Settles O48, along the kinds of requests. -/
theorem requestEnds : Obligations.RequestEnds := by
  unfold Obligations.RequestEnds
  intro s h tag late then_ fails
  have timeout {k : ReqKind} (req : reqOf s h tag = some k) : exec (.hostRequestTimeout h tag) s = .next (timeoutEnd h tag k late) :=
    congrArg Host.Outcome.next (reqTimeout_kind req)
  refine ⟨fun none => ⟨congrArg Host.Outcome.next (reqTimeout_unused none), fun data ok => ?_⟩, fun wq idx len req => ?_, fun g k seg len req => ?_,
    fun r off len req => ?_, fun a req => ?_, fun id req => ?_, fun id req => ?_, fun id req => ?_, fun ep req => ?_, fun w req => timeout req,
    fun k req => ?_, fun wq lo n again req => timeout req, fun i n req => timeout req, fun req => timeout req⟩
  · refine ⟨congrArg Host.Outcome.next ?_, congrArg Host.Outcome.next ?_, congrArg Host.Outcome.next ?_, congrArg Host.Outcome.next ?_,
      congrArg Host.Outcome.next ?_, congrArg Host.Outcome.next ?_, congrArg Host.Outcome.next ?_⟩
    · show localReadEnd h tag data s = s
      unfold localReadEnd
      rw [none]
    · show getReadEnd h tag data s = s
      unfold getReadEnd
      rw [none]
    · show atomicReadEnd h tag data s = s
      unfold atomicReadEnd
      rw [none]
    · show flushReadEnd h tag ok s = s
      unfold flushReadEnd
      rw [none]
    · show recordReadEnd h tag ok s = s
      unfold recordReadEnd
      rw [none]
    · show blockReadEnd h tag ok s = s
      unfold blockReadEnd
      rw [none]
    · show slotReadEnd h tag data s = s
      unfold slotReadEnd
      rw [none]
  · exact ⟨(timeout req).trans (congrArg Host.Outcome.next (localReadEnd_local (s := late) none req)),
      fun data => congrArg Host.Outcome.next (localReadEnd_local data req)⟩
  · exact ⟨(timeout req).trans (congrArg Host.Outcome.next (localReadEnd_col (s := late) none req)),
      fun data => congrArg Host.Outcome.next (localReadEnd_col data req)⟩
  · exact ⟨(timeout req).trans (congrArg Host.Outcome.next (getReadEnd_get (s := late) none req)),
      fun data => congrArg Host.Outcome.next (getReadEnd_get data req)⟩
  · exact ⟨(timeout req).trans (congrArg Host.Outcome.next (atomicReadEnd_atomic (s := late) none req)),
      fun data => congrArg Host.Outcome.next (atomicReadEnd_atomic data req)⟩
  · exact ⟨(timeout req).trans (congrArg Host.Outcome.next (flushReadEnd_flush (s := late) false req)),
      fun ok => congrArg Host.Outcome.next (flushReadEnd_flush ok req)⟩
  · exact ⟨(timeout req).trans (congrArg Host.Outcome.next (recordReadEnd_record (s := late) false req)),
      fun ok => congrArg Host.Outcome.next (recordReadEnd_record ok req)⟩
  · exact ⟨(timeout req).trans (congrArg Host.Outcome.next (slotReadEnd_slot (s := late) none req)),
      fun data => congrArg Host.Outcome.next (slotReadEnd_slot data req)⟩
  · exact ⟨(timeout req).trans (congrArg Host.Outcome.next (blockReadEnd_block (s := late) false req)),
      fun ok => congrArg Host.Outcome.next (blockReadEnd_block ok req)⟩
  · rcases req with req | req | req
    · exact timeout req
    · exact timeout req
    · exact timeout req

end Sys2Proof.Proofs

namespace Sys2Proof.Proofs

open Sys2Proof.Machine Sys2Proof.Laws

/-! # Event queues (R9, R181 to R188)

The settlement of O49. -/

section
variable {h : HostPort} {eq : Nat} {q : EventQueue} {s : State}

theorem eqCiWrite_beyond {v : Word} (some : tblGet eq (s.host h).eqs = some q)
    (beyond : ringSize q.logSize < ringCount q.logSize q.pi (bellIndex q.logSize v)) :
    eqCiWrite h eq v s = haltHost h 6 eq false true (fieldOf v 16 0) s := by
  unfold eqCiWrite
  rw [some]
  exact if_pos beyond

theorem eqCiWrite_within {v : Word} (some : tblGet eq (s.host h).eqs = some q)
    (within : ringCount q.logSize q.pi (bellIndex q.logSize v) ≤ ringSize q.logSize) : eqCiWrite h eq v s =
      if bitOf v 31 then Machine.eqArm h eq (modEq h eq (fun r => { r with ci := bellIndex q.logSize v }) s)
      else modEq h eq (fun r => { r with ci := bellIndex q.logSize v }) s := by
  unfold eqCiWrite
  rw [some]
  exact if_neg (Nat.not_lt.mpr within)

theorem eqArm_noVector (some : tblGet eq (s.host h).eqs = some q) (off : q.vecEn = false) : Machine.eqArm h eq s = s := by
  unfold Machine.eqArm
  rw [some]
  exact if_pos (by rw [off]; rfl)

theorem eqArm_empty (some : tblGet eq (s.host h).eqs = some q) (on : q.vecEn = true) (same : q.pi = q.ci) (decided : q.decided = [])
    (stash : q.stash = []) : Machine.eqArm h eq s = modEq h eq (fun r => { r with armed := true }) s := by
  unfold Machine.eqArm
  rw [some]
  exact (if_neg (by rw [on]; decide)).trans (if_neg (by rw [decided, stash]; simp [same]))

theorem eqArm_owes (some : tblGet eq (s.host h).eqs = some q) (on : q.vecEn = true) (holds : q.pi ≠ q.ci ∨ q.decided ≠ [] ∨ q.stash ≠ []) :
    Machine.eqArm h eq s = eqDue h eq (modEq h eq (fun r => { r with armed := false, due := r.due ++ [r.decidedNo] }) s) := by
  unfold Machine.eqArm
  rw [some]
  refine (if_neg (by rw [on]; decide)).trans (if_pos ?_)
  rcases holds with unread | decided | stash
  · rw [decide_eq_true unread]
    rfl
  · simp [decided]
  · simp [stash]

/-- The messages a queue owes go out once what they wait for is written (R184). -/
theorem eqDue_one {n : Nat} (some : tblGet eq (s.host h).eqs = some q) (due : q.due = [n]) : eqDue h eq s =
    if n ≤ q.writtenNo then msixSend h q.vector (modEq h eq (fun r => { r with due := r.due.filter (fun n => !decide (n ≤ r.writtenNo)) }) s)
    else modEq h eq (fun r => { r with due := r.due.filter (fun n => !decide (n ≤ r.writtenNo)) }) s := by
  unfold eqDue
  rw [some]
  dsimp only
  rw [due]
  by_cases written : n ≤ q.writtenNo
  · rw [if_pos written, show [n].filter (fun k => decide (k ≤ q.writtenNo)) = [n] by simp [written]]
    rfl
  · rw [if_neg written, show [n].filter (fun k => decide (k ≤ q.writtenNo)) = [] by simp [written]]
    rfl

/-- An entry goes to the ring at PI with that index's PHASE (R181, R188). -/
theorem eqPlace_at {r : EventQueue} (e : Bytes) (stashed : Bool) (there : tblGet eq (s.host h).eqs = some r) (pi : r.pi = q.pi)
    (log : r.logSize = q.logSize) (ring : r.ring = q.ring) (tph : r.tphEn = q.tphEn) (st : r.st = q.st) :
    eqPlace h eq e stashed s = eqDue h eq (eqFire h eq (modEq h eq
      (fun r => { r with pi := ringNext q.logSize r.pi, writtenNo := r.writtenNo + 1 })
      (hostWrite h (q.ring + 64 * (q.pi % ringSize q.logSize))
        (patchBytes e 1 (leBytes 1 ((byteAt e 1).toNat + wrapBit q.logSize q.pi + 4 * b2n stashed)))
        { plainAttr with st := if q.tphEn then some q.st else none } s))) := by
  unfold eqPlace
  rw [there]
  dsimp only
  rw [pi, log, ring, tph, st]
  rfl

theorem eventWrite_decided {e : Bytes} {rest : List Bytes} (some : tblGet eq (s.host h).eqs = some q) (decided : q.decided = e :: rest)
    (live : s.hostLive h = true) : eventWrite h eq s =
      if q.stash.isEmpty && eqFree q then eqPlace h eq e false (modEq h eq (fun r => { r with decided := rest }) s)
      else if q.stash.length < 64 then
        modEq h eq (fun r => { r with stash := r.stash ++ [e] }) (modEq h eq (fun r => { r with decided := rest }) s)
      else s := by
  unfold eventWrite
  rw [some]
  dsimp only
  rw [decided]
  exact if_neg (by rw [live]; decide)

theorem eventWrite_idle (some : tblGet eq (s.host h).eqs = some q) (idle : q.decided = [] ∨ s.hostLive h = false) : eventWrite h eq s = s := by
  unfold eventWrite
  rw [some]
  dsimp only
  rcases idle with none | dead
  · rw [none]
  · split
    · rfl
    · exact if_pos (by rw [dead]; rfl)

theorem stashDrainN_none (n : Nat) (some : tblGet eq (s.host h).eqs = some q) (none : q.stash = []) : stashDrainN h eq n s = s := by
  cases n with
  | zero => rfl
  | succ n =>
    unfold stashDrainN
    rw [some]
    dsimp only
    rw [none]

theorem stashDrainN_entry {e : Bytes} {rest : List Bytes} (n : Nat) (some : tblGet eq (s.host h).eqs = some q) (stash : q.stash = e :: rest) :
    stashDrainN h eq (n + 1) s = if eqFree q && s.hostLive h then
      stashDrainN h eq n (eqPlace h eq e true (modEq h eq (fun r => { r with stash := rest }) s)) else s := by
  rw [stashDrainN, some]
  dsimp only
  rw [stash]

theorem asyncWrite_off {h : HostPort} {s : State} (off : s.flag F.EQ_ASYNC_ENABLE h.val = false ∨ s.hostLive h = false) : asyncWrite h s = s := by
  refine if_neg ?_
  rcases off with off | dead
  · rw [off]
    simp
  · rw [dead]
    simp

theorem asyncWrite_one {h : HostPort} {s : State} {code : Nat} {a : AsyncPend} (on : s.flag F.EQ_ASYNC_ENABLE h.val = true)
    (live : s.hostLive h = true) (one : (s.host h).async = [(code, a)]) : asyncWrite h s =
      if (s.fget F.EQ_ASYNC_MASK h.val).testBit code then s else asyncPut h (s.fget F.EQ_ASYNC_EQ h.val) code a s := by
  unfold asyncWrite
  dsimp only
  rw [if_pos (by rw [on, live]; rfl), one]
  rfl

theorem asyncPut_queue (code : Nat) (a : AsyncPend) (some : tblGet eq (s.host h).eqs = some q) : asyncPut h eq code a s =
    (let entry := patchBytes (mkEvent s 8 0 (asyncBody code a)) 56 (leBytes 8 a.time.toNat)
     let taken := (modEq h eq (fun r => { r with decidedNo := r.decidedNo + 1 }) s).modHost h (fun x => { x with async := tblDel code x.async })
     if !q.decided.isEmpty then s
     else if q.stash.isEmpty && eqFree q then eqPlace h eq entry false taken
     else if q.stash.length < 64 then modEq h eq (fun r => { r with stash := r.stash ++ [entry] }) taken
     else s) := by
  unfold asyncPut
  rw [some]

theorem isEmpty_of_long {α : Type} {l : List α} {n : Nat} (long : n + 1 ≤ l.length) : l.isEmpty = false := by
  cases l with
  | nil => exact absurd long (by simp)
  | cons => rfl

end

/-- Settles O49, along the two ends of an event queue and the async entries. -/
theorem eventQueues : Obligations.EventQueues := by
  unfold Obligations.EventQueues
  intro s h eq q mid v some ci taken owing settled room put stashed
  have free : eqFree q = true ↔ room := decide_eq_true_iff
  refine ⟨rfl, fun run present => ?_, fun live e rest decided => ?_, fun idle => ?_, fun e rest stash => ?_, fun none => ?_,
    fun names code a one => ?_⟩
  · have go : exec (.eqCiUpdate mid h eq v) s = .next (eqCiWrite h eq.val v s) := congrArg Host.Outcome.next (write_eq_ci h eq run present)
    have after : tblGet eq.val (taken.host h).eqs = .some { q with ci := ci } := modEq_get h eq.val _ s q some
    refine ⟨fun beyond => go.trans (congrArg Host.Outcome.next (eqCiWrite_beyond some beyond)), fun within => ?_⟩
    have takes := go.trans (congrArg Host.Outcome.next (eqCiWrite_within some within))
    refine ⟨fun quiet => takes.trans (congrArg Host.Outcome.next ?_), fun arm on same decided stash => ?_, fun arm on holds => ⟨?_, fun due written => ?_,
      fun due waits => ?_⟩⟩
    · rcases quiet with low | off
      · exact if_neg (by rw [low]; decide)
      · rw [eqArm_noVector after off, ite_self]
    · exact takes.trans (congrArg Host.Outcome.next ((if_pos arm).trans (eqArm_empty after on same decided stash)))
    · exact takes.trans (congrArg Host.Outcome.next ((if_pos arm).trans (eqArm_owes after on holds)))
    · refine (eqDue_one (modEq_get h eq.val _ taken _ after) ?_).trans (if_pos written)
      exact congrArg (· ++ [q.decidedNo]) due
    · refine (eqDue_one (modEq_get h eq.val _ taken _ after) ?_).trans (if_neg (Nat.not_le.mpr waits))
      exact congrArg (· ++ [q.decidedNo]) due
  · intro after
    have go := eventWrite_decided some decided live
    have there : tblGet eq.val (after.host h).eqs = .some { q with decided := rest } := modEq_get h eq.val _ s q some
    refine ⟨fun none has => congrArg Host.Outcome.next (congrArg (slotsFreed h) (go.trans ((if_pos ?_).trans ?_))),
      fun full fits => congrArg Host.Outcome.next (congrArg (slotsFreed h) (go.trans ((if_neg ?_).trans (if_pos fits)))),
      fun long => congrArg Host.Outcome.next (congrArg (slotsFreed h) (go.trans ((if_neg ?_).trans (if_neg (Nat.not_lt.mpr long)))))⟩
    · rw [none, free.mpr has]
      rfl
    · exact eqPlace_at e false there rfl rfl rfl rfl rfl
    · rcases full with stash | noRoom
      · simp [stash]
      · rw [Bool.eq_false_iff.mpr (fun b => noRoom (free.mp b))]
        simp
    · rw [isEmpty_of_long long]
      simp
  · exact congrArg Host.Outcome.next (congrArg (slotsFreed h) (eventWrite_idle some idle))
  · have go := stashDrainN_entry (h := h) 63 some stash
    have there : tblGet eq.val ((modEq h eq.val (fun r => { r with stash := rest }) s).host h).eqs = .some { q with stash := rest } :=
      modEq_get h eq.val _ s q some
    refine ⟨fun has live => congrArg Host.Outcome.next (congrArg (slotsFreed h) (go.trans ((if_pos ?_).trans ?_))),
      fun stays => congrArg Host.Outcome.next (congrArg (slotsFreed h) (go.trans (if_neg ?_)))⟩
    · rw [free.mpr has, live]
      rfl
    · exact congrArg (stashDrainN h eq.val 63) (eqPlace_at e true there rfl rfl rfl rfl rfl)
    · rcases stays with noRoom | dead
      · rw [Bool.eq_false_iff.mpr (fun b => noRoom (free.mp b))]
        simp
      · rw [dead]
        simp
  · exact congrArg Host.Outcome.next (congrArg (slotsFreed h) (stashDrainN_none 64 some none))
  · intro entry gone
    have names : s.fget F.EQ_ASYNC_EQ h.val = eq.val := names
    have put := asyncPut_queue (h := h) code a some
    have there : tblGet eq.val (gone.host h).eqs = .some { q with decidedNo := q.decidedNo + 1 } := by
      unfold gone
      rw [modHost_host_same]
      exact modEq_get h eq.val _ s q some
    refine ⟨fun on live unmasked decided => ?_, fun stays => congrArg Host.Outcome.next ?_⟩
    · have go : exec (.asyncPendingWrite h) s = .next (asyncPut h eq.val code a s) := by
        refine congrArg Host.Outcome.next ((asyncWrite_one on live one).trans ((if_neg (by rw [unmasked]; decide)).trans ?_))
        rw [names]
      have open_ := put.trans (if_neg (by rw [decided]; decide))
      refine ⟨fun none has => go.trans (congrArg Host.Outcome.next (open_.trans ((if_pos ?_).trans ?_))),
        fun full fits => go.trans (congrArg Host.Outcome.next (open_.trans ((if_neg ?_).trans (if_pos fits))))⟩
      · rw [none, free.mpr has]
        rfl
      · exact eqPlace_at entry false there rfl rfl rfl rfl rfl
      · rcases full with stash | noRoom
        · simp [stash]
        · rw [Bool.eq_false_iff.mpr (fun b => noRoom (free.mp b))]
          simp
    · show asyncWrite h s = s
      by_cases ready : s.flag F.EQ_ASYNC_ENABLE h.val = true ∧ s.hostLive h = true
      · obtain ⟨on, live⟩ := ready
        rw [asyncWrite_one on live one, names]
        rcases stays with off | dead | masked | decided | long
        · rw [on] at off
          exact absurd off (by decide)
        · rw [live] at dead
          exact absurd dead (by decide)
        · exact if_pos masked
        · have waits : asyncPut h eq.val code a s = s := put.trans (if_pos (by simp [decided]))
          rw [waits, ite_self]
        · have waits : asyncPut h eq.val code a s = s := by
            refine put.trans ?_
            dsimp only
            rw [isEmpty_of_long long, Bool.false_and, if_neg Bool.false_ne_true, if_neg (Nat.not_lt.mpr long), ite_self]
          rw [waits, ite_self]
      · exact asyncWrite_off (by simpa only [not_and_or, Bool.not_eq_true] using ready)

end Sys2Proof.Proofs

namespace Sys2Proof.Proofs

open Sys2Proof.Machine Sys2Proof.Laws

/-! # Walks, fetches and page requests (R157, R190 to R195, R202, R213, R224, R225)

The settlement of O50. -/

section
variable {h : HostPort} {tag id : Nat} {w : Walk} {s : State}

theorem walkRead_error {d : Bytes} {r : WalkEnd} {e : Option AtcEntry} (walk : tblGet id (s.host h).xlt.walks = some w)
    (ends : walkPte s h w (BitVec.ofNat 64 (leAt d 0 8)) = .error (r, e)) :
    walkRead h id (some d) s = (endWalk h id e s, some (w, walkEndOf w r)) := by
  unfold walkRead
  rw [walk]
  dsimp only
  rw [ends]

theorem walkRead_ok {d : Bytes} {table : Nat} (walk : tblGet id (s.host h).xlt.walks = some w)
    (next : walkPte s h w (BitVec.ofNat 64 (leAt d 0 8)) = .ok table) :
    walkRead h id (some d) s = walkNext h id w (w.level - 1) table s := by
  unfold walkRead
  rw [walk]
  dsimp only
  rw [next]

theorem walkRead_failed (walk : tblGet id (s.host h).xlt.walks = some w) :
    walkRead h id none s = (endWalk h id none s, some (w, walkEndOf w (.fault 7 w.level))) := by
  unfold walkRead
  rw [walk]

theorem walkNext_refused {level table c : Nat} (refused : walkCheck s h (walkEntry table w.va level) = some c) (free : tagFree s h = true) :
    walkNext h id w level table s = (endWalk h id none s, some (w, walkEndOf w (.fault c level))) := by
  unfold walkNext
  dsimp only
  rw [if_pos free, refused]

theorem walkNext_reads {level table : Nat} (passes : walkCheck s h (walkEntry table w.va level) = none ∨ tagFree s h = false) :
    walkNext h id w level table s = (hostReq h (.walk id) (walkEntry table w.va level) 8 false (modXlt h (fun x =>
      { x with walks := tblMod id (fun k => { k with level := level, table := table }) x.walks }) s), none) := by
  have check : (if tagFree s h then walkCheck s h (walkEntry table w.va level) else none) = none := by
    rcases passes with good | waits
    · rw [good, ite_self]
    · rw [waits]
      rfl
  unfold walkNext
  dsimp only
  rw [check]

theorem walkDoneIn_goes {d : Bytes} {t : State} (req : reqOf s h tag = some (.walk id)) (live : (reqEnd h tag true s).hostLive h = true)
    (read : walkRead h id (some d) (reqEnd h tag true s) = (t, none)) : walkDoneIn h tag (some d) s = t := by
  rw [walk_ok req live, read]

theorem walkDoneIn_ends {d : Bytes} {t : State} {e : WalkEnd} (req : reqOf s h tag = some (.walk id))
    (live : (reqEnd h tag true s).hostLive h = true) (read : walkRead h id (some d) (reqEnd h tag true s) = (t, some (w, e))) :
    walkDoneIn h tag (some d) s = walkOver h w e t := by
  rw [walk_ok req live, read]

theorem walkDoneIn_failed {t : State} {e : WalkEnd} (req : reqOf s h tag = some (.walk id)) (live : (reqEnd h tag false s).hostLive h = true)
    (read : walkRead h id none (reqFail h (reqEnd h tag false s)) = (t, some (w, e))) : walkDoneIn h tag none s = walkOver h w e t := by
  unfold walkDoneIn
  rw [req]
  dsimp only [Option.isSome_none, Option.isNone_none]
  rw [live, if_pos rfl, read]
  rfl

theorem walkPte_absent {pte : Word} (absent : bitOf pte 0 = false) : walkPte s h w pte = .error (.absent w.level, none) :=
  if_pos (by rw [absent]; rfl)

theorem walkPte_reserved {pte : Word} (present : bitOf pte 0 = true) (reserved : bitOf pte 63 = true) :
    walkPte s h w pte = .error (.fault 3 w.level, none) :=
  (if_neg (by rw [present]; decide)).trans (if_pos (.inr reserved))

theorem fetchDoneIn_fetch {k : ReqKind} (ok : Bool) (req : reqOf s h tag = some k)
    (record : (∃ ep, k = .context ep) ∨ (∃ key, k = .pair key)) : fetchDoneIn h tag ok s = fetchEnd h tag k ok s := by
  unfold fetchDoneIn
  rw [req]
  rcases record with ⟨ep, rfl⟩ | ⟨key, rfl⟩ <;> rfl

theorem fetchEnd_good {k : ReqKind} (record : (∃ ep, k = .context ep) ∨ (∃ key, k = .pair key))
    (live : (reqEnd h tag true s).hostLive h = true) :
    fetchEnd h tag k true s = pumpPort h (releaseParked none (installRecord h k (reqEnd h tag true s))) := by
  unfold fetchEnd
  dsimp only
  rw [live]
  rcases record with ⟨ep, rfl⟩ | ⟨key, rfl⟩ <;> rfl

theorem fetchEnd_context_bad {ep : Nat} (live : (reqEnd h tag false s).hostLive h = true) :
    fetchEnd h tag (.context ep) false s = releaseParked none (failWaiting h (fun q _ => decide (q.ep = ep))
      (refuseFetch h (.context ep) ((reqFail h (reqEnd h tag false s)).finc F.EPC_ERR_FETCH_FAIL 1 h.val))) := by
  unfold fetchEnd
  dsimp only
  rw [live]
  rfl

/-- A page request that has not succeeded holds its page as failed (R225). -/
theorem pageFail_holds {p : PageReq} (some : tblGet tag (s.host h).rem.pages = some p) (open_ : p.failed = false) :
    pageFail h tag s = modRem h (fun x => { x with pages := tblSet (firstGap 512 x.pages) { p with failed := true } (tblDel tag x.pages) }) s := by
  unfold pageFail
  rw [some]
  exact if_neg (by rw [open_]; decide)

end

/-- Settles O50, along the ends of a walk's read, of a fetch and of a page request. -/
theorem walksAndPages : Obligations.WalksAndPages := by
  unfold Obligations.WalksAndPages
  intro s h tag u f goes
  refine ⟨fun id w d req live walk => ?_, fun id w req live walk => ?_, fun ep req live => ?_, fun key req live => ?_,
    fun ep req live => ?_, fun p some => ?_, fun none => ⟨congrArg Host.Outcome.next ?_, congrArg Host.Outcome.next ?_⟩⟩
  · intro pte ea
    refine ⟨fun table next passes => ?_, fun table c next refused free => ?_, fun r e ends => ?_, walkPte_absent, walkPte_reserved⟩
    · exact congrArg (fun x => Host.Outcome.next (tagFreed h x)) (walkDoneIn_goes req live ((walkRead_ok walk next).trans (walkNext_reads passes)))
    · exact congrArg (fun x => Host.Outcome.next (tagFreed h x)) (walkDoneIn_ends req live ((walkRead_ok walk next).trans (walkNext_refused refused free)))
    · exact congrArg (fun x => Host.Outcome.next (tagFreed h x)) (walkDoneIn_ends req live (walkRead_error walk ends))
  · exact congrArg (fun x => Host.Outcome.next (tagFreed h x)) (walkDoneIn_failed req live (walkRead_failed walk))
  · have go : fetchDoneIn h tag true s = _ := (fetchDoneIn_fetch true req (.inl ⟨ep, rfl⟩)).trans (fetchEnd_good (.inl ⟨ep, rfl⟩) live)
    refine ⟨fun t room => congrArg Host.Outcome.next (congrArg (tagFreed h) (go.trans ?_)),
      fun full => congrArg Host.Outcome.next (congrArg (tagFreed h) (go.trans ?_))⟩
    · rw [installRecord, show makeRoom 1 1 (reqEnd h tag true s) = _ from room]
      rfl
    · rw [installRecord, show makeRoom 1 1 (reqEnd h tag true s) = _ from full]
      rfl
  · have go : fetchDoneIn h tag true s = _ := (fetchDoneIn_fetch true req (.inr ⟨key, rfl⟩)).trans (fetchEnd_good (.inr ⟨key, rfl⟩) live)
    refine ⟨fun t room => congrArg Host.Outcome.next (congrArg (tagFreed h) (go.trans ?_)),
      fun full => congrArg Host.Outcome.next (congrArg (tagFreed h) (go.trans ?_))⟩
    · rw [installRecord, show makeRoom 3 3 (reqEnd h tag true s) = _ from room]
      rfl
    · rw [installRecord, show makeRoom 3 3 (reqEnd h tag true s) = _ from full]
      rfl
  · exact congrArg Host.Outcome.next (congrArg (tagFreed h) ((fetchDoneIn_fetch false req (.inl ⟨ep, rfl⟩)).trans (fetchEnd_context_bad live)))
  · intro gone held
    have answer : ∀ ok, pageAnswer h tag ok s = if p.failed || !s.hostLive h then s
        else if ok then modRem h (fun x => { x with pages := tblDel tag x.pages }) s else pageFail h tag s := by
      intro ok
      unfold pageAnswer
      rw [some]
    have expiry : failHoldEnds h tag s = if p.failed then gone else s := by
      unfold failHoldEnds
      rw [some]
    refine ⟨fun open_ => ⟨fun live => ?_, fun dead ok => congrArg Host.Outcome.next ((answer ok).trans (if_pos (by rw [dead, Bool.not_false, Bool.or_true]))),
        congrArg Host.Outcome.next (pageFail_holds some open_), congrArg Host.Outcome.next (expiry.trans (if_neg (by rw [open_]; decide)))⟩,
      fun failed => ⟨congrArg Host.Outcome.next (expiry.trans (if_pos failed)), congrArg Host.Outcome.next ?_,
        fun ok => congrArg Host.Outcome.next ((answer ok).trans (if_pos (by rw [failed]; rfl)))⟩⟩
    · have goes : ¬ (p.failed || !s.hostLive h) = true := by rw [open_, live]; decide
      exact ⟨congrArg Host.Outcome.next ((answer true).trans ((if_neg goes).trans (if_pos rfl))),
        congrArg Host.Outcome.next ((answer false).trans ((if_neg goes).trans ((if_neg (by decide)).trans (pageFail_holds some open_))))⟩
    · show pageFail h tag s = s
      unfold pageFail
      rw [some]
      exact if_pos failed
  · show pageFail h tag s = s
    unfold pageFail
    rw [none]
  · show failHoldEnds h tag s = s
    unfold failHoldEnds
    rw [none]

end Sys2Proof.Proofs

namespace Sys2Proof.Proofs

open Sys2Proof.Machine Sys2Proof.Laws

/-! # Pair resets, congestion queries, refills and samples (R211, R214, R269, R273 to R279)

The settlement of O51. -/

section
variable {h : HostPort} {s : State}

theorem pairResetEnd_side {k side : Nat} (waits : (s.host h).rem.pairReset = some (k, side)) (still : fetching s h (.pair k) = false) :
    pairResetEnd h s = modRem h (fun x => { x with pairReset := none })
      (if 2 ≤ side then resetRecv h k (if side % 2 = 1 then resetSend h k s else s) else if side % 2 = 1 then resetSend h k s else s) := by
  unfold pairResetEnd
  rw [waits]
  exact if_neg (by rw [still]; decide)

theorem ccQueryEnd_shows {k : Nat} {p : PairRec} (waits : (s.host h).rem.ccQuery = some k) (still : fetching s h (.pair k) = false)
    (some_ : getPair s h k = some p) (onChip : p.onChip = true) : ccQueryEnd h s =
      (modRem h (fun x => { x with ccQuery := none }) s).setWord .CC_PAIR_STATE (pairStateWord p.cong) h.val 0 := by
  have same : getPair (modRem h (fun x => { x with ccQuery := none }) s) h k = some p := by
    unfold getPair modRem at *
    rw [modHost_host_same]
    exact some_
  unfold ccQueryEnd
  rw [waits]
  dsimp only
  rw [if_neg (by rw [still]; decide), same]
  exact if_pos onChip

theorem quietOver_quiet {k : Nat} {p : PairRec} (some_ : getPair s h k = some p) : quietOver h k s =
    if p.quiet then portGoesOn h (modPair h k (fun p => { p with quiet := false }) s) else s := by
  unfold quietOver
  rw [some_]
  rfl

theorem sampleAll_on (on : s.fget F.SHP_CTL_SAMPLE_US h.val ≠ 0) : sampleAll h s =
    ((List.range 16).foldl (fun t k => if t.flag F.SHP_SAMPLE_SEL_EN h.val k then
      t.setWord .SHP_SAMPLE (sampleWord t h k (t.fget F.SHP_SAMPLE_SEL_WQ h.val k) ((t.fget F.SHP_SAMPLE_SEQ h.val k + 1) % 256)) h.val k
      else t) s).modHost h (fun x => { x with leashHeld := [], cwndHeld := [] }) := if_neg on

end

/-- Settles O51. -/
theorem pairsAndCongestion : Obligations.PairsAndCongestion := by
  unfold Obligations.PairsAndCongestion
  intro s h mid v key side
  refine ⟨fun run present => ?_, fun k still => ?_, fun none => congrArg Host.Outcome.next (congrArg (portGoesOn h) ?_),
    fun none => congrArg Host.Outcome.next ?_, fun ep peer p some => ?_, ?_, fun off => congrArg Host.Outcome.next (if_pos off), fun on none => ?_,
    fun on => congrArg Host.Outcome.next (sampleAll_on on)⟩
  · have reset := write_pair_reset (mid := mid) (v := v) h run present
    have query := write_pair_q (mid := mid) (v := v) h run present
    refine ⟨fun low => ⟨congrArg Host.Outcome.next (reset.trans (if_neg (by rw [low]; decide))),
      congrArg Host.Outcome.next (query.trans (if_neg (by rw [low]; decide)))⟩, fun go => ⟨fun r busy => ?_, fun free => ⟨fun wrong => ?_, fun k live side => ?_⟩,
        fun k busy => ?_, fun free => ⟨fun none => ?_, fun p some => ?_⟩⟩⟩
    · exact congrArg Host.Outcome.next (reset.trans ((if_pos go).trans (if_pos (by rw [busy]; rfl))))
    · refine congrArg Host.Outcome.next (reset.trans ((if_pos go).trans ((if_neg (by rw [free]; decide)).trans (if_pos ?_))))
      exact wrong.imp_left Option.isNone_iff_eq_none.mpr
    · refine congrArg Host.Outcome.next (reset.trans ((if_pos go).trans ((if_neg (by rw [free]; decide)).trans (if_neg ?_))))
      rintro (none | zero)
      · rw [live] at none
        exact absurd none Bool.false_ne_true
      · exact side zero
    · exact congrArg Host.Outcome.next (query.trans ((if_pos go).trans (if_pos (by rw [busy]; rfl))))
    · refine congrArg Host.Outcome.next (query.trans ((if_pos go).trans ((if_neg (by rw [free]; decide)).trans (if_pos ?_))))
      exact Option.isNone_iff_eq_none.mpr none
    · refine congrArg Host.Outcome.next (query.trans ((if_pos go).trans ((if_neg (by rw [free]; decide)).trans (if_neg ?_))))
      rw [show getPair s h (selectedPair s h (fieldOf v 23 0)) = .some p from some]
      exact Bool.false_ne_true
  · intro done
    exact ⟨fun waits => congrArg Host.Outcome.next (congrArg (portGoesOn h) (pairResetEnd_side waits still)),
      fun waits => congrArg Host.Outcome.next (congrArg (portGoesOn h) (pairResetEnd_side waits still)),
      fun waits => congrArg Host.Outcome.next (congrArg (portGoesOn h) (pairResetEnd_side waits still)),
      fun p waits some onChip => congrArg Host.Outcome.next (ccQueryEnd_shows waits still some onChip)⟩
  · unfold pairResetEnd
    rw [none]
  · show ccQueryEnd h s = s
    unfold ccQueryEnd
    rw [none]
  · exact ⟨fun quiet => congrArg Host.Outcome.next ((quietOver_quiet some).trans (if_pos quiet)),
      fun loud => congrArg Host.Outcome.next ((quietOver_quiet some).trans (if_neg (by rw [loud]; decide)))⟩
  · intro filled
    exact ⟨fun live => congrArg Host.Outcome.next (if_pos live), fun dead => congrArg Host.Outcome.next (if_neg (by rw [dead]; decide))⟩
  · refine congrArg Host.Outcome.next ((sampleAll_on on).trans ?_)
    rw [List.foldl_fixed' (fun k => if_neg (by rw [none k]; decide))]

end Sys2Proof.Proofs

namespace Sys2Proof.Proofs

open Sys2Proof.Machine Sys2Proof.Laws

/-! # Descriptors and the operations they start (R106, R157, R169 to R174, R236, R240, R242, R251, R256)

The settlements of O52 and O53. -/

/-! ## Descriptors -/

section
variable {h : HostPort} {wq : Nat} {q : WorkQueue} {s : State}

theorem fetchDescs_reads (some : tblGet wq (s.host h).wqs = some q) (live : s.hostLive h = true) (idle : descReqs s h wq = [])
    (waits : descWaiting s h wq = false) (fresh : q.reread = none) (more : fetchLen q ≠ 0) (room : unstarted q < q.prefetch)
    (fits : storeUsed s h + fetchLen q ≤ 1024) : fetchDescs h wq s =
      let first := min (fetchLen q) (ringSize q.logSize - q.fetch % ringSize q.logSize)
      if first < fetchLen q then readDescs h wq ((q.fetch + first) % (2 * ringSize q.logSize)) (fetchLen q - first) false q
        (readDescs h wq q.fetch first false q s)
      else readDescs h wq q.fetch first false q s := by
  unfold fetchDescs
  rw [some]
  refine if_neg ?_
  rw [live, idle, waits, fresh, decide_eq_false more, decide_eq_false (Nat.not_le.mpr room), decide_eq_false (Nat.not_lt.mpr fits)]
  decide

theorem fetchDescs_waits (some : tblGet wq (s.host h).wqs = some q) (stays : fetchLen q = 0 ∨ q.reread.isSome = true) : fetchDescs h wq s = s := by
  unfold fetchDescs
  rw [some]
  refine if_pos ?_
  rcases stays with none | again
  · rw [decide_eq_true none]
    simp
  · rw [again]
    simp

theorem rereadDesc_reads {i k : Nat} (some : tblGet wq (s.host h).wqs = some q) (live : s.hostLive h = true) (idle : descReqs s h wq = [])
    (waits : descWaiting s h wq = false) (again : q.reread = .some (i, k)) : rereadDesc h wq s = readDescs h wq i 1 true q s := by
  unfold rereadDesc
  rw [some]
  dsimp only
  rw [again]
  exact if_neg (by rw [live, idle, waits]; decide)

theorem rereadDesc_none (some : tblGet wq (s.host h).wqs = some q) (none : q.reread = none) : rereadDesc h wq s = s := by
  unfold rereadDesc
  rw [some]
  dsimp only
  rw [none]

theorem descsDone_failed {tag i : Nat} {again : Bool} (some : tblGet wq (s.host h).wqs = some q) (req : descReqs s h wq = [(tag, i, 1, again)])
    (live : (reqEnd h tag false s).hostLive h = true) :
    descsDone h wq none s = haltHost h 7 wq false false i (reqFail h (reqEnd h tag false s)) := by
  unfold descsDone
  rw [req, some]
  refine (if_neg (by rw [show (([(tag, i, 1, again)] : List (Nat × Nat × Nat × Bool)).foldl
    (fun t r => reqEnd h r.1 (none : Option Bytes).isSome t) s).hostLive h = true from live]; decide)).trans ?_
  show haltHost h 7 wq false false (if ringCount q.logSize i q.fetch < ringCount q.logSize i q.fetch then i else i) _ = _
  rw [ite_self]
  rfl

theorem takeDescs_one {tried i : Nat} {d : Bytes} (some : tblGet wq (s.host h).wqs = some q) : takeDescs h wq tried [(i, d)] s =
    if b2n (dFlag d 0) = wrapBit q.logSize i then
      modWq h wq (fun r => skipInline (ringSize r.logSize) { r with fetch := (i + 1) % (2 * ringSize r.logSize), reread := none })
        (storeDesc h wq i d s)
    else if 3 ≤ tried then haltHost h 5 wq false false i s
    else modWq h wq (fun r => { r with reread := .some (i, tried) }) s := by
  unfold takeDescs
  rw [some]
  rfl

theorem startOp_stays (some : tblGet wq (s.host h).wqs = some q) (full : 16 ≤ q.side.length) : startOp h wq s = s := by
  unfold startOp
  rw [some]
  exact if_pos (by rw [decide_eq_true full]; simp)

theorem startOp_none (some : tblGet wq (s.host h).wqs = some q) (none : nextOp q = none) : startOp h wq s = s := by
  unfold startOp
  rw [some]
  dsimp only
  rw [none, ite_self]

theorem startOp_next {i : Nat} {ds : List Bytes} (some : tblGet wq (s.host h).wqs = some q) (live : s.hostLive h = true)
    (works : s.nicWorks = true) (side : q.side.length < 16) (waits : q.waitEvents = []) (next : nextOp q = .some (i, ds)) : startOp h wq s =
      if dFlag (ds.headD []) 4 && decide (q.head ≠ i) then s
      else pmcHost h.val 0x39 1 (modWq h wq (fun r => { r with
        store := r.store.drop ds.length, next := (i + ds.length) % (2 * ringSize r.logSize), ops := tblSet i (newOp s h ds) r.ops,
        side := if startHeld s h q (newOp s h ds) then r.side ++ [i] else r.side }) s) := by
  unfold startOp
  rw [some]
  dsimp only
  rw [if_neg (by rw [live, works, decide_eq_false (Nat.not_le.mpr side), waits]; decide), next]
  rfl

theorem writeHead_stays (some : tblGet wq (s.host h).wqs = some q) (stays : q.headDue = false ∨ headReady s h q = false) :
    writeHead h wq s = s := by
  unfold writeHead
  rw [some]
  refine if_neg ?_
  rcases stays with due | waits
  · rw [due]
    simp
  · rw [waits]
    simp

end

/-- Settles O52, along the stages of a descriptor. -/
theorem descriptors : Obligations.Descriptors := by
  unfold Obligations.Descriptors
  intro s h wq q some live n first ask
  refine ⟨fun idle waits => ⟨fun fresh more room fits => ?_, fun none => congrArg Host.Outcome.next (fetchDescs_waits some (.inl none)),
      fun i k again => ⟨congrArg Host.Outcome.next (rereadDesc_reads some live idle waits again),
        congrArg Host.Outcome.next (fetchDescs_waits some (.inr (by rw [again]; rfl)))⟩⟩,
    fun none => congrArg Host.Outcome.next (rereadDesc_none some none), fun tag i again req => ?_, fun none data => congrArg Host.Outcome.next ?_,
    fun works side events => ⟨fun none => congrArg Host.Outcome.next (startOp_none some none), fun i ds next => ⟨fun fence other => ?_, fun goes => ?_⟩⟩,
    fun full => congrArg Host.Outcome.next (startOp_stays some full),
    fun due ready => congrArg Host.Outcome.next (writeHead_due some due ready live), fun stays => congrArg Host.Outcome.next (writeHead_stays some stays)⟩
  · have go := fetchDescs_reads some live idle waits fresh more room fits
    refine ⟨fun whole => congrArg Host.Outcome.next (go.trans ((if_neg (Nat.not_lt.mpr (le_of_eq whole.symm))).trans ?_)),
      fun wraps => congrArg Host.Outcome.next (go.trans (if_pos wraps))⟩
    exact congrArg (fun c => readDescs h wq q.fetch c false q s) whole
  · intro u lost tried
    refine ⟨fun alive => congrArg Host.Outcome.next (congrArg (tagFreed h) (descsDone_failed some req alive)), fun alive same inRing d len => ?_⟩
    have go := (done1 some req alive inRing len).trans (congrArg (checkStore h wq) (takeDescs_one same))
    refine ⟨fun phase => congrArg Host.Outcome.next (congrArg (tagFreed h) (go.trans (congrArg (checkStore h wq) (if_pos phase)))),
      fun phase few => congrArg Host.Outcome.next (congrArg (tagFreed h) (go.trans (congrArg (checkStore h wq)
        ((if_neg phase).trans (if_neg (Nat.not_le.mpr few)))))),
      fun phase many => congrArg Host.Outcome.next (congrArg (tagFreed h) (go.trans (congrArg (checkStore h wq)
        ((if_neg phase).trans (if_pos many)))))⟩
  · refine congrArg (tagFreed h) (?_ : descsDone h wq data s = s)
    unfold descsDone
    rw [none]
  · exact congrArg Host.Outcome.next ((startOp_next some live works side events next).trans (if_pos (by rw [fence, decide_eq_true other]; rfl)))
  · refine congrArg Host.Outcome.next ((startOp_next some live works side events next).trans (if_neg ?_))
    rcases goes with free | first
    · rw [free]
      simp
    · rw [decide_eq_false (not_not_intro first), Bool.and_false]
      exact Bool.false_ne_true

end Sys2Proof.Proofs

namespace Sys2Proof.Proofs

open Sys2Proof.Machine Sys2Proof.Laws

/-! # The work of a started operation (R106, R169, R172, R236, R240, R242, R251, R256)

The settlement of O53. -/

section
variable {h : HostPort} {wq idx : Nat} {q : WorkQueue} {op : OpState} {s : State}

/-- The operation's work has begun (R172). -/
def opBegun (h : HostPort) (wq idx : Nat) (s : State) : State := modOp h wq idx (fun o => { o with begun := true }) s

theorem beginOp_fresh (queue : tblGet wq (s.host h).wqs = some q) (there : tblGet idx q.ops = some op) (fresh : op.begun = false) :
    beginOp h wq idx s = if earlierOpen q idx op then s
      else if (if op.rndv then beginRndv h wq idx q op s else (opBegun h wq idx s, true)).2 then
        pumpOp h wq idx none pumpFuel (if op.rndv then beginRndv h wq idx q op s else (opBegun h wq idx s, true)).1
      else (if op.rndv then beginRndv h wq idx q op s else (opBegun h wq idx s, true)).1 := by
  unfold beginOp
  rw [queue]
  dsimp only
  rw [there]
  exact if_neg (by rw [fresh]; decide)

theorem beginOp_plain (queue : tblGet wq (s.host h).wqs = some q) (there : tblGet idx q.ops = some op) (fresh : op.begun = false)
    (first : earlierOpen q idx op = false) (plain : op.rndv = false) : beginOp h wq idx s = pumpOp h wq idx none pumpFuel (opBegun h wq idx s) := by
  rw [beginOp_fresh queue there fresh, first, plain]
  rfl

theorem beginOp_rndv {t : State} {on : Bool} (queue : tblGet wq (s.host h).wqs = some q) (there : tblGet idx q.ops = some op)
    (fresh : op.begun = false) (first : earlierOpen q idx op = false) (rndv : op.rndv = true) (begins : beginRndv h wq idx q op s = (t, on)) :
    beginOp h wq idx s = if on then pumpOp h wq idx none pumpFuel t else t := by
  rw [beginOp_fresh queue there fresh, first, rndv, if_neg Bool.false_ne_true, if_pos rfl, begins]

theorem beginRndv_none (none : s.fget F.MTE_RNDV_COUNT h.val = 0) :
    beginRndv h wq idx q op s = (opError h wq idx 1 1 (opBegun h wq idx s), true) := if_pos none

theorem beginRndv_full (some : s.fget F.MTE_RNDV_COUNT h.val ≠ 0) (full : freeRndv s h = none) :
    beginRndv h wq idx q op s = (toSide h wq idx s, false) := by
  unfold beginRndv
  rw [if_neg some, full]

theorem beginRndv_needs {w : Nat} {u : State} {k : ParkWait} (some_ : s.fget F.MTE_RNDV_COUNT h.val ≠ 0) (free : freeRndv s h = some w)
    (need : needWin h w s = (u, some k)) : beginRndv h wq idx q op s = (toSide h wq idx u, false) := by
  unfold beginRndv
  rw [if_neg some_, free]
  dsimp only
  rw [need]

theorem beginRndv_takes {w : Nat} {u : State} (some_ : s.fget F.MTE_RNDV_COUNT h.val ≠ 0) (free : freeRndv s h = some w)
    (need : needWin h w s = (u, none)) : beginRndv h wq idx q op s =
      (modOp h wq idx (fun o => { o with begun := true, rndvWin := some w }) (openWin h w
        { closedWin true with pd := q.pd, access := 1, len := dLen (opFirst op), rndv := some (wq, idx) } u), true) := by
  unfold beginRndv
  rw [if_neg some_, free]
  dsimp only
  rw [need]

/-- Each descriptor's command begins the operation of its opcode (R172). -/
theorem begin_rows (h : HostPort) (wq idx : Nat) (s : State) : ∀ r ∈ [(1, Instr.putDescriptor h wq idx), (2, .putDurableDescriptor h wq idx),
    (3, .get h wq idx), (4, .atomicDescriptor h wq idx), (5, .atomicFetchDescriptor h wq idx), (6, .send h wq idx), (8, .vpWrite h wq idx),
    (10, .nopDescriptor h wq idx)], exec r.2 s = .next (roomAgain (beginOf [r.1] h wq idx s)) := by
  simp only [List.forall_mem_cons]
  exact ⟨rfl, rfl, rfl, rfl, rfl, rfl, rfl, rfl, fun _ none => absurd none List.not_mem_nil⟩

theorem recvBegin_at (queue : tblGet wq (s.host h).wqs = some q) (there : tblGet idx q.ops = some op) : recvBegin h wq idx s =
    if dOp (opFirst op) = 7 && !op.begun && s.hostLive h && s.nicWorks then portGoesOn h (recvStep h wq idx (opBegun h wq idx s)) else s := by
  unfold recvBegin
  rw [queue, Option.bind_some, there]
  rfl

theorem collectiveBegin_at (queue : tblGet wq (s.host h).wqs = some q) (there : tblGet idx q.ops = some op) : collectiveBegin h wq idx s =
    if dOp (opFirst op) = 9 && !op.begun && s.hostLive h && s.nicWorks then colBegin h wq idx s else s := by
  unfold collectiveBegin
  rw [queue, Option.bind_some, there]

theorem colBegin_none (queue : tblGet wq (s.host h).wqs = some q) (there : tblGet idx q.ops = some op) (col : dOp (opFirst op) = 9)
    (fresh : op.begun = false) (live : s.hostLive h = true) (none : tblGet (dGroup (opFirst op)) s.groups = none) :
    colBegin h wq idx s = colRefuse h wq idx 1 0x11 s := by
  unfold colBegin
  rw [queue, Option.bind_some, there]
  dsimp only
  rw [if_neg (by simp [col, fresh, live]), none]

theorem colBegin_group {g : ColGroup} (queue : tblGet wq (s.host h).wqs = some q) (there : tblGet idx q.ops = some op)
    (col : dOp (opFirst op) = 9) (fresh : op.begun = false) (live : s.hostLive h = true) (armed : tblGet (dGroup (opFirst op)) s.groups = some g) :
    colBegin h wq idx s = if g.owner ≠ h then colRefuse h wq idx 1 0x11 s
      else if g.status = .disarming then colRefuse h wq idx 2 0 s
      else if g.status = .failed then colRefuse h wq idx (causeStatus g.cause g.detail).1 (causeStatus g.cause g.detail).2 s
      else if colBadParams g (opFirst op) then colRefuse h wq idx 1 1 s
      else if colBusy s (dGroup (opFirst op)) then toSide h wq idx s
      else colStart h wq idx (dGroup (opFirst op)) g (opFirst op) s := by
  unfold colBegin
  rw [queue, Option.bind_some, there]
  dsimp only
  rw [if_neg (by simp [col, fresh, live]), armed]
  dsimp only
  cases g.status <;> rfl

theorem opBegun_get (queue : tblGet wq (s.host h).wqs = some q) (there : tblGet idx q.ops = some op) :
    ∃ r, tblGet wq ((opBegun h wq idx s).host h).wqs = some r ∧ tblGet idx r.ops = some { op with begun := true } := by
  unfold opBegun modOp modWq
  rw [modHost_host_same]
  dsimp only
  rw [tblGet_mod, queue]
  exact ⟨_, rfl, by rw [tblGet_mod, there]; rfl⟩

/-- A NOP descriptor hands over no packet: it only completes (R169). -/
theorem pumpOp_nop (queue : tblGet wq (s.host h).wqs = some q) (there : tblGet idx q.ops = some op) (nop : dOp (opFirst op) = 10) :
    pumpOp h wq idx none pumpFuel (opBegun h wq idx s) = checkOp h wq idx (opBegun h wq idx s) := by
  obtain ⟨r, queue, there⟩ := opBegun_get queue there
  show pumpOp h wq idx none (4099 + 1) (opBegun h wq idx s) = _
  rw [pumpOp, queue]
  dsimp only
  rw [there]
  have first : dOp (opFirst { op with begun := true }) = 10 := nop
  refine if_pos ?_
  rw [first]
  simp [opPaired]

end

/-- Settles O53, along the kinds of operations. -/
theorem operationsBegin : Obligations.OperationsBegin := by
  unfold Obligations.OperationsBegin
  intro s h wq idx q op queue there fresh live works d begun
  refine ⟨fun r row => ?_, fun ds => rfl, fun nop => pumpOp_nop queue there nop, fun recv => congrArg Host.Outcome.next ?_,
    fun other => congrArg Host.Outcome.next ?_, fun other => congrArg Host.Outcome.next (congrArg roomAgain ?_), fun col => ?_⟩
  · have go := begin_rows h wq idx s r row
    refine ⟨fun same => ?_, fun other => go.trans (congrArg Host.Outcome.next (congrArg roomAgain (begin_not queue there ?_)))⟩
    · have begins : exec r.2 s = .next (roomAgain (beginOp h wq idx s)) := by
        refine go.trans (congrArg Host.Outcome.next (congrArg roomAgain (begin_at queue there fresh live works ?_)))
        rw [show dOp (opFirst op) = r.1 from same]
        simp
      have answer {t : State} (eq : beginOp h wq idx s = t) : exec r.2 s = .next (roomAgain t) :=
        begins.trans (congrArg Host.Outcome.next (congrArg roomAgain eq))
      refine ⟨fun earlier => answer ((beginOp_fresh queue there fresh).trans (if_pos earlier)), fun first =>
        ⟨fun plain => answer (beginOp_plain queue there fresh first plain), fun rndv => ⟨fun none => ?_, fun some =>
          ⟨fun full => ?_, fun w free => ⟨fun u need => ?_, fun u k need => ?_⟩⟩⟩⟩⟩
      · exact answer (beginOp_rndv queue there fresh first rndv (beginRndv_none none))
      · exact answer (beginOp_rndv queue there fresh first rndv (beginRndv_full some full))
      · exact answer (beginOp_rndv queue there fresh first rndv (beginRndv_takes some free need))
      · exact answer (beginOp_rndv queue there fresh first rndv (beginRndv_needs some free need))
    · simpa using fun same => other same
  · exact (recvBegin_at queue there).trans (if_pos (by rw [fresh, live, works, decide_eq_true (show dOp (opFirst op) = 7 from recv)]; rfl))
  · exact (recvBegin_at queue there).trans (if_neg (by rw [decide_eq_false (show ¬ dOp (opFirst op) = 7 from other)]; simp))
  · exact (collectiveBegin_at queue there).trans (if_neg (by rw [decide_eq_false (show ¬ dOp (opFirst op) = 9 from other)]; simp))
  · have go : collectiveBegin h wq idx s = colBegin h wq idx s :=
      (collectiveBegin_at queue there).trans (if_pos (by rw [fresh, live, works, decide_eq_true (show dOp (opFirst op) = 9 from col)]; rfl))
    have answer {t : State} (eq : colBegin h wq idx s = t) : exec (.collective h wq idx) s = .next (roomAgain t) :=
      congrArg Host.Outcome.next (congrArg roomAgain (go.trans eq))
    refine ⟨fun none => answer (colBegin_none queue there col fresh live none), fun g armed => ?_⟩
    have group := colBegin_group queue there col fresh live armed
    refine ⟨fun other => answer (group.trans (if_pos other)), fun own => ?_⟩
    have owned := group.trans (if_neg (not_not_intro own))
    refine ⟨fun disarming => answer (owned.trans (if_pos disarming)), fun failed => answer (owned.trans ((if_neg ?_).trans (if_pos failed))),
      fun ready => ?_⟩
    · rw [failed]
      decide
    · have runs := owned.trans ((if_neg (show ¬ g.status = .disarming by rw [ready]; decide)).trans
        (if_neg (show ¬ g.status = .failed by rw [ready]; decide)))
      exact ⟨fun bad => answer (runs.trans (if_pos bad)),
        fun good busy => answer (runs.trans ((if_neg (by rw [good]; decide)).trans (if_pos busy))),
        fun good free => answer (runs.trans ((if_neg (by rw [good]; decide)).trans (if_neg (by rw [free]; decide))))⟩

end Sys2Proof.Proofs

namespace Sys2Proof.Proofs

open Sys2Proof.Machine Sys2Proof.Laws

/-! # How an arrival is checked (R98, R104, R105, R107, R110, R238, R294, R356)

The settlement of O54. -/

section
variable {ip : IntPort} {s t : State} {e : InPacket} {rest : List InPacket} {mine : Packet → Bool}

theorem arrive_none (empty : s.ints[ip].eject = []) : arrive mine ip s = s := by
  unfold arrive
  rw [empty]

theorem arrive_other (head : s.ints[ip].eject = e :: rest) (other : mine e.pkt = false) : arrive mine ip s = s := by
  unfold arrive
  rw [head]
  exact if_pos (by rw [other]; rfl)

/-- In DOZE a packet wakes the NIC and stays (R294). -/
theorem arrive_dozes (head : s.ints[ip].eject = e :: rest) (own : mine e.pkt = true) (run : s.nicRuns = true) (doze : s.pwr.state = .doze) :
    arrive mine ip s = dozeWake 9 s := by
  unfold arrive
  rw [head]
  exact (if_neg (by rw [own]; decide)).trans (if_pos (by rw [run, decide_eq_true doze]; rfl))

theorem arrive_idle (head : s.ints[ip].eject = e :: rest) (own : mine e.pkt = true) (idle : s.nicWorks = false) (awake : s.pwr.state ≠ .doze) :
    arrive mine ip s = s := by
  unfold arrive
  rw [head]
  exact (if_neg (by rw [own]; decide)).trans ((if_neg (by rw [decide_eq_false awake]; simp)).trans (if_pos (by rw [idle]; rfl)))

section
variable (head : s.ints[ip].eject = e :: rest) (own : mine e.pkt = true) (works : s.nicWorks = true)
include head own works

theorem arrive_dropped (verdict : judge e.pkt (ejection e) none s = (t, .drop)) : arrive mine ip s = taken ip e 2 t := by
  rw [arrive_at head own works, verdict]
  rfl

theorem arrive_committed (verdict : judge e.pkt (ejection e) none s = (t, .commit)) : arrive mine ip s = taken ip e 1 t := by
  rw [arrive_at head own works, verdict]
  rfl

theorem arrive_stays (verdict : judge e.pkt (ejection e) none s = (t, .later)) : arrive mine ip s = nicSlot 4 t := by
  rw [arrive_at head own works, verdict]

theorem arrive_refusedEarly {r : Nat} (verdict : judge e.pkt (ejection e) none s = (t, .early r)) :
    arrive mine ip s = roomAgain (nackEarly e.pkt r (takeEject ip e t)) := by
  rw [arrive_at head own works, verdict]
  rfl

end

theorem judge_badPcrc {pkt : Packet} {ej : Ejection} (bad : pcrcOk pkt = false) : judge pkt ej none s = (pmcAdd 68 0x21 1 s, .drop) :=
  if_pos (by rw [bad]; rfl)

theorem judge_malformed {pkt : Packet} {ej : Ejection} (good : pcrcOk pkt = true) (wrong : malformed s pkt = true) :
    judge pkt ej none s = if pktSequenced pkt then (s, .early 1) else (countOpcode pkt s, .drop) :=
  (if_neg (by rw [good]; decide)).trans (if_pos wrong)

/-- An opcode that is not listed, or under another form, is malformed (R104). -/
theorem malformed_of_unlisted {pkt : Packet} (unlisted : pktUnlisted pkt = true) : malformed s pkt = true := by
  unfold malformed
  unfold pktUnlisted at unlisted
  split
  · rfl
  · rename_i row
    rw [row] at unlisted
    dsimp only at unlisted
    rw [unlisted]
    rfl

/-- A sound packet to no endpoint is refused with NO_ENDPOINT (R110, R208). -/
theorem judge_noEndpoint {pkt : Packet} {ej : Ejection} (good : pcrcOk pkt = true) (formed : malformed s pkt = false)
    (notAck : ¬ (pktOpcode pkt = 8 ∨ pktOpcode pkt = 9)) (present : s.hostPresent (epPort (pktDstEp pkt)).val = true)
    (none : tblGet (pktDstEp pkt) (s.host (epPort (pktDstEp pkt))).eps = none) : judge pkt ej .none s = (s, .early 2) := by
  have ep : judgeEp (epPort (pktDstEp pkt)) pkt s = (s, .error (.early 2)) := by
    unfold judgeEp
    dsimp only
    rw [if_neg (by rw [present]; decide), none]
  unfold judge
  dsimp only
  rw [if_neg (by rw [good]; decide), if_neg (by rw [formed]; decide), if_neg notAck]
  unfold judgeSeq
  rw [ep]

end

/-- The commands of the sequenced and acknowledging packets, each with its opcode (R104). -/
def arrivalRows (ip : IntPort) : List (Nat × Instr) :=
  [(0x01, .putShort ip), (0x21, .put ip), (0x02, .putShortDurable ip), (0x22, .putDurable ip), (0x03, .getReq ip),
    (0x04, .atomic ip), (0x05, .atomicFetch ip), (0x40, .vpDirectWrite ip), (0x0A, .nop ip), (0x08, .ack ip), (0x23, .getResp ip),
    (0x0B, .atomicResp ip), (0x06, .msgShort ip), (0x24, .msgEager ip), (0x07, .rndvReq ip)]

theorem arrival_rows (ip : IntPort) (s : State) : ∀ r ∈ arrivalRows ip,
    exec r.2 s = .next (arrive (fun k => decide (pktOpcode k = r.1)) ip s) ∧ r.1 ≠ 9 := by
  simp only [arrivalRows, List.forall_mem_cons]
  exact ⟨⟨rfl, by decide⟩, ⟨rfl, by decide⟩, ⟨rfl, by decide⟩, ⟨rfl, by decide⟩, ⟨rfl, by decide⟩, ⟨rfl, by decide⟩, ⟨rfl, by decide⟩,
    ⟨rfl, by decide⟩, ⟨rfl, by decide⟩, ⟨rfl, by decide⟩, ⟨rfl, by decide⟩, ⟨rfl, by decide⟩, ⟨rfl, by decide⟩, ⟨rfl, by decide⟩,
    ⟨rfl, by decide⟩, fun _ none => absurd none List.not_mem_nil⟩

theorem nackArrive_none {ip : IntPort} {s : State} (empty : s.ints[ip].eject = []) : nackArrive ip s = s := by
  unfold nackArrive
  rw [arrive_none empty]
  refine if_neg ?_
  unfold colNackHead
  rw [empty]
  exact Bool.false_ne_true

theorem headPaired_works {s : State} {ip : IntPort} {e : InPacket} {h : HostPort} {c : EpCtx} {p : PairRec} (paired : headPaired s ip e h c p) :
    s.nicWorks = true := by
  obtain ⟨⟨-, works, -⟩, -⟩ := paired
  exact works

/-- Settles O54, along the order of the checks. -/
theorem arrivalChecks : Obligations.ArrivalChecks := by
  unfold Obligations.ArrivalChecks
  intro s ip rows
  have row := arrival_rows ip s
  refine ⟨fun empty => ⟨congrArg Host.Outcome.next (arrive_none empty), congrArg Host.Outcome.next (nackArrive_none empty),
    fun r mem => (row r mem).1.trans (congrArg Host.Outcome.next (arrive_none empty))⟩, fun e rest head => ?_⟩
  intro out counted
  refine ⟨fun r mem other => (row r mem).1.trans (congrArg Host.Outcome.next (arrive_other head (decide_eq_false other))), fun r mem op => ?_,
    fun unlisted works good => ⟨fun sequenced => ?_, fun single => ?_⟩,
    fun listed => congrArg Host.Outcome.next (arrive_other head listed), fun h c p paired op inside released new => ?_⟩
  · obtain ⟨go, notNack⟩ := row r mem
    have own : (fun k => decide (pktOpcode k = r.1)) e.pkt = true := decide_eq_true op
    have answer {t : State} (eq : arrive (fun k => decide (pktOpcode k = r.1)) ip s = t) : exec r.2 s = .next t :=
      go.trans (congrArg Host.Outcome.next eq)
    refine ⟨fun run doze => answer (arrive_dozes head own run doze), fun idle awake => answer (arrive_idle head own idle awake),
      fun works bad => answer (arrive_dropped head own works (judge_badPcrc bad)), fun works good wrong => ⟨fun sequenced => ?_, fun single listed => ?_,
        fun single unlisted => ?_⟩, fun sound notAck present none => ?_, fun h c p paired notAck => ?_⟩
    · exact answer (arrive_refusedEarly head own works ((judge_malformed good wrong).trans (if_pos sequenced)))
    · have same : countOpcode e.pkt s = s := if_neg (by rw [listed]; decide)
      refine answer (arrive_dropped head own works ((judge_malformed good wrong).trans ((if_neg (by rw [single]; decide)).trans ?_)))
      rw [same]
    · have one : countOpcode e.pkt s = counted := if_pos unlisted
      refine answer (arrive_dropped head own works ((judge_malformed good wrong).trans ((if_neg (by rw [single]; decide)).trans ?_)))
      rw [one]
    · obtain ⟨-, works, good, formed⟩ := sound
      exact answer (arrive_refusedEarly head own works (judge_noEndpoint good formed (by rw [op]; omega) present none))
    · intro v
      have works := headPaired_works paired
      have judged := judge_paired paired (by rw [op]; exact notAck) (by rw [op]; exact notNack)
      exact ⟨fun outside => answer (arrive_dropped head own works (judged.trans (ord_out outside))),
        fun inside held => answer (arrive_stays head own works (judged.trans (ord_later inside held))),
        fun inside released old early => answer (arrive_dropped head own works (judged.trans (ord_dup inside released old early)))⟩
  · exact congrArg Host.Outcome.next (arrive_refusedEarly head unlisted works
      ((judge_malformed good (malformed_of_unlisted unlisted)).trans (if_pos sequenced)))
  · refine congrArg Host.Outcome.next (arrive_dropped head unlisted works
      ((judge_malformed good (malformed_of_unlisted unlisted)).trans ((if_neg (by rw [single]; decide)).trans ?_)))
    rw [show countOpcode e.pkt s = counted from if_pos unlisted]
  · exact congrArg Host.Outcome.next (arrive_committed head (decide_eq_true op) (headPaired_works paired)
      ((judge_paired paired (by rw [op]; decide) (by rw [op]; decide)).trans ((ord_new inside released new).trans (new_nop op))))

end Sys2Proof.Proofs


namespace Sys2Proof.Proofs

open Sys2Proof.Machine Sys2Proof.Laws

/-! # Fabric time (R282 to R288, R302): O58 -/

/-! ## The exchange of time sets -/

theorem texSendGo_idle {p : NetPort} {s : State} (notUp : (s.port p).link.phase ≠ .up) : texSendGo p s = s := by
  unfold texSendGo
  rw [if_pos (by simp [notUp])]

theorem texSendGo_lowest {p : NetPort} {s : State} (run : s.routerRuns = true) (time : s.fabricRuns = true)
    (up : (s.port p).link.phase = .up) (first : (upPorts s).head? = some p) :
    texSendGo p s = (let u := withTimeSync (fun t => chooseParent { t with tim := { t.tim with sinceStep := min 4 (t.tim.sinceStep + 1) } }) s
      (sendSet p (.tex (texSet u p)) (wakeTx p u)).modPort p (fun q => { q with texSent := q.texSent + 1 })) := by
  unfold texSendGo
  rw [if_neg (by simp [run, time, up])]
  simp only [if_pos first]

theorem texSendGo_other {p : NetPort} {s : State} (run : s.routerRuns = true) (time : s.fabricRuns = true)
    (up : (s.port p).link.phase = .up) (notFirst : (upPorts s).head? ≠ some p) :
    texSendGo p s = (sendSet p (.tex (texSet s p)) (wakeTx p s)).modPort p (fun q => { q with texSent := q.texSent + 1 }) := by
  unfold texSendGo
  rw [if_neg (by simp [run, time, up])]
  simp only [if_neg notFirst]

theorem setsIn_hears {p : NetPort} {n : Nat} {f : State → State} {s : State} (h : hears s p = true) : setsIn p n f s = f s := if_pos h

theorem setsIn_unreached {p : NetPort} {n : Nat} {f : State → State} {s : State} (none_ : receives s p = false) : setsIn p n f s = s := by
  unfold setsIn hears
  rw [none_]
  rfl

theorem texHeard_idle {p : NetPort} {set : Bytes} {s : State} (notUp : (s.port p).link.phase ≠ .up) : texHeard p set s = s := by
  unfold texHeard
  rw [if_pos (by simp [notUp])]

theorem texIn_idle {p : NetPort} {set : Bytes} {s : State} (notUp : (s.port p).link.phase ≠ .up)
    (hearing : receives s p = false ∨ (s.port p).lane.deaf = false) : texIn p set s = s := by
  cases reach : receives s p with
  | false => exact setsIn_unreached reach
  | true =>
    have awake := hearing.resolve_left (by rw [reach]; decide)
    exact (setsIn_hears (by rw [hears, reach, awake]; rfl)).trans (texHeard_idle notUp)

/-! ## A good time set -/

section
variable {p : NetPort} {set c : Bytes} {s : State}

/-- The port once a good set has named its partner's level and, in a HI set, the upper bits of the partner's time (R284). -/
def texMet (p : NetPort) (c : Bytes) (s : State) : State :=
  let flags := leAt c 9 1
  s.modPort p (fun q => { q with texHi := if flags.testBit 6 then leAt c 5 3 else q.texHi, peerLevel := flags % 32 })

/-- The partner's time that a good set carries, as a 64-bit value (R285). -/
def texStamp (p : NetPort) (c : Bytes) (s : State) : Word :=
  BitVec.ofNat 64 (fullT1 s.tim.level s.tim.now.toNat (leAt c 0 5) ((texMet p c s).port p).texHi)

/-- The record of a good set: when its sender stamped it and when it arrived (R285). -/
def texRecorded (p : NetPort) (c : Bytes) (s : State) : State :=
  withTimeSync (fun t => { t with tim := { t.tim with unsync := false } })
    ((texMet p c s).modPort p (fun q => { q with tex := some (texStamp p c s, s.tim.now) }))

/-- The flight time that the partner's measurement gives (R286). -/
def texTimed (p : NetPort) (c : Bytes) (s : State) : State :=
  (texRecorded p c s).tookFree.modPort p (fun q => { q with
    flight := (halfOf (signedOf 32 (leAt c 5 4) + (s.tim.now - texStamp p c s).toInt) (bitOf (texRecorded p c s).freeValue 0)).toNat })

section
variable (time : s.fabricRuns = true) (up : (s.port p).link.phase = .up)
include time up

theorem texHeard_bad (bad : crGood set = none) : texHeard p set s = crBad p s := by
  unfold texHeard
  rw [if_neg (by simp [time, up]), bad]

theorem texHeard_unmeasured (good : crGood set = some c) (plain : (leAt c 9 1).testBit 6 = true ∨ (leAt c 9 1).testBit 5 = false) :
    texHeard p set s = texRecorded p c s := by
  unfold texHeard
  rw [if_neg (by simp [time, up]), good]
  dsimp only
  rw [if_pos (by simpa using plain)]
  rfl

theorem texHeard_timed (good : crGood set = some c) (low : (leAt c 9 1).testBit 6 = false) (valid : (leAt c 9 1).testBit 5 = true)
    (other : (texTimed p c s).tim.parent ≠ p ∨ (texTimed p c s).tim.level = 0 ∨ (texTimed p c s).tim.level = 31) :
    texHeard p set s = texTimed p c s := by
  unfold texHeard
  rw [if_neg (by simp [time, up]), good]
  dsimp only
  rw [if_neg (by simp [low, valid])]
  refine if_neg (fun parent => ?_)
  rw [Bool.and_eq_true, decide_eq_true_eq, decide_eq_true_eq] at parent
  obtain ⟨here, above, below⟩ := parent
  exact other.elim (fun ne => ne here) (fun ends => ends.elim (fun e => absurd (e ▸ above) (by decide)) (fun e => absurd (e ▸ below) (by decide)))

theorem texHeard_served (good : crGood set = some c) (low : (leAt c 9 1).testBit 6 = false) (valid : (leAt c 9 1).testBit 5 = true)
    (parent : (texTimed p c s).tim.parent = p) (above : 1 ≤ (texTimed p c s).tim.level) (below : (texTimed p c s).tim.level ≤ 30) :
    texHeard p set s = withTimeSync (servo (halfOf ((s.tim.now - texStamp p c s).toInt - signedOf 32 (leAt c 5 4))
      (bitOf (texRecorded p c s).freeValue 1))) (texTimed p c s) := by
  unfold texHeard
  rw [if_neg (by simp [time, up]), good]
  dsimp only
  rw [if_neg (by simp [low, valid])]
  exact if_pos (by
    rw [Bool.and_eq_true, decide_eq_true_eq, decide_eq_true_eq]
    exact ⟨parent, above, below⟩)

end
end

/-! ## The settlement -/

/-- Settles O58, by the branches of the write of TIM_SET, the SLOW32 tick, and the sending and hearing of a time set. -/
theorem fabricTime : Obligations.FabricTime := by
  unfold Obligations.FabricTime
  intro s mid p v set
  refine ⟨fun np => ⟨fun master => ?_, fun follower level => ?_⟩, fun np still => ?_, fun runs => ?_, fun run time up => ?_, fun notUp => ?_,
    fun reach deaf => ?_, fun hearing time up => ⟨fun bad => ?_, fun c good => ?_⟩⟩
  · refine congrArg Host.Outcome.next ((write_tim_set np).trans (if_pos ?_))
    simpa using master
  · refine congrArg Host.Outcome.next ((write_tim_set np).trans (if_neg ?_))
    simp [follower, level]
  · exact ⟨_, congrArg Host.Outcome.next (if_neg (by simp [np, still])), rfl, rfl, rfl, rfl, rfl, rfl, rfl, rfl⟩
  · exact congrArg Host.Outcome.next (if_pos (by simp [runs]))
  · exact ⟨fun other => congrArg Host.Outcome.next (texSendGo_other run time up other),
      fun first => congrArg Host.Outcome.next (texSendGo_lowest run time up first)⟩
  · exact ⟨congrArg Host.Outcome.next (texSendGo_idle notUp), fun h => congrArg Host.Outcome.next (texIn_idle notUp h)⟩
  · exact congrArg Host.Outcome.next (setsIn_deaf reach deaf)
  · exact congrArg Host.Outcome.next ((setsIn_hears hearing).trans (texHeard_bad time up bad))
  · exact ⟨fun plain => congrArg Host.Outcome.next ((setsIn_hears hearing).trans (texHeard_unmeasured time up good plain)),
      fun low valid => ⟨fun other => congrArg Host.Outcome.next ((setsIn_hears hearing).trans (texHeard_timed time up good low valid other)),
        fun parent above below => congrArg Host.Outcome.next
          ((setsIn_hears hearing).trans (texHeard_served time up good low valid parent above below))⟩⟩

end Sys2Proof.Proofs


namespace Sys2Proof.Proofs

open Sys2Proof.Machine Sys2Proof.Laws

/-! # The configuration store (R27, R28, R38, R39, R45): O59 -/

/-! ## Why a store command is refused -/

section
variable {mid : Mid} {v : Word} {s : State}

theorem progRefusal_off (off : s.storeOn = false) : progRefusal mid v s = 6 := by
  unfold progRefusal
  exact if_pos (by rw [off]; rfl)

section
variable (on : s.storeOn = true)
include on

theorem progRefusal_busy (busy : s.cfg.prog.isSome = true) : progRefusal mid v s = 4 := by
  unfold progRefusal
  simp [on, busy]

section
variable (idle : s.cfg.prog = none)
include idle

theorem progRefusal_pfw (write : bitOf v 24 = true) (pfw : s.pwr.pfw = true) : progRefusal mid v s = 5 := by
  unfold progRefusal
  simp [on, idle, write, pfw]

theorem progRefusal_outside (calm : s.pwr.pfw = false) (outside : ¬ 64 * fieldOf v 14 0 < (storeRegion (fieldOf v 17 16)).2) :
    progRefusal mid v s = 3 := by
  unfold progRefusal
  simp [on, idle, calm, Nat.not_lt.mp outside]

theorem progRefusal_loadedSlot (calm : s.pwr.pfw = false) (inside : 64 * fieldOf v 14 0 < (storeRegion (fieldOf v 17 16)).2)
    (write : bitOf v 24 = true) (slot : fieldOf v 17 16 = b2n s.cfg.slot) (loaded : s.cfg.state = .loaded) : progRefusal mid v s = 1 := by
  have within : ¬ (storeRegion (b2n s.cfg.slot)).2 ≤ 64 * fieldOf v 14 0 := slot ▸ Nat.not_le.mpr inside
  unfold progRefusal
  simp [on, idle, calm, write, slot, loaded, within]

theorem progRefusal_locked (calm : s.pwr.pfw = false) (inside : 64 * fieldOf v 14 0 < (storeRegion (fieldOf v 17 16)).2)
    (write : bitOf v 24 = true) (cal : fieldOf v 17 16 = 2) (locked : s.cfg.unlocked.contains mid = false) : progRefusal mid v s = 2 := by
  have within : ¬ (storeRegion 2).2 ≤ 64 * fieldOf v 14 0 := cal ▸ Nat.not_le.mpr inside
  have noSlot : 2 ≠ b2n s.cfg.slot := by cases s.cfg.slot <;> decide
  unfold progRefusal
  rw [cal, locked]
  simp [on, idle, calm, write, within, noSlot]

theorem progRefusal_read (inside : 64 * fieldOf v 14 0 < (storeRegion (fieldOf v 17 16)).2) (read : bitOf v 24 = false) :
    progRefusal mid v s = 0 := by
  unfold progRefusal
  simp [on, idle, read, Nat.not_le.mpr inside]

theorem progRefusal_user (calm : s.pwr.pfw = false) (inside : 64 * fieldOf v 14 0 < (storeRegion (fieldOf v 17 16)).2)
    (user : fieldOf v 17 16 = 3) : progRefusal mid v s = 0 := by
  have within : ¬ (storeRegion 3).2 ≤ 64 * fieldOf v 14 0 := user ▸ Nat.not_le.mpr inside
  have noSlot : 3 ≠ b2n s.cfg.slot := by cases s.cfg.slot <;> decide
  unfold progRefusal
  rw [user]
  simp [on, idle, calm, within, noSlot]

end
end

/-! ## A write of CFG_PROG_CTL -/

/-- Block, region and AUTO_INC as a write of CFG_PROG_CTL sets them (R38). -/
def progPut (v : Word) (s : State) : State :=
  ((s.fset F.CFG_PROG_CTL_BLOCK (fieldOf v 14 0)).fset F.CFG_PROG_CTL_REGION (fieldOf v 17 16)).fset F.CFG_PROG_CTL_AUTO_INC (fieldOf v 18 18)

/-- The register after a command that leaves `n` in ERR; the command has consumed its writer's unlock (R45). -/
def progAsked (mid : Mid) (v : Word) (n : Nat) (s : State) : State := (calDisarm mid (progPut v s)).fset F.CFG_PROG_CTL_ERR n

theorem progCtlWrite_sets (noWrite : bitOf v 24 = false) (noRead : bitOf v 25 = false) : progCtlWrite mid v s = progPut v s := by
  unfold progCtlWrite
  dsimp only
  rw [if_pos (by simp [noWrite, noRead])]
  rfl

theorem progCtlWrite_refused (cmd : bitOf v 24 = true ∨ bitOf v 25 = true) (err : progRefusal mid v s ≠ 0) :
    progCtlWrite mid v s = progAsked mid v (progRefusal mid v s) s := by
  unfold progCtlWrite
  dsimp only
  rw [if_neg (by simp only [Bool.not_eq_true', Bool.or_eq_false_iff, not_and_or, Bool.not_eq_false]; exact cmd), if_pos err]
  rfl

theorem progCtlWrite_starts (cmd : bitOf v 24 = true ∨ bitOf v 25 = true) (ok : progRefusal mid v s = 0) :
    progCtlWrite mid v s = (progAsked mid v 0 s).modCfg (fun c => { c with
      prog := some (if bitOf v 24 then
          .write ((storeRegion (fieldOf v 17 16)).1 + 64 * fieldOf v 14 0) (progData (progAsked mid v 0 s)) (bitOf v 18)
        else .read ((storeRegion (fieldOf v 17 16)).1 + 64 * fieldOf v 14 0) (bitOf v 18)) }) := by
  unfold progCtlWrite
  dsimp only
  rw [if_neg (by simp only [Bool.not_eq_true', Bool.or_eq_false_iff, not_and_or, Bool.not_eq_false]; exact cmd), if_neg (not_not.mpr ok), ok]
  rfl

end

/-! ## The end of a pulse -/

section
variable {s : State}

theorem pulseDone_record {c : Bool × Bool} (rec_ : s.cfg.recPulse = some c) :
    pulseDone s = s.modCfg (fun c => { c with recPulse := none }) := by
  unfold pulseDone
  exact if_pos (by rw [rec_]; rfl)

theorem pulseDone_command (none_ : s.cfg.recPulse = none) : pulseDone s = progDone s := by
  unfold pulseDone
  exact if_neg (by rw [none_]; decide)

theorem progDone_idle (idle : s.cfg.prog = none) : progDone s = s := by
  unfold progDone
  rw [idle]

theorem progDone_write {a : Nat} {data : Bytes} {inc : Bool} (op : s.cfg.prog = some (.write a data inc)) :
    progDone s = progAdvance inc (s.modCfg (fun c => { c with prog := none, store := ramWrite c.store a data })) := by
  unfold progDone
  rw [op]

/-- Words set from the store read it as it stood: the setting changes registers alone. -/
theorem foldl_setWord_store (r : RegId) (w : Memory → Nat → Word) (m : Memory) (ks : List Nat) (t : State) (same : t.cfg.store = m) :
    ks.foldl (fun t k => t.setWord r (w t.cfg.store k) 0 k) t = ks.foldl (fun t k => t.setWord r (w m k) 0 k) t := by
  induction ks generalizing t with
  | nil => rfl
  | cons k ks ih =>
    subst same
    exact ih _ rfl

theorem progDone_read {a : Nat} {inc : Bool} (op : s.cfg.prog = some (.read a inc)) :
    progDone s = progAdvance inc ((List.range 8).foldl
      (fun t k => t.setWord .CFG_PROG_DATA (BitVec.ofNat 64 (leNat (ramRead s.cfg.store (a + 8 * k) 8))) 0 k)
      (s.modCfg (fun c => { c with prog := none }))) := by
  unfold progDone
  rw [op]
  exact congrArg (progAdvance inc) (foldl_setWord_store .CFG_PROG_DATA
    (fun m k => BitVec.ofNat 64 (leNat (ramRead m (a + 8 * k) 8))) s.cfg.store (List.range 8) _ rfl)

end

/-! ## The calibration unlock -/

section
variable {mid m : Mid} {v : Word} {s : State}

theorem calUnlockWrite_writer : (calUnlockWrite mid v s).cfg.unlocked.contains mid = decide (fieldOf v 15 0 = 0x5CA1) := by
  unfold calUnlockWrite State.modCfg
  dsimp only
  split <;> rename_i armed <;> simp [armed]

theorem calUnlockWrite_other (ne : m ≠ mid) : (calUnlockWrite mid v s).cfg.unlocked.contains m = s.cfg.unlocked.contains m := by
  unfold calUnlockWrite State.modCfg
  dsimp only
  split <;> simp [ne]

end

/-! ## The settlement -/

/-- Settles O59, by the branches of the write of CFG_PROG_CTL, its refusals in their order, and the two kinds of pulse. -/
theorem configStore : Obligations.ConfigStore := by
  unfold Obligations.ConfigStore
  intro s mid v np block region put err asked inside
  have asCtl : exec (.progWrite mid v) s = .next (progCtlWrite mid v s) := congrArg Host.Outcome.next (write_prog_ctl np)
  refine ⟨rfl, fun noWrite noRead => ?_, fun cmd refused => ?_, fun write ok => ?_, fun noWrite read ok => ?_, progRefusal_off,
    fun on => ⟨progRefusal_busy on, fun idle => ⟨progRefusal_pfw on idle, progRefusal_outside on idle, progRefusal_loadedSlot on idle,
      progRefusal_locked on idle, progRefusal_read on idle, progRefusal_user on idle⟩⟩,
    fun c rec_ => congrArg Host.Outcome.next (pulseDone_record rec_),
    fun a data inc none_ op => congrArg Host.Outcome.next ((pulseDone_command none_).trans (progDone_write op)),
    fun a inc none_ op => congrArg Host.Outcome.next ((pulseDone_command none_).trans (progDone_read op)),
    fun none_ idle => congrArg Host.Outcome.next ((pulseDone_command none_).trans (progDone_idle idle)), ?_⟩
  · exact asCtl.trans (congrArg Host.Outcome.next (progCtlWrite_sets noWrite noRead))
  · exact asCtl.trans (congrArg Host.Outcome.next (progCtlWrite_refused cmd refused))
  · refine asCtl.trans (congrArg Host.Outcome.next ((progCtlWrite_starts (.inl write) ok).trans ?_))
    rw [if_pos write]
    rfl
  · refine asCtl.trans (congrArg Host.Outcome.next ((progCtlWrite_starts (.inr read) ok).trans ?_))
    rw [if_neg (by rw [noWrite]; decide)]
    rfl
  · exact ⟨calUnlockWrite mid v s, congrArg Host.Outcome.next (write_cal_unlock np), calUnlockWrite_writer,
      fun m ne => calUnlockWrite_other ne, rfl, rfl⟩

end Sys2Proof.Proofs


namespace Sys2Proof.Proofs

open Sys2Proof.Machine Sys2Proof.Laws

/-! # Activation, trial and the image load (R28, R31, R35 to R42): O60 -/

/-! ## Why GO or CONFIRM is discarded -/

section
variable {s : State}

theorem activateRefusal_active (active : s.cfg.act.isSome = true) : activateRefusal s = 1 := by
  unfold activateRefusal activating
  exact if_pos (by rw [active]; rfl)

theorem activateRefusal_confirming {copy : Bool} (rec_ : s.cfg.recPulse = some (copy, true)) : activateRefusal s = 1 := by
  unfold activateRefusal activating
  exact if_pos (by rw [rec_]; exact Bool.or_true _)

section
variable (act : s.cfg.act = none) (rec_ : s.cfg.recPulse = none)
include act rec_

theorem activateRefusal_off (off : s.storeOn = false) : activateRefusal s = 2 := by
  simp [activateRefusal, activating, act, rec_, off]

theorem activateRefusal_pfw (on : s.storeOn = true) (pfw : s.pwr.pfw = true) : activateRefusal s = 3 := by
  simp [activateRefusal, activating, act, rec_, on, pfw]

theorem activateRefusal_calm (on : s.storeOn = true) (calm : s.pwr.pfw = false) : activateRefusal s = 0 := by
  simp [activateRefusal, activating, act, rec_, on, calm]

end

/-! ## A write of CFG_ACTIVATE -/

/-- SLOT and TRIAL as a write of CFG_ACTIVATE sets them (R41). -/
def activatePut (v : Word) (s : State) : State := (s.fset F.CFG_ACTIVATE_SLOT (fieldOf v 0 0)).fset F.CFG_ACTIVATE_TRIAL (fieldOf v 1 1)

variable {v : Word}

theorem activateWrite_sets (noGo : bitOf v 8 = false) (noConfirm : bitOf v 9 = false) : activateWrite v s = activatePut v s := by
  unfold activateWrite
  rw [noGo, noConfirm]
  rfl

theorem activateWrite_discarded (cmd : bitOf v 8 = true ∨ bitOf v 9 = true) (why : activateRefusal s ≠ 0) :
    activateWrite v s = s.fset F.CFG_ACTIVATE_ERR (activateRefusal s) := by
  unfold activateWrite
  exact if_pos (by rw [Bool.and_eq_true, Bool.or_eq_true, decide_eq_true_eq]; exact ⟨cmd, why⟩)

section
variable (ok : activateRefusal s = 0)
include ok

theorem activateWrite_go (go : bitOf v 8 = true) : activateWrite v s =
    (if bitOf v 9 then confirmSlot ((activatePut v s).fset F.CFG_ACTIVATE_ERR 0) else (activatePut v s).fset F.CFG_ACTIVATE_ERR 0).modCfg
      (fun c => { c with act := some (bitOf v 0, bitOf v 1) }) := by
  unfold activateWrite
  rw [ok, go]
  dsimp only
  rw [if_neg (by simp), if_neg (by simp), if_neg (by simp)]
  rfl

theorem activateWrite_confirm (noGo : bitOf v 8 = false) (confirm : bitOf v 9 = true) (onTrial : s.cfg.trial = true) :
    activateWrite v s = confirmSlot ((activatePut v s).fset F.CFG_ACTIVATE_ERR 0) := by
  unfold activateWrite
  rw [ok, noGo, confirm, onTrial]
  rfl

theorem activateWrite_noTrial (noGo : bitOf v 8 = false) (confirm : bitOf v 9 = true) (noTrial : s.cfg.trial = false) :
    activateWrite v s = s := by
  unfold activateWrite
  rw [ok, noGo, confirm, noTrial]
  rfl

end

theorem confirmSlot_trial (onTrial : s.cfg.trial = true) :
    confirmSlot s = s.modCfg (fun c => { writeRecord true c.slot .confirmed c with trial := false }) := if_pos onTrial

theorem confirmSlot_none (noTrial : s.cfg.trial = false) : confirmSlot s = s := if_neg (by rw [noTrial]; decide)

end

/-! ## The end of an activation's check -/

section
variable {s : State} {slot trial : Bool} {img : ImageDesc}

theorem activateDone_waits (busy : s.cfg.act = none ∨ s.storeOn = false ∨ s.cfg.recPulse.isSome = true) : activateDone img s = s := by
  unfold activateDone
  split
  · rfl
  · rename_i act
    exact if_pos (by simpa [act] using busy)

/-- The reason a slot's check gives: its header's, or its digest's and structure's (R35). -/
def slotReason (s : State) (slot : Bool) (img : ImageDesc) : Nat :=
  if headerReason s slot ≠ 0 then headerReason s slot else streamReason s slot (listedSections (slotSections s slot) img)

/-- The check's result as it stands in the slot's record and in RESULT (R38). -/
def activationTold (slot : Bool) (reason : Nat) (s : State) : State :=
  ((checkResult slot reason s).modCfg (fun c => { c with act := none })).fset F.CFG_ACTIVATE_RESULT reason

theorem activationTold_pwr (reason : Nat) : (activationTold slot reason s).pwr = s.pwr := rfl

theorem activateDone_ends (act : s.cfg.act = some (slot, trial)) (on : s.storeOn = true) (rec_ : s.cfg.recPulse = none) :
    activateDone img s = (let reason := slotReason s slot img
      let told := activationTold slot reason s
      if reason ≠ 0 then told
      else if told.pwr.pfw then told.fset F.CFG_ACTIVATE_ERR 3
      else told.modCfg (fun c =>
        { writeRecord true slot (if trial then .pending else .confirmed) c with trial := c.trial && (trial || slot != c.slot) })) := by
  unfold activateDone
  rw [act]
  exact if_neg (by rw [on, rec_]; decide)

/-! ## The steps of a load -/

theorem loadStart_notReady (not_ : loadReady s = false) : loadStart s = s := by
  unfold loadStart
  exact if_pos (by rw [not_]; rfl)

/-- The state of CFG as a load begins (R35). -/
def loadBegun (s : State) : State :=
  s.modCfg (fun c => { c with
    state := .loading, calValid := Config.calCheck (ramRead s.cfg.store 0x3C0000 0x10000), fellBack := false,
    fallback := false, trial := false, trialLoad := false, presetSkipped := false })

section
variable (ready : loadReady s = true)
include ready

theorem loadStart_confirmed (rec_ : (ctlRecord s.cfg).trial = .confirmed) :
    loadStart s = (loadBegun s).modCfg (fun c => { c with stage := .header (ctlRecord s.cfg).slot }) := by
  unfold loadStart
  rw [if_neg (by rw [ready]; decide)]
  dsimp only
  rw [rec_]
  rfl

theorem loadStart_pending (rec_ : (ctlRecord s.cfg).trial = .pending) (calm : s.pwr.pfw = false) :
    loadStart s = (loadBegun s).modCfg (fun c =>
      { writeRecord false (ctlRecord s.cfg).slot .loaded c with stage := .header (ctlRecord s.cfg).slot, trialLoad := true }) := by
  unfold loadStart
  rw [if_neg (by rw [ready]; decide)]
  dsimp only
  rw [rec_, calm]
  rfl

theorem loadStart_unconfirmed (rec_ : (ctlRecord s.cfg).trial = .loaded) (calm : s.pwr.pfw = false) :
    loadStart s = (loadBegun s).modCfg (fun c =>
      { writeRecord false (!(ctlRecord s.cfg).slot) .confirmed c with stage := .header (!(ctlRecord s.cfg).slot), fallback := true }) := by
  unfold loadStart
  rw [if_neg (by rw [ready]; decide)]
  dsimp only
  rw [rec_, calm]
  rfl

theorem loadStart_underPfw (rec_ : (ctlRecord s.cfg).trial ≠ .confirmed) (pfw : s.pwr.pfw = true) :
    loadStart s = (loadBegun s).modCfg (fun c => { c with stage := .header (!(ctlRecord s.cfg).slot), fallback := true }) := by
  unfold loadStart
  rw [if_neg (by rw [ready]; decide)]
  dsimp only
  rw [pfw]
  cases there : (ctlRecord s.cfg).trial with
  | confirmed => exact absurd there rec_
  | pending => rfl
  | loaded => rfl

end

section
variable (stage : s.cfg.stage = .header slot)
include stage

theorem loadHeader_waits (busy : s.cfg.recPulse.isSome = true) : loadHeader s = s := by
  unfold loadHeader
  rw [stage]
  exact if_pos busy

theorem loadHeader_passes (none_ : s.cfg.recPulse = none) (good : headerReason s slot = 0) :
    loadHeader s = s.modCfg (fun c => { c with stage := .streaming slot }) := by
  unfold loadHeader
  rw [stage]
  dsimp only
  rw [if_neg (by rw [none_]; decide), if_neg (not_not.mpr good)]

theorem loadHeader_fails (none_ : s.cfg.recPulse = none) (bad : headerReason s slot ≠ 0) :
    loadHeader s = slotFails slot (headerReason s slot) s := by
  unfold loadHeader
  rw [stage]
  dsimp only
  rw [if_neg (by rw [none_]; decide), if_pos bad]

end

section
variable (stage : s.cfg.stage = .streaming slot)
include stage

theorem loadStreamed_passes (good : streamReason s slot (listedSections (slotSections s slot) img) = 0) :
    loadStreamed img s = (checkResult slot 0 s).modCfg (fun c => { c with
      stage := .passed slot (listedSections (slotSections s slot) img) }) := by
  unfold loadStreamed
  rw [stage]
  exact if_neg (not_not.mpr good)

theorem loadStreamed_fails (bad : streamReason s slot (listedSections (slotSections s slot) img) ≠ 0) :
    loadStreamed img s = slotFails slot (streamReason s slot (listedSections (slotSections s slot) img)) s := by
  unfold loadStreamed
  rw [stage]
  exact if_pos bad

end

/-! ## A slot fails -/

theorem checkResult_fellBack (reason : Nat) : (checkResult slot reason s).cfg.fellBack = s.cfg.fellBack := by
  cases slot <;> rfl

theorem slotFails_second {reason : Nat} (second : s.cfg.fellBack = true) :
    slotFails slot reason s = noImage (checkResult slot reason s) := by
  unfold slotFails
  exact if_pos ((checkResult_fellBack reason).trans second)

theorem slotFails_first {reason : Nat} (first : s.cfg.fellBack = false) : slotFails slot reason s =
    (checkResult slot reason s).modCfg (fun c => { c with
      stage := .header (!slot), fellBack := true, fallback := true, trialLoad := false }) := by
  unfold slotFails
  exact if_neg (by rw [checkResult_fellBack, first]; decide)

/-! ## The commit -/

theorem commitImage_waits (busy : s.rst.clearing = true ∨ s.rst.cHeld = true) : commitImage s = s := by
  unfold commitImage
  split
  · exact if_pos (by rcases busy with h | h <;> simp [h])
  · rfl

theorem commitImage_commits (stage : s.cfg.stage = .passed slot img) (clear : s.rst.clearing = false) (nc : s.rst.cHeld = false)
    (np : s.rst.pHeld = false) (calm : s.flt.muzzle = false) :
    commitImage s = (
      let fused := fuseRates s.impl.grade5 img
      let c0 := s.modCfg (fun c => { c with stage := .idle, state := .loaded, slot := slot, trial := c.trialLoad, trialLoad := false })
      let c1 : State := { c0 with image := some fused, rtr := { imageTables fused with oldSeen := s.clock } }
      let c2 := fused.presets.foldl applyPreset (c1.modRst (fun r => { r with coreRel := true, cold := false, phase := .running }))
      allPorts.foldl (fun t p => startTraining p t) (if c2.cfg.trial then asyncChip 0x09 0 (BitVec.ofNat 64 (b2n slot)) c2 else c2)) := by
  unfold commitImage
  rw [stage]
  exact if_neg (by rw [clear, nc, np, calm]; decide)

end

/-! ## The settlement -/

/-- Settles O60, by the branches of the write of CFG_ACTIVATE, of the check's end and of each step of a load. -/
theorem activationAndLoad : Obligations.ActivationAndLoad := by
  unfold Obligations.ActivationAndLoad
  intro s mid v img
  refine ⟨fun np => ?_, fun slot trial act on none_ => ?_, fun busy => congrArg Host.Outcome.next (activateDone_waits busy),
    fun not_ => congrArg Host.Outcome.next (loadStart_notReady not_), fun ready => ⟨?_, ?_, ?_, ?_⟩, fun slot stage => ⟨?_, fun none_ => ⟨?_, ?_⟩⟩,
    fun slot stage => ⟨?_, ?_⟩, fun slot reason => ⟨slotFails_second, slotFails_first⟩,
    fun slot im stage clear nc np calm => congrArg Host.Outcome.next (commitImage_commits stage clear nc np calm),
    fun busy => congrArg Host.Outcome.next (commitImage_waits busy)⟩
  · intro u put ok kept asked why
    have asCtl : exec (.go mid v) s = .next (activateWrite v u) := congrArg Host.Outcome.next (write_activate np)
    have sameWhy : activateRefusal u = why := rfl
    refine ⟨rfl, fun noGo noConfirm => ?_, fun cmd refused => ?_, fun accepted go => ⟨fun plain => ?_, fun confirm onTrial => ?_⟩,
      fun accepted noGo confirm => ⟨fun onTrial => ?_, fun noTrial => ?_⟩, activateRefusal_active, fun copy => activateRefusal_confirming,
      fun act none_ => ⟨activateRefusal_off act none_, activateRefusal_pfw act none_, activateRefusal_calm act none_⟩⟩
    · exact asCtl.trans (congrArg Host.Outcome.next (activateWrite_sets noGo noConfirm))
    · exact asCtl.trans (congrArg Host.Outcome.next (activateWrite_discarded cmd refused))
    · refine asCtl.trans (congrArg Host.Outcome.next ((activateWrite_go (sameWhy.trans accepted) go).trans (congrArg asked ?_)))
      cases confirm : bitOf v 9 with
      | false => rfl
      | true => exact confirmSlot_none (s := ok) (plain.resolve_left (by rw [confirm]; decide))
    · refine asCtl.trans (congrArg Host.Outcome.next ((activateWrite_go (sameWhy.trans accepted) go).trans (congrArg asked ?_)))
      exact (if_pos confirm).trans (confirmSlot_trial (s := ok) onTrial)
    · exact asCtl.trans (congrArg Host.Outcome.next
        ((activateWrite_confirm (sameWhy.trans accepted) noGo confirm onTrial).trans (confirmSlot_trial (s := ok) onTrial)))
    · exact asCtl.trans (congrArg Host.Outcome.next (activateWrite_noTrial (sameWhy.trans accepted) noGo confirm noTrial))
  · have ends := activateDone_ends (img := img) act on none_
    refine ⟨fun bad => ?_, fun good calm => ?_, fun good pfw => ?_⟩
    · exact congrArg Host.Outcome.next (ends.trans (if_pos bad))
    · exact congrArg Host.Outcome.next (ends.trans ((if_neg (not_not.mpr good)).trans (if_neg (by rw [activationTold_pwr, calm]; decide))))
    · exact congrArg Host.Outcome.next (ends.trans ((if_neg (not_not.mpr good)).trans (if_pos ((congrArg PwrState.pfw (activationTold_pwr _)).trans pfw))))
  · exact fun rec_ => congrArg Host.Outcome.next (loadStart_confirmed ready rec_)
  · exact fun rec_ calm => congrArg Host.Outcome.next (loadStart_pending ready rec_ calm)
  · exact fun rec_ calm => congrArg Host.Outcome.next (loadStart_unconfirmed ready rec_ calm)
  · exact fun rec_ pfw => congrArg Host.Outcome.next (loadStart_underPfw ready rec_ pfw)
  · exact fun busy => congrArg Host.Outcome.next (loadHeader_waits stage busy)
  · exact fun good => congrArg Host.Outcome.next (loadHeader_passes stage none_ good)
  · exact fun bad => congrArg Host.Outcome.next (loadHeader_fails stage none_ bad)
  · exact fun good => congrArg Host.Outcome.next (loadStreamed_passes stage good)
  · exact fun bad => congrArg Host.Outcome.next (loadStreamed_fails stage bad)

end Sys2Proof.Proofs


namespace Sys2Proof.Proofs

open Sys2Proof.Machine Sys2Proof.Laws

/-! # What a packet that names a window does (R101, R103, R107, R109, R154, R216 to R223): O55 -/

/-! ## The check of a window access -/

section
variable {h : HostPort} {k : Nat} {c : EpCtx} {p : PairRec} {pkt : Packet} {now : Word} {s v : State} {i : Nat}

section
variable (index : (winAsk s h pkt).index = some i) (inside : i < winCount s h) (need : needWin h i s = (v, none))
include index inside need

/-- A window that belongs to no rendezvous keeps nothing of a refused access (R244). -/
theorem judgeWin_refused {r : Nat} (bad : winCheck (winOf v h i) (winAsk s h pkt) c.pd (vpNotify pkt) = some r)
    (plain : (winOf v h i).rndv = none) : judgeWin h k c p pkt now none s = (v, .refuse r 0) := by
  have same : noteRefused h (winOf v h i) pkt r v = v := by
    unfold noteRefused
    rw [plain]
  unfold judgeWin
  dsimp only
  rw [index, Option.filter_some, if_pos (decide_eq_true inside)]
  dsimp only
  rw [need]
  dsimp only
  rw [bad]
  dsimp only
  rw [same]

/-- The host requests of a window access (R154, R193). -/
def winAccesses (v : State) (h : HostPort) (pkt : Packet) (w : Window) (q : WinAsk) : List XAccess :=
  rangeAccesses (if pktOpcode pkt = 3 then maxRead v h else maxWrite v h) w.pd (winRanges v h w q)
    (decide (pktOpcode pkt = 3 ∨ pktOpcode pkt = 4 ∨ pktOpcode pkt = 5)) (decide (pktOpcode pkt ≠ 3)) (w.access.testBit 3)

theorem judgeWin_commits {ps : List Piece} {u x : State} (good : winCheck (winOf v h i) (winAsk s h pkt) c.pd (vpNotify pkt) = none)
    (pages : (winAccesses v h pkt (winOf v h i) (winAsk s h pkt)).any (pageFailed v h) = false)
    (all : translateAll h none none (winAccesses v h pkt (winOf v h i) (winAsk s h pkt)) v = (.all ps, u))
    (room : commitRefusal h p (winOf v h i) pkt u = (x, none)) :
    judgeWin h k c p pkt now none s = (commitWin h k pkt now i (winOf v h i) (winAsk s h pkt) ps x, .commit) := by
  unfold winAccesses at pages all
  unfold judgeWin
  dsimp only
  rw [index, Option.filter_some, if_pos (decide_eq_true inside)]
  dsimp only
  rw [need]
  dsimp only
  rw [good]
  dsimp only
  rw [if_neg (by rw [pages]; decide), all]
  dsimp only
  rw [room]

end

/-! ## The commit, by opcode -/

section
variable {w : Window} {q : WinAsk} {ps : List Piece}

theorem commitWin_put (op : pktOpcode pkt = 0x01 ∨ pktOpcode pkt = 0x21) : commitWin h k pkt now i w q ps s =
    consume h k pkt now (writePieces h (isDurable pkt) (putData pkt) ps s) := by
  have plain : isDurable pkt = false ∧ vpNotify pkt = false := by
    unfold isDurable vpNotify
    rcases op with op | op <;> rw [op] <;> exact ⟨rfl, rfl⟩
  unfold commitWin
  rcases op with op | op <;> simp only [op, plain] <;> rfl

theorem commitWin_durable (op : pktOpcode pkt = 0x02 ∨ pktOpcode pkt = 0x22) : commitWin h k pkt now i w q ps s =
    startFlush h (modRem h (fun y => { y with unflushed := y.unflushed ++ [⟨k, pktPseq pkt, now⟩] })
      (consumePending h k pkt (writePieces h (isDurable pkt) (putData pkt) ps s))) := by
  have durable : isDurable pkt = true := decide_eq_true op
  unfold commitWin
  rcases op with op | op <;> simp only [op, durable] <;> rfl

theorem commitWin_velpen (op : pktOpcode pkt = 0x40) : commitWin h k pkt now i w q ps s =
    consume h k pkt now (if vpNotify pkt then
        eqDecide h w.eq (mkEvent (writePieces h (isDurable pkt) (putData pkt) ps s) 3 0 (notifyBody pkt))
          (writePieces h (isDurable pkt) (putData pkt) ps s)
      else writePieces h (isDurable pkt) (putData pkt) ps s) := by
  have plain : isDurable pkt = false := by
    unfold isDurable
    rw [op]
    rfl
  unfold commitWin
  simp only [op, plain]
  rfl

/-- The reply reservation of a get or of a fetching atomic (R221, R222). -/
def winResv (k : Nat) (pkt : Packet) (i : Nat) (h : HostPort) (w : Window) (q : WinAsk) (s : State) : Resv :=
  { pair := k, reqSeq := pktPseq pkt, win := i, len := q.len, pd := w.pd, ranges := winRanges s h w q,
    paged := w.access.testBit 3, tc := pktTc pkt, isGet := decide (pktOpcode pkt = 3), respSeq := none, data := [],
    reads := 0, failed := false, ready := false, again := false }

theorem commitWin_get (op : pktOpcode pkt = 0x03) : commitWin h k pkt now i w q ps s =
    startReply h (takeResv h (winResv k pkt i h w q s) s).1 ps
      (noteLast h w pkt (consume h k pkt now (takeResv h (winResv k pkt i h w q s) s).2)) := by
  unfold commitWin winResv
  simp only [op]

theorem commitWin_atomic {a : Piece} {more : List Piece} (op : pktOpcode pkt = 0x04) : commitWin h k pkt now i w q (a :: more) s =
    startAtomics h (atomicIn h k pkt now a none i (consumePending h k pkt s)) := by
  unfold commitWin
  simp only [op]

theorem commitWin_fetch {a : Piece} {more : List Piece} (op : pktOpcode pkt = 0x05) : commitWin h k pkt now i w q (a :: more) s =
    startAtomics h (atomicIn h k pkt now a (some (takeResv h (winResv k pkt i h w q s) s).1) i
      (consume h k pkt now (takeResv h (winResv k pkt i h w q s) s).2)) := by
  unfold commitWin winResv
  simp only [op]

end
end

/-! ## The commands -/

/-- The commands of the packets that name a window, each with its opcode (R104). -/
def windowRows (ip : IntPort) : List (Nat × Instr) :=
  [(0x01, .putShort ip), (0x21, .put ip), (0x02, .putShortDurable ip), (0x22, .putDurable ip), (0x03, .getReq ip), (0x04, .atomic ip),
    (0x05, .atomicFetch ip), (0x40, .vpDirectWrite ip)]

theorem windowRows_arrival {ip : IntPort} {r : Nat × Instr} (mem : r ∈ windowRows ip) : r ∈ arrivalRows ip :=
  List.mem_of_mem_take (i := 8) (l := arrivalRows ip) mem

theorem windowRows_opcode {ip : IntPort} {r : Nat × Instr} (mem : r ∈ windowRows ip) : r.1 ∈ [1, 0x21, 2, 0x22, 3, 4, 5, 0x40] :=
  List.mem_map_of_mem (f := Prod.fst) mem

section
variable {s t : State} {ip : IntPort} {e : InPacket} {h : HostPort} {c : EpCtx} {p : PairRec} {mine : Packet → Bool}

theorem headPaired_head (paired : headPaired s ip e h c p) : ∃ rest, s.ints[ip].eject = e :: rest := by
  obtain ⟨⟨head, -⟩, -⟩ := paired
  exact head_cons head

theorem arrive_refused {r d : Nat} (paired : headPaired s ip e h c p) (own : mine e.pkt = true)
    (verdict : judge e.pkt (ejection e) none s = (t, .refuse r d)) :
    arrive mine ip s = roomAgain (refuse e.pkt (.refuse r d) (takeEject ip e t)) := by
  obtain ⟨rest, head⟩ := headPaired_head paired
  rw [arrive_at head own (headPaired_works paired), verdict]
  rfl

/-- A new packet whose opcode names a window is judged by its window access (R219). -/
theorem judge_window (paired : headPaired s ip e h c p) (inOrder : seqOutside p (pktPseq e.pkt) = false) (released : readyHeld p = [])
    (new : seqNew p (pktPseq e.pkt) = true) (names : pktOpcode e.pkt ∈ [1, 0x21, 2, 0x22, 3, 4, 5, 0x40]) :
    judge e.pkt (ejection e) none s = judgeWin h (arrivalKey e.pkt) c p e.pkt (arrivedAt e) none (pairSeen s h e.pkt) :=
  (judge_paired paired (fun op => absurd (op ▸ names) (by decide)) (fun op => absurd (op ▸ names) (by decide))).trans
    ((ord_new inOrder released new).trans (new_win _ rfl names))

end

/-- Settles O55, by the check of the window and the commit of each opcode. -/
theorem windowAccesses : Obligations.WindowAccesses := by
  unfold Obligations.WindowAccesses
  intro s ip e h c p paired inOrder released new k now q ends i v index inside need w op as
  obtain ⟨rest, head⟩ := headPaired_head paired
  have works := headPaired_works paired
  refine ⟨fun r bad plain row mem own => ?_, fun good pages ps u x all room => ?_⟩
  · have names : op ∈ [1, 0x21, 2, 0x22, 3, 4, 5, 0x40] := own ▸ windowRows_opcode (ip := ip) mem
    exact ((arrival_rows ip s row (windowRows_arrival mem)).1).trans (congrArg Host.Outcome.next (arrive_refused paired (decide_eq_true own)
      ((judge_window paired inOrder released new names).trans (judgeWin_refused index inside need bad plain))))
  · intro written resv late
    have commits : ∀ n row, (n, row) ∈ windowRows ip → op = n → ∀ t, commitWin h k e.pkt now i w q ps x = t → ends row t := by
      intro n row mem own t done
      have names : op ∈ [1, 0x21, 2, 0x22, 3, 4, 5, 0x40] := own ▸ windowRows_opcode mem
      exact ((arrival_rows ip s (n, row) (windowRows_arrival mem)).1).trans (congrArg Host.Outcome.next
        (arrive_committed head (decide_eq_true own) works ((judge_window paired inOrder released new names).trans
          ((judgeWin_commits index inside need good pages all room).trans (by rw [← done])))))
    refine ⟨fun own => ?_, fun own => ?_, fun own => ?_, fun own => ?_, fun own => ?_, fun own => ?_, fun own a more one => ?_, fun own a more one => ?_⟩
    · exact commits _ _ (by simp [windowRows]) own _ (commitWin_put (.inl own))
    · exact commits _ _ (by simp [windowRows]) own _ (commitWin_put (.inr own))
    · exact commits _ _ (by simp [windowRows]) own _ (commitWin_durable (.inl own))
    · exact commits _ _ (by simp [windowRows]) own _ (commitWin_durable (.inr own))
    · exact commits _ _ (by simp [windowRows]) own _ (commitWin_velpen own)
    · exact commits _ _ (by simp [windowRows]) own _ (commitWin_get own)
    · subst one
      exact commits _ _ (by simp [windowRows]) own _ (commitWin_atomic own)
    · subst one
      exact commits _ _ (by simp [windowRows]) own _ (commitWin_fetch own)

end Sys2Proof.Proofs


namespace Sys2Proof.Proofs

open Sys2Proof.Machine Sys2Proof.Laws

/-! # Acknowledgements, responses, messages and the timers of a pair (R102, R106, R108, R110, R213, R219, R221, R222, R231, R243): O56 -/

/-! ## Acknowledgements -/

section
variable {s t : State} {ip : IntPort} {e : InPacket} {rest : List InPacket} {h : HostPort} {c : EpCtx} {p : PairRec}

theorem arrive_ack (paired : headPaired s ip e h c p) (op : pktOpcode e.pkt = 8) : arrive (fun k => decide (pktOpcode k = 8)) ip s =
    taken ip e 1 (pumpPort h (ackIn h (arrivalKey e.pkt) e.pkt (ejection e) (pairSeen s h e.pkt))) := by
  obtain ⟨rest, head⟩ := headPaired_head paired
  exact arrive_committed head (decide_eq_true op) (headPaired_works paired) ((ack_paired paired (.inl op)).trans (by rw [if_pos op]))

theorem arrive_nack (paired : headPaired s ip e h c p) (op : pktOpcode e.pkt = 9) : arrive (fun k => decide (pktOpcode k = 9)) ip s =
    taken ip e 1 (pumpPort h (nackIn h (arrivalKey e.pkt) e.pkt (pairSeen s h e.pkt))) := by
  obtain ⟨rest, head⟩ := headPaired_head paired
  exact arrive_committed head (decide_eq_true op) (headPaired_works paired)
    ((ack_paired paired (.inr op)).trans (by rw [if_neg (by rw [op]; decide)]))

theorem nackArrive_pair (head : s.ints[ip].eject = e :: rest) (reason : pktAt e.pkt 19 1 ≠ 0x11) :
    nackArrive ip s = arrive (fun k => decide (pktOpcode k = 9)) ip s := by
  have pairs : colNackHead ip s = false := by
    unfold colNackHead
    rw [head]
    dsimp only
    rw [decide_eq_false reason, Bool.and_false]
  exact if_neg (by rw [pairs]; decide)

theorem arrive_parked {mine : Packet → Bool} {w : ParkWait} (paired : headPaired s ip e h c p) (own : mine e.pkt = true)
    (verdict : judge e.pkt (ejection e) none s = (t, .park w)) :
    arrive mine ip s = roomAgain (parkPkt e.pkt (ejection e) w (takeEject ip e t)) := by
  obtain ⟨rest, head⟩ := headPaired_head paired
  rw [arrive_at head own (headPaired_works paired), verdict]

theorem judge_new (paired : headPaired s ip e h c p) (o8 : pktOpcode e.pkt ≠ 8) (o9 : pktOpcode e.pkt ≠ 9)
    (inOrder : seqOutside p (pktPseq e.pkt) = false) (released : readyHeld p = []) (new : seqNew p (pktPseq e.pkt) = true) :
    judge e.pkt (ejection e) none s = judgeNew h (arrivalKey e.pkt) c p e.pkt (arrivedAt e) none (pairSeen s h e.pkt) :=
  (judge_paired paired o8 o9).trans (ord_new inOrder released new)

end

/-! ## Messages -/

section
variable {h : HostPort} {k : Nat} {c : EpCtx} {p : PairRec} {pkt : Packet} {now : Word} {s u : State}

theorem judgeNew_messageTaken (op : pktOpcode pkt = 6 ∨ pktOpcode pkt = 7 ∨ pktOpcode pkt = 0x24)
    (matched : msgNew h k p pkt s = (u, .commit)) : judgeNew h k c p pkt now none s = (consume h k pkt now u, .commit) := by
  rw [new_msg op, matched]

theorem judgeNew_messageRefused {r d : Nat} (op : pktOpcode pkt = 6 ∨ pktOpcode pkt = 7 ∨ pktOpcode pkt = 0x24)
    (matched : msgNew h k p pkt s = (u, .refuse r d)) : judgeNew h k c p pkt now none s = (u, .refuse r d) := by
  rw [new_msg op, matched]

theorem judgeNew_messageWaits (op : pktOpcode pkt = 6 ∨ pktOpcode pkt = 7 ∨ pktOpcode pkt = 0x24)
    (matched : msgNew h k p pkt s = (u, .later)) : judgeNew h k c p pkt now none s = (u, .later) := by
  rw [new_msg op, matched]

/-- While an endpoint searches a Kennel block its messages wait (R235). -/
theorem msgNew_searching (ep : tblGet (keyEp k) (s.host h).eps = some c) (search : c.search.isSome = true) :
    msgNew h k p pkt s = (s, .later) := by
  unfold msgNew
  dsimp only
  rw [ep]
  exact if_pos search

/-- The key of an arrival's pair names the endpoint it is addressed to. -/
theorem keyEp_arrivalKey (pkt : Packet) : keyEp (arrivalKey pkt) = pktDstEp pkt := by
  have chip : pktSrcChip pkt < 2 ^ 18 := Nat.mod_lt _ (by decide)
  have peer : pktSrcEp pkt < 2 ^ 24 := Nat.mod_lt _ (by decide)
  unfold keyEp arrivalKey pairKey
  omega

end

/-! ## Responses -/

section
variable {h : HostPort} {k : Nat} {c : EpCtx} {p : PairRec} {pkt : Packet} {now : Word} {s u : State}

theorem judgeNew_parked {w : ParkWait} (op : pktOpcode pkt = 0x0B ∨ pktOpcode pkt = 0x23) (judged : judgeResp h k p pkt now none s = (u, .park w)) :
    judgeNew h k c p pkt now none s = (u, .park w) := by
  unfold judgeNew
  dsimp only
  refine (if_neg (by omega)).trans ((if_pos op).trans ?_)
  rw [judged]

theorem judgeResp_gone (gone : tblGet (pktAt pkt 22 3) p.gets = none) : judgeResp h k p pkt now none s = (consume h k pkt now s, .commit) := by
  unfold judgeResp
  rw [gone]
  rfl

section
variable {g : PendingGet} {pd : Nat} {segs : List Segment} {off len : Nat} {ps : List Piece}
variable (there : tblGet (pktAt pkt 22 3) p.gets = some g) (dest : respDest s h g = some (pd, segs, off, len))
include there dest

/-- A response whose pieces of its buffer are all translated is written there and settles its request. -/
theorem judgeResp_written {fetch : Bool} {n : Nat} (kind : decide (pktOpcode pkt = 0x0B) = fetch)
    (size : (if fetch then len else min len (pktPlen pkt)) = n) (good : (fetch && decide (pktAt pkt 40 2 ≠ 0)) = false)
    (whole : (fetch || (respShort s h g (off + n)).isNone) = true)
    (all : translateAll h none none (segAccesses (maxWrite s h) pd segs off n false true) s = (.all ps, u)) :
    judgeResp h k p pkt now none s = (consume h k pkt now (respEnd h k pkt g (if fetch then n else (ps.map (·.len)).sum) 0 0
      (writePieces h false (pktSlice pkt 32 n) ps u)), .commit) := by
  unfold judgeResp
  rw [there]
  dsimp only [Option.bind_some]
  rw [dest]
  dsimp only [Option.map_some]
  rw [kind, size, good, whole]
  rw [if_neg Bool.false_ne_true, if_pos rfl, all]

theorem judgeResp_short {id : Nat} {d : Delivery} (op : pktOpcode pkt = 0x23)
    (short : respShort s h g (off + min len (pktPlen pkt)) = some (id, d)) :
    judgeResp h k p pkt now none s = (readSegs h id d s, .park (.record id)) := by
  have kind : decide (pktOpcode pkt = 0x0B) = false := by rw [op]; decide
  unfold judgeResp
  rw [there]
  dsimp only [Option.bind_some]
  rw [dest]
  dsimp only [Option.map_some]
  rw [kind, if_neg Bool.false_ne_true, short]
  rfl

theorem judgeResp_failed (op : pktOpcode pkt = 0x0B) (status : pktAt pkt 40 2 ≠ 0) :
    judgeResp h k p pkt now none s = (consume h k pkt now (respEnd h k pkt g 0 5 0 s), .commit) := by
  unfold judgeResp
  rw [there]
  dsimp only [Option.bind_some]
  rw [dest]
  dsimp only [Option.map_some]
  exact if_pos (by rw [decide_eq_true op, decide_eq_true status]; rfl)

end
end

/-! ## The timers of a pair -/

section
variable {s u : State} {h : HostPort} {k seq : Nat} {p : PairRec} {o : SentPkt}

theorem coalesced_due {q : Nat} {time : Word} (pair : getPair s h k = some p) (trig : p.trig = some (q, time)) (live : s.hostLive h = true) :
    coalesced h k s = ackOut h k 0 q time s := by
  unfold coalesced
  rw [pair, Option.bind_some, trig]
  exact if_pos live

theorem coalesced_none (pair : getPair s h k = some p) (trig : p.trig = none) : coalesced h k s = s := by
  unfold coalesced
  rw [pair, Option.bind_some, trig]

theorem lateDue_freed {retry : Bool} (pair : getPair s h k = some p) (freed : tblGet seq p.out = none) : lateDue h k seq retry s = s := by
  unfold lateDue
  exact if_pos (by rw [pair, Option.any_some, freed]; rfl)

section
variable {retry : Bool} (pair : getPair s h k = some p) (sent : tblGet seq p.out = some o)
include pair sent

theorem lateDue_here (here : p.onChip = true) : lateDue h k seq retry s = lateHere h k seq retry (touchUnit (.pair h k) s) := by
  unfold lateDue
  rw [if_neg (by rw [pair, Option.any_some, sent]; exact Bool.false_ne_true), needPair_here pair here]

/-- What falls due while the pair's record is fetched is kept until it is there (R213). -/
theorem lateDue_waits {w : ParkWait} (need : needPair h k s = (u, .wait w)) : lateDue h k seq retry s =
    modRem h (fun x => if x.late.contains (k, seq, retry) then x else { x with late := x.late ++ [(k, seq, retry)] }) u := by
  unfold lateDue
  rw [if_neg (by rw [pair, Option.any_some, sent]; exact Bool.false_ne_true), need]

theorem lateHere_timeout : lateHere h k seq false s = timeoutHere h k seq o s := by
  unfold lateHere
  rw [pair, Option.bind_some, sent]
  rfl

theorem lateHere_backoff (backoff : o.backoff = true) : lateHere h k seq true s = againReply h k seq (replyReread h none) s := by
  unfold lateHere
  rw [pair, Option.bind_some, sent]
  exact if_pos backoff

theorem lateHere_noBackoff (none_ : o.backoff = false) : lateHere h k seq true s = s := by
  unfold lateHere
  rw [pair, Option.bind_some, sent]
  exact (if_neg (by decide)).trans (if_neg (by rw [none_]; decide))

end

/-- The congestion control's answer to a timeout (R272). -/
def timeoutSlowed (h : HostPort) (k : Nat) (o : SentPkt) (s : State) : State := if governed o.pkt then ccTimeout h k o.sentAt s else s

theorem timeoutHere_last (last : 16 ≤ o.timeouts + 1) : timeoutHere h k seq o s = breakPair h k (timeoutSlowed h k o s) := if_pos last

theorem timeoutHere_again (again : o.timeouts + 1 < 16) : timeoutHere h k seq o s = againReply h k seq (replyReread h none)
    (modPair h k (fun p => { p with out := tblMod seq (fun e => { e with timeouts := o.timeouts + 1 }) p.out }) (timeoutSlowed h k o s)) :=
  if_neg (by omega)

end

/-! ## Automatic gets -/

section
variable {s : State} {h : HostPort}

theorem autoStart_full (full : 1024 ≤ bothPorts (autoGets s)) : autoStart h s = s := if_pos full

section
variable (room : bothPorts (autoGets s) < 1024)
include room

theorem autoStart_none (waits : (s.host h).mte.deliveries.find? (fun d => d.2.isGet && !d.2.started) = none) : autoStart h s = s := by
  unfold autoStart
  rw [if_neg (by omega), waits]

theorem autoStart_first {i : Nat} {d : Delivery} (waits : (s.host h).mte.deliveries.find? (fun d => d.2.isGet && !d.2.started) = some (i, d)) :
    autoStart h s = if d.record then pumpGet h i 20 (modDelivery h i (fun d => { d with started := true, depth := rndvDepth s h }) s) else s := by
  unfold autoStart
  rw [if_neg (by omega), waits]

end
end

/-! ## The settlement -/

section
variable {s : State} {ip : IntPort} {e : InPacket} {h : HostPort} {c : EpCtx} {p : PairRec}

/-- The commands of messages, each with its opcode (R104). -/
def messageRows (ip : IntPort) : List (Nat × Instr) := [(0x06, .msgShort ip), (0x24, .msgEager ip), (0x07, .rndvReq ip)]

/-- The commands of responses, each with its opcode (R104). -/
def responseRows (ip : IntPort) : List (Nat × Instr) := [(0x23, .getResp ip), (0x0B, .atomicResp ip)]

theorem messageRows_arrival {r : Nat × Instr} (mem : r ∈ messageRows ip) : r ∈ arrivalRows ip :=
  List.mem_of_mem_drop (i := 12) (l := arrivalRows ip) mem

theorem responseRows_arrival {r : Nat × Instr} (mem : r ∈ responseRows ip) : r ∈ arrivalRows ip :=
  List.mem_of_mem_take (i := 12) (List.mem_of_mem_drop (i := 10) (l := (arrivalRows ip).take 12) mem)

theorem messageRows_opcode {r : Nat × Instr} (mem : r ∈ messageRows ip) : r.1 = 6 ∨ r.1 = 7 ∨ r.1 = 0x24 := by
  have op : r.1 ∈ [6, 0x24, 7] := List.mem_map_of_mem (f := Prod.fst) mem
  simp only [List.mem_cons, List.not_mem_nil, or_false] at op
  omega

theorem responseRows_opcode {r : Nat × Instr} (mem : r ∈ responseRows ip) : r.1 = 0x0B ∨ r.1 = 0x23 := by
  have op : r.1 ∈ [0x23, 0x0B] := List.mem_map_of_mem (f := Prod.fst) mem
  simp only [List.mem_cons, List.not_mem_nil, or_false] at op
  omega

section
variable (paired : headPaired s ip e h c p) (inOrder : seqOutside p (pktPseq e.pkt) = false) (released : readyHeld p = [])
  (new : seqNew p (pktPseq e.pkt) = true)
include paired inOrder released new

theorem message_taken {r : Nat × Instr} (mem : r ∈ messageRows ip) (own : pktOpcode e.pkt = r.1) :
    (∀ u, msgNew h (arrivalKey e.pkt) p e.pkt (pairSeen s h e.pkt) = (u, .commit) →
      exec r.2 s = .next (taken ip e 1 (consume h (arrivalKey e.pkt) e.pkt (arrivedAt e) u))) ∧
    (∀ u x d, msgNew h (arrivalKey e.pkt) p e.pkt (pairSeen s h e.pkt) = (u, .refuse x d) →
      exec r.2 s = .next (roomAgain (refuse e.pkt (.refuse x d) (takeEject ip e u)))) ∧
    (c.search.isSome → exec r.2 s = .next (nicSlot 4 (pairSeen s h e.pkt))) := by
  obtain ⟨rest, head⟩ := headPaired_head paired
  have works := headPaired_works paired
  have kind := own ▸ messageRows_opcode mem
  have judged := judge_new paired (by omega) (by omega) inOrder released new
  have go := (arrival_rows ip s r (messageRows_arrival mem)).1
  refine ⟨fun u matched => ?_, fun u x d matched => ?_, fun search => ?_⟩
  · exact go.trans (congrArg Host.Outcome.next (arrive_committed head (decide_eq_true own) works
      (judged.trans (judgeNew_messageTaken kind matched))))
  · exact go.trans (congrArg Host.Outcome.next (arrive_refused paired (decide_eq_true own)
      (judged.trans (judgeNew_messageRefused kind matched))))
  · obtain ⟨-, -, -, -, ep, -⟩ := paired
    have waits := msgNew_searching (h := h) (k := arrivalKey e.pkt) (p := p) (pkt := e.pkt) (s := pairSeen s h e.pkt) (c := c)
      ((keyEp_arrivalKey e.pkt).symm ▸ ep) search
    exact go.trans (congrArg Host.Outcome.next (arrive_stays head (decide_eq_true own) works
      (judged.trans (judgeNew_messageWaits kind waits))))

theorem response_taken {r : Nat × Instr} (mem : r ∈ responseRows ip) (own : pktOpcode e.pkt = r.1) {t : State}
    (judged : judgeResp h (arrivalKey e.pkt) p e.pkt (arrivedAt e) none (pairSeen s h e.pkt) = (t, .commit)) :
    exec r.2 s = .next (taken ip e 1 (pumpPort h t)) := by
  obtain ⟨rest, head⟩ := headPaired_head paired
  have kind := own ▸ responseRows_opcode mem
  exact ((arrival_rows ip s r (responseRows_arrival mem)).1).trans (congrArg Host.Outcome.next
    (arrive_committed head (decide_eq_true own) (headPaired_works paired)
      ((judge_new paired (by omega) (by omega) inOrder released new).trans (new_resp kind judged))))

theorem response_parked (op : pktOpcode e.pkt = 0x23) {t : State} {w : ParkWait}
    (judged : judgeResp h (arrivalKey e.pkt) p e.pkt (arrivedAt e) none (pairSeen s h e.pkt) = (t, .park w)) :
    exec (.getResp ip) s = .next (roomAgain (parkPkt e.pkt (ejection e) w (takeEject ip e t))) :=
  congrArg Host.Outcome.next (arrive_parked paired (decide_eq_true op)
    ((judge_new paired (by omega) (by omega) inOrder released new).trans (judgeNew_parked (.inr op) judged)))

end
end

/-- Settles O56, by the kinds of reply, the verdicts of matching, and the branches of each timer. -/
theorem repliesAndTimers : Obligations.RepliesAndTimers := by
  unfold Obligations.RepliesAndTimers
  refine ⟨?_, ?_, ?_⟩
  · intro s ip e h c p paired k now v op ends
    obtain ⟨rest, head⟩ := headPaired_head paired
    refine ⟨fun own => congrArg Host.Outcome.next (arrive_ack paired own),
      fun own reason => congrArg Host.Outcome.next ((nackArrive_pair head reason).trans (arrive_nack paired own)),
      fun inOrder released new => ⟨fun r mem own => message_taken paired inOrder released new mem own,
        fun gone r mem own => response_taken paired inOrder released new mem own (judgeResp_gone gone),
        fun g pd segs off len there dest => ?_⟩⟩
    intro n
    refine ⟨fun own whole ps u all => ?_, fun own id d short => ?_, fun own status ps u all => ?_, fun own status => ?_⟩
    · exact response_taken paired inOrder released new (r := (0x23, .getResp ip)) (by simp [responseRows]) own
        (judgeResp_written there dest (fetch := false) (by rw [show pktOpcode e.pkt = 0x23 from own]; decide) rfl rfl (by rw [whole]; rfl) all)
    · exact response_parked paired inOrder released new own (judgeResp_short there dest own short)
    · exact response_taken paired inOrder released new (r := (0x0B, .atomicResp ip)) (by simp [responseRows]) own
        (judgeResp_written there dest (fetch := true) (decide_eq_true own) rfl (by rw [status]; rfl) rfl all)
    · exact response_taken paired inOrder released new (r := (0x0B, .atomicResp ip)) (by simp [responseRows]) own
        (judgeResp_failed there dest own status)
  · intro s h ep peer p k seen pair
    have onSeen : getPair seen h k = some p := pair
    have timeout {seq : Nat} {t : State} (live : s.hostLive h = true) (due : lateDue h k seq false s = t) :
        exec (.e2eTimeout h ep peer seq) s = .next (portGoesOn h t) :=
      congrArg (fun x => Host.Outcome.next (portGoesOn h x)) ((if_pos live).trans due)
    have retried {seq : Nat} {t : State} (live : s.hostLive h = true) (due : lateDue h k seq true s = t) :
        exec (.refusalRetry h ep peer seq) s = .next (portGoesOn h t) :=
      congrArg (fun x => Host.Outcome.next (portGoesOn h x)) ((if_pos live).trans due)
    refine ⟨fun q time trig live => congrArg Host.Outcome.next (coalesced_due pair trig live),
      fun trig => congrArg Host.Outcome.next (coalesced_none pair trig), fun seq idle => ?_, fun seq o sent live here => ?_,
      fun seq o sent live away u w need => ⟨timeout live (lateDue_waits pair sent need), retried live (lateDue_waits pair sent need)⟩⟩
    · cases live : s.hostLive h with
      | false =>
        have off : ¬ s.hostLive h = true := by rw [live]; decide
        exact ⟨congrArg (fun x => Host.Outcome.next (portGoesOn h x)) (if_neg off),
          congrArg (fun x => Host.Outcome.next (portGoesOn h x)) (if_neg off)⟩
      | true =>
        have freed := idle.resolve_right (by rw [live]; decide)
        exact ⟨timeout live (lateDue_freed pair freed), retried live (lateDue_freed pair freed)⟩
    · intro slowed
      exact ⟨fun last => timeout live ((lateDue_here pair sent here).trans ((lateHere_timeout onSeen sent).trans (timeoutHere_last last))),
        fun again => timeout live ((lateDue_here pair sent here).trans ((lateHere_timeout onSeen sent).trans (timeoutHere_again again))),
        fun backoff => retried live ((lateDue_here pair sent here).trans (lateHere_backoff onSeen sent backoff)),
        fun none_ => retried live ((lateDue_here pair sent here).trans (lateHere_noBackoff onSeen sent none_))⟩
  · intro s h
    have answer {t : State} (eq : autoStart h s = t) : exec (.autoGetStart h) s = .next (roomAgain t) :=
      congrArg (fun x => Host.Outcome.next (roomAgain x)) eq
    exact ⟨fun full => answer (autoStart_full full), fun room => ⟨fun waits => answer (autoStart_none room waits),
      fun i d waits => ⟨fun record => answer ((autoStart_first room waits).trans (if_neg (by rw [record]; decide))),
        fun record => answer ((autoStart_first room waits).trans (if_pos record))⟩⟩⟩

end Sys2Proof.Proofs


namespace Sys2Proof.Proofs

open Sys2Proof.Machine Sys2Proof.Laws

/-! # Sheepdog: collective packets, retransmissions and the arm wait (R98, R104, R251 to R263, R356): O57 -/

/-! ## A collective packet meets its group -/

section
variable {pkt : Packet} {s : State} {g : ColGroup} {i : Nat}

/-- The slot that a packet's OPSEQ names (R260). -/
def colSlot (g : ColGroup) (pkt : Packet) : Nat := (colMsg pkt).opseq.toNat % max 1 g.ops

theorem colMsg_isSeg (seg : (colMsg pkt).kind = 1 ∨ (colMsg pkt).kind = 2) : (colMsg pkt).isSeg = true := decide_eq_true seg

theorem colIn_noGroup (none_ : tblGet (colMsg pkt).grp s.groups = none) (seg : (colMsg pkt).kind = 1 ∨ (colMsg pkt).kind = 2) :
    colIn pkt s = colNotArmed pkt (colMsg pkt) s := by
  unfold colIn
  dsimp only
  rw [none_]
  exact if_pos (colMsg_isSeg seg)

section
variable (group : tblGet (colMsg pkt).grp s.groups = some g) (known : (colMsg pkt).kindOk = true)
include group known

theorem colIn_disarming (disarming : g.status = .disarming) (seg : (colMsg pkt).kind = 1 ∨ (colMsg pkt).kind = 2) :
    colIn pkt s = colNotArmed pkt (colMsg pkt) s := by
  unfold colIn
  dsimp only
  rw [group]
  dsimp only
  rw [if_neg (by rw [known]; decide), if_pos disarming, if_pos (colMsg_isSeg seg)]

theorem colIn_stranger (taking : g.status ≠ .disarming) (stranger : (colMsg pkt).tree ≠ g.treeId ∨ colEdgeOf g pkt (colMsg pkt) = none) :
    colIn pkt s = s.finc F.COL_ERR_TREE 1 := by
  have noEdge : (if (colMsg pkt).tree = g.treeId then colEdgeOf g pkt (colMsg pkt) else none) = none := by
    split
    · rename_i same
      exact stranger.resolve_left (not_not.mpr same)
    · rfl
  unfold colIn
  dsimp only
  rw [group]
  dsimp only
  rw [if_neg (by rw [known]; decide), if_neg taking, noEdge]

section
variable (tree : (colMsg pkt).tree = g.treeId) (edge : colEdgeOf g pkt (colMsg pkt) = some i)
include tree edge

theorem colIn_failed (failed : g.status = .failed) (seg : (colMsg pkt).kind = 1 ∨ (colMsg pkt).kind = 2) :
    colIn pkt s = colReply (colMsg pkt).grp g i 5 (colMsg pkt) s := by
  unfold colIn
  dsimp only
  rw [group]
  dsimp only
  rw [if_neg (by rw [known]; decide), if_neg (by rw [failed]; decide), if_pos tree, edge]
  dsimp only
  rw [if_pos failed, if_pos (colMsg_isSeg seg)]

section
variable (armed : g.status = .armed)
include armed

theorem colIn_freeSlot (free : tblGet (colSlot g pkt) g.slots = none) : colIn pkt s =
    if opAhead g.next (colMsg pkt).opseq then s
    else if g.ops ≤ ((colMsg pkt).opseq - g.next).toNat then colEarly i g (colMsg pkt) s
    else colCurrent (colSlot g pkt) i g pkt (colMsg pkt) s := by
  unfold colSlot at free
  unfold colIn
  dsimp only
  rw [group]
  dsimp only
  rw [if_neg (by rw [known]; decide), if_neg (by rw [armed]; decide), if_pos tree, edge]
  dsimp only
  rw [if_neg (by rw [armed]; decide), free]
  rfl

theorem colIn_usedSlot {o : ColOp} (used : tblGet (colSlot g pkt) g.slots = some o) : colIn pkt s =
    if o.opseq = (colMsg pkt).opseq then colCurrent (colSlot g pkt) i g pkt (colMsg pkt) s
    else if opAhead o.opseq (colMsg pkt).opseq then s
    else if colActive o || !o.started || g.ops ≤ ((colMsg pkt).opseq - g.next).toNat then colEarly i g (colMsg pkt) s
    else colCurrent (colSlot g pkt) i g pkt (colMsg pkt) s := by
  unfold colSlot at used
  unfold colIn
  dsimp only
  rw [group]
  dsimp only
  rw [if_neg (by rw [known]; decide), if_neg (by rw [armed]; decide), if_pos tree, edge]
  dsimp only
  rw [if_neg (by rw [armed]; decide), used]
  rfl

end
end
end
end

/-! ## The arrival of a collective packet -/

section
variable {s : State} {ip : IntPort} {e : InPacket} {rest : List InPacket} {code : Nat}

theorem colArrive_other (head : s.ints[ip].eject = e :: rest) (other : pktOpcode e.pkt ≠ code) : colArrive code ip s = s := by
  unfold colArrive
  rw [head]
  exact if_pos other

section
variable (head : s.ints[ip].eject = e :: rest) (own : pktOpcode e.pkt = code) (works : s.nicWorks = true)
include head own works

theorem colArrive_works : colArrive code ip s = (let u := takeEject ip e s
    if !pcrcOk e.pkt then nicSlot 2 (pmcAdd 68 0x21 1 u)
    else if pktUnlisted e.pkt || decide (pktTc e.pkt ≠ u.useClass (·.collective)) then discardPkt e.pkt u
    else roomAgain (nicSlot (if colUnarmed u (colMsg e.pkt) then 2 else 1) (colIn e.pkt u))) := by
  unfold colArrive
  rw [head]
  dsimp only
  rw [if_neg (not_not.mpr own), if_neg (by rw [(works_parts works).2]; simp), if_neg (by rw [works]; decide)]

theorem colArrive_badPcrc (bad : pcrcOk e.pkt = false) : colArrive code ip s = nicSlot 2 (pmcAdd 68 0x21 1 (takeEject ip e s)) :=
  (colArrive_works head own works).trans (if_pos (by rw [bad]; rfl))

theorem colArrive_discarded (good : pcrcOk e.pkt = true) (wrong : pktUnlisted e.pkt = true ∨ pktTc e.pkt ≠ s.useClass (·.collective)) :
    colArrive code ip s = discardPkt e.pkt (takeEject ip e s) := by
  refine (colArrive_works head own works).trans ((if_neg (by rw [good]; decide)).trans (if_pos ?_))
  rw [takeEject_class, Bool.or_eq_true, decide_eq_true_eq]
  exact wrong

theorem colArrive_taken (good : pcrcOk e.pkt = true) (listed : pktUnlisted e.pkt = false) (tc : pktTc e.pkt = s.useClass (·.collective)) :
    colArrive code ip s = roomAgain (nicSlot (if colUnarmed (takeEject ip e s) (colMsg e.pkt) then 2 else 1) (colIn e.pkt (takeEject ip e s))) := by
  refine (colArrive_works head own works).trans ((if_neg (by rw [good]; decide)).trans (if_neg ?_))
  rw [takeEject_class, listed, tc]
  simp

end

theorem discardPkt_listed {pkt : Packet} (listed : pktUnlisted pkt = false) : discardPkt pkt s = nicSlot 2 s := by
  unfold discardPkt countOpcode
  rw [if_neg (by rw [listed]; decide)]

theorem discardPkt_unlisted {pkt : Packet} (unlisted : pktUnlisted pkt = true) :
    discardPkt pkt s = nicSlot 2 { s with discards := { s.discards with opcode := s.discards.opcode + 1 } } := by
  unfold discardPkt countOpcode
  rw [if_pos unlisted]

theorem malformed_takeEject (pkt : Packet) : malformed (takeEject ip e s) pkt = malformed s pkt := by
  unfold malformed classOk State.requestClass State.useClass
  rw [takeEject_image]

/-- A refusal of a collective packet, sound, is taken by its group (R262). -/
theorem nackArrive_collective (head : s.ints[ip].eject = e :: rest) (sound : headSound s ip e) (op : pktOpcode e.pkt = 9)
    (reason : pktAt e.pkt 19 1 = 0x11) : nackArrive ip s = nicSlot 1 (colRefused e.pkt (takeEject ip e s)) := by
  obtain ⟨-, works, good, formed⟩ := sound
  have group : colNackHead ip s = true := by
    unfold colNackHead
    rw [head]
    dsimp only
    rw [decide_eq_true op, decide_eq_true reason]
    rfl
  unfold nackArrive
  rw [if_pos group]
  unfold colNackIn
  rw [head]
  dsimp only
  rw [if_neg (by rw [(works_parts works).2]; simp), if_neg (by rw [works]; decide), if_neg (by rw [good]; decide),
    if_neg (by rw [malformed_takeEject, formed]; decide)]

end

/-! ## The slot of the check pipeline (R356) -/

section
variable {s : State} {m : ColMsg} {g : ColGroup}

theorem colUnarmed_noGroup (none_ : tblGet m.grp s.groups = none) : colUnarmed s m = true := by
  unfold colUnarmed
  rw [none_]
  rfl

theorem colUnarmed_group (group : tblGet m.grp s.groups = some g) : colUnarmed s m = decide (g.status = .disarming) := by
  unfold colUnarmed
  rw [group]
  rfl

end

/-! ## Retransmission and the arm wait -/

section
variable {s : State} {grp slot edge : Nat} {g : ColGroup} {o : ColOp}

section
variable (op : colOp s grp slot = some (g, o))
include op

theorem colRetry_nothing (nothing : colAgain o edge = none) : colRetry grp slot edge s = s := by
  unfold colRetry
  rw [op]
  dsimp only
  rw [nothing]

theorem colRetry_gaveUp {k : Nat} (segment : colAgain o edge = some (some k)) (spent : g.retries ≤ (getEdge o edge).tries) :
    colRetry grp slot edge s = colFailGo grp slot 1 0 none s := by
  unfold colRetry
  rw [op]
  dsimp only
  rw [segment]
  exact if_pos spent

theorem colRetry_abortGivenUp (abort : colAgain o edge = some none) (spent : g.retries ≤ (getEdge o edge).tries) :
    colRetry grp slot edge s = modEdge grp slot edge (fun y => { y with abort := false }) s := by
  unfold colRetry
  rw [op]
  dsimp only
  rw [abort]
  exact if_pos spent

/-- The retransmission as it is counted (R263, R356). -/
def colCounted (grp slot edge : Nat) (s : State) : State :=
  pmcAdd 70 0x31 1 ((modEdge grp slot edge (fun y => { y with tries := y.tries + 1 }) s).finc F.COL_ERR_RETX 1)

theorem colRetry_abort (abort : colAgain o edge = some none) (left : (getEdge o edge).tries < g.retries) :
    colRetry grp slot edge s = inject (colPkt (colCounted grp slot edge s) grp g o edge 5 []) (colCounted grp slot edge s) := by
  unfold colRetry
  rw [op]
  dsimp only
  rw [abort]
  exact if_neg (Nat.not_le.mpr left)

/-- What an edge carries of segment `k`: toward the root its combined value, else the result (R259). -/
def edgeValue (g : ColGroup) (o : ColOp) (edge k : Nat) : Option Bytes := if edge = 0 then upValue g o k else downValue g o k

theorem colRetry_segment {k : Nat} {d : Bytes} (segment : colAgain o edge = some (some k)) (left : (getEdge o edge).tries < g.retries)
    (value : edgeValue g o edge k = some d) : colRetry grp slot edge s =
      inject (segPkt (colCounted grp slot edge s) grp g o edge (if edge = 0 then 1 else 2) k d) (colCounted grp slot edge s) := by
  unfold edgeValue at value
  unfold colRetry
  rw [op]
  dsimp only
  rw [segment]
  dsimp only
  rw [if_neg (Nat.not_le.mpr left), value]
  rfl

/-- The bytes of a segment whose buffer has been given back are free (R261). -/
theorem colRetry_freed {k : Nat} (segment : colAgain o edge = some (some k)) (left : (getEdge o edge).tries < g.retries)
    (value : edgeValue g o edge k = none) : colRetry grp slot edge s =
      inject (segPkt (colCounted grp slot edge s) grp g o edge (if edge = 0 then 1 else 2) k
        (freeBytes (segLen g o k) (colCounted grp slot edge s)).1) (freeBytes (segLen g o k) (colCounted grp slot edge s)).2 := by
  unfold edgeValue at value
  unfold colRetry
  rw [op]
  dsimp only
  rw [segment]
  dsimp only
  rw [if_neg (Nat.not_le.mpr left), value]
  rfl

end

theorem armWaitOver_group (group : tblGet grp s.groups = some g) : armWaitOver grp edge s =
    g.slots.foldl (fun t o => if (getEdge o.2 edge).unarmed then colFailGo grp o.1 2 0 none t else t) s := by
  unfold armWaitOver
  rw [group]

theorem foldl_unarmed_none (slots : List (Nat × ColOp)) (s : State) (armed : ∀ o ∈ slots, (getEdge o.2 edge).unarmed = false) :
    slots.foldl (fun t o => if (getEdge o.2 edge).unarmed then colFailGo grp o.1 2 0 none t else t) s = s := by
  induction slots with
  | nil => rfl
  | cons o rest ih =>
    rw [List.foldl_cons, if_neg (by rw [armed o List.mem_cons_self]; decide)]
    exact ih (fun x mem => armed x (List.mem_cons_of_mem _ mem))

end

/-! ## The settlement -/

/-- The commands of collective packets, each with its opcode (R104). -/
theorem collective_rows (ip : IntPort) (s : State) : ∀ r ∈ [(0x0C, Instr.col ip), (0x25, .colData ip)],
    exec r.2 s = .next (colArrive r.1 ip s) := by
  simp only [List.forall_mem_cons]
  exact ⟨rfl, rfl, fun _ none_ => absurd none_ List.not_mem_nil⟩

/-- Settles O57, by what the packet's group holds, what an edge has to send again, and the operations of the arm wait. -/
theorem collectives : Obligations.Collectives := by
  unfold Obligations.Collectives
  refine ⟨fun s ip e rest head => ⟨fun row mem => ?_, fun op reason sound => congrArg Host.Outcome.next
    (nackArrive_collective head sound op reason)⟩, fun s grp slot edge g o op => ?_, fun s grp edge g group => ?_⟩
  · have go := collective_rows ip s row mem
    refine ⟨fun other => go.trans (congrArg Host.Outcome.next (colArrive_other head other)), fun own works => ?_⟩
    intro u m slot ends
    refine ⟨fun bad => go.trans (congrArg Host.Outcome.next (colArrive_badPcrc head own works bad)), fun good unlisted => ?_,
      fun good listed wrong => ?_, fun good listed tc => ?_⟩
    · exact go.trans (congrArg Host.Outcome.next ((colArrive_discarded head own works good (.inl unlisted)).trans (discardPkt_unlisted unlisted)))
    · exact go.trans (congrArg Host.Outcome.next ((colArrive_discarded head own works good (.inr wrong)).trans (discardPkt_listed listed)))
    · have groups : u.groups = s.groups := takeEject_groups ip e s
      have answer {code : Nat} {t : State} (slotted : (if colUnarmed u m then 2 else 1) = code) (eq : colIn e.pkt u = t) : ends code t := by
        subst eq slotted
        exact go.trans (congrArg Host.Outcome.next (colArrive_taken head own works good listed tc))
      refine ⟨fun none_ seg => ?_, fun g group known => ?_⟩
      · rw [← groups] at none_
        exact answer (if_pos (colUnarmed_noGroup none_)) (colIn_noGroup none_ seg)
      · rw [← groups] at group
        have two (h : g.status = .disarming) : (if colUnarmed u m then 2 else 1) = 2 :=
          if_pos ((colUnarmed_group group).trans (decide_eq_true h))
        have one (h : g.status ≠ .disarming) : (if colUnarmed u m then 2 else 1) = 1 :=
          if_neg (by rw [colUnarmed_group group, decide_eq_false h]; decide)
        refine ⟨fun disarming seg => answer (two disarming) (colIn_disarming group known disarming seg),
          fun taking stranger => answer (one taking) (colIn_stranger group known taking stranger),
          fun i tree edge => ⟨fun failed seg => answer (one (by rw [failed]; decide)) (colIn_failed group known tree edge failed seg),
            fun armed => ⟨fun free => ?_, fun o used => ?_⟩⟩⟩
        · have taken := one (by rw [armed]; decide)
          have meets := colIn_freeSlot group known tree edge armed free
          refine ⟨fun past => answer taken (meets.trans (if_pos past)), fun notPast near => ?_, fun notPast far => ?_⟩
          · exact answer taken (meets.trans ((if_neg (by rw [notPast]; decide)).trans (if_neg (Nat.not_le.mpr near))))
          · exact answer taken (meets.trans ((if_neg (by rw [notPast]; decide)).trans (if_pos far)))
        · have taken := one (by rw [armed]; decide)
          have meets := colIn_usedSlot group known tree edge armed used
          refine ⟨fun same => answer taken (meets.trans (if_pos same)), fun ne past => answer taken (meets.trans ((if_neg ne).trans (if_pos past))),
            fun ne notPast early => ?_⟩
          refine answer taken (meets.trans ((if_neg ne).trans ((if_neg (by rw [notPast]; decide)).trans (if_pos ?_))))
          rw [Bool.or_eq_true, Bool.or_eq_true, decide_eq_true_eq]
          exact early.imp .inl id
  · intro x counted kind ends
    have answer {t : State} (eq : colRetry grp slot edge s = t) : ends t := congrArg (fun x => Host.Outcome.next (roomAgain x)) eq
    refine ⟨fun nothing => answer (colRetry_nothing op nothing), fun k segment => ⟨fun spent => answer (colRetry_gaveUp op segment spent),
      fun left => ⟨fun d value => answer (colRetry_segment op segment left value), fun value => answer (colRetry_freed op segment left value)⟩⟩,
      fun abort => ⟨fun spent => answer (colRetry_abortGivenUp op abort spent), fun left => answer (colRetry_abort op abort left)⟩⟩
  · have over_ := armWaitOver_group (edge := edge) group
    exact ⟨congrArg (fun x => Host.Outcome.next (roomAgain x)) over_,
      fun armed => congrArg (fun x => Host.Outcome.next (roomAgain x)) (over_.trans (foldl_unarmed_none g.slots s armed))⟩

end Sys2Proof.Proofs
